-- ==== Sys2Proof/Word.lean ====
section
/-! DEFINITION. The word types of the machine and their plainest names (spec 00_scope R7, R9; 02_program_state R40). -/

namespace Sys2Proof

/-- One byte of memory. -/
abbrev Byte := BitVec 8

/-- A 32-bit vector-register value of one lane (R9). -/
abbrev W32 := BitVec 32

/-- A 64-bit scalar-register value, virtual address or counter (R5, R9). -/
abbrev W64 := BitVec 64

/-- A mask of the 32 lanes of a group: bit `i` is lane `i` (R14). -/
abbrev Mask := BitVec 32

/-- A fabric physical address (R4), kept as a number below 2^62 once formed. -/
abbrev PA := Nat

/-- The number of lanes of a group, always 32 (R14). -/
def laneCount : Nat := 32

/-- All 32 lane numbers, ascending: the order in which lanes of one instruction are visited (R12). -/
def laneList : List Nat := List.range 32

/-- One value per lane. -/
abbrev PerLane (α : Type) := Vector α 32

end Sys2Proof
end

