-- ==== Sys2Proof/Syntax.lean ====
section
/-! DEFINITION. The instruction words of the MK-9624 as terms, and the events of its operation table: `Instr` has one
constructor for every row of spec/opcode_table.json. Operand shapes follow 05_instruction_encoding R126-R141,
08_memory_sync_instructions R216-R238 and 09_matrix_engine_launch R243-R264. The events are no words: nothing decodes
to one; the machine's own agents, the host, the fabric and the package's hardware bring them about
(95_what_each_step_holds). -/

namespace Sys2Proof

/-! ### Operands -/

/-- A route on a vector source (R133): kind 0 reads the lane itself, kinds 1-4 another lane of the group, kind 5 a
scalar register `s(field + 128 × bank)`, whose high half a 32-bit use takes when `hi`. -/
inductive Route where
  | own
  | rot (n : BitVec 5)
  | bcast (n : BitVec 5)
  | bfly (n : BitVec 5)
  | idx (n : BitVec 5)
  | scalar (bank : BitVec 2) (hi : Bool)
deriving DecidableEq, Repr

/-- A routed source operand: its 7-bit register field and its route (R126, R133). -/
structure VSrc where
  reg : BitVec 7
  route : Route
deriving DecidableEq, Repr

/-- The rounding selector of R131: the mode of FPCTL, or one of the four written modes. -/
inductive RndSel where
  | fpctl | rne | rtz | rdn | rup
deriving DecidableEq, Repr

/-- The type codes of the conversion control (R131). -/
inductive FType where
  | f64 | f32 | f16 | bf16 | e4m3 | e5m2 | f16x2 | bf16x2
  | si8 | ui8 | si16 | ui16 | si32 | ui32 | si64 | ui64
deriving DecidableEq, Repr

/-- The mode of a conversion (R131): a selector of `RndSel` or stochastic rounding. -/
inductive CvtMode where
  | sel (r : RndSel)
  | sr
deriving DecidableEq, Repr

/-- The operation field of REDUCE and SCAN (R131). -/
inductive RedOp where
  | add | min | max | minU | maxU | and | or | xor | add64
  | addF32 | minF32 | maxF32 | addF64 | minF64 | maxF64
deriving DecidableEq, Repr

/-- The selector of LANEMASK (R211). -/
inductive MaskSel where
  | eq | lt | le | gt | ge | act | run
deriving DecidableEq, Repr

/-- Access sizes of R218, in bytes. -/
inductive Size where
  | b1 | b2 | b4 | b8 | b16
deriving DecidableEq, Repr

/-- Scopes, narrowest first (R10). -/
inductive Scope where
  | team | die | dev | cell | sys
deriving DecidableEq, Repr

/-- The strong access kinds (R10, R90). -/
inductive Kind where
  | st | acq | rel | ar
deriving DecidableEq, Repr

/-- The kind of an access: weak, which has no scope (R90), or strong with a scope. -/
inductive Acc where
  | wk
  | strong (k : Kind) (sc : Scope)
deriving DecidableEq, Repr

/-- The read-modify-write operations of ATOM, RED and ATOMS (R225). -/
inductive AtomOp where
  | add | min | max | minU | maxU | and | or | xor | swap | fadd
deriving DecidableEq, Repr

/-- The formats of MMA (R247). -/
inductive MmaFmt where
  | f64 | f32 | bf16 | f16 | f8e4 | f8e5 | i8
deriving DecidableEq, Repr

/-- The formats of an accumulation tile (R253). -/
inductive TileFmt where
  | f64 | f32 | i32
deriving DecidableEq, Repr

/-! ### W-form words (R126-R131) -/

/-- `MNEMONIC vd, va`. -/
structure WUn where
  guard : BitVec 7
  d : BitVec 7
  a : VSrc
deriving DecidableEq, Repr

/-- `MNEMONIC vd, va, vb`; route X targets B. -/
structure WBin where
  guard : BitVec 7
  d : BitVec 7
  a : VSrc
  b : VSrc
deriving DecidableEq, Repr

/-- `MNEMONIC vd, va, vb, vc`; route X targets B or C, so at most one of the two is routed. -/
structure WTri where
  guard : BitVec 7
  d : BitVec 7
  a : VSrc
  b : VSrc
  c : VSrc
deriving DecidableEq, Repr

/-- `MNEMONIC vd, va, vb, pc`: IADDC and SEL. -/
structure WBinP where
  guard : BitVec 7
  d : BitVec 7
  a : VSrc
  b : VSrc
  p : BitVec 7
deriving DecidableEq, Repr

/-- An immediate form with source A (R128). -/
structure WImm where
  guard : BitVec 7
  d : BitVec 7
  a : VSrc
  imm : BitVec 23
deriving DecidableEq, Repr

/-- `MOVI vd, imm` (R166). -/
structure WConst where
  guard : BitVec 7
  d : BitVec 7
  imm : BitVec 23
deriving DecidableEq, Repr

/-- `LGC3 vd, va, vb, vc, tt` (R162): only A is routed. -/
structure WLgc where
  guard : BitVec 7
  d : BitVec 7
  a : VSrc
  b : BitVec 7
  c : BitVec 7
  tt : BitVec 8
deriving DecidableEq, Repr

/-- A compare: first result, complement, two sources (R130). -/
structure WCmp where
  guard : BitVec 7
  pd : BitVec 7
  pc : BitVec 7
  a : VSrc
  b : VSrc
deriving DecidableEq, Repr

/-- FADD, FSUB, FMUL with their rounding selector (R190). -/
structure WRnd where
  guard : BitVec 7
  d : BitVec 7
  a : VSrc
  b : VSrc
  rnd : RndSel
deriving DecidableEq, Repr

/-- FCVT, I2F, F2I, FRND: target type, source type, mode (R201). -/
structure WCvt where
  guard : BitVec 7
  d : BitVec 7
  a : VSrc
  tgt : FType
  src : FType
  mode : CvtMode
deriving DecidableEq, Repr

/-- FSCALE and FPACK: as `WCvt` with a plain register B (R201). -/
structure WCvt2 where
  guard : BitVec 7
  d : BitVec 7
  a : VSrc
  b : BitVec 7
  tgt : FType
  src : FType
  mode : CvtMode
deriving DecidableEq, Repr

/-- `FCVT.SEED va` (R203). -/
structure WSeed where
  guard : BitVec 7
  a : VSrc
deriving DecidableEq, Repr

/-- `VOTE.ALL qd, pa`, `VOTE.ANY qd, pa` (R210). -/
structure WVote where
  guard : BitVec 7
  q : BitVec 4
  p : BitVec 7
deriving DecidableEq, Repr

/-- `VOTE.BAL sd, pa`, `PPOPC sd, pa` (R210). -/
structure WBallot where
  guard : BitVec 7
  s : BitVec 9
  p : BitVec 7
deriving DecidableEq, Repr

/-- `FIRSTLANE sd` (R210). -/
structure WFirst where
  guard : BitVec 7
  s : BitVec 9
deriving DecidableEq, Repr

/-- `EQUNI qd, va` (R212). -/
structure WUni where
  guard : BitVec 7
  q : BitVec 4
  a : VSrc
deriving DecidableEq, Repr

/-- `REDUCE.op sd, va` (R213). -/
structure WReduce where
  guard : BitVec 7
  s : BitVec 9
  a : VSrc
  op : RedOp
deriving DecidableEq, Repr

/-- `SCAN.kind.op vd, va` (R214). -/
structure WScan where
  guard : BitVec 7
  d : BitVec 7
  a : VSrc
  op : RedOp
deriving DecidableEq, Repr

/-- `LANEMASK vd, sel` (R211). -/
structure WMask where
  guard : BitVec 7
  d : BitVec 7
  sel : MaskSel
deriving DecidableEq, Repr

/-- `PAND pd, pc, pa, pb` (R215). -/
structure WPred where
  guard : BitVec 7
  pd : BitVec 7
  pc : BitVec 7
  pa : BitVec 7
  pb : BitVec 7
deriving DecidableEq, Repr

/-- `PMOV pd, pc, pa` (R215). -/
structure WPred1 where
  guard : BitVec 7
  pd : BitVec 7
  pc : BitVec 7
  pa : BitVec 7
deriving DecidableEq, Repr

/-- `BRA label` (R169). -/
structure WBranch where
  guard : BitVec 7
  imm : BitVec 23
deriving DecidableEq, Repr

/-- `BRX va`, `RET va` (R170, R172). -/
structure WIndirect where
  guard : BitVec 7
  a : VSrc
deriving DecidableEq, Repr

/-- `CALL vd, label` (R171). -/
structure WCall where
  guard : BitVec 7
  d : BitVec 7
  imm : BitVec 23
deriving DecidableEq, Repr

/-- `BPT code` (R176). -/
structure WBpt where
  guard : BitVec 7
  code : BitVec 16
deriving DecidableEq, Repr

/-- `SVC vd, va` (R177). -/
structure WSvc where
  guard : BitVec 7
  d : BitVec 7
  a : BitVec 7
deriving DecidableEq, Repr

/-! ### The vector memory layout (R216-R230, R238) -/

/-- The address operand of R216, R217: offset operand X with its route, base `s(s)` or 0 when `s = 0`, and whether X is
a 64-bit offset. -/
structure MAddr where
  x : VSrc
  s : BitVec 5
  wide : Bool
deriving DecidableEq, Repr

/-- LDV and LDS (R220). -/
structure MLoad where
  guard : BitVec 7
  la : BitVec 4
  d : BitVec 7
  addr : MAddr
  size : Size
  acc : Acc
  split : Bool
  sx : Bool
deriving DecidableEq, Repr

/-- STV and STS (R220). -/
structure MStore where
  guard : BitVec 7
  d : BitVec 7
  addr : MAddr
  size : Size
  acc : Acc
deriving DecidableEq, Repr

/-- PREFETCH (R221); `llc` is E[10]. -/
structure MPrefetch where
  guard : BitVec 7
  addr : MAddr
  llc : Bool
deriving DecidableEq, Repr

/-- ATOM, RED and ATOMS (R225); `wide8` selects 8 bytes. -/
structure MAtom where
  guard : BitVec 7
  la : BitVec 4
  d : BitVec 7
  addr : MAddr
  e : BitVec 7
  op : AtomOp
  wide8 : Bool
  kind : Kind
  scope : Scope
deriving DecidableEq, Repr

/-- CASW (R227); `wide32` selects 32 bytes. -/
structure MCasw where
  guard : BitVec 7
  la : BitVec 4
  d : BitVec 7
  addr : MAddr
  e : BitVec 7
  wide32 : Bool
  kind : Kind
  scope : Scope
deriving DecidableEq, Repr

/-- ENQ (R228); `link` is the link offset in units of 8 bytes. -/
structure MEnq where
  guard : BitVec 7
  la : BitVec 4
  d : BitVec 7
  addr : MAddr
  e : BitVec 7
  link : BitVec 4
  kind : Kind
  scope : Scope
deriving DecidableEq, Repr

/-- CHLD (R230); `e` names the first register of the chain record. -/
structure MChld where
  guard : BitVec 7
  la : BitVec 4
  d : BitVec 7
  addr : MAddr
  e : BitVec 7
  kind : Kind
  scope : Scope
deriving DecidableEq, Repr

/-- STC (R229); `e` names the scalar holding the counter address. -/
structure MStc where
  guard : BitVec 7
  d : BitVec 7
  addr : MAddr
  e : BitVec 7
  size : Size
  kind : Kind
  scope : Scope
deriving DecidableEq, Repr

/-- ACP (R238); `toGlobal` is `.s2g`, `sp` places the counter in scratchpad. -/
structure MAcp where
  guard : BitVec 7
  la : BitVec 4
  d : BitVec 7
  addr : MAddr
  e : BitVec 7
  size : Size
  toGlobal : Bool
  sp : Bool
  scope : Scope
deriving DecidableEq, Repr

/-! ### The group-level layout (R235-R240) -/

/-- `FENCE.scope` (R236). -/
structure GFence where
  guard : BitVec 7
  scope : Scope
deriving DecidableEq, Repr

/-- CINC, CDEC and CWAIT: counter address `s(a)`, operand `s(e)` (R237). -/
structure GCtr where
  guard : BitVec 7
  a : BitVec 7
  e : BitVec 7
  sp : Bool
  kind : Kind
  scope : Scope
deriving DecidableEq, Repr

/-- CREAD (R237). -/
structure GRead where
  guard : BitVec 7
  la : BitVec 4
  d : BitVec 7
  a : BitVec 7
  sp : Bool
  kind : Kind
  scope : Scope
deriving DecidableEq, Repr

/-- BINIT and BWAIT: barrier address `s(a)`, operand `s(e)` (R239). -/
structure GBar where
  guard : BitVec 7
  a : BitVec 7
  e : BitVec 7
deriving DecidableEq, Repr

/-- BARRIVE (R239). -/
structure GArrive where
  guard : BitVec 7
  d : BitVec 7
  a : BitVec 7
deriving DecidableEq, Repr

/-- `GROW qd, n` with `n = 16 × (n3 + 1)` (R240). -/
structure GGrow where
  guard : BitVec 7
  q : BitVec 4
  n3 : BitVec 3
deriving DecidableEq, Repr

/-- `SHRINK n` (R240). -/
structure GShrink where
  guard : BitVec 7
  n3 : BitVec 3
deriving DecidableEq, Repr

/-! ### The engine layout (R243-R264) -/

/-- A word that names nothing but its guard: NOP, EXIT, YIELD, MWAIT. -/
structure EGuard where
  guard : BitVec 7
deriving DecidableEq, Repr

/-- `GANG sa`, `CREL sa`. -/
structure EGang where
  guard : BitVec 7
  a : BitVec 7
deriving DecidableEq, Repr

/-- `MRDY va` (R250). -/
structure EMrdy where
  guard : BitVec 7
  a : BitVec 7
deriving DecidableEq, Repr

/-- MMA (R247). -/
structure EMma where
  guard : BitVec 7
  la : BitVec 4
  a : BitVec 7
  b : BitVec 7
  c : BitVec 7
  fmt : MmaFmt
  free : Bool
  reuse : Bool
deriving DecidableEq, Repr

/-- ACCOPEN (R253); the gang size is 2 to 6. -/
structure EAccOpen where
  guard : BitVec 7
  la : BitVec 4
  d : BitVec 7
  a : BitVec 7
  b : BitVec 7
  c : BitVec 7
  scope : Scope
  fmt : TileFmt
  free : Bool
  z : Bool
  gsize : BitVec 3
deriving DecidableEq, Repr

/-- ACCCLOSE (R254). -/
structure EAccClose where
  guard : BitVec 7
  la : BitVec 4
  d : BitVec 7
  a : BitVec 7
deriving DecidableEq, Repr

/-- TCOPY (R257). -/
structure ETcopy where
  guard : BitVec 7
  la : BitVec 4
  a : BitVec 7
  c : BitVec 7
  scope : Scope
  sp : Bool
deriving DecidableEq, Repr

/-- GLAUNCH (R261) and CRESV (R264): status in `s(d)`, operand `s(a)`. -/
structure ELaunch where
  guard : BitVec 7
  la : BitVec 4
  d : BitVec 7
  a : BitVec 7
deriving DecidableEq, Repr

/-- TLAUNCH (R261). -/
structure ETLaunch where
  guard : BitVec 7
  la : BitVec 4
  d : BitVec 7
  a : BitVec 7
  b : BitVec 7
  scope : Scope
deriving DecidableEq, Repr

/-! ### U-form words (R137, R138): `q` and `neg` are the guard -/

/-- Three registers. -/
structure UBin where
  q : BitVec 4
  neg : Bool
  d : BitVec 9
  a : BitVec 9
  b : BitVec 9
deriving DecidableEq, Repr

/-- Two registers and a 20-bit immediate. -/
structure UImm where
  q : BitVec 4
  neg : Bool
  d : BitVec 9
  a : BitVec 9
  imm : BitVec 20
deriving DecidableEq, Repr

/-- `SMOVI sd, imm` (R182). -/
structure UConst where
  q : BitVec 4
  neg : Bool
  d : BitVec 9
  imm : BitVec 20
deriving DecidableEq, Repr

/-- SCMP (R183). -/
structure UCmp where
  q : BitVec 4
  neg : Bool
  qd : BitVec 4
  qc : BitVec 4
  a : BitVec 9
  b : BitVec 9
deriving DecidableEq, Repr

/-- SSEL (R184). -/
structure USel where
  q : BitVec 4
  neg : Bool
  d : BitVec 9
  a : BitVec 9
  b : BitVec 9
  qc : BitVec 4
deriving DecidableEq, Repr

/-- SBRA (R185). -/
structure UBranch where
  q : BitVec 4
  neg : Bool
  imm : BitVec 20
deriving DecidableEq, Repr

/-- SLD (R222). -/
structure ULoad where
  q : BitVec 4
  neg : Bool
  la : BitVec 4
  d : BitVec 9
  a : BitVec 9
  size : Size
  acc : Acc
  sx : Bool
  sp : Bool
  disp : BitVec 9
deriving DecidableEq, Repr

/-- SST (R222). -/
structure UStore where
  q : BitVec 4
  neg : Bool
  d : BitVec 9
  a : BitVec 9
  size : Size
  acc : Acc
  sp : Bool
  disp : BitVec 9
deriving DecidableEq, Repr

/-- SREAD (R187). -/
structure URead where
  q : BitVec 4
  neg : Bool
  d : BitVec 9
  sel : BitVec 8
deriving DecidableEq, Repr

/-- SREAD.W (R50). -/
structure UReadW where
  q : BitVec 4
  neg : Bool
  d : BitVec 9
  a : BitVec 9
  sel : BitVec 8
deriving DecidableEq, Repr

/-- `SPEER sd, sa, sb, k` (R186). -/
structure UPeer where
  q : BitVec 4
  neg : Bool
  d : BitVec 9
  a : BitVec 9
  b : BitVec 9
  imm : BitVec 20
deriving DecidableEq, Repr

/-! ### H-words (R139-R141) -/

/-- The half-opcodes of R140; those ending in `I` take a 7-bit immediate in place of B. -/
inductive HOp where
  | nop | mov | iadd | isub | imin | iminU | imax | imaxU | and | or | xor | andn | shl | shr | sar | rol
  | iaddI | isubI | shlI | shrI | sarI | andI | orI | xorI | movi | imulLo
  | faddF32 | fsubF32 | fmulF32 | fminF32 | fmaxF32 | faddF16x2 | fmulF16x2 | faddBf16x2 | fmulBf16x2
  | fabsF32 | fnegF32
deriving DecidableEq, Repr

/-- One slot of an H-word: half-opcode, guard p0-p7, register d, field B with its route of kind 0 to 3. -/
structure Half where
  op : HOp
  guard : BitVec 3
  d : BitVec 7
  b : VSrc
deriving DecidableEq, Repr

/-! ### Operands of the events -/

/-- A group, named by the number of its team in the package and its group id. -/
structure GroupRef where
  team : Nat
  group : Nat
deriving DecidableEq, Repr

/-- A fabric packet (R352): the header's fields as the bytes hold them, and the payload. -/
structure Packet where
  typ : BitVec 8
  age : BitVec 8
  dst : BitVec 24
  src : BitVec 24
  srcCell : BitVec 24
  flags : BitVec 8
  ctx : BitVec 16
  seq : BitVec 16
  tag : BitVec 32
  flow : BitVec 16
  op : BitVec 8
  size : BitVec 8
  addr : BitVec 64
  payload : List Byte
deriving DecidableEq, Repr

/-- A host's launch (R318, R368): the host flow and TAG of its packet, and ADDR, where the command stands. -/
structure HostLaunch where
  flow : BitVec 12
  tag : BitVec 32
  addr : W64
deriving DecidableEq, Repr

/-- What a host's atomic does (R353, R368): an operation of R225, CASW, ENQ or a counter addition. -/
inductive HostOp where
  | rmw (op : AtomOp)
  | casw
  | enq
  | counter
deriving DecidableEq, Repr

/-- A host read, write or atomic (R368): a fabric physical address, or a virtual address of context `ctx` when `virt`. `len` is
the size of a read or of an operation of R225; `data` are the operands: of a CASW the comparand and the new value, of an ENQ the
node pointer and the link offset. -/
structure HostAccess where
  flow : BitVec 12
  tag : BitVec 32
  virt : Bool
  ctx : BitVec 10
  addr : W64
  op : HostOp
  len : Nat
  data : List Byte
deriving DecidableEq, Repr

/-- A host register access (R368): package, selector, payload. -/
structure HostReg where
  flow : BitVec 12
  tag : BitVec 32
  pkg : BitVec 21
  sel : BitVec 8
  val : W64
deriving DecidableEq, Repr

/-- A row of an HBM bank (R370). -/
structure RowRef where
  stack : Nat
  bank : Nat
  row : Nat
deriving DecidableEq, Repr

/-- The operations of the part: one constructor for each row of spec/opcode_table.json, in the table's order. -/
inductive Instr where
  /-- IADD (R155). -/
  | iadd (w : WBin)
  /-- IADD_IS (R155). -/
  | iaddIs (w : WImm)
  /-- ISUB (R155). -/
  | isub (w : WBin)
  /-- IADDC (R156). -/
  | iaddc (w : WBinP)
  /-- IMUL_LO (R157). -/
  | imulLo (w : WBin)
  /-- IMUL_HI (R157). -/
  | imulHi (w : WBin)
  /-- IMUL_HI_U (R157). -/
  | imulHiU (w : WBin)
  /-- IMAD (R157). -/
  | imad (w : WTri)
  /-- IMADW (R157). -/
  | imadw (w : WTri)
  /-- IMADW_U (R157). -/
  | imadwU (w : WTri)
  /-- IMIN (R155). -/
  | imin (w : WBin)
  /-- IMIN_U (R155). -/
  | iminU (w : WBin)
  /-- IMAX (R155). -/
  | imax (w : WBin)
  /-- IMAX_U (R155). -/
  | imaxU (w : WBin)
  /-- IABS (R155). -/
  | iabs (w : WUn)
  /-- INEG (R155). -/
  | ineg (w : WUn)
  /-- SHL (R159). -/
  | shl (w : WBin)
  /-- SHL_IU (R159). -/
  | shlIu (w : WImm)
  /-- SHR (R159). -/
  | shr (w : WBin)
  /-- SHR_IU (R159). -/
  | shrIu (w : WImm)
  /-- SAR (R159). -/
  | sar (w : WBin)
  /-- SAR_IU (R159). -/
  | sarIu (w : WImm)
  /-- ROL (R159). -/
  | rol (w : WBin)
  /-- ROL_IU (R159). -/
  | rolIu (w : WImm)
  /-- DSHL (R160). -/
  | dshl (w : WTri)
  /-- DSHR (R160). -/
  | dshr (w : WTri)
  /-- AND (R161). -/
  | and (w : WBin)
  /-- AND_IU (R161). -/
  | andIu (w : WImm)
  /-- OR (R161). -/
  | or (w : WBin)
  /-- OR_IU (R161). -/
  | orIu (w : WImm)
  /-- XOR (R161). -/
  | xor (w : WBin)
  /-- XOR_IU (R161). -/
  | xorIu (w : WImm)
  /-- ANDN (R161). -/
  | andn (w : WBin)
  /-- LGC3 (R162). -/
  | lgc3 (w : WLgc)
  /-- POPC (R163). -/
  | popc (w : WUn)
  /-- CLZ (R163). -/
  | clz (w : WUn)
  /-- BREV (R163). -/
  | brev (w : WUn)
  /-- BFX (R164). -/
  | bfx (w : WBin)
  /-- BFX_S (R164). -/
  | bfxS (w : WBin)
  /-- BFI (R164). -/
  | bfi (w : WTri)
  /-- BPERM (R165). -/
  | bperm (w : WTri)
  /-- SEL (R166). -/
  | sel (w : WBinP)
  /-- MOV (R166). -/
  | mov (w : WUn)
  /-- MOVI (R166). -/
  | movi (w : WConst)
  /-- MOVHI (R166). -/
  | movhi (w : WImm)
  /-- ICMP_EQ (R167). -/
  | icmpEq (w : WCmp)
  /-- ICMP_LT (R167). -/
  | icmpLt (w : WCmp)
  /-- ICMP_LE (R167). -/
  | icmpLe (w : WCmp)
  /-- ICMP_LT_U (R167). -/
  | icmpLtU (w : WCmp)
  /-- ICMP_LE_U (R167). -/
  | icmpLeU (w : WCmp)
  /-- IADD_64 (R158). -/
  | iadd64 (w : WBin)
  /-- ISUB_64 (R158). -/
  | isub64 (w : WBin)
  /-- SHL_64 (R158). -/
  | shl64 (w : WBin)
  /-- SHR_64 (R158). -/
  | shr64 (w : WBin)
  /-- SAR_64 (R158). -/
  | sar64 (w : WBin)
  /-- LEA (R158). -/
  | lea (w : WTri)
  /-- FADD_F64 (R190). -/
  | faddF64 (w : WRnd)
  /-- FADD_F32 (R190). -/
  | faddF32 (w : WRnd)
  /-- FADD_F16X2 (R190). -/
  | faddF16x2 (w : WRnd)
  /-- FADD_BF16X2 (R190). -/
  | faddBf16x2 (w : WRnd)
  /-- FSUB_F64 (R190). -/
  | fsubF64 (w : WRnd)
  /-- FSUB_F32 (R190). -/
  | fsubF32 (w : WRnd)
  /-- FSUB_F16X2 (R190). -/
  | fsubF16x2 (w : WRnd)
  /-- FSUB_BF16X2 (R190). -/
  | fsubBf16x2 (w : WRnd)
  /-- FMUL_F64 (R190). -/
  | fmulF64 (w : WRnd)
  /-- FMUL_F32 (R190). -/
  | fmulF32 (w : WRnd)
  /-- FMUL_F16X2 (R190). -/
  | fmulF16x2 (w : WRnd)
  /-- FMUL_BF16X2 (R190). -/
  | fmulBf16x2 (w : WRnd)
  /-- FFMA_F64 (R191). -/
  | ffmaF64 (w : WTri)
  /-- FFMA_F32 (R191). -/
  | ffmaF32 (w : WTri)
  /-- FFMA_F16X2 (R191). -/
  | ffmaF16x2 (w : WTri)
  /-- FFMA_BF16X2 (R191). -/
  | ffmaBf16x2 (w : WTri)
  /-- FMIN_F64 (R192). -/
  | fminF64 (w : WBin)
  /-- FMIN_F32 (R192). -/
  | fminF32 (w : WBin)
  /-- FMIN_F16X2 (R192). -/
  | fminF16x2 (w : WBin)
  /-- FMIN_BF16X2 (R192). -/
  | fminBf16x2 (w : WBin)
  /-- FMAX_F64 (R192). -/
  | fmaxF64 (w : WBin)
  /-- FMAX_F32 (R192). -/
  | fmaxF32 (w : WBin)
  /-- FMAX_F16X2 (R192). -/
  | fmaxF16x2 (w : WBin)
  /-- FMAX_BF16X2 (R192). -/
  | fmaxBf16x2 (w : WBin)
  /-- FABS_F64 (R193). -/
  | fabsF64 (w : WUn)
  /-- FABS_F32 (R193). -/
  | fabsF32 (w : WUn)
  /-- FABS_X2 (R193). -/
  | fabsX2 (w : WUn)
  /-- FNEG_F64 (R193). -/
  | fnegF64 (w : WUn)
  /-- FNEG_F32 (R193). -/
  | fnegF32 (w : WUn)
  /-- FNEG_X2 (R193). -/
  | fnegX2 (w : WUn)
  /-- FCMP_EQ_F64 (R195). -/
  | fcmpEqF64 (w : WCmp)
  /-- FCMP_LT_F64 (R195). -/
  | fcmpLtF64 (w : WCmp)
  /-- FCMP_LE_F64 (R195). -/
  | fcmpLeF64 (w : WCmp)
  /-- FCMP_EQ_F32 (R195). -/
  | fcmpEqF32 (w : WCmp)
  /-- FCMP_LT_F32 (R195). -/
  | fcmpLtF32 (w : WCmp)
  /-- FCMP_LE_F32 (R195). -/
  | fcmpLeF32 (w : WCmp)
  /-- FCLASS_F64 (R196). -/
  | fclassF64 (w : WCmp)
  /-- FCLASS_F32 (R196). -/
  | fclassF32 (w : WCmp)
  /-- FDIV_F64 (R197). -/
  | fdivF64 (w : WBin) (la : BitVec 4)
  /-- FSQRT_F64 (R197). -/
  | fsqrtF64 (w : WUn) (la : BitVec 4)
  /-- FDIV_F32 (R197). -/
  | fdivF32 (w : WBin) (la : BitVec 4)
  /-- FSQRT_F32 (R197). -/
  | fsqrtF32 (w : WUn) (la : BitVec 4)
  /-- FRCP (R198). -/
  | frcp (w : WUn) (la : BitVec 4)
  /-- FRSQ (R198). -/
  | frsq (w : WUn) (la : BitVec 4)
  /-- FEXP2 (R198). -/
  | fexp2 (w : WUn) (la : BitVec 4)
  /-- FLOG2 (R198). -/
  | flog2 (w : WUn) (la : BitVec 4)
  /-- FSIN (R198). -/
  | fsin (w : WUn) (la : BitVec 4)
  /-- FCOS (R198). -/
  | fcos (w : WUn) (la : BitVec 4)
  /-- FCVT (R202). -/
  | fcvt (w : WCvt)
  /-- FCVT_SEED (R203). -/
  | fcvtSeed (w : WSeed)
  /-- I2F (R204). -/
  | i2f (w : WCvt)
  /-- F2I (R204). -/
  | f2i (w : WCvt)
  /-- FRND (R205). -/
  | frnd (w : WCvt)
  /-- FSCALE (R206). -/
  | fscale (w : WCvt2)
  /-- FPACK (R207). -/
  | fpack (w : WCvt2)
  /-- FDOT2_F16X2 (R194). -/
  | fdot2F16x2 (w : WTri)
  /-- FDOT2_BF16X2 (R194). -/
  | fdot2Bf16x2 (w : WTri)
  /-- VOTE_ALL (R210). -/
  | voteAll (w : WVote)
  /-- VOTE_ANY (R210). -/
  | voteAny (w : WVote)
  /-- VOTE_BAL (R210). -/
  | voteBal (w : WBallot)
  /-- EQMASK (R212). -/
  | eqmask (w : WUn)
  /-- EQUNI (R212). -/
  | equni (w : WUni)
  /-- EQMASK_64 (R212). -/
  | eqmask64 (w : WUn)
  /-- EQUNI_64 (R212). -/
  | equni64 (w : WUni)
  /-- REDUCE (R213). -/
  | reduce (w : WReduce)
  /-- SCAN_INC (R214). -/
  | scanInc (w : WScan)
  /-- SCAN_EXC (R214). -/
  | scanExc (w : WScan)
  /-- LANEMASK (R211). -/
  | lanemask (w : WMask)
  /-- PPOPC (R210). -/
  | ppopc (w : WBallot)
  /-- PAND (R215). -/
  | pand (w : WPred)
  /-- POR (R215). -/
  | por (w : WPred)
  /-- PXOR (R215). -/
  | pxor (w : WPred)
  /-- PMOV (R215). -/
  | pmov (w : WPred1)
  /-- FIRSTLANE (R210). -/
  | firstlane (w : WFirst)
  /-- LDV (R220). -/
  | ldv (m : MLoad)
  /-- STV (R220). -/
  | stv (m : MStore)
  /-- LDS (R220). -/
  | lds (m : MLoad)
  /-- STS (R220). -/
  | sts (m : MStore)
  /-- PREFETCH (R221). -/
  | prefetch (m : MPrefetch)
  /-- ATOM (R225). -/
  | atom (m : MAtom)
  /-- RED (R225). -/
  | red (m : MAtom)
  /-- ATOMS (R225). -/
  | atoms (m : MAtom)
  /-- CASW (R227). -/
  | casw (m : MCasw)
  /-- ENQ (R228). -/
  | enq (m : MEnq)
  /-- CHLD (R231). -/
  | chld (m : MChld)
  /-- STC (R229). -/
  | stc (m : MStc)
  /-- FENCE (R109). -/
  | fence (g : GFence)
  /-- ACP (R238). -/
  | acp (m : MAcp)
  /-- CINC (R237). -/
  | cinc (g : GCtr)
  /-- CDEC (R237). -/
  | cdec (g : GCtr)
  /-- CWAIT (R237). -/
  | cwait (g : GCtr)
  /-- CREAD (R237). -/
  | cread (g : GRead)
  /-- BINIT (R239). -/
  | binit (g : GBar)
  /-- BARRIVE (R239). -/
  | barrive (g : GArrive)
  /-- BWAIT (R239). -/
  | bwait (g : GBar)
  /-- GROW (R240). -/
  | grow (g : GGrow)
  /-- SHRINK (R240). -/
  | shrink (g : GShrink)
  /-- GANG (R245). -/
  | gang (e : EGang)
  /-- MRDY (R250). -/
  | mrdy (e : EMrdy)
  /-- MMA (R247). -/
  | mma (e : EMma)
  /-- MWAIT (R251). -/
  | mwait (e : EGuard)
  /-- ACCOPEN (R253). -/
  | accopen (e : EAccOpen)
  /-- ACCCLOSE (R254). -/
  | accclose (e : EAccClose)
  /-- TCOPY (R257). -/
  | tcopy (e : ETcopy)
  /-- GLAUNCH (R261). -/
  | glaunch (e : ELaunch)
  /-- TLAUNCH (R261). -/
  | tlaunch (e : ETLaunch)
  /-- CRESV (R264). -/
  | cresv (e : ELaunch)
  /-- CREL (R264). -/
  | crel (e : EGang)
  /-- NOP (R175). -/
  | nop (w : EGuard)
  /-- BRA (R169). -/
  | bra (w : WBranch)
  /-- BRX (R170). -/
  | brx (w : WIndirect)
  /-- CALL (R171). -/
  | call (w : WCall)
  /-- CALLX (R171). -/
  | callx (w : WUn)
  /-- RET (R172). -/
  | ret (w : WIndirect)
  /-- EXIT (R173). -/
  | exit (w : EGuard)
  /-- YIELD (R22). -/
  | yield (w : EGuard)
  /-- BPT (R176). -/
  | bpt (w : WBpt)
  /-- SVC (R177). -/
  | svc (w : WSvc)
  /-- H_WORD (R140). -/
  | hWord (slot0 slot1 : Half)
  /-- SADD (R180). -/
  | sadd (u : UBin)
  /-- SADD_IS (R180). -/
  | saddIs (u : UImm)
  /-- SSUB (R180). -/
  | ssub (u : UBin)
  /-- SMUL (R180). -/
  | smul (u : UBin)
  /-- SMAD (R180). -/
  | smad (u : UBin)
  /-- SAND (R180). -/
  | sand (u : UBin)
  /-- SAND_IU (R180). -/
  | sandIu (u : UImm)
  /-- SOR (R180). -/
  | sor (u : UBin)
  /-- SOR_IU (R180). -/
  | sorIu (u : UImm)
  /-- SXOR (R180). -/
  | sxor (u : UBin)
  /-- SXOR_IU (R180). -/
  | sxorIu (u : UImm)
  /-- SSHL (R181). -/
  | sshl (u : UBin)
  /-- SSHL_IU (R181). -/
  | sshlIu (u : UImm)
  /-- SSHR (R181). -/
  | sshr (u : UBin)
  /-- SSHR_IU (R181). -/
  | sshrIu (u : UImm)
  /-- SSAR (R181). -/
  | ssar (u : UBin)
  /-- SSAR_IU (R181). -/
  | ssarIu (u : UImm)
  /-- SMOVI (R182). -/
  | smovi (u : UConst)
  /-- SMOVHI (R182). -/
  | smovhi (u : UImm)
  /-- SCMP_EQ (R183). -/
  | scmpEq (u : UCmp)
  /-- SCMP_LT (R183). -/
  | scmpLt (u : UCmp)
  /-- SCMP_LE (R183). -/
  | scmpLe (u : UCmp)
  /-- SCMP_LT_U (R183). -/
  | scmpLtU (u : UCmp)
  /-- SCMP_LE_U (R183). -/
  | scmpLeU (u : UCmp)
  /-- SSEL (R184). -/
  | ssel (u : USel)
  /-- SBRA (R185). -/
  | sbra (u : UBranch)
  /-- SLD (R222). -/
  | sld (u : ULoad)
  /-- SST (R222). -/
  | sst (u : UStore)
  /-- SREAD (R187). -/
  | sread (u : URead)
  /-- SREAD_W (R50). -/
  | sreadW (u : UReadW)
  /-- SPEER (R186). -/
  | speer (u : UPeer)
  /-- CTXCTL_SUSPEND (R300). -/
  | ctxctlSuspend (ctx : BitVec 10)
  /-- CTXCTL_RESUME (R300). -/
  | ctxctlResume (ctx : BitVec 10)
  /-- CTXCTL_TERMINATE (R312). -/
  | ctxctlTerminate (ctx : BitVec 10)
  /-- CTXCTL_FLUSH (R300). -/
  | ctxctlFlush (ctx : BitVec 10)
  /-- CTXCTL_INVALID_COMMAND (R300). -/
  | ctxctlInvalidCommand (cmd : W64)
  /-- SPLIT_DATA_RETURN (R26). -/
  | splitDataReturn (at_ : GroupRef) (op : Nat) (lanes : Mask)
  /-- LONG_LATENCY_COMPLETE (R143). -/
  | longLatencyComplete (at_ : GroupRef) (op : Nat) (lanes : Mask)
  /-- FAULT_TAKEN (R379). -/
  | faultTaken (at_ : GroupRef)
  /-- FAULT_QUEUE_ROOM (R303). -/
  | faultQueueRoom (at_ : GroupRef)
  /-- FAULT_MERGE_ENTRY (R343). -/
  | faultMergeEntry (at_ : GroupRef)
  /-- HELD_FAULT_DELIVERY (R309). -/
  | heldFaultDelivery (at_ : GroupRef)
  /-- OPERAND_LOG_REPLAY (R308). -/
  | operandLogReplay (at_ : GroupRef)
  /-- STARVATION_TRAP (R30). -/
  | starvationTrap (at_ : GroupRef)
  /-- GROUP_RETIRE (R28). -/
  | groupRetire (at_ : GroupRef)
  /-- REGISTRATION_ACK (R96). -/
  | registrationAck (id : Nat)
  /-- FENCE_COMPLETE (R109). -/
  | fenceComplete (at_ : GroupRef)
  /-- CWAIT_WAKE (R237). -/
  | cwaitWake (at_ : GroupRef)
  /-- BWAIT_WAKE (R239). -/
  | bwaitWake (at_ : GroupRef)
  /-- GROW_GRANT (R240). -/
  | growGrant (core : Nat)
  /-- GROW_DEADLOCK_FAIL (R241). -/
  | growDeadlockFail (core : Nat)
  /-- SHRINK_RELEASE (R240). -/
  | shrinkRelease (at_ : GroupRef)
  /-- ENGINE_PLACE_FREE (R252). -/
  | enginePlaceFree (core : Nat)
  /-- MMA_LATCH_EVENT (R248). -/
  | mmaLatchEvent (core : Nat)
  /-- MMA_CONTRIBUTION_SEND (R248). -/
  | mmaContributionSend (core : Nat)
  /-- TILE_CONTRIBUTION_ARRIVAL (R82). -/
  | tileContributionArrival (id : Nat)
  /-- ENGINE_RESEND (R82). -/
  | engineResend (id : Nat)
  /-- TILE_TIMEOUT (R84). -/
  | tileTimeout (tile : Nat)
  /-- TCOPY_START (R257). -/
  | tcopyStart (core : Nat) (elements : Nat)
  /-- TCOPY_COMPLETE (R257). -/
  | tcopyComplete (core : Nat) (cmd : Nat)
  /-- TCOPY_WALK_FAULT (R258). -/
  | tcopyWalkFault (core : Nat) (cmd : Nat)
  /-- ACP_COMPLETE (R238). -/
  | acpComplete (id : Nat)
  /-- STC_LANDING (R229). -/
  | stcLanding (id : Nat)
  /-- TEAM_PLACEMENT (R321). -/
  | teamPlacement (level : Nat)
  /-- PREEMPTION (R327). -/
  | preemption (level : Nat)
  /-- TEAM_SAVE (R329). -/
  | teamSave (team : Nat)
  /-- TEAM_RESUME (R311). -/
  | teamResume (team : Nat)
  /-- MOVED_RETRY (R345). -/
  | movedRetry (at_ : GroupRef)
  /-- RECOVERY_COMPLETE (R363). -/
  | recoveryComplete (cell : BitVec 21)
  /-- PRIVILEGED_REGISTER_WRITE (R299). -/
  | privilegedRegisterWrite (sel : BitVec 8) (val : W64)
  /-- HOST_LAUNCH (R318). -/
  | hostLaunch (h : HostLaunch)
  /-- HOST_READ (R368). -/
  | hostRead (h : HostAccess)
  /-- HOST_WRITE (R368). -/
  | hostWrite (h : HostAccess)
  /-- HOST_ATOMIC (R368). -/
  | hostAtomic (h : HostAccess)
  /-- HOST_REGISTER_READ (R368). -/
  | hostRegisterRead (h : HostReg)
  /-- HOST_REGISTER_WRITE (R368). -/
  | hostRegisterWrite (h : HostReg)
  /-- TCQ_TAIL_ADVANCE (R342). -/
  | tcqTailAdvance
  /-- INVAL (R342). -/
  | inval
  /-- RESOLVE (R344). -/
  | resolve
  /-- FINAL (R344). -/
  | finalCmd
  /-- MOVE (R346). -/
  | moveCmd
  /-- MOVE_COPY_TIMEOUT (R346). -/
  | moveCopyTimeout
  /-- THAW (R342). -/
  | thaw
  /-- CARVE (R347). -/
  | carve
  /-- TCQ_INVALID_COMMAND (R342). -/
  | tcqInvalidCommand
  /-- GENKEY (R373). -/
  | genkey
  /-- RETIRE (R374). -/
  | retire
  /-- KEY_INVALID_COMMAND (R373). -/
  | keyInvalidCommand
  /-- CELL_DEAD_COMMAND (R363). -/
  | cellDeadCommand
  /-- CELL_LIVE_COMMAND (R363). -/
  | cellLiveCommand
  /-- CELL_INVALID_COMMAND (R363). -/
  | cellInvalidCommand
  /-- RECALL_TIMEOUT (R363). -/
  | recallTimeout (pkg : BitVec 21) (line : Nat)
  /-- RD (R353). -/
  | rd (p : Packet)
  /-- WR (R353). -/
  | wr (p : Packet)
  /-- ATOM_PACKET (R357). -/
  | atomPacket (p : Packet)
  /-- STEP (R231). -/
  | step (p : Packet)
  /-- STC_PACKET (R229). -/
  | stcPacket (p : Packet)
  /-- COH (R359). -/
  | coh (p : Packet)
  /-- COHACK (R359). -/
  | cohack (p : Packet)
  /-- RESP (R353). -/
  | resp (p : Packet)
  /-- RETRY (R354). -/
  | retry (p : Packet)
  /-- RETRY_RESEND (R354). -/
  | retryResend (tag : Nat)
  /-- ACK (R358). -/
  | ack (p : Packet)
  /-- NOTICE (R233). -/
  | notice (p : Packet)
  /-- ABORT (R366). -/
  | abort (p : Packet)
  /-- ABORTACK (R367). -/
  | abortack (p : Packet)
  /-- MGMT (R363). -/
  | mgmt (p : Packet)
  /-- HOST_PACKET (R368). -/
  | hostPacket (p : Packet)
  /-- REQUEST_TIMER_RESEND (R366). -/
  | requestTimerResend (tag : Nat)
  /-- REQUEST_TIMEOUT (R366). -/
  | requestTimeout (tag : Nat)
  /-- ABORT_TIMEOUT (R366). -/
  | abortTimeout (tag : Nat)
  /-- UCIE_MODULE_RETIRE (R349). -/
  | ucieModuleRetire (pair : Nat)
  /-- FABRIC_LANE_SPARE (R372). -/
  | fabricLaneSpare (port : Nat)
  /-- LINK_AUTH_FAILURE (R373). -/
  | linkAuthFailure (port : Nat)
  /-- SCRUB_ROW_PASS (R370). -/
  | scrubRowPass (row : RowRef) (corrected : Nat) (uncorrectable : Option Nat)
  /-- ROW_REMAP_SWITCH (R371). -/
  | rowRemapSwitch (row : RowRef)
  /-- CORE_SPARE_SWAP (R372). -/
  | coreSpareSwap (core : Nat)
  /-- SLICE_SPARE_SWAP (R372). -/
  | sliceSpareSwap (die slice : Nat)
  /-- SRAM_ROW_SPARE (R372). -/
  | sramRowSpare (die slice row : Nat)
  /-- ATTESTATION_REQUEST (R375). -/
  | attestationRequest (nonce : List Byte)
  /-- PACKAGE_RESET (R377). -/
  | packageReset
  /-- THERMAL_THROTTLE (R378). -/
  | thermalThrottle
  /-- THERMAL_SHUTDOWN (R378). -/
  | thermalShutdown
  /-- FLIT_CRC_REPLAY (R348). -/
  | flitCrcReplay (pair : Nat)
deriving DecidableEq, Repr

end Sys2Proof
end

