-- ==== Sys2Proof/Config.lean ====
section
/-! DEFINITION. What one module fixes and the spec leaves open: free values. Every opaque constant here
stands for whatever a module has, so a claim
about the machine holds whatever it is. A value that may differ from one use to the next is applied to the counter
`State.fresh`, which every use advances (log 5). -/

namespace Sys2Proof.Config

/-- What a byte of memory that nothing has written reads as: a fixed byte, the model's choice (log 3). -/
def initByte (_ : Nat) : Byte := 0#8

/-- A 64-bit value the spec calls unpredictable or leaves open: use `n`, part `k` (R11; log 5, 8). -/
opaque free : Nat → Nat → W64

/-- What a byte reads as when its line was encrypted under another key, or under an older key of the same id: address,
key id, generation (R123, R374; log 4). -/
opaque wrongKey : Nat → Nat → Nat → Byte

/-- The result pattern of a special function outside the exact cases of R199, before the bound of R198 is imposed
(log 9). The number names the function: 0 FRCP, 1 FRSQ, 2 FEXP2, 3 FLOG2, 4 FSIN, 5 FCOS. -/
opaque special : Nat → W32 → W32

/-- Core cycles that pass in one step (log 10). -/
opaque elapsed : Nat → Nat

/-- Where a firmware image holds its public key, its signature, the bytes that are signed and its version, and the hash of
Veluth's firmware key, which the root of trust holds in ROM (R375; log 11). -/
opaque imageKey : List Byte → List Byte

opaque imageSignature : List Byte → List Byte

opaque imageBody : List Byte → List Byte

opaque imageVersion : List Byte → Nat

opaque firmwareKeyHash : List Byte

/-- What bring-up number `n` meets (R377; log 2): the ROM check holds, a stack trains, the links of a die pair train, a port
trains, and the package joins its cell. -/
opaque romOk : Nat → Bool

opaque stackOk : Nat → Fin 8 → Bool

opaque pairOk : Nat → Fin 6 → Bool

opaque portOk : Nat → Fin 48 → Bool

/-- The lanes of a die pair that bring-up number `n` repairs (R348, R377; log 2). -/
opaque laneRepairs : Nat → Fin 6 → Nat

opaque joinOk : Nat → Bool

/-- The 32 bytes that the unclonable function gives at reset number `n`, from which the identity key is made, and the random
bytes of a signature (R375; log 11). -/
opaque identitySeed : Nat → Fin 32 → Byte

opaque signRandom : Nat → Fin 32 → Byte

/-- The other packages of the host domain, which has at most 64 (R4, R368; log 25). -/
opaque domain : Fin 63 → Nat

end Sys2Proof.Config
end

