-- ==== Sys2Proof/Machine/State.lean ====
section
/-! DEFINITION. The state of one package (MK-9624 module), as plain data: lanes, groups, teams, grids, memory, the
coherence structures, engines, tiles, scheduler, traps, translation, fabric and reliability state. Other packages, the
hosts and the fabric manager lie outside; they act through the events of `Instr`. -/

namespace Sys2Proof.Machine

/-! ### How a step ends -/

/-- Why the machine stops. -/
inductive Fault where
  /-- Raised by `step` and by every meaning of an instruction word when the module is off or shut down (R377, R378): the
  spec gives no step to a module without power. Safe. -/
  | moduleOff
deriving DecidableEq, Repr

/-- Why an instruction has no meaning. -/
inductive Refusal where
  /-- Raised by `exec` for a row whose meaning is not written yet. Safe. -/
  | notModelled (mnemonic : String)
deriving DecidableEq, Repr

/-! ### Memory -/

/-- Memory as address and byte pairs, addresses strictly rising, no entry equal to what an unlisted address reads as
(`Config.initByte`, log 3). -/
abbrev Memory := List Host.Cell

/-! ### Lanes and operations in flight -/

/-- The lane states of R16. -/
inductive LaneState where
  | runnable | parkedSplit | parkedCall | exited
deriving DecidableEq, Repr

/-- An issue key (R18). -/
structure Key where
  dep : BitVec 8
  lpc : W32
deriving DecidableEq, Repr

/-- One lane's part of a captured operation: ADDR, AUX and DATA of R307, DATA as sixteen words. -/
structure LaneOp where
  addr : W64
  aux : W64
  data : Vector W32 16
deriving DecidableEq, Repr

/-- How one lane's part of an instruction failed after issue: fault code, address and the code's own DETAIL bits (R305,
R379). -/
structure LaneFail where
  lane : Fin 32
  code : BitVec 8
  addr : W64
  detail : W64
deriving DecidableEq, Repr

/-- An operation captured at issue: its operands are read, and its lanes in `pend` are still to be performed. The same record
serves a lookahead window (R143), a split load (R26), an access held at the core or waiting on another package, and the operand
log (R307). `parked` are its lanes that are parked-split, `sent` the lanes of a store whose bytes stand in the L1, `after` the
operations whose windows had closed when it issued (R107), `late` the result registers of bound lanes that are not written yet
(R144). `moved`: its home has refused a lane of it as moved (R345). `found`: the CYCLE at which its failure was known (R304).
`gops` holds the scalar operands as words of GROUPOPS; `cover` is what a logged TCOPY has written, and the units it has poisoned
(R122, R258). -/
structure Op where
  id : Nat
  instr : Instr
  lpc : W32
  issue : Mask
  active : Mask
  waitm : Mask
  win : Nat
  pend : Mask
  parked : Mask
  sent : Mask
  after : List Nat
  late : List (Fin 32 × Nat × W32)
  moved : Bool
  fails : List LaneFail
  lanes : Vector LaneOp 32
  gops : List W64
  cover : List Nat × List Nat
  found : Option W64 := none
deriving DecidableEq, Repr

/-- What a fault record reports of one instruction (R304, R305). -/
structure FaultInfo where
  code : BitVec 8
  pos : BitVec 8
  lpc : W32
  lanes : Mask
  active : Mask
  waitm : Mask
  addr : W64
  detail : W64
  cycle : W64
deriving DecidableEq, Repr

/-- An entry of the operand log: the operation, its PEND lanes, ACTION and the record that goes with it (R307, R309). -/
structure LogEntry where
  op : Op
  info : FaultInfo
  action : BitVec 8
deriving DecidableEq, Repr

/-- What a group whose record waits for room in the fault queue does next (R303, R310, R343, R344). -/
inductive WaitKind where
  /-- its disposition applies -/
  | final
  /-- the record is the first one of a fault entered in the merge table: the group then waits there -/
  | entered
  /-- as `entered`, and RESOLVE has released the group: it then resumes -/
  | resolved
  /-- as `entered`, and FINAL has come: a second record follows, and the disposition -/
  | both
  /-- the second record of a fault that FINAL has declared final -/
  | finaled
deriving DecidableEq, Repr

/-- Why a group issues nothing (R31). -/
inductive GroupStatus where
  /-- the group issues when its selected word can -/
  | running
  /-- a fault found at issue waits for earlier operations of the group (R38, R146, R379) -/
  | drain (f : FaultInfo)
  /-- stopped at a fault, trap, breakpoint or call, its record written -/
  | stopped
  /-- its record waits for room in the fault queue, or for the queue's lines (R303) -/
  | queueWait (f : FaultInfo) (k : WaitKind)
  /-- its record is written under disposition 2; its context ends once every group of the same FINAL has written its own
  (R344) -/
  | condemned
  /-- its fault waits for a free entry of the merge table (R343) -/
  | mergeFull (f : FaultInfo)
  /-- its fault is entered in the merge table (R343) -/
  | merged (f : FaultInfo)
  /-- in CWAIT: the word, its counter address and operand (R237) -/
  | cwait (i : Instr) (issue : Mask) (addr : W64) (goal : W64)
  /-- in BWAIT: the word, barrier address and target generation (R239) -/
  | bwait (i : Instr) (issue : Mask) (addr : W64) (goal : W32)
  /-- in GROW to `n` registers, since wait number `since`; `q` receives the result (R240) -/
  | grow (issue : Mask) (n : Nat) (q : BitVec 4) (since : Nat)
  /-- at the gang rendezvous (R246) -/
  | rendezvous
  /-- a TCOPY waits for one of the eight places (R257) -/
  | tcopy
  /-- a check of its next word walks the page tables, and the walk waits for a line of a table (R340) -/
  | walk (line : Nat)
deriving DecidableEq, Repr

/-! ### Groups and teams -/

/-- An older value of a word of scratchpad that weak reads of these lanes of a group may still return (R91, R273). -/
structure OldWord where
  word : Nat
  val : W32
  lanes : Mask
deriving DecidableEq, Repr

/-- A group (R14, R40). A register of lane `i` numbered at or above `n` is not named by any instruction (R41). `watch`: the
group has issued an MMA that has not passed its latch event; the vector registers written since (R246, R249). `needLatch`:
an MWAIT holds the next word (R251); `needA`: an MRDY of v(a) to v(a + 15) does (R250); `shrinkTo`: a SHRINK does (R240);
`starved`: the group is stopped at a starvation trap (R332). `stop`: a fault found at issue, or a breakpoint, that an earlier
operation's fault has gone before (R38, R146). `slot`: its place among the sixteen of its quadrant (R352);
`blocks`: the register blocks of its core that it holds (R325); `cell`: what SREAD CELL reads (R52); `old`: older scratchpad
values its weak reads may return (log 21). -/
structure Group where
  id : Nat
  quad : Nat
  slot : Nat
  n : Nat
  blocks : List Nat
  cell : W32
  v : Vector (Vector W32 32) 128
  p : Vector Mask 128
  s : Vector W64 512
  q : BitVec 16
  lpc : Vector W32 32
  dep : Vector (BitVec 8) 32
  yielded : Mask
  lane : Vector LaneState 32
  sr : Vector W32 32
  gangr : W32
  fpctl : W32
  starve : W64
  lastKey : Key
  lastWait : Mask
  status : GroupStatus
  ops : List Op
  log : Option LogEntry
  held : List LogEntry
  replay : Bool
  fence : Option (Scope × List Nat)
  vbad : List (Nat × Nat)
  sbad : List (Nat × Nat)
  lastIssue : Option Nat
  watch : Option (List Nat)
  needLatch : Bool
  needA : Option (BitVec 7)
  shrinkTo : Option Nat
  starved : Bool
  stop : Option FaultInfo
  retired : Bool
  old : List OldWord
deriving DecidableEq, Repr

/-- Why a team is being saved, coded as CAUSE of R330. -/
inductive SaveCause where
  | preempt | call | park | suspend
deriving DecidableEq, Repr

/-- An entry of an eligible-team queue (R320): a saved team, or the undealt teams of a grid. -/
inductive QEntry where
  | saved (tid : Nat)
  | grid (gid : Nat)
deriving DecidableEq, Repr

/-- A resident team (R33). `scr` holds its scratchpad bytes by team address; a byte not listed is zero in a row of
`cleared` (R325), and a free value otherwise. `raised`: its resume counter counts calls or parks; `zeroed`: an update has
left it at 0 since (R311). `forHead`: the head that it is pre-empted for, and that head's place in the deal (R327). -/
structure Team where
  tid : Nat
  grid : Nat
  ctx : BitVec 10
  x : W32
  y : BitVec 16
  z : BitVec 16
  level : Nat
  dies : BitVec 4
  core : Nat
  row0 : Nat
  rows : Nat
  cleared : List Nat
  scr : List Host.Cell
  scrPoison : List Nat
  groupCount : Nat
  groups : List Group
  placed : Nat
  saving : Option SaveCause
  area : Option Nat
  header : Bool
  calls : List (Nat × Nat × BitVec 7 × Nat)
  raised : Bool
  zeroed : Bool
  forHead : Option (QEntry × Nat)
  gone : Bool
deriving DecidableEq, Repr

/-- What the current word is issued with: its lanes, key and bits, the masks taken when the key was selected (R17, R18,
R50), and the reads of the group that are open beyond their windows (R107). -/
structure Issue where
  mask : Mask
  key : Key
  word : W64
  yieldm : Mask
  waitm : Mask
  beyond : List Nat
deriving DecidableEq, Repr

/-! ### Memory hierarchy -/

/-- A valid word of a core's L1 (R96): `reg` when registered, a copy otherwise; `poison` travels with it (R120). -/
structure L1Word where
  core : Nat
  word : Nat
  val : W32
  reg : Bool
  poison : Bool
deriving DecidableEq, Repr

/-- A store written into its core's L1 and not yet performed at its home (R95, R96): the instruction it belongs to (`batch`), its
virtual address, the operation and lane that wait for it, its bytes, the lines that instruction covers whole (R122), whether it is
strong, and, for a release at die scope or wider, that every earlier store of the core goes first (R103). `moved`: its home has
refused it as moved, and it waits for a new walk; `again`: it has been so refused (R345). `pair`: it is one of the two parts of a
lane's 16 bytes (R92). -/
structure Posted where
  id : Nat
  batch : Nat
  core : Nat
  team : Nat
  group : Nat
  ctx : BitVec 10
  flow : BitVec 16
  va : W64
  part : Nat × Fin 32
  release : Bool
  strong : Bool
  scope : Scope
  bytes : List Host.Cell
  whole : List Nat
  moved : Bool
  again : Bool
  pair : Bool
deriving DecidableEq, Repr

/-- The states of a line of another package in this package's LLC (R97); I is absence. -/
inductive LlcState where
  | m | o | e | s
deriving DecidableEq, Repr

/-- A line of another package held here; its bytes stand in memory under its fabric physical address. -/
structure LlcLine where
  line : Nat
  st : LlcState
deriving DecidableEq, Repr

/-- The states of a directory entry (R359); I is absence. -/
inductive DirState where
  | s | e | m | o
deriving DecidableEq, Repr

/-- A directory entry of a local line (R359, R360): owner, readers, in package mode (package ids) or cell mode (cell ids).
`supplied`: the owner in O has just supplied its data for a read. -/
structure DirEntry where
  line : Nat
  st : DirState
  owner : Option Nat
  readers : List Nat
  cellMode : Bool
  supplied : Bool
deriving DecidableEq, Repr

/-- What a recall asks of the holders (R359, R374): to give the line up, that the owner supplies its data and keeps the line
for reading, or to give it up with its data discarded. -/
inductive RecallKind where
  | all | down | drop
deriving DecidableEq, Repr

/-- A recall in progress on a local line, with the packages whose COHACK is awaited (R359). -/
structure Recall where
  line : Nat
  kind : RecallKind
  wait : List Nat
deriving DecidableEq, Repr

/-- A translation leaf held by a structure of R340: virtual page, log2 of its size, entry and companion. -/
structure Leaf where
  ctx : BitVec 10
  va : Nat
  sz : Nat
  entry : W64
  companion : W64
deriving DecidableEq, Repr

/-- A table pointer held by a die (R340): the table that the entry at level `lvl` covering `idx` points to. -/
structure TablePtr where
  die : Nat
  ctx : BitVec 10
  lvl : Nat
  idx : Nat
  addr : Nat
deriving DecidableEq, Repr

/-- Where a leaf is held: a core's L1 TLB, a die's L2 TLB, a copy engine's walk-ahead TLB. -/
inductive TlbSite where
  | core (c : Nat)
  | die (d : Nat)
  | engine (c : Nat)
deriving DecidableEq, Repr

/-- A range of fabric physical addresses under the freeze of R345. -/
structure Freeze where
  base : Nat
  len : Nat
deriving DecidableEq, Repr

/-! ### Matrix engine, tiles, copies -/

/-- An MMA issued by a member (R246, R247): its operands as read at issue, the place of its tile, and the bytes of its B
operand written since (R249). -/
structure MmaOp where
  op : Nat
  team : Nat
  group : Nat
  gang : W32
  fmt : MmaFmt
  free : Bool
  reuse : Bool
  a : BitVec 7
  b : Nat
  t : W64
  tile : Nat
  tag : BitVec 16
  scale : BitVec 16
  lpc : W32
  waitm : Mask
  dirty : List Nat
deriving DecidableEq, Repr

/-- A completed rendezvous that holds one of the engine's two places (R252): its members in ascending group id. -/
structure Rendezvous where
  members : List MmaOp
deriving DecidableEq, Repr

/-- A member of a contribution's gang: its group, and the LPC and waiting lanes of its own MMA (R259, R304). -/
structure Member where
  group : Nat
  lpc : W32
  waitm : Mask
deriving DecidableEq, Repr

/-- A latched MMA or an undelivered contribution: its partial's elements, row by row, and the tile operands (R248). A
refused one waits for the slice's signal (R82), which `signalled` notes where the slice is another package's. -/
structure Contribution where
  id : Nat
  core : Nat
  ctx : BitVec 10
  team : Nat
  members : List Member
  fmt : MmaFmt
  free : Bool
  t : W64
  tile : Nat
  tag : BitVec 16
  rows : Nat
  poison : Bool
  elems : List W64
  refused : Bool
  signalled : Bool
deriving DecidableEq, Repr

/-- An A operand held in the latch (R248, R249). -/
structure HeldA where
  team : Nat
  gang : W32
  fmt : MmaFmt
  rows : List (Vector W32 32)
deriving DecidableEq, Repr

/-- The matrix engine of a core. -/
structure Engine where
  core : Nat
  places : List Rendezvous
  latched : List Contribution
  held : List HeldA
deriving DecidableEq, Repr

/-- An open accumulation tile at its home slice (R82, R253). `frames` are the fabric physical addresses of its lines in
order; `elems` its elements; `kept` the held contributions (at most four); `refusedBy` the refused contributions of this
package and `refusedFar` those of others, as package and number. -/
structure Tile where
  id : Nat
  ctx : BitVec 10
  base : Nat
  va : W64
  die : Nat
  slice : Nat
  frames : List Nat
  fmt : TileFmt
  free : Bool
  rows : Nat
  scope : Scope
  ctr : W64
  next : BitVec 16
  n : Nat
  merged : Nat
  elems : List W64
  kept : List Contribution
  refusedBy : List Nat
  refusedFar : List (Nat × Nat)
  tagError : Bool
  closing : Bool
  poisoned : List Nat
  touched : List Nat
deriving DecidableEq, Repr

/-- The part that has come of a contribution of another package, which needs several packets (R248, R352): its package, its
number there, its elements so far. -/
structure Assembly where
  src : Nat
  id : Nat
  elems : List W64
deriving DecidableEq, Repr

/-- A tile that expired (R84): later contributions to it fault. -/
structure Expired where
  base : Nat
  va : W64
  missing : BitVec 16
deriving DecidableEq, Repr

/-- A shape record as read (R256). -/
structure Shape where
  base : W64
  gstride : List Int
  extent : List Nat
  esize : Nat
  dims : Nat
  toGlobal : Bool
  sbase : Nat
  sstride : List Int
  raw : List Byte
deriving DecidableEq, Repr

/-- An accepted TCOPY command (R257): `done` elements are copied, in the order of R257; it begins once the operations `behind` let
it and the posted stores `after` have been performed, and is then `clear` (R103, R113); `covered` are the bytes it has written,
`sources` the units it has poisoned, `stuck` the fault its walk has met (R258); what it still writes into the frames `freed`,
released since, or under a key of `lost`, retired since, is unpredictable (R264, R374). -/
structure CopyCmd where
  id : Nat
  instr : Instr
  active : Mask
  core : Nat
  team : Nat
  group : Nat
  ctx : BitVec 10
  lpc : W32
  waitm : Mask
  recAddr : W64
  shape : Shape
  ctr : W64
  ctrSp : Bool
  scope : Scope
  started : Bool
  done : Nat
  after : List Nat
  behind : List Nat
  clear : Bool
  covered : List Nat
  sources : List Nat
  freed : List Nat
  lost : List Nat
  stuck : Option (BitVec 8 × W64 × W64)
deriving DecidableEq, Repr

/-- One lane's copy of an ACP: its frame, none until it is translated (again, after a refusal as moved: R345), and its
scratchpad address. -/
structure AcpMove where
  lane : Fin 32
  pa : Option Nat
  sp : Nat
deriving DecidableEq, Repr

/-- An accepted ACP command (R238): the copies its lanes have still to make, the lanes that have failed, and its counter with the
sum it adds; `after`, `behind` and `clear` as for a TCOPY. Once `bound`, `data` holds what an `.s2g` command has read and
`badWords` the poisoned words among it (R121, R329). `whole` are the units its writes cover, `poisoned` those written from a
poisoned source (R122), `freed` and `lost` as for a TCOPY. -/
structure AcpCmd where
  id : Nat
  instr : Instr
  lpc : W32
  waitm : Mask
  active : Mask
  core : Nat
  team : Nat
  group : Nat
  ctx : BitVec 10
  size : Nat
  toGlobal : Bool
  moves : List AcpMove
  fails : List LaneFail
  lanes : Vector LaneOp 32
  data : List (Nat × Byte)
  badWords : List Nat
  whole : List Nat
  poisoned : List Nat
  freed : List Nat
  lost : List Nat
  bound : Bool
  ctr : W64
  ctrSp : Bool
  scope : Scope
  total : Nat
  after : List Nat
  behind : List Nat
  clear : Bool
deriving DecidableEq, Repr

/-- An STC lane's decrement on its way (R229): the operation and lane it belongs to, the counter, its amount, and the
posted stores it follows. -/
structure StcCmd where
  id : Nat
  core : Nat
  team : Nat
  group : Nat
  op : Nat
  lane : Nat
  ctx : BitVec 10
  amount : Nat
  kind : Kind
  scope : Scope
  ctr : W64
  after : List Nat
deriving DecidableEq, Repr

/-! ### Grids, scheduler, staging -/

/-- A launch record (R260). -/
structure LaunchRec where
  codeBase : W64
  entry : W32
  ex : Nat
  ey : Nat
  ez : Nat
  groups : Nat
  regs : Nat
  rows : Nat
  dataSeg : W64
  arg0 : W64
  arg1 : W64
  ctr : W64
  scope : Scope
  prio : Nat
  order : Nat
  tile : Nat
  dies : BitVec 4
deriving DecidableEq, Repr

/-- A grid (R14, R36, R37). `dealt` is its place in the order of R322, `placed` its teams placed so far; `waiting` while its
trigger has not fired. -/
structure Grid where
  gid : Nat
  ctx : BitVec 10
  record : LaunchRec
  level : Nat
  dies : BitVec 4
  nest : Nat
  parent : Option Nat
  waiting : Bool
  trigScope : Option Scope
  dealt : Nat
  placed : Nat
  placedAll : Bool
  live : Nat
  children : Nat
  lastCore : Option Nat
  completing : Bool
deriving DecidableEq, Repr

/-- A trigger registered at the home of its counter (R262); its grid is held on package `pkg`. -/
structure Trigger where
  addr : Nat
  pkg : Nat
  ctx : BitVec 10
  grid : Nat
  scope : Scope
deriving DecidableEq, Repr

/-- What a saved group keeps that the layout of R331 does not hold: its own register count and cell, pending FENCE, MWAIT, MRDY
and SHRINK, whether it stopped at a starvation trap, a fault that waits behind its log, its bad registers, what the faults of its
log and held entries reported and their TCOPYs cover, and the MMAs whose fault it has not taken (R39, R52, R84, R122, R146, R246,
R369). -/
structure GroupExtra where
  group : Nat
  n : Nat
  cell : W32
  needLatch : Bool
  needA : Option (BitVec 7)
  shrinkTo : Option Nat
  starved : Bool
  stop : Option FaultInfo
  fence : Option Scope
  vbad : List (Nat × Nat)
  sbad : List (Nat × Nat)
  lastKey : Key
  infos : List FaultInfo
  covers : List (List Nat × List Nat)
  faults : List Op
deriving DecidableEq, Repr

/-- A saved team (R330): where its area stands, and what of it the area's layout does not hold. `zeroed`: its resume counter
has been left at 0 (R311). -/
structure Saved where
  tid : Nat
  area : Nat
  units : Nat
  ctx : BitVec 10
  level : Nat
  core : Nat
  cause : SaveCause
  scrPoison : List Nat
  extra : List GroupExtra
  copies : List CopyCmd
  calls : List (Nat × Nat × BitVec 7 × Nat)
  zeroed : Bool
  eligible : Bool
deriving DecidableEq, Repr

/-- 4 KiB frames whose bytes are unpredictable, each until it is written (R123, R264): free values of the moment `stamp`,
but for the bytes of `written`. -/
structure Haze where
  frames : List Nat
  stamp : Nat
  written : List Nat
deriving DecidableEq, Repr

/-- A staging reservation (R264). -/
structure Staging where
  ctx : BitVec 10
  handle : Nat
  first : Nat
  count : Nat
deriving DecidableEq, Repr

/-! ### Traps and translation commands -/

/-- An entry of a die's fault merge table (R343). -/
structure MergeEntry where
  die : Nat
  ctx : BitVec 10
  page : Nat
  waiters : List GroupRef
deriving DecidableEq, Repr

/-- A translation command under way (R342): its slot as read, and, for RESOLVE, the groups it releases (R344). -/
structure TcqRun where
  bytes : List Byte
  waiters : List GroupRef
deriving DecidableEq, Repr

/-- An addition to a counter that waits for its line (R345, R357, R380), a release at a scope, numbered in the order of arrival.
`phys`: `va` is a fabric physical address. `behind`: the address of another counter whose additions must have been made first,
0 for none (R302). -/
structure Addition where
  at_ : Nat
  die : Nat
  ctx : BitVec 10
  phys : Bool
  va : W64
  delta : W64
  scope : Scope
  behind : Nat
deriving DecidableEq, Repr

/-- A CTXCTL command waiting or running (R300). -/
structure CtxCmd where
  word : W64
  started : Bool
deriving DecidableEq, Repr

/-- How far a MOVE or a CARVE has come (R346, R347): its checks, some of which other packages make, its recall and copy, its
triggers. -/
inductive MovePhase where
  | asking | copying | triggers
deriving DecidableEq, Repr

/-- A MOVE under way (R346), or a CARVE, whose window is `base` and `len` (R347). -/
structure MoveState where
  phase : MovePhase
  base : Nat
  len : Nat
  dst : Nat
  copied : Nat
deriving DecidableEq, Repr

/-! ### Fabric -/

/-- What a request to another package is for. -/
inductive Purpose where
  | fill (line : Nat)
  | prefetch (line : Nat) (core : Option Nat)
  | own (line : Nat)
  | lane (at_ : GroupRef) (op : Nat) (lane : Nat)
  | counter (ctx : BitVec 10) (va : W64)
  | writeback (line : Nat)
  | move (line : Nat)
  | host (flow : BitVec 12)
  | launch (at_ : GroupRef)
  | tile (id : Nat)
  | notify
  | moveAsk
  | moveTrigger
  | decrement (src : Nat) (flow : BitVec 16) (tag : BitVec 32)
deriving DecidableEq, Repr

/-- Where an outstanding request stands (R350, R366). -/
inductive ReqPhase where
  /-- a strong one that its flow has no room for yet: it has no number and has not left -/
  | held
  | sent
  | backoff (k : Nat)
  | aborting
deriving DecidableEq, Repr

/-- An outstanding request of this package: its packet, purpose, phase, resends of its timer, CHLD progress with the packages
that have passed the chain on, and its reply once it has come: status and data (R350-R358). `retried`: it is a retry after a
moved status, which is not timed (R366). `void`: its line has been called in since it was sent, and what it brings is old. -/
structure Req where
  tag : BitVec 32
  pkt : Packet
  purpose : Purpose
  phase : ReqPhase
  resends : Nat
  notice : Option (W64 × W64)
  passers : List Nat
  reply : Option (Nat × List Byte)
  retried : Bool
  void : Bool
deriving DecidableEq, Repr

/-- A reply record of a home (R358): key, the home it belongs to, number in the order of arrival, and the reply once the request
has finished. `passed`: the request is a chain step passed on to another home. -/
structure ReplyRec where
  at_ : Nat
  src : Nat
  flow : BitVec 16
  tag : BitVec 32
  req : Packet
  reply : Option (Nat × List Byte)
  aborted : Bool
  passed : Bool
deriving DecidableEq, Repr

/-- The sequence state of a flow that arrives here (R350, R351): expected number, the lowest refused one, early arrivals. -/
structure FlowIn where
  src : Nat
  flow : BitVec 16
  expect : BitVec 16
  refusing : Option (BitVec 16)
  early : List Packet
deriving DecidableEq, Repr

/-- The next number of a flow that leaves here (R350). -/
structure FlowOut where
  flow : BitVec 16
  dst : Nat
  next : BitVec 16
deriving DecidableEq, Repr

/-- What the package has sent to the outside: fabric packets, and the bridge's answers to hosts. -/
inductive Sent where
  | packet (p : Packet)
  | hostReply (flow : BitVec 12) (tag : BitVec 32) (status : Nat) (data : List Byte)
  | report (bytes : List Byte)
deriving DecidableEq, Repr

/-- What a host asks of its bridge (R318, R368). -/
inductive HostJob where
  | read (h : HostAccess)
  | write (h : HostAccess)
  | atomic (h : HostAccess)
  | regRead (h : HostReg)
  | regWrite (h : HostReg)
  | launch (h : HostLaunch)
deriving DecidableEq, Repr

/-- A bridge request not finished, numbered in the order of arrival (R357, R368). -/
structure HostReq where
  at_ : Nat
  flow : BitVec 12
  job : HostJob
deriving DecidableEq, Repr

/-! ### Reliability, keys, bring-up -/

/-- A row's scrub state (R370, R371): counter, and the spare it is being copied to. -/
structure RowState where
  row : RowRef
  count : Nat
  copying : Option Nat
  remapped : Option Nat
deriving DecidableEq, Repr

/-- The wear section of the configuration record (R372, R376, R378): the spares brought in, the repair lanes of each die
pair among them, the retirements, and the causes of shutdowns; `valid`: its signature holds. -/
structure Spares where
  valid : Bool
  shutdowns : List Nat
  cores : List Nat
  worn : List Nat
  fenced : List Nat
  slices : List (Nat × Nat)
  sramRows : List (Nat × Nat × Nat)
  rows : List (Nat × Nat)
  fabricLanes : List Nat
  ucie : List (Nat × Nat)
  ucieLanes : List (Nat × Nat)
deriving DecidableEq, Repr

/-- The policy section of the configuration record (R376). -/
structure Policy where
  valid : Bool
  versionFloor : Nat
  scrubHours : Nat
  carve : Vector Nat 4
  saveBytes : Nat
  bridge : Nat
  pkg : Nat
deriving DecidableEq, Repr

/-- The state of the module (R377, R378). -/
inductive Power where
  | running | service | off
deriving DecidableEq, Repr

/-! ### Which agent moves next (the model's own, log 6) -/

/-- One choice: a quadrant issues, an event occurs, a line, word, translation or table pointer is evicted, a copy engine walks
ahead, a register word of a lane, a word or a line takes an uncorrectable error, a row logs a corrected error on demand, a core
can run no longer, a lane of a die pair is repaired, a package joins its cell. -/
inductive Turn where
  | issue (core quad : Nat)
  | occur (e : Instr)
  | evictL1 (core word : Nat)
  | evictLlc (line : Nat)
  | evictTlb (k : Nat)
  | evictPtr (k : Nat)
  | walkAhead (cmd ahead : Nat)
  | badVector (at_ : GroupRef) (reg lane : Nat)
  | badScalar (at_ : GroupRef) (reg half : Nat)
  | badScratch (team word : Nat)
  | badLine (line : Nat)
  | badL1 (core word : Nat)
  | corrected (row : RowRef)
  | fenceCore (core : Nat)
  | ucieRepair (pair : Nat)
  | join
  | fillL1 (core pa : Nat)
  | keepScratch (at_ : GroupRef) (word : Nat)
  | idle
deriving DecidableEq, Repr

/-! ### The state -/

/-- The package. `portsDown`, `pairsDown` and `stacksDown` are the fabric ports, die pairs and stacks that failed at bring-up
(R377). `descs` holds the descriptors of contexts with resident teams as last read (R297); `openFar` the local lines
that an open tile of another package has given up, with that package (R253, R346); `cellTaken`: the command in
CELLCMD has been acted on (R363). `t`, `g` and `iss` are the working copies of the team, the group and the issue that the current
instruction belongs to (log 7); `step` loads them from `teams` and stores them back. -/
structure State where
  power : Power
  joined : Bool
  portsDown : List Nat
  pairsDown : List Nat
  stacksDown : List Nat
  resets : Nat
  pkg : Nat
  policy : Policy
  carve : Vector Nat 4
  cycle : W64
  ctxtab : W64
  descs : List (BitVec 10 × List Byte)
  supctx : BitVec 10
  ctxctlStatus : W64
  ctxctlQueue : List CtxCmd
  trapseq : W64
  mem : Memory
  poison : List Nat
  tags : List (Nat × Nat × Nat)
  hazes : List Haze
  keyGen : List (Nat × Nat)
  l1 : List L1Word
  posted : List Posted
  llc : List LlcLine
  dir : List DirEntry
  recalls : List Recall
  openFar : List (Nat × Nat)
  tlb : List (TlbSite × Leaf)
  ptrs : List TablePtr
  freezes : List Freeze
  merge : List MergeEntry
  move : Option MoveState
  triggers : List Trigger
  tiles : List Tile
  expired : List Expired
  mma : List MmaOp
  engines : List Engine
  transit : List Contribution
  assembly : List Assembly
  copies : List CopyCmd
  acps : List AcpCmd
  stcs : List StcCmd
  grids : List Grid
  queues : Vector (List QEntry) 4
  teams : List Team
  saved : List Saved
  rowOwner : List (Nat × Nat × BitVec 10)
  blockOwner : List (Nat × Nat × BitVec 10)
  staging : List Staging
  nextHandle : List (BitVec 10 × Nat)
  reqs : List Req
  replies : List ReplyRec
  flowsIn : List FlowIn
  flowsOut : List FlowOut
  outbox : List Sent
  hostq : List HostReq
  dead : List (BitVec 21)
  recovering : List (BitVec 21)
  cellTaken : Bool
  tcqTail : W64
  tcq : Option TcqRun
  adds : List Addition
  rowStates : List RowState
  spares : Spares
  authFails : List (Nat × W64)
  firmware : List (List Byte)
  throttled : Bool
  shutdownCause : Option Nat
  nextId : Nat
  fresh : Nat
  turns : List Turn
  due : List Instr
  t : Team
  g : Group
  iss : Issue
deriving DecidableEq, Repr

/-! ### Values at reset -/

def LaneOp.zero : LaneOp := ⟨0#64, 0#64, Vector.replicate 16 0#32⟩

/-- A group that holds nothing: the working copy before any issue. -/
def Group.blank : Group :=
  { id := 0, quad := 0, slot := 0, n := 16, blocks := [0], cell := 0#32, v := Vector.replicate 128 (Vector.replicate 32 0#32)
    p := Vector.replicate 128 0#32, s := Vector.replicate 512 0#64, q := 1#16
    lpc := Vector.replicate 32 0#32, dep := Vector.replicate 32 0#8, yielded := 0#32
    lane := Vector.replicate 32 .runnable, sr := Vector.replicate 32 1#32, gangr := 0#32, fpctl := 0#32
    starve := 0#64, lastKey := ⟨0#8, 0#32⟩, lastWait := 0#32, status := .running, ops := [], log := none, held := []
    replay := false, fence := none, vbad := [], sbad := [], lastIssue := none, watch := none, needLatch := false
    needA := none, shrinkTo := none, starved := false, stop := none, retired := false, old := [] }

/-- A team that holds nothing: the working copy before any issue. -/
def Team.blank : Team :=
  { tid := 0, grid := 0, ctx := 0#10, x := 0#32, y := 0#16, z := 0#16, level := 0, dies := 0xF#4, core := 0
    row0 := 0, rows := 0, cleared := [], scr := [], scrPoison := [], groupCount := 1, groups := [], placed := 0
    saving := none, area := none, header := false, calls := [], raised := false, zeroed := false
    forHead := none, gone := false }

def Issue.blank : Issue := ⟨0#32, ⟨0#8, 0#32⟩, 0#64, 0#32, 0#32, []⟩

/-- The policy section the model boots with: valid, the defaults of R376, package 0 (log 1). -/
def Policy.default : Policy :=
  { valid := true, versionFloor := 0, scrubHours := 6, carve := Vector.replicate 4 0, saveBytes := 0x8000_0000
    bridge := 0, pkg := 0 }

def Spares.none : Spares := ⟨true, [], [], [], [], [], [], [], [], [], []⟩

/-- The package at the end of bring-up (R377): CYCLE 0, no context, the privileged registers at the reset values of R299,
every structure empty, memory unwritten (log 1, 2, 3). -/
def State.reset : State :=
  { power := .running, joined := true, portsDown := [], pairsDown := [], stacksDown := [], resets := 0, pkg := 0, policy := Policy.default, carve := Vector.replicate 4 0, cycle := 0#64
    ctxtab := 0#64, descs := [], supctx := 0#10, ctxctlStatus := 0#64, ctxctlQueue := [], trapseq := 0#64, mem := [], poison := []
    tags := [], hazes := [], keyGen := [], l1 := [], posted := [], llc := [], dir := [], recalls := [], openFar := [], tlb := [], ptrs := []
    freezes := [], merge := [], move := none, triggers := [], tiles := [], expired := [], mma := [], engines := [], transit := [], assembly := []
    copies := [], acps := [], stcs := [], grids := [], queues := Vector.replicate 4 [], teams := [], saved := []
    rowOwner := [], blockOwner := [], staging := [], nextHandle := [], reqs := [], replies := []
    flowsIn := [], flowsOut := [], outbox := [], hostq := [], dead := [], recovering := [], cellTaken := false, tcqTail := 0#64, tcq := none, adds := []
    rowStates := [], spares := Spares.none, authFails := [], firmware := [], throttled := false, shutdownCause := none
    nextId := 0, fresh := 0, turns := [], due := [], t := Team.blank, g := Group.blank, iss := Issue.blank }

end Sys2Proof.Machine
end

