-- ==== Sys2Proof/Machine/Bits.lean ====
section
/-! DEFINITION. Byte order, bit fields, sign extension and lane masks (00_scope R7, R12; 05 R128, R138), and memory as a
canonical list of cells (02_program_state R57). -/

namespace Sys2Proof.Machine

/-! ### Numbers and bytes, little-endian (R7) -/

/-- The number whose bytes, least significant first, are given. -/
def ofBytes : List Byte → Nat
  | [] => 0
  | b :: r => b.toNat + 256 * ofBytes r

/-- The `n` low bytes of a number, least significant first. -/
def toBytes : Nat → Nat → List Byte
  | 0, _ => []
  | n + 1, x => BitVec.ofNat 8 x :: toBytes n (x / 256)

/-- The low `n` bits of `x`, sign-extended to `w` bits (R12). -/
def sextTo (w n : Nat) (x : Nat) : BitVec w := (BitVec.ofNat n x).signExtend w

/-- Bits [lo + len - 1 : lo] of a number (R7). -/
def bitsAt (x lo len : Nat) : Nat := (x / 2 ^ lo) % 2 ^ len

/-! ### Lane masks -/

/-- The 32 lanes, ascending (R12). -/
def lanes : List (Fin 32) := List.finRange 32

/-- The mask of the lanes that satisfy a test. -/
def maskOf (f : Fin 32 → Bool) : Mask := BitVec.ofFnLE f

/-- The lanes of a mask, ascending. -/
def lanesOf (m : Mask) : List (Fin 32) := lanes.filter fun i => m.getLsbD i.val

/-- The lowest lane of a mask, 0 when it is empty. -/
def lowLane (m : Mask) : Fin 32 := ((lanesOf m).head?).getD 0

/-- One lane as a mask. -/
def oneLane (i : Fin 32) : Mask := 1#32 <<< i.val

/-- One value per lane, those in `m` replaced. -/
def laneUpd {α : Type} (old : Vector α 32) (m : Mask) (f : Fin 32 → α) : Vector α 32 :=
  Vector.ofFn fun i => if m.getLsbD i.val then f i else old[i]

/-- The number of one bits among the low `n` bits. -/
def popBits (x : Nat) : Nat → Nat
  | 0 => 0
  | n + 1 => (if x.testBit n then 1 else 0) + popBits x n

/-! ### Memory -/

/-- The byte at an address. -/
def Memory.get : Memory → Nat → Byte
  | [], a => Config.initByte a
  | (k, b) :: r, a => if k = a then b else Memory.get r a

/-- Writes a byte, keeping the canonical form: writing what an unlisted address reads as removes the entry. -/
def Memory.put : Memory → Nat → Byte → Memory
  | [], a, b => if b = Config.initByte a then [] else [(a, b)]
  | (k, c) :: r, a, b =>
    if a < k then if b = Config.initByte a then (k, c) :: r else (a, b) :: (k, c) :: r
    else if a = k then if b = Config.initByte a then r else (a, b) :: r
    else (k, c) :: Memory.put r a b

/-- Writes bytes at rising addresses. -/
def Memory.putList : Memory → Nat → List Byte → Memory
  | m, _, [] => m
  | m, a, b :: r => Memory.putList (m.put a b) (a + 1) r

/-- Writes cells in order. -/
def Memory.putCells (m : Memory) (cs : List Host.Cell) : Memory := cs.foldl (fun m c => m.put c.1 c.2) m

/-- The bytes from an address. -/
def Memory.getList (m : Memory) (a n : Nat) : List Byte := (List.range n).map fun k => m.get (a + k)

/-- Addresses strictly rising, every one above `lo`, no entry equal to what an unlisted address reads as. -/
def Memory.wfFrom : Option Nat → Memory → Bool
  | _, [] => true
  | lo, (k, b) :: r =>
    (match lo with
     | none => true
     | some l => decide (l < k)) && b != Config.initByte k && Memory.wfFrom (some k) r

/-- The canonical form. -/
def Memory.wf (m : Memory) : Bool := Memory.wfFrom none m

/-! ### Cells of other byte stores (scratchpads): the last entry for an address stands first -/

/-- A byte of a scratchpad's list, if listed. -/
def cellAt : List Host.Cell → Nat → Option Byte
  | [], _ => none
  | (k, b) :: r, a => if k = a then some b else cellAt r a

/-- Replaces or adds a byte, keeping addresses rising. -/
def cellPut : List Host.Cell → Nat → Byte → List Host.Cell
  | [], a, b => [(a, b)]
  | (k, c) :: r, a, b =>
    if a < k then (a, b) :: (k, c) :: r
    else if a = k then (a, b) :: r
    else (k, c) :: cellPut r a b

/-! ### Lists -/

/-- Applies `f` to the elements that satisfy `p`. -/
def updWhere {α : Type} (p : α → Bool) (f : α → α) (l : List α) : List α := l.map fun x => if p x then f x else x

/-- Adds a number to a rising list without repeats. -/
def insertNat (a : Nat) : List Nat → List Nat
  | [] => [a]
  | b :: r => if a < b then a :: b :: r else if a = b then b :: r else b :: insertNat a r

/-- Adds several numbers. -/
def insertAll (xs l : List Nat) : List Nat := xs.foldl (fun l x => insertNat x l) l

/-- The value kept under a key, or a default. -/
def lookupD {α β : Type} [DecidableEq α] (l : List (α × β)) (k : α) (d : β) : β :=
  match l.find? (fun p => p.1 = k) with
  | some p => p.2
  | none => d

/-- Keeps a value under a key. -/
def assocPut {α β : Type} [DecidableEq α] (l : List (α × β)) (k : α) (b : β) : List (α × β) :=
  (k, b) :: l.filter (fun p => p.1 ≠ k)

end Sys2Proof.Machine
end

