-- ==== Sys2Proof/Machine/Float.lean ====
section
/-! DEFINITION. Floating formats, exact values, the one rounding, exact sums, comparison, classes and conversions
(03_number_formats R60-R76; 07 R190-R207). Every result is formed exactly as a dyadic number and rounded once. -/

namespace Sys2Proof.Machine

/-! ### Formats and modes -/

/-- A floating format (R62): exponent bits, fraction bits, bias, and whether it is E4M3 with no infinity. -/
structure Fmt where
  ebits : Nat
  mbits : Nat
  bias : Nat
  e4m3 : Bool
deriving DecidableEq, Repr

def fmtF64 : Fmt := ⟨11, 52, 1023, false⟩
def fmtF32 : Fmt := ⟨8, 23, 127, false⟩
def fmtF16 : Fmt := ⟨5, 10, 15, false⟩
def fmtBf16 : Fmt := ⟨8, 7, 127, false⟩
def fmtE5m2 : Fmt := ⟨5, 2, 15, false⟩
def fmtE4m3 : Fmt := ⟨4, 3, 7, true⟩

/-- The rounding modes of R66, stochastic apart. -/
inductive RMode where
  | rne | rtz | rdn | rup
deriving DecidableEq, Repr

/-- The exception flags in FPCTL's order (R46): NV, DZ, OF, UF, NX from bit 0. -/
abbrev Flags := BitVec 5

def flagNV : Flags := 1#5
def flagDZ : Flags := 2#5
def flagOF : Flags := 4#5
def flagUF : Flags := 8#5
def flagNX : Flags := 16#5

/-- The flags the meaning of a condition raises. -/
def flagIf (c : Bool) (f : Flags) : Flags := if c then f else 0#5

/-- A decoded value (R63): NaN, infinity, or (−1)^neg × m × 2^e, which is a signed zero when m = 0. -/
inductive FVal where
  | nan (signalling : Bool)
  | inf (neg : Bool)
  | num (neg : Bool) (m : Nat) (e : Int)
deriving DecidableEq, Repr

/-- The exponent of the smallest normal value. -/
def Fmt.emin (f : Fmt) : Int := 1 - (f.bias : Int)

/-- The exponent of the smallest subnormal. -/
def Fmt.qmin (f : Fmt) : Int := f.emin - (f.mbits : Int)

/-- The number of bits of the format. -/
def Fmt.width (f : Fmt) : Nat := 1 + f.ebits + f.mbits

/-- The largest finite value's bits, without sign (R62). -/
def Fmt.maxBits (f : Fmt) : Nat :=
  if f.e4m3 then 0x7E else (2 ^ f.ebits - 1) * 2 ^ f.mbits - 1

/-- The canonical NaN (R62, R64). -/
def Fmt.cnan (f : Fmt) : Nat :=
  if f.e4m3 then 0x7F else (2 ^ f.ebits - 1) * 2 ^ f.mbits + 2 ^ (f.mbits - 1)

/-- Infinity's bits without sign; E4M3 has none and saturates (R69, R70). -/
def Fmt.infBits (f : Fmt) : Nat := if f.e4m3 then 0x7E else (2 ^ f.ebits - 1) * 2 ^ f.mbits

/-- Bits with a sign. -/
def Fmt.signed (f : Fmt) (neg : Bool) (x : Nat) : Nat := if neg then x + 2 ^ (f.width - 1) else x

/-- The value of bits (R63). -/
def Fmt.decode (f : Fmt) (x : Nat) : FVal :=
  let neg := x.testBit (f.width - 1)
  let e := bitsAt x f.mbits f.ebits
  let m := bitsAt x 0 f.mbits
  if e = 0 then .num neg m f.qmin
  else if e = 2 ^ f.ebits - 1 then
    if f.e4m3 then
      if m = 7 then .nan false else .num neg (m + 2 ^ f.mbits) (f.qmin + (e : Int) - 1)
    else if m = 0 then .inf neg
    else .nan (!m.testBit (f.mbits - 1))
  else .num neg (m + 2 ^ f.mbits) (f.qmin + (e : Int) - 1)

/-! ### The one rounding -/

/-- Whether a mode moves a truncated magnitude up: last bit odd, remainder against a half (R66). -/
def roundUp (mode : RMode) (neg : Bool) (odd : Bool) (rem half : Nat) : Bool :=
  match mode with
  | .rne => decide (half < rem) || (decide (rem = half) && odd)
  | .rtz => false
  | .rdn => neg && decide (rem ≠ 0)
  | .rup => !neg && decide (rem ≠ 0)

/-- Rounds m × 2^e to a multiple of 2^q: the multiple, and whether it differs. -/
def roundAt (mode : RMode) (neg : Bool) (m : Nat) (e q : Int) : Nat × Bool :=
  if q ≤ e then (m * 2 ^ (e - q).toNat, false)
  else
    let k := (q - e).toNat
    let n := m / 2 ^ k
    let rem := m % 2 ^ k
    let up := roundUp mode neg (n % 2 == 1) rem (2 ^ (k - 1))
    (if up then n + 1 else n, rem ≠ 0)

/-- What an overflow returns (R66): infinity or the largest finite value, ±448 for E4M3. -/
def Fmt.overflow (f : Fmt) (mode : RMode) (neg : Bool) : Nat :=
  if f.e4m3 then f.signed neg f.maxBits
  else
    match mode, neg with
    | .rne, _ => f.signed neg f.infBits
    | .rtz, _ => f.signed neg f.maxBits
    | .rdn, false => f.maxBits
    | .rdn, true => f.signed true f.infBits
    | .rup, false => f.infBits
    | .rup, true => f.signed true f.maxBits

/-- The bits of n × 2^q with n at most 2^(mbits + 1) and q at least qmin. -/
def Fmt.assemble (f : Fmt) (n : Nat) (q : Int) : Nat := n + (q - f.qmin).toNat * 2 ^ f.mbits

/-- round(x, fmt, mode) of a nonzero exact value (−1)^neg × m × 2^e, with the flags of R68. -/
def Fmt.roundNum (f : Fmt) (mode : RMode) (neg : Bool) (m : Nat) (e : Int) : Nat × Flags :=
  if m = 0 then (f.signed neg 0, 0#5)
  else
    let top : Int := (Nat.log2 m : Int) + e
    let q := max top f.emin - (f.mbits : Int)
    let r := roundAt mode neg m e q
    let bits := f.assemble r.1 q
    if f.maxBits < bits then (f.overflow mode neg, flagOF ||| flagNX)
    else
      let ru := roundAt mode neg m e (top - (f.mbits : Int))
      let tiny := decide (top < f.emin) &&
        !(decide (top = f.emin - 1) && decide (ru.1 = 2 ^ (f.mbits + 1)))
      (f.signed neg bits, flagIf r.2 flagNX ||| flagIf (r.2 && tiny) flagUF)

/-! ### Exact sums (R76) -/

/-- A term of an exact sum. -/
structure Term where
  neg : Bool
  m : Nat
  e : Int
deriving DecidableEq, Repr

def FVal.isNan : FVal → Bool
  | .nan _ => true
  | _ => false

def FVal.isSnan : FVal → Bool
  | .nan true => true
  | _ => false

def FVal.isInf : FVal → Bool
  | .inf _ => true
  | _ => false

def FVal.isZero : FVal → Bool
  | .num _ m _ => m == 0
  | _ => false

def FVal.neg : FVal → FVal
  | .nan s => .nan s
  | .inf n => .inf (!n)
  | .num n m e => .num (!n) m e

def FVal.sign : FVal → Bool
  | .nan _ => false
  | .inf n => n
  | .num n _ _ => n

/-- The product of two values that are no NaN and no infinity times zero. -/
def FVal.mul (a b : FVal) : FVal :=
  match a, b with
  | .num n m e, .num n' m' e' => .num (n != n') (m * m') (e + e')
  | _, _ => .inf (a.sign != b.sign)

/-- The sum of finite terms at the common exponent `q`, which is at most every exponent. -/
def sumAt (q : Int) : List FVal → Int
  | [] => 0
  | .num n m e :: r => (if n then -((m : Int) * 2 ^ (e - q).toNat) else (m : Int) * 2 ^ (e - q).toNat) + sumAt q r
  | _ :: r => sumAt q r

/-- The lowest exponent of the nonzero terms, from a start. -/
def minExp (q : Int) : List FVal → Int
  | [] => q
  | .num _ m e :: r => minExp (if m ≠ 0 ∧ e < q then e else q) r
  | _ :: r => minExp q r

/-- Rule 6 of R76: the sign of an exact zero sum. -/
def zeroSign (mode : RMode) (ts : List FVal) : Bool :=
  if ts.all (fun t => t.isZero && t.sign) then true
  else if ts.all (fun t => t.isZero && !t.sign) then false
  else mode == .rdn

/-- The exact sum of finite terms, rounded once (R76 rules 5 and 6); a scale 2^sc is applied exactly (R78). -/
def Fmt.sumFinite (f : Fmt) (mode : RMode) (sc : Int) (ts : List FVal) : Nat × Flags :=
  let q := minExp 10000 ts
  let x := sumAt q (ts.filter fun t => !t.isZero)
  if x = 0 then (f.signed (zeroSign mode ts) 0, 0#5) else f.roundNum mode (decide (x < 0)) x.natAbs (q + sc)

/-- A fused sum of products and addends (R76), rounded once to `f`. -/
def Fmt.fusedSum (f : Fmt) (mode : RMode) (sc : Int) (prods : List (FVal × FVal)) (adds : List FVal) : Nat × Flags :=
  let ins := prods.flatMap (fun p => [p.1, p.2]) ++ adds
  if ins.any FVal.isNan then (f.cnan, flagIf (ins.any FVal.isSnan) flagNV)
  else if prods.any (fun p => (p.1.isInf && p.2.isZero) || (p.1.isZero && p.2.isInf)) then (f.cnan, flagNV)
  else
    let ts := prods.map (fun p => p.1.mul p.2) ++ adds
    let infs := ts.filter FVal.isInf
    if infs.any FVal.sign && infs.any (fun t => !t.sign) then (f.cnan, flagNV)
    else if infs.any FVal.sign then (f.signed true f.infBits, 0#5)
    else if infs ≠ [] then (f.infBits, 0#5)
    else f.sumFinite mode sc ts

/-! ### Arithmetic (R190, R191, R194, R197) -/

def fAdd (f : Fmt) (mode : RMode) (a b : Nat) : Nat × Flags := f.fusedSum mode 0 [] [f.decode a, f.decode b]

def fSub (f : Fmt) (mode : RMode) (a b : Nat) : Nat × Flags := f.fusedSum mode 0 [] [f.decode a, (f.decode b).neg]

def fMul (f : Fmt) (mode : RMode) (a b : Nat) : Nat × Flags := f.fusedSum mode 0 [(f.decode a, f.decode b)] []

def fFma (f : Fmt) (mode : RMode) (a b c : Nat) : Nat × Flags :=
  f.fusedSum mode 0 [(f.decode a, f.decode b)] [f.decode c]

/-- FDOT2: two 16-bit products and an FP32 addend, one rounding to FP32 (R75, R194). -/
def fDot2 (e : Fmt) (mode : RMode) (a b c : Nat) : Nat × Flags :=
  fmtF32.fusedSum mode 0
    [(e.decode (a % 65536), e.decode (b % 65536)), (e.decode (a / 65536), e.decode (b / 65536))] [fmtF32.decode c]

/-- FDIV (R197): enough quotient bits, the remainder folded into one further bit, and one rounding. -/
def fDiv (f : Fmt) (mode : RMode) (a b : Nat) : Nat × Flags :=
  let x := f.decode a
  let y := f.decode b
  let s := x.sign != y.sign
  if x.isNan || y.isNan then (f.cnan, flagIf (x.isSnan || y.isSnan) flagNV)
  else
    match x, y with
    | .inf _, .inf _ => (f.cnan, flagNV)
    | .inf _, _ => (f.signed s f.infBits, 0#5)
    | _, .inf _ => (f.signed s 0, 0#5)
    | .num _ m e, .num _ m' e' =>
      if m' = 0 then if m = 0 then (f.cnan, flagNV) else (f.signed s f.infBits, flagDZ)
      else if m = 0 then (f.signed s 0, 0#5)
      else
        let k := f.mbits * 2 + 6
        let n := m * 2 ^ k / m'
        let rem := m * 2 ^ k % m'
        f.roundNum mode s (2 * n + (if rem = 0 then 0 else 1)) (e - e' - (k : Int) - 1)
    | _, _ => (f.cnan, 0#5)

/-- FSQRT (R197). -/
def fSqrt (f : Fmt) (mode : RMode) (a : Nat) : Nat × Flags :=
  match f.decode a with
  | .nan s => (f.cnan, flagIf s flagNV)
  | .inf true => (f.cnan, flagNV)
  | .inf false => (f.infBits, 0#5)
  | .num neg m e =>
    if m = 0 then (f.signed neg 0, 0#5)
    else if neg then (f.cnan, flagNV)
    else
      let k : Nat := 2 * (f.mbits + 4) + (e % 2).toNat
      let n := m * 2 ^ k
      let r := Nat.sqrt n
      f.roundNum mode false (2 * r + (if r * r = n then 0 else 1)) ((e - (k : Int)) / 2 - 1)

/-! ### Minimum, maximum, comparison, classes (R192, R193, R195, R196) -/

/-- a < b for values that are no NaN; −0 and +0 are equal. -/
def FVal.lt (a b : FVal) : Bool :=
  match a, b with
  | .inf true, .inf true => false
  | .inf true, _ => true
  | _, .inf true => false
  | .inf false, _ => false
  | _, .inf false => true
  | .num n m e, .num n' m' e' =>
    let q := min e e'
    let x : Int := (if n then -1 else 1) * (m : Int) * 2 ^ (e - q).toNat
    let y : Int := (if n' then -1 else 1) * (m' : Int) * 2 ^ (e' - q).toNat
    decide (x < y)
  | _, _ => false

/-- FMIN and FMAX on bits (R192); −0 orders below +0. -/
def fMinMax (f : Fmt) (max : Bool) (a b : Nat) : Nat × Flags :=
  let x := f.decode a
  let y := f.decode b
  let fl := flagIf (x.isSnan || y.isSnan) flagNV
  if x.isNan && y.isNan then (f.cnan, fl)
  else if x.isNan then (b, fl)
  else if y.isNan then (a, fl)
  else if x.isZero && y.isZero then
    (f.signed (if max then x.sign && y.sign else x.sign || y.sign) 0, fl)
  else if x.lt y then (if max then b else a, fl)
  else (if max then a else b, fl)

/-- FABS and FNEG of a scalar format (R193). -/
def fSign (f : Fmt) (negate : Bool) (a : Nat) : Nat × Flags :=
  match f.decode a with
  | .nan s => (f.cnan, flagIf s flagNV)
  | x => (f.signed (if negate then !x.sign else false) (a % 2 ^ (f.width - 1)), 0#5)

/-- The conditions of FCMP. -/
inductive FCond where
  | eq | lt | le
deriving DecidableEq, Repr

/-- FCMP (R195). -/
def fCmp (f : Fmt) (c : FCond) (a b : Nat) : Bool × Flags :=
  let x := f.decode a
  let y := f.decode b
  let fl := flagIf (x.isSnan || y.isSnan) flagNV
  if x.isNan || y.isNan then (false, fl)
  else
    (match c with
     | .eq => !x.lt y && !y.lt x
     | .lt => x.lt y
     | .le => !y.lt x, fl)

/-- The class number of R196. -/
def fClass (f : Fmt) (a : Nat) : Nat :=
  match f.decode a with
  | .nan true => 0
  | .nan false => 1
  | .inf true => 2
  | .inf false => 9
  | .num neg m _ =>
    if m = 0 then if neg then 5 else 6
    else if m < 2 ^ f.mbits then if neg then 4 else 7
    else if neg then 3 else 8

/-! ### Conversions (R69-R74, R201-R207) -/

/-- Floating to floating (R69, R70). -/
def fCvt (src tgt : Fmt) (mode : RMode) (a : Nat) : Nat × Flags :=
  match src.decode a with
  | .nan s => (tgt.cnan, flagIf s flagNV)
  | .inf neg => (tgt.signed neg tgt.infBits, flagIf tgt.e4m3 (flagOF ||| flagNX))
  | .num neg m e => tgt.roundNum mode neg m e

/-- The advance of the stochastic-rounding state (R73). -/
def srAdvance (x : W32) : W32 :=
  let x := x ^^^ (x <<< 13)
  let x := x ^^^ (x >>> 17)
  x ^^^ (x <<< 5)

/-- The state a seed gives (R73, R203). -/
def srSeed (i : Fin 32) (x : W32) : W32 := if x = 0#32 then BitVec.ofNat 32 (i.val + 1) else x

/-- A conversion under `.sr` with the advanced state `st` (R74). -/
def fCvtSr (src tgt : Fmt) (st : W32) (a : Nat) : Nat × Flags :=
  match src.decode a with
  | .nan s => (tgt.cnan, flagIf s flagNV)
  | .inf neg => (tgt.overflow .rne neg, flagIf tgt.e4m3 (flagOF ||| flagNX))
  | .num neg m e =>
    if m = 0 then (tgt.signed neg 0, 0#5)
    else
      let top : Int := (Nat.log2 m : Int) + e
      let q := max top tgt.emin - (tgt.mbits : Int)
      let t := (roundAt .rtz false m e q).1
      let k := (q - e).toNat
      let rem := if q ≤ e then 0 else m % 2 ^ k
      let bound := rem * 2 ^ 32 / 2 ^ k
      let n := if st.toNat < bound then t + 1 else t
      let bits := tgt.assemble n q
      if tgt.maxBits < bits then (tgt.overflow .rne neg, flagOF ||| flagNX)
      else
        (tgt.signed neg bits,
         flagIf (rem ≠ 0) flagNX ||| flagIf (decide (rem ≠ 0) && decide (bits < 2 ^ tgt.mbits)) flagUF)

/-- Rounds a finite value to an integer: the integer, and whether it differs. -/
def toIntegral (mode : RMode) (neg : Bool) (m : Nat) (e : Int) : Int × Bool :=
  let r := roundAt mode neg m e 0
  (if neg then -(r.1 : Int) else (r.1 : Int), r.2)

/-- F2I to an integer range (R71): the value, and the flags. -/
def fToInt (src : Fmt) (mode : RMode) (lo hi : Int) (a : Nat) : Int × Flags :=
  match src.decode a with
  | .nan _ => (0, flagNV)
  | .inf neg => (if neg then lo else hi, flagNV)
  | .num neg m e =>
    let r := toIntegral mode neg m e
    if r.1 < lo then (lo, flagNV) else if hi < r.1 then (hi, flagNV) else (r.1, flagIf r.2 flagNX)

/-- I2F (R72). -/
def fOfInt (tgt : Fmt) (mode : RMode) (x : Int) : Nat × Flags := tgt.roundNum mode (decide (x < 0)) x.natAbs 0

/-- FRND (R205). -/
def fRnd (f : Fmt) (mode : RMode) (a : Nat) : Nat × Flags :=
  match f.decode a with
  | .nan s => (f.cnan, flagIf s flagNV)
  | .inf _ => (a, 0#5)
  | .num neg m e => (((f.roundNum .rne neg (roundAt mode neg m e 0).1 0).1), 0#5)

/-- FSCALE (R206). Every finite value other than 0 lies between 2 ^ -1100 and 2 ^ 1100, so an exponent beyond 5000 either
way rounds as 5000 does: the same bits and flags. -/
def fScale (f : Fmt) (mode : RMode) (a : Nat) (n : Int) : Nat × Flags :=
  match f.decode a with
  | .nan s => (f.cnan, flagIf s flagNV)
  | .inf _ => (a, 0#5)
  | .num neg m e => f.roundNum mode neg m (e + max (-5000) (min 5000 n))

end Sys2Proof.Machine
end

