-- ==== Sys2Proof/WellFormed.lean ====
section
/-! DEFINITION. Which instruction terms are instructions: every check of the encoding chapters that a word's own fields
decide (05_instruction_encoding R125-R142, and the register, kind, size and type conditions each entry states). A word
whose fields break one of them raises the illegal-instruction fault (R125). Checks that need the group's state, such as
the register allocation (R41), are made at issue (Machine/Ops.lean). -/

namespace Sys2Proof

/-! ### Parts of words and of events -/

/-- True for the rows that stand for instruction words; the others are events of the machine. -/
def Instr.isWord : Instr → Bool
  | .privilegedRegisterWrite .. | .ctxctlSuspend .. | .ctxctlResume .. | .ctxctlTerminate .. | .ctxctlFlush ..
  | .ctxctlInvalidCommand .. | .splitDataReturn .. | .longLatencyComplete .. | .faultTaken .. | .faultQueueRoom ..
  | .faultMergeEntry .. | .heldFaultDelivery .. | .operandLogReplay .. | .starvationTrap .. | .groupRetire ..
  | .registrationAck .. | .fenceComplete .. | .cwaitWake .. | .bwaitWake .. | .growGrant .. | .growDeadlockFail ..
  | .shrinkRelease .. | .enginePlaceFree .. | .mmaLatchEvent .. | .mmaContributionSend .. | .tileContributionArrival ..
  | .engineResend .. | .tileTimeout .. | .tcopyStart .. | .tcopyComplete .. | .tcopyWalkFault .. | .acpComplete ..
  | .stcLanding .. | .teamPlacement .. | .preemption .. | .teamSave .. | .teamResume .. | .hostLaunch .. | .hostRead ..
  | .hostWrite .. | .hostAtomic .. | .hostRegisterRead .. | .hostRegisterWrite .. | .tcqTailAdvance | .inval | .resolve
  | .finalCmd | .moveCmd | .moveCopyTimeout | .thaw | .carve | .tcqInvalidCommand | .movedRetry .. | .genkey | .retire
  | .keyInvalidCommand | .cellDeadCommand | .cellLiveCommand | .cellInvalidCommand | .recallTimeout .. | .rd .. | .wr ..
  | .atomPacket .. | .step .. | .stcPacket .. | .coh .. | .cohack .. | .resp .. | .retry .. | .retryResend .. | .ack ..
  | .notice .. | .abort .. | .abortack .. | .mgmt .. | .hostPacket .. | .requestTimerResend .. | .requestTimeout ..
  | .abortTimeout .. | .ucieModuleRetire .. | .fabricLaneSpare .. | .linkAuthFailure .. | .scrubRowPass ..
  | .rowRemapSwitch .. | .coreSpareSwap .. | .sliceSpareSwap .. | .sramRowSpare .. | .attestationRequest .. | .packageReset
  | .thermalThrottle | .thermalShutdown | .recoveryComplete .. | .flitCrcReplay .. => false
  | _ => true

/-- An even register names a pair (R43). -/
def BitVec.evenReg (r : BitVec 7) : Bool := r.toNat % 2 == 0

/-- A source in a 64-bit position: an even register, or kind 5 without the half selector (R43, R134). -/
def VSrc.ok64 (x : VSrc) : Bool :=
  match x.route with
  | .scalar _ hi => !hi
  | _ => BitVec.evenReg x.reg

/-- A source that carries a route (kind 1 to 5). -/
def VSrc.routed (x : VSrc) : Bool :=
  match x.route with
  | .own => false
  | _ => true

/-- Route X exists once: B and C are not both routed (R126). -/
def WTri.oneRoute (w : WTri) : Bool := !(w.b.routed && w.c.routed)

/-- The address operand of R217: a 64-bit offset is a pair or a whole scalar. -/
def MAddr.ok (m : MAddr) : Bool := !m.wide || m.x.ok64

/-- The data register of a load or store of the given size (R219). -/
def Size.regOk (z : Size) (d : BitVec 7) : Bool :=
  match z with
  | .b1 | .b2 | .b4 => true
  | .b8 => d.toNat % 2 == 0
  | .b16 => d.toNat % 4 == 0

/-- Kinds a load may carry (R90). -/
def Acc.loadOk : Acc → Bool
  | .wk | .strong .st _ | .strong .acq _ => true
  | _ => false

/-- Kinds a store may carry (R90). -/
def Acc.storeOk : Acc → Bool
  | .wk | .strong .st _ | .strong .rel _ => true
  | _ => false

/-- `.acq` is written on the access (R218: not together with `.split`). -/
def Acc.isAcq : Acc → Bool
  | .strong .acq _ => true
  | _ => false

def Kind.stOrRel : Kind → Bool
  | .st | .rel => true
  | _ => false

def Kind.stOrAcq : Kind → Bool
  | .st | .acq => true
  | _ => false

/-- Sizes an engine or counted store takes: 4, 8 or 16 bytes (R229, R238). -/
def Size.ge4 : Size → Bool
  | .b4 | .b8 | .b16 => true
  | _ => false

/-- Sizes of 1 or 2 bytes, which `.sx` needs in LDV and LDS (R218). -/
def Size.le2 : Size → Bool
  | .b1 | .b2 => true
  | _ => false

/-! ### Conversion types (R131, R201) -/

/-- Types 0 to 5: the scalar floating formats. -/
def FType.isFloat : FType → Bool
  | .f64 | .f32 | .f16 | .bf16 | .e4m3 | .e5m2 => true
  | _ => false

/-- Types 8 to 15: the integer formats. -/
def FType.isInt : FType → Bool
  | .si8 | .ui8 | .si16 | .ui16 | .si32 | .ui32 | .si64 | .ui64 => true
  | _ => false

/-- Types that occupy a register pair. -/
def FType.is64 : FType → Bool
  | .f64 | .si64 | .ui64 => true
  | _ => false

def CvtMode.isSr : CvtMode → Bool
  | .sr => true
  | _ => false

/-- A destination of a type: a pair is named by its even register. -/
def FType.dstOk (t : FType) (d : BitVec 7) : Bool := !t.is64 || BitVec.evenReg d

/-- A source of a type. -/
def FType.srcOk (t : FType) (a : VSrc) : Bool := !t.is64 || a.ok64

/-- The type pairs and modes of FCVT (R201, R66). -/
def fcvtOk (tgt src : FType) (m : CvtMode) : Bool :=
  match src, tgt with
  | .f16x2, .bf16x2 | .bf16x2, .f16x2 => true
  | _, _ => src.isFloat && tgt.isFloat && tgt != src && (!m.isSr || (tgt != .f64 && tgt != .f32))

/-- The type pairs of FRND (R201). -/
def frndOk (tgt src : FType) (m : CvtMode) : Bool :=
  tgt == src && !m.isSr && (src == .f64 || src == .f32 || src == .f16x2 || src == .bf16x2)

/-- The type pairs of FSCALE (R201). -/
def fscaleOk (tgt src : FType) (m : CvtMode) : Bool :=
  tgt == src && !m.isSr && (src == .f64 || src == .f32)

/-- The type pairs of FPACK (R201). -/
def fpackOk (tgt src : FType) : Bool :=
  (src == .f64 || src == .f32) && (tgt == .e4m3 || tgt == .e5m2 || tgt == .f16x2 || tgt == .bf16x2)

/-- REDUCE and SCAN operations on register pairs (R213). -/
def RedOp.is64 : RedOp → Bool
  | .add64 | .addF64 | .minF64 | .maxF64 => true
  | _ => false

/-! ### Special-value selectors (R50, R299) -/

/-- Scalar-class selectors open to every group. -/
def scalarSel (sel : BitVec 8) : Bool := sel.toNat ≤ 0x17

/-- Vector-class selectors. -/
def vectorSel (sel : BitVec 8) : Bool := 0x40 ≤ sel.toNat && sel.toNat ≤ 0x43

/-- Privileged selectors that name a register. -/
def privSel (sel : BitVec 8) : Bool := 0x80 ≤ sel.toNat && sel.toNat ≤ 0x84

/-- Selectors marked writable. -/
def writableSel (sel : BitVec 8) : Bool :=
  sel == 0x13#8 || sel == 0x80#8 || sel == 0x82#8 || sel == 0x83#8

/-! ### H-words (R140, R141) -/

/-- The half-opcodes 0x20 and above form the FP class. -/
def HOp.isFp : HOp → Bool
  | .faddF32 | .fsubF32 | .fmulF32 | .fminF32 | .fmaxF32 | .faddF16x2 | .fmulF16x2 | .faddBf16x2 | .fmulBf16x2
  | .fabsF32 | .fnegF32 => true
  | _ => false

/-- Half-opcodes whose B field is an immediate. -/
def HOp.isImm : HOp → Bool
  | .iaddI | .isubI | .shlI | .shrI | .sarI | .andI | .orI | .xorI | .movi => true
  | _ => false

/-- Shifts by an immediate, whose amount is at most 31. -/
def HOp.isShiftImm : HOp → Bool
  | .shlI | .shrI | .sarI => true
  | _ => false

/-- Half-opcodes that read their destination register first. -/
def HOp.readsD : HOp → Bool
  | .nop | .mov | .movi | .fabsF32 | .fnegF32 => false
  | _ => true

/-- Half-opcodes that read vector register B. -/
def HOp.readsB (o : HOp) : Bool := o != .nop && !o.isImm

/-- The fields of one slot: route kinds 0 to 3; an immediate has no route; NOP has every other field zero. -/
def Half.ok (h : Half) : Bool :=
  (match h.b.route with
   | .own | .rot _ | .bcast _ | .bfly _ => true
   | _ => false)
  && (!h.op.isImm || h.b.route == .own)
  && (!h.op.isShiftImm || h.b.reg.toNat ≤ 31)
  && (h.op != .nop || (h.guard == 0#3 && h.d == 0#7 && h.b.reg == 0#7 && h.b.route == .own))

/-- Bank of a register (R141). -/
def bankOf (r : BitVec 7) : Nat := r.toNat % 4

/-- The reads of one slot, as banks. -/
def Half.readBanks (h : Half) : List Nat :=
  (if h.op.readsD then [bankOf h.d] else []) ++ (if h.op.readsB then [bankOf h.b.reg] else [])

/-- The pairing rules of R141. A NOP slot, whose d is 0, has no destination, and is exempt from the rule of different banks
(log 78). -/
def hPairOk (x y : Half) : Bool :=
  (x.op == .nop || y.op == .nop || bankOf x.d != bankOf y.d)
  && ([0, 1, 2, 3].all fun k => ((x.readBanks ++ y.readBanks).count k) ≤ 2)
  && !(x.op.isFp && y.op.isFp)

/-! ### The check -/

/-- The static legality of an instruction term. Events are always well formed. -/
def Instr.wf : Instr → Bool
  | .imad w | .dshl w | .dshr w | .bfi w | .bperm w | .ffmaF32 w | .ffmaF16x2 w | .ffmaBf16x2 w
  | .fdot2F16x2 w | .fdot2Bf16x2 w => w.oneRoute
  | .imadw w | .imadwU w => w.oneRoute && BitVec.evenReg w.d && w.c.ok64
  | .lea w => w.oneRoute && BitVec.evenReg w.d && w.a.ok64
  | .ffmaF64 w => w.oneRoute && BitVec.evenReg w.d && w.a.ok64 && w.b.ok64 && w.c.ok64
  | .shlIu w | .shrIu w | .sarIu w | .rolIu w => w.imm.toNat < 32
  | .movhi w => w.imm.toNat < 65536
  | .iadd64 w | .isub64 w | .fminF64 w | .fmaxF64 w => BitVec.evenReg w.d && w.a.ok64 && w.b.ok64
  | .shl64 w | .shr64 w | .sar64 w => BitVec.evenReg w.d && w.a.ok64
  | .faddF64 w | .fsubF64 w | .fmulF64 w => BitVec.evenReg w.d && w.a.ok64 && w.b.ok64
  | .fabsF64 w | .fnegF64 w => BitVec.evenReg w.d && w.a.ok64
  | .fcmpEqF64 w | .fcmpLtF64 w | .fcmpLeF64 w => w.a.ok64 && w.b.ok64
  | .fclassF64 w => w.a.ok64
  | .fdivF64 w _ => BitVec.evenReg w.d && w.a.ok64 && w.b.ok64
  | .fsqrtF64 w _ => BitVec.evenReg w.d && w.a.ok64
  | .fcvt w => fcvtOk w.tgt w.src w.mode && w.tgt.dstOk w.d && w.src.srcOk w.a
  | .i2f w => w.src.isInt && w.tgt.isFloat && !w.mode.isSr && w.tgt.dstOk w.d && w.src.srcOk w.a
  | .f2i w => w.src.isFloat && w.tgt.isInt && !w.mode.isSr && w.tgt.dstOk w.d && w.src.srcOk w.a
  | .frnd w => frndOk w.tgt w.src w.mode && w.tgt.dstOk w.d && w.src.srcOk w.a
  | .fscale w => fscaleOk w.tgt w.src w.mode && w.tgt.dstOk w.d && w.src.srcOk w.a
  | .fpack w => fpackOk w.tgt w.src && w.src.srcOk w.a && (!w.src.is64 || BitVec.evenReg w.b)
  | .eqmask64 w => w.a.ok64
  | .equni64 w => w.a.ok64
  | .reduce w => !w.op.is64 || w.a.ok64
  | .scanInc w | .scanExc w => !w.op.is64 || (w.a.ok64 && BitVec.evenReg w.d)
  | .ldv m => m.addr.ok && m.size.regOk m.d && m.acc.loadOk && !(m.split && m.acc.isAcq) && (!m.sx || m.size.le2)
  | .lds m => m.addr.ok && m.size.regOk m.d && m.acc.loadOk && !m.split && (!m.sx || m.size.le2)
  | .stv m | .sts m => m.addr.ok && m.size.regOk m.d && m.acc.storeOk
  | .prefetch m => m.addr.ok
  | .atom m | .atoms m => m.addr.ok && (!m.wide8 || (BitVec.evenReg m.d && BitVec.evenReg m.e))
  | .red m => m.addr.ok && m.kind.stOrRel && m.d == 0#7 && m.la == 0#4 && (!m.wide8 || BitVec.evenReg m.e)
  | .casw m =>
    m.addr.ok && (if m.wide32 then m.d.toNat % 8 == 0 && m.e.toNat % 16 == 0 else m.d.toNat % 4 == 0 && m.e.toNat % 8 == 0)
  | .enq m => m.addr.ok && m.kind.stOrRel && BitVec.evenReg m.d && BitVec.evenReg m.e
  | .chld m => m.addr.ok && m.kind.stOrAcq
  | .stc m => m.addr.ok && m.kind.stOrRel && m.size.ge4 && m.size.regOk m.d
  | .acp m => m.addr.ok && m.size.ge4
  | .cinc g | .cdec g => g.kind.stOrRel
  | .cwait g => g.kind == .acq
  | .cread g => g.kind.stOrAcq
  | .mma e => e.a.toNat % 16 == 0
  | .mrdy e => e.a.toNat % 16 == 0
  | .accopen e => 2 ≤ e.gsize.toNat && e.gsize.toNat ≤ 6
  | .hWord x y => x.ok && y.ok && hPairOk x y
  | .sshlIu u | .sshrIu u | .ssarIu u => u.imm.toNat < 64
  | .sld u => u.acc.loadOk && u.size != .b16 && (!u.sx || u.size != .b8)
  | .sst u => u.acc.storeOk && u.size != .b16
  | .sread u => scalarSel u.sel || privSel u.sel || (vectorSel u.sel && u.d.toNat < 128)
  | .sreadW u => writableSel u.sel
  | .speer u => u.b.toNat != 511
  | _ => true

end Sys2Proof
end

