-- ==== Sys2Proof/Decode.lean ====
section
/-! DEFINITION. From the bits of an instruction word to its term and back (05_instruction_encoding R125-R142,
06 R177 and R187, 08 R216-R240, 09 R243). Decoding pulls the fields out once, checks every reserved field (R132) and
names every operand; the machine never sees raw bits. Each group of fields is a plain structure with its two directions
`ofBits` and `toBits`. -/

namespace Sys2Proof

/-! ### Field groups -/

/-- The fields every W-form word has (R126): opcode, guard, LA, dest, A, route A, and bits [22:0]. -/
structure RawW where
  op : BitVec 8
  guard : BitVec 7
  la : BitVec 4
  d : BitVec 7
  a : BitVec 7
  rk : BitVec 3
  ra : BitVec 5
  low : BitVec 23
deriving DecidableEq, Repr

/-- Splits a word into the fields of R126. -/
def RawW.ofBits (w : BitVec 64) : RawW :=
  ⟨w.extractLsb' 56 8, w.extractLsb' 49 7, w.extractLsb' 45 4, w.extractLsb' 38 7, w.extractLsb' 31 7,
   w.extractLsb' 28 3, w.extractLsb' 23 5, w.extractLsb' 0 23⟩

/-- Joins the fields of R126. -/
def RawW.toBits (r : RawW) : BitVec 64 :=
  r.op ++ r.guard ++ r.la ++ r.d ++ r.a ++ r.rk ++ r.ra ++ r.low

/-- Bits [22:0] as B, C and route X (R126). -/
structure RawBXC where
  b : BitVec 7
  c : BitVec 7
  xk : BitVec 3
  xa : BitVec 5
  xt : BitVec 1
deriving DecidableEq, Repr

def RawBXC.ofBits (w : BitVec 23) : RawBXC :=
  ⟨w.extractLsb' 16 7, w.extractLsb' 9 7, w.extractLsb' 6 3, w.extractLsb' 1 5, w.extractLsb' 0 1⟩

def RawBXC.toBits (r : RawBXC) : BitVec 23 := r.b ++ r.c ++ r.xk ++ r.xa ++ r.xt

/-- Bits [22:0] of the vector memory layout (R216). -/
structure RawMem where
  s : BitVec 5
  w : BitVec 1
  e : BitVec 7
  ctl : BitVec 10
deriving DecidableEq, Repr

def RawMem.ofBits (w : BitVec 23) : RawMem :=
  ⟨w.extractLsb' 18 5, w.extractLsb' 17 1, w.extractLsb' 10 7, w.extractLsb' 0 10⟩

def RawMem.toBits (r : RawMem) : BitVec 23 := r.s ++ r.w ++ r.e ++ r.ctl

/-- The control field of the load and store class (R218). -/
structure RawCtl where
  size : BitVec 3
  kind : BitVec 3
  scope : BitVec 3
  split : BitVec 1
deriving DecidableEq, Repr

def RawCtl.ofBits (w : BitVec 10) : RawCtl :=
  ⟨w.extractLsb' 7 3, w.extractLsb' 4 3, w.extractLsb' 1 3, w.extractLsb' 0 1⟩

def RawCtl.toBits (r : RawCtl) : BitVec 10 := r.size ++ r.kind ++ r.scope ++ r.split

/-- The control field of the atomics (R224). -/
structure RawACtl where
  op : BitVec 4
  size : BitVec 1
  kind : BitVec 2
  scope : BitVec 3
deriving DecidableEq, Repr

def RawACtl.ofBits (w : BitVec 10) : RawACtl :=
  ⟨w.extractLsb' 6 4, w.extractLsb' 5 1, w.extractLsb' 3 2, w.extractLsb' 0 3⟩

def RawACtl.toBits (r : RawACtl) : BitVec 10 := r.op ++ r.size ++ r.kind ++ r.scope

/-- The fields of a word of the engine layout below A (R243): B, C and control. -/
structure RawE where
  op : BitVec 8
  guard : BitVec 7
  la : BitVec 4
  d : BitVec 7
  a : BitVec 7
  b : BitVec 7
  c : BitVec 7
  ctl : BitVec 17
deriving DecidableEq, Repr

def RawE.ofBits (w : BitVec 64) : RawE :=
  ⟨w.extractLsb' 56 8, w.extractLsb' 49 7, w.extractLsb' 45 4, w.extractLsb' 38 7, w.extractLsb' 31 7,
   w.extractLsb' 24 7, w.extractLsb' 17 7, w.extractLsb' 0 17⟩

def RawE.toBits (r : RawE) : BitVec 64 :=
  r.op ++ r.guard ++ r.la ++ r.d ++ r.a ++ r.b ++ r.c ++ r.ctl

/-- The fields of a U-form word (R137). -/
structure RawU where
  op : BitVec 8
  q : BitVec 4
  neg : BitVec 1
  la : BitVec 4
  d : BitVec 9
  a : BitVec 9
  b : BitVec 9
  imm : BitVec 20
deriving DecidableEq, Repr

def RawU.ofBits (w : BitVec 64) : RawU :=
  ⟨w.extractLsb' 56 8, w.extractLsb' 52 4, w.extractLsb' 51 1, w.extractLsb' 47 4, w.extractLsb' 38 9,
   w.extractLsb' 29 9, w.extractLsb' 20 9, w.extractLsb' 0 20⟩

def RawU.toBits (r : RawU) : BitVec 64 :=
  r.op ++ r.q ++ r.neg ++ r.la ++ r.d ++ r.a ++ r.b ++ r.imm

/-- One slot of an H-word (R139). -/
structure RawHalf where
  op : BitVec 6
  guard : BitVec 3
  d : BitVec 7
  b : BitVec 7
  rk : BitVec 2
  ra : BitVec 5
deriving DecidableEq, Repr

def RawHalf.ofBits (w : BitVec 30) : RawHalf :=
  ⟨w.extractLsb' 24 6, w.extractLsb' 21 3, w.extractLsb' 14 7, w.extractLsb' 7 7, w.extractLsb' 5 2, w.extractLsb' 0 5⟩

def RawHalf.toBits (r : RawHalf) : BitVec 30 := r.op ++ r.guard ++ r.d ++ r.b ++ r.rk ++ r.ra

/-! ### Codes -/

def bitOf (b : Bool) : BitVec 1 := if b then 1#1 else 0#1

/-- A route from kind and amount (R133): kind 0 has amount 0, kind 5 keeps amount[4:3] zero, 6 and 7 are reserved. -/
def routeOf (k : BitVec 3) (n : BitVec 5) : Option Route :=
  match k.toNat with
  | 0 => if n = 0#5 then some .own else none
  | 1 => some (.rot n)
  | 2 => some (.bcast n)
  | 3 => some (.bfly n)
  | 4 => some (.idx n)
  | 5 => if n.extractLsb' 3 2 = 0#2 then some (.scalar (n.extractLsb' 0 2) (n.extractLsb' 2 1 == 1#1)) else none
  | _ => none

def Route.kind : Route → BitVec 3
  | .own => 0#3 | .rot _ => 1#3 | .bcast _ => 2#3 | .bfly _ => 3#3 | .idx _ => 4#3 | .scalar .. => 5#3

def Route.amount : Route → BitVec 5
  | .own => 0#5 | .rot n => n | .bcast n => n | .bfly n => n | .idx n => n
  | .scalar bank hi => 0#2 ++ bitOf hi ++ bank

/-- A routed source from its fields. -/
def srcOf (reg : BitVec 7) (k : BitVec 3) (n : BitVec 5) : Option VSrc := (routeOf k n).map fun r => ⟨reg, r⟩

/-- An unrouted source. -/
def plainSrc (reg : BitVec 7) : VSrc := ⟨reg, .own⟩

def rndOf (n : BitVec 3) : Option RndSel :=
  match n.toNat with
  | 0 => some .fpctl | 1 => some .rne | 2 => some .rtz | 3 => some .rdn | 4 => some .rup | _ => none

def RndSel.code : RndSel → BitVec 3
  | .fpctl => 0#3 | .rne => 1#3 | .rtz => 2#3 | .rdn => 3#3 | .rup => 4#3

def ftypeOf (n : BitVec 4) : FType :=
  match n.toNat with
  | 0 => .f64 | 1 => .f32 | 2 => .f16 | 3 => .bf16 | 4 => .e4m3 | 5 => .e5m2 | 6 => .f16x2 | 7 => .bf16x2
  | 8 => .si8 | 9 => .ui8 | 10 => .si16 | 11 => .ui16 | 12 => .si32 | 13 => .ui32 | 14 => .si64 | _ => .ui64

def FType.code : FType → BitVec 4
  | .f64 => 0#4 | .f32 => 1#4 | .f16 => 2#4 | .bf16 => 3#4 | .e4m3 => 4#4 | .e5m2 => 5#4 | .f16x2 => 6#4
  | .bf16x2 => 7#4 | .si8 => 8#4 | .ui8 => 9#4 | .si16 => 10#4 | .ui16 => 11#4 | .si32 => 12#4 | .ui32 => 13#4
  | .si64 => 14#4 | .ui64 => 15#4

def cvtModeOf (n : BitVec 3) : Option CvtMode :=
  if n = 5#3 then some .sr else (rndOf n).map .sel

def CvtMode.code : CvtMode → BitVec 3
  | .sel r => r.code
  | .sr => 5#3

def redOpOf (n : BitVec 5) : Option RedOp :=
  match n.toNat with
  | 0 => some .add | 1 => some .min | 2 => some .max | 3 => some .minU | 4 => some .maxU | 5 => some .and
  | 6 => some .or | 7 => some .xor | 8 => some .add64 | 9 => some .addF32 | 10 => some .minF32 | 11 => some .maxF32
  | 12 => some .addF64 | 13 => some .minF64 | 14 => some .maxF64 | _ => none

def RedOp.code : RedOp → BitVec 5
  | .add => 0#5 | .min => 1#5 | .max => 2#5 | .minU => 3#5 | .maxU => 4#5 | .and => 5#5 | .or => 6#5 | .xor => 7#5
  | .add64 => 8#5 | .addF32 => 9#5 | .minF32 => 10#5 | .maxF32 => 11#5 | .addF64 => 12#5 | .minF64 => 13#5
  | .maxF64 => 14#5

def maskSelOf (n : BitVec 3) : Option MaskSel :=
  match n.toNat with
  | 0 => some .eq | 1 => some .lt | 2 => some .le | 3 => some .gt | 4 => some .ge | 5 => some .act | 6 => some .run
  | _ => none

def MaskSel.code : MaskSel → BitVec 3
  | .eq => 0#3 | .lt => 1#3 | .le => 2#3 | .gt => 3#3 | .ge => 4#3 | .act => 5#3 | .run => 6#3

def sizeOf3 (n : BitVec 3) : Option Size :=
  match n.toNat with
  | 0 => some .b1 | 1 => some .b2 | 2 => some .b4 | 3 => some .b8 | 4 => some .b16 | _ => none

def Size.code : Size → BitVec 3
  | .b1 => 0#3 | .b2 => 1#3 | .b4 => 2#3 | .b8 => 3#3 | .b16 => 4#3

def scopeOf (n : BitVec 3) : Option Scope :=
  match n.toNat with
  | 0 => some .team | 1 => some .die | 2 => some .dev | 3 => some .cell | 4 => some .sys | _ => none

def Scope.code : Scope → BitVec 3
  | .team => 0#3 | .die => 1#3 | .dev => 2#3 | .cell => 3#3 | .sys => 4#3

/-- The kind codes of R218; code 0 is weak and no strong kind. -/
def kindOf (n : BitVec 3) : Option Kind :=
  match n.toNat with
  | 1 => some .st | 2 => some .acq | 3 => some .rel | 4 => some .ar | _ => none

def Kind.code : Kind → BitVec 3
  | .st => 1#3 | .acq => 2#3 | .rel => 3#3 | .ar => 4#3

/-- The kind codes of R224. -/
def kind2Of (n : BitVec 2) : Kind :=
  match n.toNat with
  | 0 => .st | 1 => .acq | 2 => .rel | _ => .ar

def Kind.code2 : Kind → BitVec 2
  | .st => 0#2 | .acq => 1#2 | .rel => 2#2 | .ar => 3#2

/-- Kind and scope of an access; the scope of a weak access is ignored (R90, R218). -/
def accOf (kind scope : BitVec 3) : Option Acc :=
  if kind = 0#3 then some .wk
  else do
    let k ← kindOf kind
    let sc ← scopeOf scope
    pure (.strong k sc)

def Acc.kindCode : Acc → BitVec 3
  | .wk => 0#3
  | .strong k _ => k.code

def Acc.scopeCode : Acc → BitVec 3
  | .wk => 0#3
  | .strong _ sc => sc.code

def atomOpOf (n : BitVec 4) : Option AtomOp :=
  match n.toNat with
  | 0 => some .add | 1 => some .min | 2 => some .max | 3 => some .minU | 4 => some .maxU | 5 => some .and
  | 6 => some .or | 7 => some .xor | 8 => some .swap | 9 => some .fadd | _ => none

def AtomOp.code : AtomOp → BitVec 4
  | .add => 0#4 | .min => 1#4 | .max => 2#4 | .minU => 3#4 | .maxU => 4#4 | .and => 5#4 | .or => 6#4 | .xor => 7#4
  | .swap => 8#4 | .fadd => 9#4

def mmaFmtOf (n : BitVec 3) : Option MmaFmt :=
  match n.toNat with
  | 0 => some .f64 | 1 => some .f32 | 2 => some .bf16 | 3 => some .f16 | 4 => some .f8e4 | 5 => some .f8e5
  | 6 => some .i8 | _ => none

def MmaFmt.code : MmaFmt → BitVec 3
  | .f64 => 0#3 | .f32 => 1#3 | .bf16 => 2#3 | .f16 => 3#3 | .f8e4 => 4#3 | .f8e5 => 5#3 | .i8 => 6#3

def tileFmtOf (n : BitVec 2) : Option TileFmt :=
  match n.toNat with
  | 0 => some .f64 | 1 => some .f32 | 2 => some .i32 | _ => none

def TileFmt.code : TileFmt → BitVec 2
  | .f64 => 0#2 | .f32 => 1#2 | .i32 => 2#2

def hopOf (n : BitVec 6) : Option HOp :=
  match n.toNat with
  | 0x00 => some .nop | 0x01 => some .mov | 0x02 => some .iadd | 0x03 => some .isub | 0x04 => some .imin
  | 0x05 => some .iminU | 0x06 => some .imax | 0x07 => some .imaxU | 0x08 => some .and | 0x09 => some .or
  | 0x0A => some .xor | 0x0B => some .andn | 0x0C => some .shl | 0x0D => some .shr | 0x0E => some .sar
  | 0x0F => some .rol | 0x10 => some .iaddI | 0x11 => some .isubI | 0x12 => some .shlI | 0x13 => some .shrI
  | 0x14 => some .sarI | 0x15 => some .andI | 0x16 => some .orI | 0x17 => some .xorI | 0x18 => some .movi
  | 0x19 => some .imulLo | 0x20 => some .faddF32 | 0x21 => some .fsubF32 | 0x22 => some .fmulF32
  | 0x23 => some .fminF32 | 0x24 => some .fmaxF32 | 0x25 => some .faddF16x2 | 0x26 => some .fmulF16x2
  | 0x27 => some .faddBf16x2 | 0x28 => some .fmulBf16x2 | 0x29 => some .fabsF32 | 0x2A => some .fnegF32
  | _ => none

def HOp.code : HOp → BitVec 6
  | .nop => 0x00#6 | .mov => 0x01#6 | .iadd => 0x02#6 | .isub => 0x03#6 | .imin => 0x04#6 | .iminU => 0x05#6
  | .imax => 0x06#6 | .imaxU => 0x07#6 | .and => 0x08#6 | .or => 0x09#6 | .xor => 0x0A#6 | .andn => 0x0B#6
  | .shl => 0x0C#6 | .shr => 0x0D#6 | .sar => 0x0E#6 | .rol => 0x0F#6 | .iaddI => 0x10#6 | .isubI => 0x11#6
  | .shlI => 0x12#6 | .shrI => 0x13#6 | .sarI => 0x14#6 | .andI => 0x15#6 | .orI => 0x16#6 | .xorI => 0x17#6
  | .movi => 0x18#6 | .imulLo => 0x19#6 | .faddF32 => 0x20#6 | .fsubF32 => 0x21#6 | .fmulF32 => 0x22#6
  | .fminF32 => 0x23#6 | .fmaxF32 => 0x24#6 | .faddF16x2 => 0x25#6 | .fmulF16x2 => 0x26#6 | .faddBf16x2 => 0x27#6
  | .fmulBf16x2 => 0x28#6 | .fabsF32 => 0x29#6 | .fnegF32 => 0x2A#6

/-! ### Decoders of the W-form shapes (R126-R132) -/

/-- Source A with its route. -/
def RawW.srcA (r : RawW) : Option VSrc := srcOf r.a r.rk r.ra

/-- No lookahead (R132, R143). -/
def RawW.noLa (r : RawW) : Bool := r.la == 0#4

/-- A and its route are reserved. -/
def RawW.noA (r : RawW) : Bool := r.a == 0#7 && r.rk == 0#3 && r.ra == 0#5

/-- Route A is reserved: A is a plain field. -/
def RawW.plainA (r : RawW) : Bool := r.rk == 0#3 && r.ra == 0#5

def RawW.x (r : RawW) : RawBXC := RawBXC.ofBits r.low

/-- Route X when it can only target B: B routed, and C free for another use. -/
def RawBXC.srcB (x : RawBXC) : Option VSrc := if x.xt = 0#1 then srcOf x.b x.xk x.xa else none

/-- B and C when route X targets one of them. -/
def RawBXC.srcBC (x : RawBXC) : Option (VSrc × VSrc) :=
  if x.xk = 0#3 then
    if x.xa = 0#5 ∧ x.xt = 0#1 then some (plainSrc x.b, plainSrc x.c) else none
  else if x.xt = 0#1 then (srcOf x.b x.xk x.xa).map fun b => (b, plainSrc x.c)
  else (srcOf x.c x.xk x.xa).map fun c => (plainSrc x.b, c)

def decUnLa (r : RawW) : Option (WUn × BitVec 4) :=
  if r.low = 0#23 then r.srcA.map fun a => (⟨r.guard, r.d, a⟩, r.la) else none

def decUn (r : RawW) : Option WUn := if r.noLa then (decUnLa r).map (·.1) else none

def decBinLa (r : RawW) : Option (WBin × BitVec 4) :=
  if r.x.c = 0#7 then do
    let a ← r.srcA
    let b ← r.x.srcB
    pure (⟨r.guard, r.d, a, b⟩, r.la)
  else none

def decBin (r : RawW) : Option WBin := if r.noLa then (decBinLa r).map (·.1) else none

def decTri (r : RawW) : Option WTri :=
  if r.noLa then do
    let a ← r.srcA
    let bc ← r.x.srcBC
    pure ⟨r.guard, r.d, a, bc.1, bc.2⟩
  else none

def decBinP (r : RawW) : Option WBinP :=
  if r.noLa then do
    let a ← r.srcA
    let b ← r.x.srcB
    pure ⟨r.guard, r.d, a, b, r.x.c⟩
  else none

def decImm (r : RawW) : Option WImm := if r.noLa then r.srcA.map fun a => ⟨r.guard, r.d, a, r.low⟩ else none

def decConst (r : RawW) : Option WConst := if r.noLa && r.noA then some ⟨r.guard, r.d, r.low⟩ else none

def decLgc (r : RawW) : Option WLgc :=
  if r.noLa && r.low.extractLsb' 0 1 == 0#1 then
    r.srcA.map fun a => ⟨r.guard, r.d, a, r.x.b, r.x.c, r.low.extractLsb' 1 8⟩
  else none

def decCmp (r : RawW) : Option WCmp :=
  if r.noLa then do
    let a ← r.srcA
    let b ← r.x.srcB
    pure ⟨r.guard, r.d, r.x.c, a, b⟩
  else none

def decRnd (r : RawW) : Option WRnd :=
  if r.noLa && r.x.c.extractLsb' 3 4 == 0#4 then do
    let a ← r.srcA
    let b ← r.x.srcB
    let m ← rndOf (r.x.c.extractLsb' 0 3)
    pure ⟨r.guard, r.d, a, b, m⟩
  else none

/-- The conversion control (R131): target, source, mode; bits [4:0] zero. -/
def cvtCtlOf (w : BitVec 16) : Option (FType × FType × CvtMode) :=
  if w.extractLsb' 0 5 = 0#5 then
    (cvtModeOf (w.extractLsb' 5 3)).map fun m => (ftypeOf (w.extractLsb' 12 4), ftypeOf (w.extractLsb' 8 4), m)
  else none

def decCvt2 (r : RawW) : Option WCvt2 :=
  if r.noLa then do
    let a ← r.srcA
    let c ← cvtCtlOf (r.low.extractLsb' 0 16)
    pure ⟨r.guard, r.d, a, r.x.b, c.1, c.2.1, c.2.2⟩
  else none

def decCvt (r : RawW) : Option WCvt :=
  if r.x.b = 0#7 then (decCvt2 r).map fun c => ⟨c.guard, c.d, c.a, c.tgt, c.src, c.mode⟩ else none

/-- FCVT and its seeding form, mode 6 with both type fields zero (R131, R203). -/
def decFcvt (r : RawW) : Option Instr :=
  if r.low = 0xC0#23 then
    if r.noLa && r.d == 0#7 then r.srcA.map fun a => .fcvtSeed ⟨r.guard, a⟩ else none
  else (decCvt r).map .fcvt

def qOf (d : BitVec 7) : Option (BitVec 4) := if d.extractLsb' 4 3 = 0#3 then some (d.extractLsb' 0 4) else none

def decVote (r : RawW) : Option WVote :=
  if r.noLa && r.plainA && r.low == 0#23 then (qOf r.d).map fun q => ⟨r.guard, q, r.a⟩ else none

/-- A scalar destination s(dest + 128 × C[10:9]) whose other low bits the caller checks (R127). -/
def RawW.sDest (r : RawW) : BitVec 9 := r.low.extractLsb' 9 2 ++ r.d

def decBallot (r : RawW) : Option WBallot :=
  if r.noLa && r.plainA && r.low == 0#12 ++ r.low.extractLsb' 9 2 ++ 0#9 then some ⟨r.guard, r.sDest, r.a⟩ else none

def decFirst (r : RawW) : Option WFirst :=
  if r.noLa && r.noA && r.low == 0#12 ++ r.low.extractLsb' 9 2 ++ 0#9 then some ⟨r.guard, r.sDest⟩ else none

def decUni (r : RawW) : Option WUni :=
  if r.noLa && r.low == 0#23 then do
    let q ← qOf r.d
    let a ← r.srcA
    pure ⟨r.guard, q, a⟩
  else none

def decReduce (r : RawW) : Option WReduce :=
  if r.noLa && r.low == 0#7 ++ r.low.extractLsb' 11 5 ++ r.low.extractLsb' 9 2 ++ 0#9 then do
    let a ← r.srcA
    let o ← redOpOf (r.low.extractLsb' 11 5)
    pure ⟨r.guard, r.sDest, a, o⟩
  else none

def decScan (r : RawW) : Option WScan :=
  if r.noLa && r.low == 0#7 ++ r.low.extractLsb' 11 5 ++ 0#11 then do
    let a ← r.srcA
    let o ← redOpOf (r.low.extractLsb' 11 5)
    pure ⟨r.guard, r.d, a, o⟩
  else none

def decMask (r : RawW) : Option WMask :=
  if r.noLa && r.noA && r.low == 0#20 ++ r.low.extractLsb' 0 3 then
    (maskSelOf (r.low.extractLsb' 0 3)).map fun m => ⟨r.guard, r.d, m⟩
  else none

def decPred (r : RawW) : Option WPred :=
  if r.noLa && r.plainA && r.low.extractLsb' 0 9 == 0#9 then some ⟨r.guard, r.d, r.x.c, r.a, r.x.b⟩ else none

def decPred1 (r : RawW) : Option WPred1 :=
  if r.x.b = 0#7 then (decPred r).map fun p => ⟨p.guard, p.pd, p.pc, p.pa⟩ else none

def decBranch (r : RawW) : Option WBranch :=
  if r.noLa && r.noA && r.d == 0#7 then some ⟨r.guard, r.low⟩ else none

def decIndirect (r : RawW) : Option WIndirect :=
  if r.noLa && r.d == 0#7 && r.low == 0#23 then r.srcA.map fun a => ⟨r.guard, a⟩ else none

def decCall (r : RawW) : Option WCall := if r.noLa && r.noA then some ⟨r.guard, r.d, r.low⟩ else none

def decGuard (r : RawW) : Option EGuard :=
  if r.noLa && r.noA && r.d == 0#7 && r.low == 0#23 then some ⟨r.guard⟩ else none

def decBpt (r : RawW) : Option WBpt :=
  if r.noLa && r.noA && r.d == 0#7 && r.low == 0#7 ++ r.low.extractLsb' 0 16 then
    some ⟨r.guard, r.low.extractLsb' 0 16⟩
  else none

def decSvc (r : RawW) : Option WSvc :=
  if r.noLa && r.plainA && r.low == 0#23 then some ⟨r.guard, r.d, r.a⟩ else none

/-! ### Decoders of the vector memory layout (R216-R230, R238) -/

def RawW.mem (r : RawW) : RawMem := RawMem.ofBits r.low

/-- The address operand (R216). -/
def RawW.maddr (r : RawW) : Option MAddr := r.srcA.map fun x => ⟨x, r.mem.s, r.mem.w == 1#1⟩

def RawMem.lctl (m : RawMem) : RawCtl := RawCtl.ofBits m.ctl
def RawMem.actl (m : RawMem) : RawACtl := RawACtl.ofBits m.ctl

/-- LDV and LDS: E[10] is `.sx`, E[16:11] reserved (R218). -/
def decLoad (r : RawW) : Option MLoad :=
  if r.mem.e.extractLsb' 1 6 = 0#6 then do
    let ad ← r.maddr
    let z ← sizeOf3 r.mem.lctl.size
    let ac ← accOf r.mem.lctl.kind r.mem.lctl.scope
    pure ⟨r.guard, r.la, r.d, ad, z, ac, r.mem.lctl.split == 1#1, r.mem.e.extractLsb' 0 1 == 1#1⟩
  else none

def decStore (r : RawW) : Option MStore :=
  if r.noLa && r.mem.e == 0#7 && r.mem.lctl.split == 0#1 then do
    let ad ← r.maddr
    let z ← sizeOf3 r.mem.lctl.size
    let ac ← accOf r.mem.lctl.kind r.mem.lctl.scope
    pure ⟨r.guard, r.d, ad, z, ac⟩
  else none

/-- PREFETCH: the whole control field and D are zero (R221). -/
def decPrefetch (r : RawW) : Option MPrefetch :=
  if r.noLa && r.d == 0#7 && r.mem.ctl == 0#10 && r.mem.e.extractLsb' 1 6 == 0#6 then
    r.maddr.map fun ad => ⟨r.guard, ad, r.mem.e.extractLsb' 0 1 == 1#1⟩
  else none

def decAtom (r : RawW) : Option MAtom := do
  let ad ← r.maddr
  let o ← atomOpOf r.mem.actl.op
  let sc ← scopeOf r.mem.actl.scope
  pure ⟨r.guard, r.la, r.d, ad, r.mem.e, o, r.mem.actl.size == 1#1, kind2Of r.mem.actl.kind, sc⟩

def decCasw (r : RawW) : Option MCasw :=
  if r.mem.actl.op = 0#4 then do
    let ad ← r.maddr
    let sc ← scopeOf r.mem.actl.scope
    pure ⟨r.guard, r.la, r.d, ad, r.mem.e, r.mem.actl.size == 1#1, kind2Of r.mem.actl.kind, sc⟩
  else none

def decEnq (r : RawW) : Option MEnq :=
  if r.mem.actl.size = 0#1 then do
    let ad ← r.maddr
    let sc ← scopeOf r.mem.actl.scope
    pure ⟨r.guard, r.la, r.d, ad, r.mem.e, r.mem.actl.op, kind2Of r.mem.actl.kind, sc⟩
  else none

/-- CHLD: size and split zero (R230). -/
def decChld (r : RawW) : Option MChld :=
  if r.mem.lctl.size = 0#3 ∧ r.mem.lctl.split = 0#1 then do
    let ad ← r.maddr
    let k ← kindOf r.mem.lctl.kind
    let sc ← scopeOf r.mem.lctl.scope
    pure ⟨r.guard, r.la, r.d, ad, r.mem.e, k, sc⟩
  else none

def decStc (r : RawW) : Option MStc :=
  if r.noLa && r.mem.lctl.split == 0#1 then do
    let ad ← r.maddr
    let z ← sizeOf3 r.mem.lctl.size
    let k ← kindOf r.mem.lctl.kind
    let sc ← scopeOf r.mem.lctl.scope
    pure ⟨r.guard, r.d, ad, r.mem.e, z, k, sc⟩
  else none

/-- ACP: [6] direction, [5] counter space, [4] and [0] reserved (R238). -/
def decAcp (r : RawW) : Option MAcp :=
  if r.mem.lctl.kind.extractLsb' 0 1 = 0#1 ∧ r.mem.lctl.split = 0#1 then do
    let ad ← r.maddr
    let z ← sizeOf3 r.mem.lctl.size
    let sc ← scopeOf r.mem.lctl.scope
    pure ⟨r.guard, r.la, r.d, ad, r.mem.e, z, r.mem.lctl.kind.extractLsb' 2 1 == 1#1,
      r.mem.lctl.kind.extractLsb' 1 1 == 1#1, sc⟩
  else none

/-! ### Decoders of the group-level layout (R235-R240) -/

/-- Bits [30:17] are reserved. -/
def RawW.grp (r : RawW) : Bool := r.plainA && r.low.extractLsb' 17 6 == 0#6

def decFence (r : RawW) : Option GFence :=
  if r.grp && r.noLa && r.d == 0#7 && r.a == 0#7 && r.mem.e == 0#7
      && r.mem.ctl == 0#6 ++ r.mem.lctl.scope ++ 0#1 then
    (scopeOf r.mem.lctl.scope).map fun sc => ⟨r.guard, sc⟩
  else none

/-- Counter control: [9] space, [8:7] and [0] reserved, [6:4] kind, [3:1] scope (R235). -/
def RawW.ctrOk (r : RawW) : Bool := r.grp && r.mem.lctl.size.extractLsb' 0 2 == 0#2 && r.mem.lctl.split == 0#1

def RawW.ctrSp (r : RawW) : Bool := r.mem.lctl.size.extractLsb' 2 1 == 1#1

def decCtr (r : RawW) : Option GCtr :=
  if r.ctrOk && r.noLa && r.d == 0#7 then do
    let k ← kindOf r.mem.lctl.kind
    let sc ← scopeOf r.mem.lctl.scope
    pure ⟨r.guard, r.a, r.mem.e, r.ctrSp, k, sc⟩
  else none

def decRead (r : RawW) : Option GRead :=
  if r.ctrOk && r.mem.e == 0#7 then do
    let k ← kindOf r.mem.lctl.kind
    let sc ← scopeOf r.mem.lctl.scope
    pure ⟨r.guard, r.la, r.d, r.a, r.ctrSp, k, sc⟩
  else none

def decBar (r : RawW) : Option GBar :=
  if r.grp && r.noLa && r.d == 0#7 && r.mem.ctl == 0#10 then some ⟨r.guard, r.a, r.mem.e⟩ else none

def decArrive (r : RawW) : Option GArrive :=
  if r.grp && r.noLa && r.mem.e == 0#7 && r.mem.ctl == 0#10 then some ⟨r.guard, r.d, r.a⟩ else none

def decGrow (r : RawW) : Option GGrow :=
  if r.grp && r.noLa && r.a == 0#7 && r.mem.e == 0#7 && r.mem.ctl.extractLsb' 3 7 == 0#7 then
    (qOf r.d).map fun q => ⟨r.guard, q, r.mem.ctl.extractLsb' 0 3⟩
  else none

def decShrink (r : RawW) : Option GShrink :=
  if r.grp && r.noLa && r.d == 0#7 && r.a == 0#7 && r.mem.e == 0#7 && r.mem.ctl.extractLsb' 3 7 == 0#7 then
    some ⟨r.guard, r.mem.ctl.extractLsb' 0 3⟩
  else none

/-! ### Decoders of the engine layout (R243-R264) -/

def RawW.eng (r : RawW) : RawE := RawE.ofBits r.toBits

def decGang (r : RawW) : Option EGang :=
  if r.noLa && r.d == 0#7 && r.eng.b == 0#7 && r.eng.c == 0#7 && r.eng.ctl == 0#17 then some ⟨r.guard, r.a⟩ else none

def decMrdy (r : RawW) : Option EMrdy := (decGang r).map fun g => ⟨g.guard, g.a⟩

def decMma (r : RawW) : Option EMma :=
  if r.d == 0#7 && r.eng.ctl.extractLsb' 5 12 == 0#12 then
    (mmaFmtOf (r.eng.ctl.extractLsb' 0 3)).map fun f =>
      ⟨r.guard, r.la, r.a, r.eng.b, r.eng.c, f, r.eng.ctl.extractLsb' 3 1 == 1#1, r.eng.ctl.extractLsb' 4 1 == 1#1⟩
  else none

def decAccOpen (r : RawW) : Option EAccOpen :=
  if r.eng.ctl.extractLsb' 10 7 = 0#7 then do
    let sc ← scopeOf (r.eng.ctl.extractLsb' 0 3)
    let f ← tileFmtOf (r.eng.ctl.extractLsb' 3 2)
    pure ⟨r.guard, r.la, r.d, r.a, r.eng.b, r.eng.c, sc, f, r.eng.ctl.extractLsb' 5 1 == 1#1,
      r.eng.ctl.extractLsb' 6 1 == 1#1, r.eng.ctl.extractLsb' 7 3⟩
  else none

def decAccClose (r : RawW) : Option EAccClose :=
  if r.eng.b = 0#7 ∧ r.eng.c = 0#7 ∧ r.eng.ctl = 0#17 then some ⟨r.guard, r.la, r.d, r.a⟩ else none

def decTcopy (r : RawW) : Option ETcopy :=
  if r.d = 0#7 ∧ r.eng.b = 0#7 ∧ r.eng.ctl.extractLsb' 4 13 = 0#13 then
    (scopeOf (r.eng.ctl.extractLsb' 0 3)).map fun sc =>
      ⟨r.guard, r.la, r.a, r.eng.c, sc, r.eng.ctl.extractLsb' 3 1 == 1#1⟩
  else none

def decLaunch (r : RawW) : Option ELaunch := (decAccClose r).map fun g => ⟨g.guard, g.la, g.d, g.a⟩

def decTLaunch (r : RawW) : Option ETLaunch :=
  if r.eng.c = 0#7 ∧ r.eng.ctl.extractLsb' 3 14 = 0#14 then
    (scopeOf (r.eng.ctl.extractLsb' 0 3)).map fun sc => ⟨r.guard, r.la, r.d, r.a, r.eng.b, sc⟩
  else none

/-! ### Decoders of the U-form (R137, R138, R187, R222) -/

def RawU.noLa (r : RawU) : Bool := r.la == 0#4
def RawU.n (r : RawU) : Bool := r.neg == 1#1

def decUBin (r : RawU) : Option UBin :=
  if r.noLa && r.imm == 0#20 then some ⟨r.q, r.n, r.d, r.a, r.b⟩ else none

def decUImm (r : RawU) : Option UImm :=
  if r.noLa && r.b == 0#9 then some ⟨r.q, r.n, r.d, r.a, r.imm⟩ else none

def decUConst (r : RawU) : Option UConst :=
  if r.noLa && r.a == 0#9 && r.b == 0#9 then some ⟨r.q, r.n, r.d, r.imm⟩ else none

def decUCmp (r : RawU) : Option UCmp :=
  if r.noLa && r.imm == 0#20 && r.d.extractLsb' 8 1 == 0#1 then
    some ⟨r.q, r.n, r.d.extractLsb' 0 4, r.d.extractLsb' 4 4, r.a, r.b⟩
  else none

def decUSel (r : RawU) : Option USel :=
  if r.noLa && r.imm.extractLsb' 4 16 == 0#16 then some ⟨r.q, r.n, r.d, r.a, r.b, r.imm.extractLsb' 0 4⟩ else none

def decUBranch (r : RawU) : Option UBranch :=
  if r.noLa && r.d == 0#9 && r.a == 0#9 && r.b == 0#9 then some ⟨r.q, r.n, r.imm⟩ else none

def decULoad (r : RawU) : Option ULoad :=
  if r.b = 0#9 then do
    let z ← sizeOf3 (r.imm.extractLsb' 17 3)
    let ac ← accOf (r.imm.extractLsb' 14 3) (r.imm.extractLsb' 11 3)
    pure ⟨r.q, r.n, r.la, r.d, r.a, z, ac, r.imm.extractLsb' 10 1 == 1#1, r.imm.extractLsb' 9 1 == 1#1,
      r.imm.extractLsb' 0 9⟩
  else none

def decUStore (r : RawU) : Option UStore :=
  if r.noLa && r.b == 0#9 && r.imm.extractLsb' 10 1 == 0#1 then do
    let z ← sizeOf3 (r.imm.extractLsb' 17 3)
    let ac ← accOf (r.imm.extractLsb' 14 3) (r.imm.extractLsb' 11 3)
    pure ⟨r.q, r.n, r.d, r.a, z, ac, r.imm.extractLsb' 9 1 == 1#1, r.imm.extractLsb' 0 9⟩
  else none

/-- SREAD and SREAD.W: the write bit is [19], [18:8] are reserved, and A only names the source of `.W` (R50, R187). -/
def decSread (r : RawU) : Option Instr :=
  if r.noLa && r.b == 0#9 && r.imm.extractLsb' 8 11 == 0#11 then
    if r.imm.extractLsb' 19 1 = 1#1 then some (.sreadW ⟨r.q, r.n, r.d, r.a, r.imm.extractLsb' 0 8⟩)
    else if r.a = 0#9 then some (.sread ⟨r.q, r.n, r.d, r.imm.extractLsb' 0 8⟩)
    else none
  else none

def decUPeer (r : RawU) : Option UPeer := if r.noLa then some ⟨r.q, r.n, r.d, r.a, r.b, r.imm⟩ else none

/-! ### H-words (R139) -/

def decHalf (w : BitVec 30) : Option Half := do
  let r := RawHalf.ofBits w
  let o ← hopOf r.op
  let b ← srcOf r.b (0#1 ++ r.rk) r.ra
  pure ⟨o, r.guard, r.d, b⟩

def decH (w : BitVec 64) : Option Instr := do
  let x ← decHalf (w.extractLsb' 30 30)
  let y ← decHalf (w.extractLsb' 0 30)
  pure (.hWord x y)

/-! ### The opcode map (R142) -/

/-- The W-form opcodes 0x00 to 0xCF. -/
def decodeW (r : RawW) : Option Instr :=
  match r.op.toNat with
  | 0x00 => (decBin r).map .iadd
  | 0x01 => (decImm r).map .iaddIs
  | 0x02 => (decBin r).map .isub
  | 0x03 => (decBinP r).map .iaddc
  | 0x04 => (decBin r).map .imulLo
  | 0x05 => (decBin r).map .imulHi
  | 0x06 => (decBin r).map .imulHiU
  | 0x07 => (decTri r).map .imad
  | 0x08 => (decTri r).map .imadw
  | 0x09 => (decTri r).map .imadwU
  | 0x0A => (decBin r).map .imin
  | 0x0B => (decBin r).map .iminU
  | 0x0C => (decBin r).map .imax
  | 0x0D => (decBin r).map .imaxU
  | 0x0E => (decUn r).map .iabs
  | 0x0F => (decUn r).map .ineg
  | 0x10 => (decBin r).map .shl
  | 0x11 => (decImm r).map .shlIu
  | 0x12 => (decBin r).map .shr
  | 0x13 => (decImm r).map .shrIu
  | 0x14 => (decBin r).map .sar
  | 0x15 => (decImm r).map .sarIu
  | 0x16 => (decBin r).map .rol
  | 0x17 => (decImm r).map .rolIu
  | 0x18 => (decTri r).map .dshl
  | 0x19 => (decTri r).map .dshr
  | 0x1A => (decBin r).map .and
  | 0x1B => (decImm r).map .andIu
  | 0x1C => (decBin r).map .or
  | 0x1D => (decImm r).map .orIu
  | 0x1E => (decBin r).map .xor
  | 0x1F => (decImm r).map .xorIu
  | 0x20 => (decBin r).map .andn
  | 0x21 => (decLgc r).map .lgc3
  | 0x22 => (decUn r).map .popc
  | 0x23 => (decUn r).map .clz
  | 0x24 => (decUn r).map .brev
  | 0x25 => (decBin r).map .bfx
  | 0x26 => (decBin r).map .bfxS
  | 0x27 => (decTri r).map .bfi
  | 0x28 => (decTri r).map .bperm
  | 0x29 => (decBinP r).map .sel
  | 0x2A => (decUn r).map .mov
  | 0x2B => (decConst r).map .movi
  | 0x2C => (decImm r).map .movhi
  | 0x2D => (decCmp r).map .icmpEq
  | 0x2E => (decCmp r).map .icmpLt
  | 0x2F => (decCmp r).map .icmpLe
  | 0x30 => (decCmp r).map .icmpLtU
  | 0x31 => (decCmp r).map .icmpLeU
  | 0x32 => (decBin r).map .iadd64
  | 0x33 => (decBin r).map .isub64
  | 0x34 => (decBin r).map .shl64
  | 0x35 => (decBin r).map .shr64
  | 0x36 => (decBin r).map .sar64
  | 0x37 => (decTri r).map .lea
  | 0x38 => (decRnd r).map .faddF64
  | 0x39 => (decRnd r).map .faddF32
  | 0x3A => (decRnd r).map .faddF16x2
  | 0x3B => (decRnd r).map .faddBf16x2
  | 0x3C => (decRnd r).map .fsubF64
  | 0x3D => (decRnd r).map .fsubF32
  | 0x3E => (decRnd r).map .fsubF16x2
  | 0x3F => (decRnd r).map .fsubBf16x2
  | 0x40 => (decRnd r).map .fmulF64
  | 0x41 => (decRnd r).map .fmulF32
  | 0x42 => (decRnd r).map .fmulF16x2
  | 0x43 => (decRnd r).map .fmulBf16x2
  | 0x44 => (decTri r).map .ffmaF64
  | 0x45 => (decTri r).map .ffmaF32
  | 0x46 => (decTri r).map .ffmaF16x2
  | 0x47 => (decTri r).map .ffmaBf16x2
  | 0x48 => (decBin r).map .fminF64
  | 0x49 => (decBin r).map .fminF32
  | 0x4A => (decBin r).map .fminF16x2
  | 0x4B => (decBin r).map .fminBf16x2
  | 0x4C => (decBin r).map .fmaxF64
  | 0x4D => (decBin r).map .fmaxF32
  | 0x4E => (decBin r).map .fmaxF16x2
  | 0x4F => (decBin r).map .fmaxBf16x2
  | 0x50 => (decUn r).map .fabsF64
  | 0x51 => (decUn r).map .fabsF32
  | 0x52 => (decUn r).map .fabsX2
  | 0x53 => (decUn r).map .fnegF64
  | 0x54 => (decUn r).map .fnegF32
  | 0x55 => (decUn r).map .fnegX2
  | 0x56 => (decCmp r).map .fcmpEqF64
  | 0x57 => (decCmp r).map .fcmpLtF64
  | 0x58 => (decCmp r).map .fcmpLeF64
  | 0x59 => (decCmp r).map .fcmpEqF32
  | 0x5A => (decCmp r).map .fcmpLtF32
  | 0x5B => (decCmp r).map .fcmpLeF32
  | 0x5C => (decCmp r).map .fclassF64
  | 0x5D => (decCmp r).map .fclassF32
  | 0x5E => (decBinLa r).map fun x => .fdivF64 x.1 x.2
  | 0x5F => (decUnLa r).map fun x => .fsqrtF64 x.1 x.2
  | 0x60 => (decBinLa r).map fun x => .fdivF32 x.1 x.2
  | 0x61 => (decUnLa r).map fun x => .fsqrtF32 x.1 x.2
  | 0x62 => (decUnLa r).map fun x => .frcp x.1 x.2
  | 0x63 => (decUnLa r).map fun x => .frsq x.1 x.2
  | 0x64 => (decUnLa r).map fun x => .fexp2 x.1 x.2
  | 0x65 => (decUnLa r).map fun x => .flog2 x.1 x.2
  | 0x66 => (decUnLa r).map fun x => .fsin x.1 x.2
  | 0x67 => (decUnLa r).map fun x => .fcos x.1 x.2
  | 0x68 => decFcvt r
  | 0x69 => (decCvt r).map .i2f
  | 0x6A => (decCvt r).map .f2i
  | 0x6B => (decCvt r).map .frnd
  | 0x6C => (decCvt2 r).map .fscale
  | 0x6D => (decCvt2 r).map .fpack
  | 0x6E => (decTri r).map .fdot2F16x2
  | 0x6F => (decTri r).map .fdot2Bf16x2
  | 0x70 => (decVote r).map .voteAll
  | 0x71 => (decVote r).map .voteAny
  | 0x72 => (decBallot r).map .voteBal
  | 0x73 => (decUn r).map .eqmask
  | 0x74 => (decUni r).map .equni
  | 0x75 => (decUn r).map .eqmask64
  | 0x76 => (decUni r).map .equni64
  | 0x77 => (decReduce r).map .reduce
  | 0x78 => (decScan r).map .scanInc
  | 0x79 => (decScan r).map .scanExc
  | 0x7A => (decMask r).map .lanemask
  | 0x7B => (decBallot r).map .ppopc
  | 0x7C => (decPred r).map .pand
  | 0x7D => (decPred r).map .por
  | 0x7E => (decPred r).map .pxor
  | 0x7F => (decPred1 r).map .pmov
  | 0x80 => (decFirst r).map .firstlane
  | 0x90 => (decLoad r).map .ldv
  | 0x91 => (decStore r).map .stv
  | 0x92 => (decLoad r).map .lds
  | 0x93 => (decStore r).map .sts
  | 0x94 => (decPrefetch r).map .prefetch
  | 0x95 => (decAtom r).map .atom
  | 0x96 => (decAtom r).map .red
  | 0x97 => (decAtom r).map .atoms
  | 0x98 => (decCasw r).map .casw
  | 0x99 => (decEnq r).map .enq
  | 0x9A => (decChld r).map .chld
  | 0x9B => (decStc r).map .stc
  | 0x9C => (decFence r).map .fence
  | 0x9D => (decAcp r).map .acp
  | 0x9E => (decCtr r).map .cinc
  | 0x9F => (decCtr r).map .cdec
  | 0xA0 => (decCtr r).map .cwait
  | 0xA1 => (decRead r).map .cread
  | 0xA2 => (decBar r).map .binit
  | 0xA3 => (decArrive r).map .barrive
  | 0xA4 => (decBar r).map .bwait
  | 0xA5 => (decGrow r).map .grow
  | 0xA6 => (decShrink r).map .shrink
  | 0xB0 => (decGang r).map .gang
  | 0xB1 => (decMrdy r).map .mrdy
  | 0xB2 => (decMma r).map .mma
  | 0xB3 => (decGuard r).map .mwait
  | 0xB4 => (decAccOpen r).map .accopen
  | 0xB5 => (decAccClose r).map .accclose
  | 0xB6 => (decTcopy r).map .tcopy
  | 0xB7 => (decLaunch r).map .glaunch
  | 0xB8 => (decTLaunch r).map .tlaunch
  | 0xB9 => (decLaunch r).map .cresv
  | 0xBA => (decGang r).map .crel
  | 0xC0 => (decGuard r).map .nop
  | 0xC1 => (decBranch r).map .bra
  | 0xC2 => (decIndirect r).map .brx
  | 0xC3 => (decCall r).map .call
  | 0xC4 => (decUn r).map .callx
  | 0xC5 => (decIndirect r).map .ret
  | 0xC6 => (decGuard r).map .exit
  | 0xC7 => (decGuard r).map .yield
  | 0xC8 => (decBpt r).map .bpt
  | 0xC9 => (decSvc r).map .svc
  | _ => none

/-- The U-form opcodes 0xD0 to 0xEF. -/
def decodeU (r : RawU) : Option Instr :=
  match r.op.toNat with
  | 0xD0 => (decUBin r).map .sadd
  | 0xD1 => (decUImm r).map .saddIs
  | 0xD2 => (decUBin r).map .ssub
  | 0xD3 => (decUBin r).map .smul
  | 0xD4 => (decUBin r).map .smad
  | 0xD5 => (decUBin r).map .sand
  | 0xD6 => (decUImm r).map .sandIu
  | 0xD7 => (decUBin r).map .sor
  | 0xD8 => (decUImm r).map .sorIu
  | 0xD9 => (decUBin r).map .sxor
  | 0xDA => (decUImm r).map .sxorIu
  | 0xDB => (decUBin r).map .sshl
  | 0xDC => (decUImm r).map .sshlIu
  | 0xDD => (decUBin r).map .sshr
  | 0xDE => (decUImm r).map .sshrIu
  | 0xDF => (decUBin r).map .ssar
  | 0xE0 => (decUImm r).map .ssarIu
  | 0xE1 => (decUConst r).map .smovi
  | 0xE2 => (decUImm r).map .smovhi
  | 0xE3 => (decUCmp r).map .scmpEq
  | 0xE4 => (decUCmp r).map .scmpLt
  | 0xE5 => (decUCmp r).map .scmpLe
  | 0xE6 => (decUCmp r).map .scmpLtU
  | 0xE7 => (decUCmp r).map .scmpLeU
  | 0xE8 => (decUSel r).map .ssel
  | 0xE9 => (decUBranch r).map .sbra
  | 0xEA => (decULoad r).map .sld
  | 0xEB => (decUStore r).map .sst
  | 0xEC => decSread r
  | 0xED => (decUPeer r).map .speer
  | _ => none

/-- The layout a word's top byte selects (R125). -/
def decodeRaw (w : BitVec 64) : Option Instr :=
  if (w.extractLsb' 56 8).toNat < 0xD0 then decodeW (RawW.ofBits w)
  else if (w.extractLsb' 56 8).toNat < 0xF0 then decodeU (RawU.ofBits w)
  else decH w

/-- The instruction a word is, or none where the word is illegal (R125): its layout is decoded, then the checks of
`Instr.wf` are made. -/
def decode (w : BitVec 64) : Option Instr :=
  match decodeRaw w with
  | some i => if i.wf then some i else none
  | none => none

/-! ### The encoder, from the same tables -/

def VSrc.k (x : VSrc) : BitVec 3 := x.route.kind
def VSrc.n (x : VSrc) : BitVec 5 := x.route.amount

def encUn (op : BitVec 8) (la : BitVec 4) (w : WUn) : RawW := ⟨op, w.guard, la, w.d, w.a.reg, w.a.k, w.a.n, 0#23⟩

def encBin (op : BitVec 8) (la : BitVec 4) (w : WBin) : RawW :=
  ⟨op, w.guard, la, w.d, w.a.reg, w.a.k, w.a.n, (RawBXC.mk w.b.reg 0#7 w.b.k w.b.n 0#1).toBits⟩

/-- Route X goes to the routed one of B and C. -/
def encTri (op : BitVec 8) (w : WTri) : RawW :=
  let x : RawBXC :=
    if w.c.routed then ⟨w.b.reg, w.c.reg, w.c.k, w.c.n, 1#1⟩ else ⟨w.b.reg, w.c.reg, w.b.k, w.b.n, 0#1⟩
  ⟨op, w.guard, 0#4, w.d, w.a.reg, w.a.k, w.a.n, x.toBits⟩

def encBinP (op : BitVec 8) (w : WBinP) : RawW :=
  ⟨op, w.guard, 0#4, w.d, w.a.reg, w.a.k, w.a.n, (RawBXC.mk w.b.reg w.p w.b.k w.b.n 0#1).toBits⟩

def encImm (op : BitVec 8) (w : WImm) : RawW := ⟨op, w.guard, 0#4, w.d, w.a.reg, w.a.k, w.a.n, w.imm⟩

def encConst (op : BitVec 8) (w : WConst) : RawW := ⟨op, w.guard, 0#4, w.d, 0#7, 0#3, 0#5, w.imm⟩

def encLgc (op : BitVec 8) (w : WLgc) : RawW :=
  ⟨op, w.guard, 0#4, w.d, w.a.reg, w.a.k, w.a.n, w.b ++ w.c ++ w.tt ++ 0#1⟩

def encCmp (op : BitVec 8) (w : WCmp) : RawW :=
  ⟨op, w.guard, 0#4, w.pd, w.a.reg, w.a.k, w.a.n, (RawBXC.mk w.b.reg w.pc w.b.k w.b.n 0#1).toBits⟩

def encRnd (op : BitVec 8) (w : WRnd) : RawW :=
  ⟨op, w.guard, 0#4, w.d, w.a.reg, w.a.k, w.a.n, (RawBXC.mk w.b.reg (0#4 ++ w.rnd.code) w.b.k w.b.n 0#1).toBits⟩

def encCvt2 (op : BitVec 8) (w : WCvt2) : RawW :=
  ⟨op, w.guard, 0#4, w.d, w.a.reg, w.a.k, w.a.n, w.b ++ w.tgt.code ++ w.src.code ++ w.mode.code ++ 0#5⟩

def encCvt (op : BitVec 8) (w : WCvt) : RawW := encCvt2 op ⟨w.guard, w.d, w.a, 0#7, w.tgt, w.src, w.mode⟩

def encSeed (op : BitVec 8) (w : WSeed) : RawW := ⟨op, w.guard, 0#4, 0#7, w.a.reg, w.a.k, w.a.n, 0xC0#23⟩

def encVote (op : BitVec 8) (w : WVote) : RawW := ⟨op, w.guard, 0#4, 0#3 ++ w.q, w.p, 0#3, 0#5, 0#23⟩

def encBallot (op : BitVec 8) (w : WBallot) : RawW :=
  ⟨op, w.guard, 0#4, w.s.extractLsb' 0 7, w.p, 0#3, 0#5, 0#12 ++ w.s.extractLsb' 7 2 ++ 0#9⟩

def encFirst (op : BitVec 8) (w : WFirst) : RawW := encBallot op ⟨w.guard, w.s, 0#7⟩

def encUni (op : BitVec 8) (w : WUni) : RawW := ⟨op, w.guard, 0#4, 0#3 ++ w.q, w.a.reg, w.a.k, w.a.n, 0#23⟩

def encReduce (op : BitVec 8) (w : WReduce) : RawW :=
  ⟨op, w.guard, 0#4, w.s.extractLsb' 0 7, w.a.reg, w.a.k, w.a.n, 0#7 ++ w.op.code ++ w.s.extractLsb' 7 2 ++ 0#9⟩

def encScan (op : BitVec 8) (w : WScan) : RawW :=
  ⟨op, w.guard, 0#4, w.d, w.a.reg, w.a.k, w.a.n, 0#7 ++ w.op.code ++ 0#11⟩

def encMask (op : BitVec 8) (w : WMask) : RawW := ⟨op, w.guard, 0#4, w.d, 0#7, 0#3, 0#5, 0#20 ++ w.sel.code⟩

def encPred (op : BitVec 8) (w : WPred) : RawW := ⟨op, w.guard, 0#4, w.pd, w.pa, 0#3, 0#5, w.pb ++ w.pc ++ 0#9⟩

def encPred1 (op : BitVec 8) (w : WPred1) : RawW := encPred op ⟨w.guard, w.pd, w.pc, w.pa, 0#7⟩

def encBranch (op : BitVec 8) (w : WBranch) : RawW := ⟨op, w.guard, 0#4, 0#7, 0#7, 0#3, 0#5, w.imm⟩

def encIndirect (op : BitVec 8) (w : WIndirect) : RawW := ⟨op, w.guard, 0#4, 0#7, w.a.reg, w.a.k, w.a.n, 0#23⟩

def encCall (op : BitVec 8) (w : WCall) : RawW := ⟨op, w.guard, 0#4, w.d, 0#7, 0#3, 0#5, w.imm⟩

def encGuard (op : BitVec 8) (w : EGuard) : RawW := ⟨op, w.guard, 0#4, 0#7, 0#7, 0#3, 0#5, 0#23⟩

def encBpt (op : BitVec 8) (w : WBpt) : RawW := ⟨op, w.guard, 0#4, 0#7, 0#7, 0#3, 0#5, 0#7 ++ w.code⟩

def encSvc (op : BitVec 8) (w : WSvc) : RawW := ⟨op, w.guard, 0#4, w.d, w.a, 0#3, 0#5, 0#23⟩

/-- A word of the memory layout. -/
def encMem (op : BitVec 8) (guard : BitVec 7) (la : BitVec 4) (d : BitVec 7) (m : MAddr) (e : BitVec 7) (ctl : BitVec 10) :
    RawW :=
  ⟨op, guard, la, d, m.x.reg, m.x.k, m.x.n, (RawMem.mk m.s (bitOf m.wide) e ctl).toBits⟩

def encLoad (op : BitVec 8) (m : MLoad) : RawW :=
  encMem op m.guard m.la m.d m.addr (0#6 ++ bitOf m.sx)
    (RawCtl.mk m.size.code m.acc.kindCode m.acc.scopeCode (bitOf m.split)).toBits

def encStore (op : BitVec 8) (m : MStore) : RawW :=
  encMem op m.guard 0#4 m.d m.addr 0#7 (RawCtl.mk m.size.code m.acc.kindCode m.acc.scopeCode 0#1).toBits

def encPrefetch (op : BitVec 8) (m : MPrefetch) : RawW :=
  encMem op m.guard 0#4 0#7 m.addr (0#6 ++ bitOf m.llc) 0#10

def encAtom (op : BitVec 8) (m : MAtom) : RawW :=
  encMem op m.guard m.la m.d m.addr m.e (RawACtl.mk m.op.code (bitOf m.wide8) m.kind.code2 m.scope.code).toBits

def encCasw (op : BitVec 8) (m : MCasw) : RawW :=
  encMem op m.guard m.la m.d m.addr m.e (RawACtl.mk 0#4 (bitOf m.wide32) m.kind.code2 m.scope.code).toBits

def encEnq (op : BitVec 8) (m : MEnq) : RawW :=
  encMem op m.guard m.la m.d m.addr m.e (RawACtl.mk m.link 0#1 m.kind.code2 m.scope.code).toBits

def encChld (op : BitVec 8) (m : MChld) : RawW :=
  encMem op m.guard m.la m.d m.addr m.e (RawCtl.mk 0#3 m.kind.code m.scope.code 0#1).toBits

def encStc (op : BitVec 8) (m : MStc) : RawW :=
  encMem op m.guard 0#4 m.d m.addr m.e (RawCtl.mk m.size.code m.kind.code m.scope.code 0#1).toBits

def encAcp (op : BitVec 8) (m : MAcp) : RawW :=
  encMem op m.guard m.la m.d m.addr m.e
    (RawCtl.mk m.size.code (bitOf m.toGlobal ++ bitOf m.sp ++ 0#1) m.scope.code 0#1).toBits

/-- A word of the group-level layout. -/
def encGrp (op : BitVec 8) (guard : BitVec 7) (la : BitVec 4) (d a e : BitVec 7) (ctl : BitVec 10) : RawW :=
  ⟨op, guard, la, d, a, 0#3, 0#5, (RawMem.mk 0#5 0#1 e ctl).toBits⟩

def encFence (op : BitVec 8) (g : GFence) : RawW :=
  encGrp op g.guard 0#4 0#7 0#7 0#7 (0#6 ++ g.scope.code ++ 0#1)

def encCtr (op : BitVec 8) (g : GCtr) : RawW :=
  encGrp op g.guard 0#4 0#7 g.a g.e (RawCtl.mk (bitOf g.sp ++ 0#2) g.kind.code g.scope.code 0#1).toBits

def encRead (op : BitVec 8) (g : GRead) : RawW :=
  encGrp op g.guard g.la g.d g.a 0#7 (RawCtl.mk (bitOf g.sp ++ 0#2) g.kind.code g.scope.code 0#1).toBits

def encBar (op : BitVec 8) (g : GBar) : RawW := encGrp op g.guard 0#4 0#7 g.a g.e 0#10

def encArrive (op : BitVec 8) (g : GArrive) : RawW := encGrp op g.guard 0#4 g.d g.a 0#7 0#10

def encGrow (op : BitVec 8) (g : GGrow) : RawW := encGrp op g.guard 0#4 (0#3 ++ g.q) 0#7 0#7 (0#7 ++ g.n3)

def encShrink (op : BitVec 8) (g : GShrink) : RawW := encGrp op g.guard 0#4 0#7 0#7 0#7 (0#7 ++ g.n3)

def encGang (op : BitVec 8) (e : EGang) : RawE := ⟨op, e.guard, 0#4, 0#7, e.a, 0#7, 0#7, 0#17⟩

def encMrdy (op : BitVec 8) (e : EMrdy) : RawE := ⟨op, e.guard, 0#4, 0#7, e.a, 0#7, 0#7, 0#17⟩

def encMma (op : BitVec 8) (e : EMma) : RawE :=
  ⟨op, e.guard, e.la, 0#7, e.a, e.b, e.c, 0#12 ++ bitOf e.reuse ++ bitOf e.free ++ e.fmt.code⟩

def encAccOpen (op : BitVec 8) (e : EAccOpen) : RawE :=
  ⟨op, e.guard, e.la, e.d, e.a, e.b, e.c,
   0#7 ++ e.gsize ++ bitOf e.z ++ bitOf e.free ++ e.fmt.code ++ e.scope.code⟩

def encAccClose (op : BitVec 8) (e : EAccClose) : RawE := ⟨op, e.guard, e.la, e.d, e.a, 0#7, 0#7, 0#17⟩

def encTcopy (op : BitVec 8) (e : ETcopy) : RawE :=
  ⟨op, e.guard, e.la, 0#7, e.a, 0#7, e.c, 0#13 ++ bitOf e.sp ++ e.scope.code⟩

def encLaunch (op : BitVec 8) (e : ELaunch) : RawE := ⟨op, e.guard, e.la, e.d, e.a, 0#7, 0#7, 0#17⟩

def encTLaunch (op : BitVec 8) (e : ETLaunch) : RawE :=
  ⟨op, e.guard, e.la, e.d, e.a, e.b, 0#7, 0#14 ++ e.scope.code⟩

def encUBin (op : BitVec 8) (u : UBin) : RawU := ⟨op, u.q, bitOf u.neg, 0#4, u.d, u.a, u.b, 0#20⟩
def encUImm (op : BitVec 8) (u : UImm) : RawU := ⟨op, u.q, bitOf u.neg, 0#4, u.d, u.a, 0#9, u.imm⟩
def encUConst (op : BitVec 8) (u : UConst) : RawU := ⟨op, u.q, bitOf u.neg, 0#4, u.d, 0#9, 0#9, u.imm⟩

def encUCmp (op : BitVec 8) (u : UCmp) : RawU :=
  ⟨op, u.q, bitOf u.neg, 0#4, 0#1 ++ u.qc ++ u.qd, u.a, u.b, 0#20⟩

def encUSel (op : BitVec 8) (u : USel) : RawU := ⟨op, u.q, bitOf u.neg, 0#4, u.d, u.a, u.b, 0#16 ++ u.qc⟩
def encUBranch (op : BitVec 8) (u : UBranch) : RawU := ⟨op, u.q, bitOf u.neg, 0#4, 0#9, 0#9, 0#9, u.imm⟩

def encULoad (op : BitVec 8) (u : ULoad) : RawU :=
  ⟨op, u.q, bitOf u.neg, u.la, u.d, u.a, 0#9,
   u.size.code ++ u.acc.kindCode ++ u.acc.scopeCode ++ bitOf u.sx ++ bitOf u.sp ++ u.disp⟩

def encUStore (op : BitVec 8) (u : UStore) : RawU :=
  ⟨op, u.q, bitOf u.neg, 0#4, u.d, u.a, 0#9,
   u.size.code ++ u.acc.kindCode ++ u.acc.scopeCode ++ 0#1 ++ bitOf u.sp ++ u.disp⟩

def encURead (op : BitVec 8) (u : URead) : RawU := ⟨op, u.q, bitOf u.neg, 0#4, u.d, 0#9, 0#9, 0#12 ++ u.sel⟩
def encUReadW (op : BitVec 8) (u : UReadW) : RawU := ⟨op, u.q, bitOf u.neg, 0#4, u.d, u.a, 0#9, 1#1 ++ 0#11 ++ u.sel⟩
def encUPeer (op : BitVec 8) (u : UPeer) : RawU := ⟨op, u.q, bitOf u.neg, 0#4, u.d, u.a, u.b, u.imm⟩

def encHalf (h : Half) : BitVec 30 :=
  (RawHalf.mk h.op.code h.guard h.d h.b.reg (h.b.k.extractLsb' 0 2) h.b.n).toBits

def encH (x y : Half) : BitVec 64 := 0xF#4 ++ encHalf x ++ encHalf y

/-- The word of an instruction; the events of the table have none. -/
def encode : Instr → Option (BitVec 64)
  | .iadd w => some (encBin 0x00#8 0#4 w).toBits
  | .iaddIs w => some (encImm 0x01#8 w).toBits
  | .isub w => some (encBin 0x02#8 0#4 w).toBits
  | .iaddc w => some (encBinP 0x03#8 w).toBits
  | .imulLo w => some (encBin 0x04#8 0#4 w).toBits
  | .imulHi w => some (encBin 0x05#8 0#4 w).toBits
  | .imulHiU w => some (encBin 0x06#8 0#4 w).toBits
  | .imad w => some (encTri 0x07#8 w).toBits
  | .imadw w => some (encTri 0x08#8 w).toBits
  | .imadwU w => some (encTri 0x09#8 w).toBits
  | .imin w => some (encBin 0x0A#8 0#4 w).toBits
  | .iminU w => some (encBin 0x0B#8 0#4 w).toBits
  | .imax w => some (encBin 0x0C#8 0#4 w).toBits
  | .imaxU w => some (encBin 0x0D#8 0#4 w).toBits
  | .iabs w => some (encUn 0x0E#8 0#4 w).toBits
  | .ineg w => some (encUn 0x0F#8 0#4 w).toBits
  | .shl w => some (encBin 0x10#8 0#4 w).toBits
  | .shlIu w => some (encImm 0x11#8 w).toBits
  | .shr w => some (encBin 0x12#8 0#4 w).toBits
  | .shrIu w => some (encImm 0x13#8 w).toBits
  | .sar w => some (encBin 0x14#8 0#4 w).toBits
  | .sarIu w => some (encImm 0x15#8 w).toBits
  | .rol w => some (encBin 0x16#8 0#4 w).toBits
  | .rolIu w => some (encImm 0x17#8 w).toBits
  | .dshl w => some (encTri 0x18#8 w).toBits
  | .dshr w => some (encTri 0x19#8 w).toBits
  | .and w => some (encBin 0x1A#8 0#4 w).toBits
  | .andIu w => some (encImm 0x1B#8 w).toBits
  | .or w => some (encBin 0x1C#8 0#4 w).toBits
  | .orIu w => some (encImm 0x1D#8 w).toBits
  | .xor w => some (encBin 0x1E#8 0#4 w).toBits
  | .xorIu w => some (encImm 0x1F#8 w).toBits
  | .andn w => some (encBin 0x20#8 0#4 w).toBits
  | .lgc3 w => some (encLgc 0x21#8 w).toBits
  | .popc w => some (encUn 0x22#8 0#4 w).toBits
  | .clz w => some (encUn 0x23#8 0#4 w).toBits
  | .brev w => some (encUn 0x24#8 0#4 w).toBits
  | .bfx w => some (encBin 0x25#8 0#4 w).toBits
  | .bfxS w => some (encBin 0x26#8 0#4 w).toBits
  | .bfi w => some (encTri 0x27#8 w).toBits
  | .bperm w => some (encTri 0x28#8 w).toBits
  | .sel w => some (encBinP 0x29#8 w).toBits
  | .mov w => some (encUn 0x2A#8 0#4 w).toBits
  | .movi w => some (encConst 0x2B#8 w).toBits
  | .movhi w => some (encImm 0x2C#8 w).toBits
  | .icmpEq w => some (encCmp 0x2D#8 w).toBits
  | .icmpLt w => some (encCmp 0x2E#8 w).toBits
  | .icmpLe w => some (encCmp 0x2F#8 w).toBits
  | .icmpLtU w => some (encCmp 0x30#8 w).toBits
  | .icmpLeU w => some (encCmp 0x31#8 w).toBits
  | .iadd64 w => some (encBin 0x32#8 0#4 w).toBits
  | .isub64 w => some (encBin 0x33#8 0#4 w).toBits
  | .shl64 w => some (encBin 0x34#8 0#4 w).toBits
  | .shr64 w => some (encBin 0x35#8 0#4 w).toBits
  | .sar64 w => some (encBin 0x36#8 0#4 w).toBits
  | .lea w => some (encTri 0x37#8 w).toBits
  | .faddF64 w => some (encRnd 0x38#8 w).toBits
  | .faddF32 w => some (encRnd 0x39#8 w).toBits
  | .faddF16x2 w => some (encRnd 0x3A#8 w).toBits
  | .faddBf16x2 w => some (encRnd 0x3B#8 w).toBits
  | .fsubF64 w => some (encRnd 0x3C#8 w).toBits
  | .fsubF32 w => some (encRnd 0x3D#8 w).toBits
  | .fsubF16x2 w => some (encRnd 0x3E#8 w).toBits
  | .fsubBf16x2 w => some (encRnd 0x3F#8 w).toBits
  | .fmulF64 w => some (encRnd 0x40#8 w).toBits
  | .fmulF32 w => some (encRnd 0x41#8 w).toBits
  | .fmulF16x2 w => some (encRnd 0x42#8 w).toBits
  | .fmulBf16x2 w => some (encRnd 0x43#8 w).toBits
  | .ffmaF64 w => some (encTri 0x44#8 w).toBits
  | .ffmaF32 w => some (encTri 0x45#8 w).toBits
  | .ffmaF16x2 w => some (encTri 0x46#8 w).toBits
  | .ffmaBf16x2 w => some (encTri 0x47#8 w).toBits
  | .fminF64 w => some (encBin 0x48#8 0#4 w).toBits
  | .fminF32 w => some (encBin 0x49#8 0#4 w).toBits
  | .fminF16x2 w => some (encBin 0x4A#8 0#4 w).toBits
  | .fminBf16x2 w => some (encBin 0x4B#8 0#4 w).toBits
  | .fmaxF64 w => some (encBin 0x4C#8 0#4 w).toBits
  | .fmaxF32 w => some (encBin 0x4D#8 0#4 w).toBits
  | .fmaxF16x2 w => some (encBin 0x4E#8 0#4 w).toBits
  | .fmaxBf16x2 w => some (encBin 0x4F#8 0#4 w).toBits
  | .fabsF64 w => some (encUn 0x50#8 0#4 w).toBits
  | .fabsF32 w => some (encUn 0x51#8 0#4 w).toBits
  | .fabsX2 w => some (encUn 0x52#8 0#4 w).toBits
  | .fnegF64 w => some (encUn 0x53#8 0#4 w).toBits
  | .fnegF32 w => some (encUn 0x54#8 0#4 w).toBits
  | .fnegX2 w => some (encUn 0x55#8 0#4 w).toBits
  | .fcmpEqF64 w => some (encCmp 0x56#8 w).toBits
  | .fcmpLtF64 w => some (encCmp 0x57#8 w).toBits
  | .fcmpLeF64 w => some (encCmp 0x58#8 w).toBits
  | .fcmpEqF32 w => some (encCmp 0x59#8 w).toBits
  | .fcmpLtF32 w => some (encCmp 0x5A#8 w).toBits
  | .fcmpLeF32 w => some (encCmp 0x5B#8 w).toBits
  | .fclassF64 w => some (encCmp 0x5C#8 w).toBits
  | .fclassF32 w => some (encCmp 0x5D#8 w).toBits
  | .fdivF64 w la => some (encBin 0x5E#8 la w).toBits
  | .fsqrtF64 w la => some (encUn 0x5F#8 la w).toBits
  | .fdivF32 w la => some (encBin 0x60#8 la w).toBits
  | .fsqrtF32 w la => some (encUn 0x61#8 la w).toBits
  | .frcp w la => some (encUn 0x62#8 la w).toBits
  | .frsq w la => some (encUn 0x63#8 la w).toBits
  | .fexp2 w la => some (encUn 0x64#8 la w).toBits
  | .flog2 w la => some (encUn 0x65#8 la w).toBits
  | .fsin w la => some (encUn 0x66#8 la w).toBits
  | .fcos w la => some (encUn 0x67#8 la w).toBits
  | .fcvt w => some (encCvt 0x68#8 w).toBits
  | .fcvtSeed w => some (encSeed 0x68#8 w).toBits
  | .i2f w => some (encCvt 0x69#8 w).toBits
  | .f2i w => some (encCvt 0x6A#8 w).toBits
  | .frnd w => some (encCvt 0x6B#8 w).toBits
  | .fscale w => some (encCvt2 0x6C#8 w).toBits
  | .fpack w => some (encCvt2 0x6D#8 w).toBits
  | .fdot2F16x2 w => some (encTri 0x6E#8 w).toBits
  | .fdot2Bf16x2 w => some (encTri 0x6F#8 w).toBits
  | .voteAll w => some (encVote 0x70#8 w).toBits
  | .voteAny w => some (encVote 0x71#8 w).toBits
  | .voteBal w => some (encBallot 0x72#8 w).toBits
  | .eqmask w => some (encUn 0x73#8 0#4 w).toBits
  | .equni w => some (encUni 0x74#8 w).toBits
  | .eqmask64 w => some (encUn 0x75#8 0#4 w).toBits
  | .equni64 w => some (encUni 0x76#8 w).toBits
  | .reduce w => some (encReduce 0x77#8 w).toBits
  | .scanInc w => some (encScan 0x78#8 w).toBits
  | .scanExc w => some (encScan 0x79#8 w).toBits
  | .lanemask w => some (encMask 0x7A#8 w).toBits
  | .ppopc w => some (encBallot 0x7B#8 w).toBits
  | .pand w => some (encPred 0x7C#8 w).toBits
  | .por w => some (encPred 0x7D#8 w).toBits
  | .pxor w => some (encPred 0x7E#8 w).toBits
  | .pmov w => some (encPred1 0x7F#8 w).toBits
  | .firstlane w => some (encFirst 0x80#8 w).toBits
  | .ldv w => some (encLoad 0x90#8 w).toBits
  | .stv w => some (encStore 0x91#8 w).toBits
  | .lds w => some (encLoad 0x92#8 w).toBits
  | .sts w => some (encStore 0x93#8 w).toBits
  | .prefetch w => some (encPrefetch 0x94#8 w).toBits
  | .atom w => some (encAtom 0x95#8 w).toBits
  | .red w => some (encAtom 0x96#8 w).toBits
  | .atoms w => some (encAtom 0x97#8 w).toBits
  | .casw w => some (encCasw 0x98#8 w).toBits
  | .enq w => some (encEnq 0x99#8 w).toBits
  | .chld w => some (encChld 0x9A#8 w).toBits
  | .stc w => some (encStc 0x9B#8 w).toBits
  | .fence w => some (encFence 0x9C#8 w).toBits
  | .acp w => some (encAcp 0x9D#8 w).toBits
  | .cinc w => some (encCtr 0x9E#8 w).toBits
  | .cdec w => some (encCtr 0x9F#8 w).toBits
  | .cwait w => some (encCtr 0xA0#8 w).toBits
  | .cread w => some (encRead 0xA1#8 w).toBits
  | .binit w => some (encBar 0xA2#8 w).toBits
  | .barrive w => some (encArrive 0xA3#8 w).toBits
  | .bwait w => some (encBar 0xA4#8 w).toBits
  | .grow w => some (encGrow 0xA5#8 w).toBits
  | .shrink w => some (encShrink 0xA6#8 w).toBits
  | .gang w => some (encGang 0xB0#8 w).toBits
  | .mrdy w => some (encMrdy 0xB1#8 w).toBits
  | .mma w => some (encMma 0xB2#8 w).toBits
  | .mwait w => some (encGuard 0xB3#8 w).toBits
  | .accopen w => some (encAccOpen 0xB4#8 w).toBits
  | .accclose w => some (encAccClose 0xB5#8 w).toBits
  | .tcopy w => some (encTcopy 0xB6#8 w).toBits
  | .glaunch w => some (encLaunch 0xB7#8 w).toBits
  | .tlaunch w => some (encTLaunch 0xB8#8 w).toBits
  | .cresv w => some (encLaunch 0xB9#8 w).toBits
  | .crel w => some (encGang 0xBA#8 w).toBits
  | .nop w => some (encGuard 0xC0#8 w).toBits
  | .bra w => some (encBranch 0xC1#8 w).toBits
  | .brx w => some (encIndirect 0xC2#8 w).toBits
  | .call w => some (encCall 0xC3#8 w).toBits
  | .callx w => some (encUn 0xC4#8 0#4 w).toBits
  | .ret w => some (encIndirect 0xC5#8 w).toBits
  | .exit w => some (encGuard 0xC6#8 w).toBits
  | .yield w => some (encGuard 0xC7#8 w).toBits
  | .bpt w => some (encBpt 0xC8#8 w).toBits
  | .svc w => some (encSvc 0xC9#8 w).toBits
  | .sadd w => some (encUBin 0xD0#8 w).toBits
  | .saddIs w => some (encUImm 0xD1#8 w).toBits
  | .ssub w => some (encUBin 0xD2#8 w).toBits
  | .smul w => some (encUBin 0xD3#8 w).toBits
  | .smad w => some (encUBin 0xD4#8 w).toBits
  | .sand w => some (encUBin 0xD5#8 w).toBits
  | .sandIu w => some (encUImm 0xD6#8 w).toBits
  | .sor w => some (encUBin 0xD7#8 w).toBits
  | .sorIu w => some (encUImm 0xD8#8 w).toBits
  | .sxor w => some (encUBin 0xD9#8 w).toBits
  | .sxorIu w => some (encUImm 0xDA#8 w).toBits
  | .sshl w => some (encUBin 0xDB#8 w).toBits
  | .sshlIu w => some (encUImm 0xDC#8 w).toBits
  | .sshr w => some (encUBin 0xDD#8 w).toBits
  | .sshrIu w => some (encUImm 0xDE#8 w).toBits
  | .ssar w => some (encUBin 0xDF#8 w).toBits
  | .ssarIu w => some (encUImm 0xE0#8 w).toBits
  | .smovi w => some (encUConst 0xE1#8 w).toBits
  | .smovhi w => some (encUImm 0xE2#8 w).toBits
  | .scmpEq w => some (encUCmp 0xE3#8 w).toBits
  | .scmpLt w => some (encUCmp 0xE4#8 w).toBits
  | .scmpLe w => some (encUCmp 0xE5#8 w).toBits
  | .scmpLtU w => some (encUCmp 0xE6#8 w).toBits
  | .scmpLeU w => some (encUCmp 0xE7#8 w).toBits
  | .ssel w => some (encUSel 0xE8#8 w).toBits
  | .sbra w => some (encUBranch 0xE9#8 w).toBits
  | .sld w => some (encULoad 0xEA#8 w).toBits
  | .sst w => some (encUStore 0xEB#8 w).toBits
  | .sread w => some (encURead 0xEC#8 w).toBits
  | .sreadW w => some (encUReadW 0xEC#8 w).toBits
  | .speer w => some (encUPeer 0xED#8 w).toBits
  | .hWord x y => some (encH x y)
  | .privilegedRegisterWrite .. | .ctxctlSuspend .. | .ctxctlResume .. | .ctxctlTerminate .. | .ctxctlFlush ..
  | .ctxctlInvalidCommand .. | .splitDataReturn .. | .longLatencyComplete .. | .faultTaken .. | .faultQueueRoom ..
  | .faultMergeEntry .. | .heldFaultDelivery .. | .operandLogReplay .. | .starvationTrap .. | .groupRetire ..
  | .registrationAck .. | .fenceComplete .. | .cwaitWake .. | .bwaitWake .. | .growGrant .. | .growDeadlockFail ..
  | .shrinkRelease .. | .enginePlaceFree .. | .mmaLatchEvent .. | .mmaContributionSend ..
  | .tileContributionArrival .. | .engineResend .. | .tileTimeout .. | .tcopyStart .. | .tcopyComplete ..
  | .tcopyWalkFault .. | .acpComplete .. | .stcLanding .. | .teamPlacement .. | .preemption .. | .teamSave ..
  | .teamResume .. | .hostLaunch .. | .hostRead .. | .hostWrite .. | .hostAtomic .. | .hostRegisterRead ..
  | .hostRegisterWrite .. | .tcqTailAdvance | .inval | .resolve | .finalCmd | .moveCmd | .moveCopyTimeout | .thaw
  | .carve | .tcqInvalidCommand | .movedRetry .. | .genkey | .retire | .keyInvalidCommand | .cellDeadCommand
  | .cellLiveCommand | .cellInvalidCommand | .recallTimeout .. | .rd .. | .wr .. | .atomPacket .. | .step ..
  | .stcPacket .. | .coh .. | .cohack .. | .resp .. | .retry .. | .retryResend .. | .ack .. | .notice ..
  | .abort .. | .abortack .. | .mgmt .. | .hostPacket .. | .requestTimerResend .. | .requestTimeout ..
  | .abortTimeout .. | .ucieModuleRetire .. | .fabricLaneSpare .. | .linkAuthFailure .. | .scrubRowPass ..
  | .rowRemapSwitch .. | .coreSpareSwap .. | .sliceSpareSwap .. | .sramRowSpare .. | .attestationRequest ..
  | .packageReset | .thermalThrottle | .thermalShutdown | .recoveryComplete .. | .flitCrcReplay .. => none

/-! ### The table's numbering -/

/-- The instruction the decoder reads from an instruction whose bits are `w`, numbered as spec/opcode_table.json numbers
them: one 64-bit word whose bits at and above `nbits` are 0. Little-endian storage (R7, R125) puts the table's bit `k`
at bit `k` of the word. -/
def decodeTableWord (nbits w : Nat) : Option Instr := decode (BitVec.ofNat 64 (w % 2 ^ nbits))

end Sys2Proof
end

