-- ==== Sys2Proof/Machine/Operands.lean ====
section
/-! DEFINITION. Operand forms: guards, routed reads, register pairs, scalar and predicate reads, register writes, and
which registers a word names (01 R24; 02 R40-R45; 05 R127, R133-R136; 08 R217). They act on the issuing group alone. -/

namespace Sys2Proof

/-- The scalar register of kind 5: s(field + 128 × bank) (R133). -/
def sregOf (field : BitVec 7) (bank : BitVec 2) : Fin 512 :=
  ⟨field.toNat + 128 * bank.toNat, by have := field.isLt; have := bank.isLt; omega⟩

/-! ### Which registers a word names (R41, R135, R369) -/

/-- A register read: a routed source of one or two registers, a run of own registers, or a run of scalar registers. -/
inductive Rd where
  | v (x : VSrc) (count : Nat)
  | run (r : BitVec 7) (count : Nat)
  | s (r : Nat) (count : Nat)
deriving DecidableEq, Repr

/-- The scalar register kind 5 names. -/
def VSrc.sreg (x : VSrc) : Option Nat :=
  match x.route with
  | .scalar bank _ => some (sregOf x.reg bank).val
  | _ => none

/-- The reads of an address operand. -/
def MAddr.reads (m : MAddr) : List Rd :=
  .v m.x (if m.wide then 2 else 1) :: (if m.s = 0#5 then [] else [.s m.s.toNat 1])

/-- Registers of a type. -/
def FType.regs (t : FType) : Nat := if t.is64 then 2 else 1

/-- Registers a size takes (R219). -/
def Size.regs : Size → Nat
  | .b1 | .b2 | .b4 => 1
  | .b8 => 2
  | .b16 => 4

/-- Bytes of a size. -/
def Size.bytes : Size → Nat
  | .b1 => 1 | .b2 => 2 | .b4 => 4 | .b8 => 8 | .b16 => 16

/-- Vector registers a slot of an H-word reads (R140). -/
def Half.reads (h : Half) : List Rd :=
  (if h.op.readsD then [.run h.d 1] else []) ++ (if h.op.readsB then [.v h.b 1] else [])

/-- The registers a word reads, in the order of its operands. Scalar registers of a CHLD record are added at issue. -/
def Instr.reads : Instr → List Rd
  | .iadd w | .isub w | .imulLo w | .imulHi w | .imulHiU w | .imin w | .iminU w | .imax w | .imaxU w | .shl w | .shr w
  | .sar w | .rol w | .and w | .or w | .xor w | .andn w | .bfx w | .bfxS w | .fminF32 w | .fminF16x2 w | .fminBf16x2 w
  | .fmaxF32 w | .fmaxF16x2 w | .fmaxBf16x2 w | .fdivF32 w _ => [.v w.a 1, .v w.b 1]
  | .iadd64 w | .isub64 w | .fminF64 w | .fmaxF64 w | .fdivF64 w _ => [.v w.a 2, .v w.b 2]
  | .shl64 w | .shr64 w | .sar64 w => [.v w.a 2, .v w.b 1]
  | .iaddIs w | .shlIu w | .shrIu w | .sarIu w | .rolIu w | .andIu w | .orIu w | .xorIu w | .movhi w => [.v w.a 1]
  | .iabs w | .ineg w | .popc w | .clz w | .brev w | .mov w | .fabsF32 w | .fabsX2 w | .fnegF32 w | .fnegX2 w
  | .eqmask w | .callx w | .fsqrtF32 w _ | .frcp w _ | .frsq w _ | .fexp2 w _ | .flog2 w _ | .fsin w _
  | .fcos w _ => [.v w.a 1]
  | .fabsF64 w | .fnegF64 w | .eqmask64 w | .fsqrtF64 w _ => [.v w.a 2]
  | .imad w | .dshl w | .dshr w | .bfi w | .bperm w | .ffmaF32 w | .ffmaF16x2 w | .ffmaBf16x2 w | .fdot2F16x2 w
  | .fdot2Bf16x2 w => [.v w.a 1, .v w.b 1, .v w.c 1]
  | .imadw w | .imadwU w => [.v w.a 1, .v w.b 1, .v w.c 2]
  | .lea w => [.v w.a 2, .v w.b 1, .v w.c 1]
  | .ffmaF64 w => [.v w.a 2, .v w.b 2, .v w.c 2]
  | .iaddc w | .sel w => [.v w.a 1, .v w.b 1]
  | .lgc3 w => [.v w.a 1, .run w.b 1, .run w.c 1]
  | .icmpEq w | .icmpLt w | .icmpLe w | .icmpLtU w | .icmpLeU w | .fcmpEqF32 w | .fcmpLtF32 w | .fcmpLeF32 w
  | .fclassF32 w => [.v w.a 1, .v w.b 1]
  | .fcmpEqF64 w | .fcmpLtF64 w | .fcmpLeF64 w => [.v w.a 2, .v w.b 2]
  | .fclassF64 w => [.v w.a 2, .v w.b 1]
  | .faddF32 w | .faddF16x2 w | .faddBf16x2 w | .fsubF32 w | .fsubF16x2 w | .fsubBf16x2 w | .fmulF32 w | .fmulF16x2 w
  | .fmulBf16x2 w => [.v w.a 1, .v w.b 1]
  | .faddF64 w | .fsubF64 w | .fmulF64 w => [.v w.a 2, .v w.b 2]
  | .fcvt w | .i2f w | .f2i w | .frnd w => [.v w.a w.src.regs]
  | .fcvtSeed w => [.v w.a 1]
  | .fscale w => [.v w.a w.src.regs, .run w.b 1]
  | .fpack w =>
    [.v w.a w.src.regs, .run w.b w.src.regs] ++ (if w.tgt = .e4m3 ∨ w.tgt = .e5m2 then [.run w.d 1] else [])
  | .equni w => [.v w.a 1]
  | .equni64 w => [.v w.a 2]
  | .reduce w => [.v w.a (if w.op.is64 then 2 else 1)]
  | .scanInc w | .scanExc w => [.v w.a (if w.op.is64 then 2 else 1)]
  | .brx w | .ret w => [.v w.a 1]
  | .svc w => [.run w.a 16]
  | .ldv m | .lds m => m.addr.reads
  | .stv m | .sts m => m.addr.reads ++ [.run m.d m.size.regs]
  | .prefetch m => m.addr.reads
  | .atom m | .red m | .atoms m => m.addr.reads ++ [.run m.e (if m.wide8 then 2 else 1)]
  | .casw m => m.addr.reads ++ [.run m.e (if m.wide32 then 16 else 8)]
  | .enq m => m.addr.reads ++ [.run m.e 2]
  | .chld m => m.addr.reads ++ [.s m.e.toNat 1]
  | .stc m => m.addr.reads ++ [.run m.d m.size.regs, .s m.e.toNat 1]
  | .acp m => m.addr.reads ++ [.run m.d 1, .s m.e.toNat 1]
  | .cinc g | .cdec g | .cwait g => [.s g.a.toNat 1, .s g.e.toNat 1]
  | .cread g => [.s g.a.toNat 1]
  | .binit g | .bwait g => [.s g.a.toNat 1, .s g.e.toNat 1]
  | .barrive g => [.s g.a.toNat 1]
  | .gang e | .crel e => [.s e.a.toNat 1]
  | .mma e => [.s e.b.toNat 1, .s e.c.toNat (if e.fmt = .f8e4 ∨ e.fmt = .f8e5 then 3 else 2)]
  | .accopen e => [.s e.a.toNat 1, .s e.b.toNat 1, .s e.c.toNat 1]
  | .accclose e => [.s e.a.toNat 1]
  | .tcopy e => [.s e.a.toNat 1, .s e.c.toNat 1]
  | .glaunch e | .cresv e => [.s e.a.toNat 1]
  | .tlaunch e => [.s e.a.toNat 1, .s e.b.toNat 1]
  | .hWord x y => x.reads ++ y.reads
  | .sadd u | .ssub u | .smul u | .sand u | .sor u | .sxor u | .sshl u | .sshr u | .ssar u =>
    [.s u.a.toNat 1, .s u.b.toNat 1]
  | .smad u => [.s u.d.toNat 1, .s u.a.toNat 1, .s u.b.toNat 1]
  | .saddIs u | .sandIu u | .sorIu u | .sxorIu u | .sshlIu u | .sshrIu u | .ssarIu u | .smovhi u => [.s u.a.toNat 1]
  | .scmpEq u | .scmpLt u | .scmpLe u | .scmpLtU u | .scmpLeU u => [.s u.a.toNat 1, .s u.b.toNat 1]
  | .ssel u => [.s u.a.toNat 1, .s u.b.toNat 1]
  | .sld u => [.s u.a.toNat 1]
  | .sst u => [.s u.a.toNat 1, .s u.d.toNat 1]
  | .sreadW u => [.s u.a.toNat 1]
  | .speer u => [.s u.a.toNat 1, .s u.b.toNat 2]
  | _ => []

/-- The vector registers a word writes, as first register and count. CHLD's count follows its record (R230). -/
def Instr.writesV : Instr → List (BitVec 7 × Nat)
  | .iadd w | .isub w | .imulLo w | .imulHi w | .imulHiU w | .imin w | .iminU w | .imax w | .imaxU w | .shl w | .shr w
  | .sar w | .rol w | .and w | .or w | .xor w | .andn w | .bfx w | .bfxS w | .fminF32 w | .fminF16x2 w | .fminBf16x2 w
  | .fmaxF32 w | .fmaxF16x2 w | .fmaxBf16x2 w | .fdivF32 w _ => [(w.d, 1)]
  | .iadd64 w | .isub64 w | .fminF64 w | .fmaxF64 w | .fdivF64 w _ | .shl64 w | .shr64 w | .sar64 w => [(w.d, 2)]
  | .iaddIs w | .shlIu w | .shrIu w | .sarIu w | .rolIu w | .andIu w | .orIu w | .xorIu w | .movhi w => [(w.d, 1)]
  | .movi w => [(w.d, 1)]
  | .iabs w | .ineg w | .popc w | .clz w | .brev w | .mov w | .fabsF32 w | .fabsX2 w | .fnegF32 w | .fnegX2 w
  | .eqmask w | .eqmask64 w | .callx w | .fsqrtF32 w _ | .frcp w _ | .frsq w _ | .fexp2 w _ | .flog2 w _ | .fsin w _
  | .fcos w _ => [(w.d, 1)]
  | .fabsF64 w | .fnegF64 w | .fsqrtF64 w _ => [(w.d, 2)]
  | .imad w | .dshl w | .dshr w | .bfi w | .bperm w | .ffmaF32 w | .ffmaF16x2 w | .ffmaBf16x2 w | .fdot2F16x2 w
  | .fdot2Bf16x2 w => [(w.d, 1)]
  | .imadw w | .imadwU w | .lea w | .ffmaF64 w => [(w.d, 2)]
  | .iaddc w | .sel w => [(w.d, 1)]
  | .lgc3 w => [(w.d, 1)]
  | .faddF32 w | .faddF16x2 w | .faddBf16x2 w | .fsubF32 w | .fsubF16x2 w | .fsubBf16x2 w | .fmulF32 w | .fmulF16x2 w
  | .fmulBf16x2 w => [(w.d, 1)]
  | .faddF64 w | .fsubF64 w | .fmulF64 w => [(w.d, 2)]
  | .fcvt w | .i2f w | .f2i w | .frnd w => [(w.d, w.tgt.regs)]
  | .fscale w => [(w.d, w.tgt.regs)]
  | .fpack w => [(w.d, 1)]
  | .scanInc w | .scanExc w => [(w.d, if w.op.is64 then 2 else 1)]
  | .lanemask w => [(w.d, 1)]
  | .call w => [(w.d, 1)]
  | .svc w => [(w.d, 1)]
  | .ldv m | .lds m => [(m.d, m.size.regs)]
  | .atom m | .atoms m => [(m.d, if m.wide8 then 2 else 1)]
  | .casw m => [(m.d, if m.wide32 then 8 else 4)]
  | .enq m => [(m.d, 2)]
  | .chld m => [(m.d, 1)]
  | .hWord x y => (if x.op = .nop then [] else [(x.d, 1)]) ++ (if y.op = .nop then [] else [(y.d, 1)])
  | .sread u => if vectorSel u.sel then [(u.d.extractLsb' 0 7, 1)] else []
  | _ => []

/-- The scalar registers a word writes. -/
def Instr.writesS : Instr → List Nat
  | .voteBal w | .ppopc w => [w.s.toNat]
  | .firstlane w => [w.s.toNat]
  | .reduce w => [w.s.toNat]
  | .cread g => [g.d.toNat]
  | .barrive g => [g.d.toNat]
  | .accopen e => [e.d.toNat]
  | .accclose e => [e.d.toNat]
  | .glaunch e | .cresv e => [e.d.toNat]
  | .tlaunch e => [e.d.toNat]
  | .sadd u | .ssub u | .smul u | .smad u | .sand u | .sor u | .sxor u | .sshl u | .sshr u | .ssar u => [u.d.toNat]
  | .saddIs u | .sandIu u | .sorIu u | .sxorIu u | .sshlIu u | .sshrIu u | .ssarIu u | .smovhi u => [u.d.toNat]
  | .smovi u => [u.d.toNat]
  | .ssel u => [u.d.toNat]
  | .sld u => [u.d.toNat]
  | .sread u => if vectorSel u.sel then [] else [u.d.toNat]
  | .sreadW u => [u.d.toNat]
  | .speer u => [u.d.toNat]
  | _ => []

/-- The vector registers a read names, as first and count; kind 4 adds its index register (R41, R134). -/
def Rd.names : Rd → List (Nat × Nat)
  | .v x k =>
    match x.route with
    | .scalar .. => []
    | .idx n => [(x.reg.toNat, k), (96 + n.toNat, 1)]
    | _ => [(x.reg.toNat, k)]
  | .run r k => [(r.toNat, k)]
  | .s .. => []

/-- The scalar registers a read names. -/
def Rd.sregs : Rd → List Nat
  | .v x _ => (x.sreg).toList
  | .run .. => []
  | .s r k => (List.range k).map fun j => r + j

/-- The scalar registers a word reads. -/
def Instr.readsS (i : Instr) : List Nat := i.reads.flatMap Rd.sregs

end Sys2Proof

namespace Sys2Proof.Machine

/-! ### Register numbers -/

/-- A vector or predicate register number. -/
def reg7 (r : BitVec 7) : Fin 128 := ⟨r.toNat, r.isLt⟩

/-- The register `k` above `r`. -/
def regUp (r : BitVec 7) (k : Nat) : Fin 128 := ⟨(r.toNat + k) % 128, Nat.mod_lt _ (by decide)⟩

/-- A scalar register number. -/
def reg9 (r : BitVec 9) : Fin 512 := ⟨r.toNat, r.isLt⟩

/-- The scalar register of a 7-bit field. -/
def sreg7 (r : BitVec 7) : Fin 512 := ⟨r.toNat, Nat.lt_of_lt_of_le r.isLt (by decide)⟩

/-! ### Reads -/

/-- A vector register of one lane. -/
def Group.vr (g : Group) (r : Fin 128) (i : Fin 32) : W32 := (g.v[r.val])[i.val]

/-- The pair named by `r` (R43): `r` holds bits [31:0]. -/
def Group.vpair (g : Group) (r : BitVec 7) (i : Fin 32) : W64 := g.vr (regUp r 1) i ++ g.vr (reg7 r) i

/-- A scalar register. -/
def Group.sr64 (g : Group) (r : Fin 512) : W64 := g.s[r.val]

/-- A predicate's lane mask; p0 reads true (R44). -/
def Group.pred (g : Group) (r : BitVec 7) : Mask := if r = 0#7 then BitVec.allOnes 32 else g.p[(reg7 r).val]

/-- A scalar predicate; q0 reads true (R44). -/
def Group.qp (g : Group) (q : BitVec 4) : Bool := q == 0#4 || g.q.getLsbD q.toNat

/-- The lane a route selects (R133). -/
def Group.routeLane (g : Group) (r : Route) (i : Fin 32) : Fin 32 :=
  match r with
  | .own | .scalar .. => i
  | .rot n => ⟨(i.val + n.toNat) % 32, Nat.mod_lt _ (by decide)⟩
  | .bcast n => ⟨n.toNat, n.isLt⟩
  | .bfly n => ⟨(BitVec.ofNat 5 i.val ^^^ n).toNat, BitVec.isLt _⟩
  | .idx n => ⟨(g.vr ⟨96 + n.toNat, by have := n.isLt; omega⟩ i).toNat % 32, Nat.mod_lt _ (by decide)⟩

/-- A 32-bit source (R133): another lane's register, or a half of a scalar register. -/
def Group.src (g : Group) (x : VSrc) (i : Fin 32) : W32 :=
  match x.route with
  | .scalar bank hi =>
    let v := g.sr64 (sregOf x.reg bank)
    if hi then v.extractLsb' 32 32 else v.extractLsb' 0 32
  | r => g.vr (reg7 x.reg) (g.routeLane r i)

/-- A 64-bit source: the whole pair of the selected lane, or a whole scalar register (R43, R133). -/
def Group.src64 (g : Group) (x : VSrc) (i : Fin 32) : W64 :=
  match x.route with
  | .scalar bank _ => g.sr64 (sregOf x.reg bank)
  | r => g.vpair x.reg (g.routeLane r i)

/-- The effective address of a lane (R217). -/
def Group.ea (g : Group) (m : MAddr) (i : Fin 32) : W64 :=
  let base := if m.s = 0#5 then 0#64 else g.sr64 (sreg7 (m.s.zeroExtend 7))
  let off := if m.wide then g.src64 m.x i else (g.src m.x i).signExtend 64
  base + off

/-! ### Writes -/

/-- Notes a write to a vector register while an MMA of the group awaits its latch event (R249). -/
def Group.noted (g : Group) (m : Mask) (r : Nat) : Option (List Nat) :=
  g.watch.map fun l => if m = 0#32 then l else insertNat r l

/-- Writes a vector register in the lanes of a mask. -/
def Group.setV (g : Group) (m : Mask) (r : Fin 128) (f : Fin 32 → W32) : Group :=
  { g with
    v := g.v.set r.val (laneUpd (g.v[r.val]) m f)
    watch := g.noted m r.val
    vbad := g.vbad.filter fun b => !(b.1 == r.val && m.getLsbD b.2) }

/-- Writes a pair in the lanes of a mask. -/
def Group.setPair (g : Group) (m : Mask) (r : BitVec 7) (f : Fin 32 → W64) : Group :=
  (g.setV m (reg7 r) fun i => (f i).extractLsb' 0 32).setV m (regUp r 1) fun i => (f i).extractLsb' 32 32

/-- Writes a predicate in the lanes of a mask; p0 discards (R44). -/
def Group.setP (g : Group) (m : Mask) (r : BitVec 7) (val : Mask) : Group :=
  if r = 0#7 then g else { g with p := g.p.set (reg7 r).val ((g.p[(reg7 r).val] &&& ~~~m) ||| (val &&& m)) }

/-- Writes a scalar register. -/
def Group.setS (g : Group) (r : Fin 512) (x : W64) : Group :=
  { g with s := g.s.set r.val x, sbad := g.sbad.filter fun b => b.1 != r.val }

/-- Writes a scalar predicate; q0 discards (R44). -/
def Group.setQ (g : Group) (q : BitVec 4) (b : Bool) : Group :=
  if q = 0#4 then g
  else { g with q := if b then g.q ||| (1#16 <<< q.toNat) else g.q &&& ~~~(1#16 <<< q.toNat) }

/-- Adds 1 to the LPC of the lanes of a mask (R17, R19). -/
def Group.advance (g : Group) (m : Mask) : Group := { g with lpc := laneUpd g.lpc m fun i => g.lpc[i] + 1#32 }

/-- Sets the LPC of the lanes of a mask. -/
def Group.jump (g : Group) (m : Mask) (f : Fin 32 → W32) : Group := { g with lpc := laneUpd g.lpc m f }

/-- Sets the state of the lanes of a mask. -/
def Group.setLane (g : Group) (m : Mask) (st : LaneState) : Group := { g with lane := laneUpd g.lane m fun _ => st }

/-! ### Lane sets and the issue key (R16-R18) -/

/-- The lanes in a state. -/
def Group.inState (g : Group) (st : LaneState) : Mask := maskOf fun i => g.lane[i] == st

def Group.runnable (g : Group) : Mask := g.inState .runnable
def Group.exited (g : Group) : Mask := g.inState .exited

/-- The greatest DEP among lanes. -/
def Group.maxDep (g : Group) (ls : List (Fin 32)) : BitVec 8 :=
  ls.foldl (fun d i => if d.toNat < (g.dep[i]).toNat then g.dep[i] else d) 0#8

/-- The lowest LPC among lanes. -/
def Group.minLpc (g : Group) (ls : List (Fin 32)) : W32 :=
  ls.foldl (fun l i => if (g.lpc[i]).toNat < l.toNat then g.lpc[i] else l) (BitVec.allOnes 32)

/-- select_key of R18. -/
def Group.selectKey (g : Group) : Option Key :=
  let fresh := lanesOf (g.runnable &&& ~~~g.yielded)
  let cand := if fresh.isEmpty then lanesOf g.runnable else fresh
  if cand.isEmpty then none
  else
    let d := g.maxDep cand
    some ⟨d, g.minLpc (cand.filter fun i => g.dep[i] == d)⟩

/-- The lanes that issue at a key: every runnable lane there (R17, R18). -/
def Group.atKey (g : Group) (k : Key) : Mask :=
  maskOf fun i => g.lane[i] == .runnable && g.dep[i] == k.dep && g.lpc[i] == k.lpc

/-- Every vector register the word names lies below the allocation (R41); MMA and MRDY name sixteen from A. -/
def Group.inAlloc (g : Group) (i : Instr) : Bool :=
  let extra : List (Nat × Nat) :=
    match i with
    | .mma e => [(e.a.toNat, 16)]
    | .mrdy e => [(e.a.toNat, 16)]
    | _ => []
  ((i.reads.flatMap Rd.names) ++ (i.writesV.map fun w => (w.1.toNat, w.2)) ++ extra).all fun r => r.1 + r.2 ≤ g.n

/-! ### Registers with an uncorrectable error (R369) -/

/-- The first bad register a read of lane `i` meets, as DETAIL[15:6] names it: n for vn, 256 + n for sn. -/
def Group.badRead (g : Group) (i : Fin 32) : Rd → Option Nat
  | .v x k =>
    match x.route with
    | .scalar bank hi =>
      let r := (sregOf x.reg bank).val
      if g.sbad.any (fun b => b.1 == r && (k == 2 || b.2 == (if hi then 1 else 0))) then some (256 + r) else none
    | r =>
      let j := (g.routeLane r i).val
      let idx : Option Nat :=
        match r with
        | .idx n => if g.vbad.contains (96 + n.toNat, i.val) then some (96 + n.toNat) else none
        | _ => none
      idx.orElse fun _ => ((List.range k).map (x.reg.toNat + ·)).find? fun n => g.vbad.contains (n, j)
  | .run r k => ((List.range k).map (r.toNat + ·)).find? fun n => g.vbad.contains (n, i.val)
  | .s r k => (((List.range k).map (r + ·)).find? fun n => g.sbad.any fun b => b.1 == n).map (256 + ·)

/-- The first bad register lane `i` meets in a list of reads. -/
def Group.badReads (g : Group) (rs : List Rd) (i : Fin 32) : Option Nat := rs.findSome? fun r => g.badRead i r

/-- No register of the group is bad: the common case. -/
def Group.clean (g : Group) : Bool := g.vbad.isEmpty && g.sbad.isEmpty

/-- The lanes of a mask that read a bad register. -/
def Group.badLanes (g : Group) (i : Instr) (m : Mask) : Mask :=
  if g.clean then 0#32 else m &&& maskOf fun l => (g.badReads i.reads l).isSome

end Sys2Proof.Machine
end

