-- ==== Sys2Proof/Machine/Flags.lean ====
section
/-! DEFINITION. FPCTL (02 R46, R47): rounding mode, sticky flags, and how an instruction's lanes contribute to them. -/

namespace Sys2Proof.Machine

/-- FPCTL.RM (R46). -/
def rmOf (fpctl : W32) : RMode :=
  match (fpctl.extractLsb' 8 2).toNat with
  | 0 => .rne
  | 1 => .rtz
  | 2 => .rdn
  | _ => .rup

/-- The mode of a rounding selector (R131): FPCTL.RM unless the word writes one. -/
def rndMode (r : RndSel) (fpctl : W32) : RMode :=
  match r with
  | .fpctl => rmOf fpctl
  | .rne => .rne
  | .rtz => .rtz
  | .rdn => .rdn
  | .rup => .rup

/-- Sets flags, which stay until FPCTL is written (R46). -/
def Group.raise (g : Group) (f : Flags) : Group := { g with fpctl := g.fpctl ||| f.zeroExtend 32 }

/-- A written FPCTL keeps its reserved bits zero (R11, R46). -/
def fpctlWritten (x : W64) : W32 := x.extractLsb' 0 32 &&& 0x31F#32

/-- The union of the flags the active lanes raise (R188). -/
def flagsOf (m : Mask) (f : Fin 32 → Flags) : Flags := (lanesOf m).foldl (fun a i => a ||| f i) 0#5

end Sys2Proof.Machine
end

