-- ==== Sys2Proof/Machine/Access.lean ====
section
/-! DEFINITION. Memory as the package holds it: the address map, homes, keys, poison, firewall, cells, the L1 words and
posted stores of a core, lines of other packages, the directory, requests to other homes, and reads and writes at a home
(02 R57, R58; 04 R87-R99, R120-R123; 16 R350-R364; 17 R373). -/

namespace Sys2Proof.Machine

/-! ### The address map (R4, R57, R88) -/

def lineOf (pa : Nat) : Nat := pa / 128 * 128
def wordOf (pa : Nat) : Nat := pa / 4
def pkgOf (pa : Nat) : Nat := pa / 2 ^ 41
def localOf (pa : Nat) : Nat := pa % 2 ^ 41

/-- The address lies in this package. -/
def State.here (s : State) (pa : Nat) : Bool := pkgOf pa == s.pkg

def isHbm (pa : Nat) : Bool := decide (localOf pa < 2 ^ 39)

/-- The die whose carve-out window holds the address. -/
def carveDie (pa : Nat) : Option (Fin 4) :=
  let a := localOf pa
  if 2 ^ 40 ≤ a ∧ a < 2 ^ 40 + 4 * 2 ^ 27 then some (Fin.ofNat 4 ((a - 2 ^ 40) / 2 ^ 27)) else none

/-- The local part lies in a reserved range (R57), or beyond the configured carve-out of its window. -/
def State.reservedPa (s : State) (pa : Nat) : Bool :=
  if isHbm pa then false
  else
    match carveDie pa with
    | none => true
    | some d => s.here pa && decide (s.carve[d] * 2 ^ 23 ≤ (localOf pa - 2 ^ 40) % 2 ^ 27)

/-- Home die (R88). -/
def homeDie (pa : Nat) : Nat :=
  match carveDie pa with
  | some d => d.val
  | none => bitsAt (localOf pa) 36 3 / 2

/-- Home slice on its die (R88). -/
def homeSlice (pa : Nat) : Nat := bitsAt (localOf pa) 7 6 ^^^ bitsAt (localOf pa) 13 6

/-- The line stands in a slice (R88). -/
def inSlice (die slice line : Nat) : Bool := homeDie line == die && homeSlice line == slice

/-- The home that performs HOU operations on a line: the HOU of an HBM line, numbered 0-15, or the slice of a carve-out
line, numbered from 16 (R88). -/
def homeUnit (pa : Nat) : Nat :=
  if isHbm pa then 2 * bitsAt (localOf pa) 36 3 + bitsAt (localOf pa) 7 1 else 16 + 64 * homeDie pa + homeSlice pa

def dieOfCore (core : Nat) : Nat := core / 48

/-! ### Free values -/

/-- A free value of this step: part `k` (log 5). -/
def State.freeW (s : State) (k : Nat) : W64 := Config.free s.fresh k

/-! ### Keys (R373, R374) -/

/-- The generation of a key id: how many times GENKEY (or a carve-out change) has renewed it. -/
def State.genOf (s : State) (key : Nat) : Nat := lookupD s.keyGen key 0

/-- The byte as decrypted with key `key`: the stored byte when its line was written under the same key and generation. A
line nothing has written stands under generation 0. -/
def State.byteUnder (s : State) (key pa : Nat) : Byte :=
  let tag := (s.tags.find? fun t => t.1 = lineOf pa).map fun t => (t.2.1, t.2.2)
  let now := (key, s.genOf key)
  if tag.getD (key, 0) = now then s.mem.get pa else Config.wrongKey pa key now.2

/-- A byte that the key of another byte is found with: a carve-out byte reads as its window's contents stand (R58, R347), any
other as memory stores it (log 32). -/
def State.rawByte (s : State) (pa : Nat) : Byte :=
  match carveDie pa with
  | some d => s.byteUnder (1024 + d.val) pa
  | none => s.mem.get pa

/-- A little-endian number of `n` bytes that the key of a byte is found with. -/
def State.rdRaw (s : State) (pa n : Nat) : Nat := ofBytes ((List.range n).map fun k => s.rawByte (pa + k))

/-- The fabric control block (R358). -/
def State.fcb (s : State) : Nat := s.ctxtab.toNat + 0x5_0000

/-- A context descriptor (R297). -/
def State.desc (s : State) (ctx : BitVec 10) : Nat := s.ctxtab.toNat + 256 * ctx.toNat

/-- The descriptor of a context as last read, while teams of the context are resident (R297). -/
def State.descHeld (s : State) (ctx : BitVec 10) : Option (List Byte) :=
  if s.teams.any fun t => t.ctx == ctx then (s.descs.find? fun d => d.1 = ctx).map (·.2) else none

/-- The save region (R330): the highest bytes of local HBM. -/
def State.regionBase (s : State) : Nat := s.pkg * 2 ^ 41 + (2 ^ 39 - s.policy.saveBytes)

def State.inRegion (s : State) (pa : Nat) : Bool :=
  decide (s.regionBase ≤ pa) && decide (pa < s.regionBase + s.policy.saveBytes)

/-- 4 KiB units of a save area of `g` groups and `w` rows. -/
def areaUnits (g w : Nat) : Nat := (4096 + 65536 * g + 1536 * w + 4095) / 4096

/-- The context whose team has its save area at an address. The header unit, which serves every context, has no key (log 69). -/
def State.areaCtx (s : State) (pa : Nat) : Option (BitVec 10) :=
  let inArea (a units : Nat) : Bool := decide (a ≤ pa) && decide (pa < a + 4096 * units)
  match s.saved.find? fun v => inArea v.area v.units with
  | some v => some v.ctx
  | none =>
    ((s.t :: s.teams).find? fun t =>
      match t.area with
      | none => false
      | some a => !t.header && inArea a (areaUnits t.groupCount t.rows)).map (·.ctx)

/-- The key id of a context (R298). -/
def State.ctxKey (s : State) (ctx : BitVec 10) : Nat :=
  (match s.descHeld ctx with
   | some bs => ofBytes ((bs.drop 8).take 2)
   | none => s.rdRaw (s.desc ctx + 8) 2) % 1024

/-- The key under which a byte is stored: the key id of its granule, or `none` where the key map has no valid entry; in the
save region, which lies outside the map, the key of the area's context (R330); a carve-out byte stands under the pseudo-key of
its die, whose generation counts the window's changes (R58, R347). -/
def State.keyOf (s : State) (pa : Nat) : Option Nat :=
  match carveDie pa with
  | some d => some (1024 + d.val)
  | none =>
    if s.inRegion pa then (s.areaCtx pa).map s.ctxKey
    else
      let map := s.rdRaw (s.fcb + 72) 8
      let e := s.rdRaw (map + 2 * bitsAt (localOf pa) 16 23) 2
      if e.testBit 15 then some (e % 1024) else none

/-- A line this home may touch: homed here, present, and with a valid key (R57, R373), or in the save region, outside the key
map (R330). -/
def State.homed (s : State) (pa : Nat) : Bool := s.here pa && !s.reservedPa pa && (s.inRegion pa || (s.keyOf pa).isSome)

/-! ### Tiles in memory (R117, R253) -/

/-- The open tile that holds a line. -/
def State.tileAt (s : State) (pa : Nat) : Option Tile := s.tiles.find? fun t => t.frames.contains (lineOf pa)

/-! ### The value at the home -/

/-- A byte of a frame whose contents are unpredictable, and which nothing has written since (R123, R264). -/
def State.hazeByte (s : State) (pa : Nat) : Option Byte :=
  (s.hazes.find? fun h => h.frames.contains (pa / 4096) && !h.written.contains pa).map fun h =>
    (Config.free h.stamp (2000000 + pa)).extractLsb' 0 8

/-- The byte that stands in memory, under the key of its granule now. -/
def State.heldByte (s : State) (pa : Nat) : Byte :=
  if s.here pa then
    match s.keyOf pa with
    | some k => s.byteUnder k pa
    | none => s.mem.get pa
  else s.mem.get pa

/-- The byte a read at the home gives: a line of an open tile reads unpredictable (R117). -/
def State.homeByte (s : State) (pa : Nat) : Byte :=
  if (s.tileAt pa).isSome then (s.freeW pa).extractLsb' 0 8
  else if let some b := s.hazeByte pa then b
  else s.heldByte pa

def State.homeBytes (s : State) (pa n : Nat) : List Byte := (List.range n).map fun k => s.homeByte (pa + k)

/-! ### The hardware's own reads of its tables -/

/-- Bytes as the hardware reads them. Where no line is tagged, no key renewed and no byte unpredictable they are the stored
ones. -/
def State.hwBytes (s : State) (pa n : Nat) : List Byte :=
  if s.tags.isEmpty && s.keyGen.isEmpty && s.hazes.isEmpty && s.tiles.isEmpty then s.mem.getList pa n else s.homeBytes pa n

/-- A little-endian number of `n` bytes. -/
def State.rd (s : State) (pa n : Nat) : Nat := ofBytes (s.hwBytes pa n)

/-- A field of a context's descriptor (R297, R298). -/
def State.descField (s : State) (ctx : BitVec 10) (off n : Nat) : Nat :=
  match s.descHeld ctx with
  | some bs => ofBytes ((bs.drop off).take n)
  | none => s.rd (s.desc ctx + off) n

/-- The hardware reads a descriptor: when it places a team, delivers a trap or a call, or executes a CTXCTL command (R297). -/
def State.readDesc (s : State) (ctx : BitVec 10) : State :=
  { s with descs := (ctx, s.hwBytes (s.desc ctx) 80) :: s.descs.filter fun d => d.1 ≠ ctx }

def State.ownCell (s : State) : Nat := s.rd s.fcb 4 % 2 ^ 21

def State.poisoned (s : State) (pa : Nat) : Bool := s.poison.contains (lineOf pa)

/-- Before a line is written under a new key, its other bytes become what the new key reads (R123). -/
def State.retag (s : State) (pa : Nat) : State :=
  if s.here pa then
    match s.keyOf pa with
    | none => s
    | some k =>
      let line := lineOf pa
      let tag := (s.tags.find? fun t => t.1 = line).map fun t => (t.2.1, t.2.2)
      if tag.getD (k, 0) = (k, s.genOf k) then
        { s with tags := if tag.isSome then s.tags else (line, k, s.genOf k) :: s.tags }
      else
        { s with
          mem := s.mem.putList line ((List.range 128).map fun j => s.byteUnder k (line + j))
          tags := (line, k, s.genOf k) :: s.tags.filter fun t => t.1 ≠ line }
  else s

/-- Drops the L1 words a write at the home leaves stale: every registered word of another core and, of core `own`, the
copy too, so that the writer's core reads its own write (R96, R99); where the writer is no core (a home, a slice, an
engine's counter), every copy, so that a read at any scope that follows the write sees it (R105, R113). -/
def State.dropWords (s : State) (own : Option Nat) (ws : List Nat) : State :=
  { s with l1 := s.l1.filter fun w => !(ws.contains w.word && (w.reg || own.isNone || some w.core == own)) }

/-- Writes bytes at the home: memory, key tag, L1 registrations, and what an open tile marks as touched (R117). A write of
CELLCMD brings a new command (R363). -/
def State.homeWrite (s : State) (own : Option Nat) (cells : List Host.Cell) : State :=
  let ls := (cells.map fun c => lineOf c.1).dedup
  let s := ls.foldl (fun s l => s.retag l) s
  let s := s.dropWords own ((cells.map fun c => wordOf c.1).dedup)
  { s with
    mem := s.mem.putCells cells
    cellTaken := s.cellTaken && !(cells.any fun c => decide (s.fcb + 56 ≤ c.1) && decide (c.1 < s.fcb + 64))
    hazes := s.hazes.map fun h =>
      { h with written := insertAll ((cells.map (·.1)).filter fun a => h.frames.contains (a / 4096)) h.written }
    tiles := s.tiles.map fun t =>
      { t with touched := insertAll ((cells.map (·.1)).filter fun a => t.frames.contains (lineOf a)) t.touched } }

/-- Bytes at rising addresses, as cells. -/
def cellsAt (pa : Nat) (bs : List Byte) : List Host.Cell := bs.mapIdx fun k b => (pa + k, b)

def State.addPoison (s : State) (lines : List Nat) : State := { s with poison := insertAll lines s.poison }

/-- Lines written whole lose their poison, and the registered words of them with it (R122). -/
def State.clearPoison (s : State) (lines : List Nat) : State :=
  { s with
    poison := s.poison.filter fun l => !lines.contains l
    l1 := s.l1.map fun w => if w.reg && lines.contains (lineOf (4 * w.word)) then { w with poison := false } else w }

/-- A line as its holder gives it back, or as it comes from its home. Where an open tile here holds the line, only the bytes
that have been stored to count as written (R117). -/
def State.lineWrite (s : State) (line : Nat) (data : List Byte) : State :=
  let cells := cellsAt line (data.take 128)
  s.homeWrite none (if (s.tileAt line).isSome then cells.filter fun c => c.2 != s.heldByte c.1 else cells)

/-- A line of an open tile leaves with unpredictable bytes, which are what its next holder finds there (R117). -/
def State.latchLine (s : State) (line : Nat) : State :=
  if (s.tileAt line).isNone then s
  else
    let bs := s.homeBytes line 128
    let s := s.retag line
    { s with mem := s.mem.putCells (cellsAt line bs) }

/-- A write by the hardware to one of its own structures. -/
def State.hwWrite (s : State) (pa : Nat) (bs : List Byte) : State := s.homeWrite none (cellsAt pa bs)

/-- Writes a little-endian number of `n` bytes. -/
def State.wrN (s : State) (pa n x : Nat) : State := s.hwWrite pa (toBytes n x)

/-! ### Freeze (R345) -/

def State.frozen (s : State) (pa : Nat) : Bool := s.freezes.any fun f => decide (f.base ≤ pa) && decide (pa < f.base + f.len)

/-! ### Cells and the firewall (R361-R364) -/

/-- The index of the valid record of a cell in the cell map (R362). -/
def State.cellRec (s : State) (cell : Nat) : Option Nat :=
  let base := s.rd (s.fcb + 32) 8
  ((List.range 4096).map fun k => base + 256 * k).find? fun a =>
    (s.rd a 4).testBit 31 && s.rd a 4 % 2 ^ 21 == cell

/-- The member packages of a cell. -/
def State.members (s : State) (cell : Nat) : List Nat :=
  match s.cellRec cell with
  | none => []
  | some a => (List.range (min 64 (s.rd (a + 5) 1))).map fun m => s.rd (a + 64 + 3 * m) 3 % 2 ^ 21

/-- The cell map lists the package in a dead cell. -/
def State.deadPkg (s : State) (pkg : Nat) : Bool := s.dead.any fun c => (s.members c.toNat).contains pkg

/-- The live or dead cell that lists a package. -/
def State.cellOf (s : State) (pkg : Nat) : Option Nat :=
  let base := s.rd (s.fcb + 32) 8
  (((List.range 4096).map fun k => base + 256 * k).find? fun a =>
    (s.rd a 4).testBit 31 &&
      ((List.range (min 64 (s.rd (a + 5) 1))).any fun m => s.rd (a + 64 + 3 * m) 3 % 2 ^ 21 == pkg)).map
    fun a => s.rd a 4 % 2 ^ 21

/-- The policy index of a granule (R361). -/
def State.policyIndex (s : State) (pa : Nat) : Nat :=
  let base := s.rd (s.fcb + 16) 8
  match carveDie pa with
  | some d => s.rd (base + 0x100_0000 + 2 * (2048 * d.val + bitsAt (localOf pa) 16 11)) 2
  | none => s.rd (base + 2 * bitsAt (localOf pa) 16 23) 2

/-- The firewall lets a cell write or own (R361). The home's own cell is always allowed. -/
def State.mayWrite (s : State) (pa cell : Nat) : Bool :=
  if cell = s.ownCell then true
  else
    let idx := s.policyIndex pa
    if idx = 0 then true
    else if idx = 1 then false
    else
      let r := s.rd (s.fcb + 24) 8 + 32 * idx
      let n := s.rd r 1
      if 1 ≤ n ∧ n ≤ 8 then (List.range n).any fun k => s.rd (r + 8 + 3 * k) 3 % 2 ^ 21 == cell else false

/-! ### Requests to other packages (R350-R354, R366) -/

/-- The payload code of R352. -/
def sizeCode (n : Nat) : BitVec 8 :=
  if n = 0 then 0#8 else if n ≤ 8 then 1#8 else if n ≤ 16 then 2#8 else if n ≤ 32 then 3#8 else if n ≤ 64 then 4#8 else 5#8

/-- The payload padded to its code's length. -/
def padPayload (bs : List Byte) : List Byte :=
  let want := match (sizeCode bs.length).toNat with
    | 0 => 0 | 1 => 8 | 2 => 16 | 3 => 32 | 4 => 64 | _ => 128
  bs ++ List.replicate (want - bs.length) 0#8

def scopeCode (sc : Scope) : BitVec 8 :=
  match sc with
  | .team => 0#8 | .die => 1#8 | .dev => 2#8 | .cell => 3#8 | .sys => 4#8

def kindCode (k : Kind) : BitVec 8 :=
  match k with
  | .st => 1#8 | .acq => 2#8 | .rel => 3#8 | .ar => 4#8

/-- A packet from this package with a fresh TAG (R352, R355). -/
def State.mkPacket (s : State) (typ op : BitVec 8) (pa : Nat) (ctx : BitVec 10) (flow : BitVec 16) (flags : BitVec 8)
    (payload : List Byte) : Packet :=
  { typ := typ, age := 0#8, dst := BitVec.ofNat 24 (pkgOf pa), src := BitVec.ofNat 24 s.pkg
    srcCell := BitVec.ofNat 24 s.ownCell, flags := flags, ctx := ctx.zeroExtend 16, seq := 0#16
    tag := BitVec.ofNat 32 s.nextId, flow := flow, op := op, size := sizeCode payload.length
    addr := BitVec.ofNat 64 pa, payload := padPayload payload }

/-- Puts a packet on the fabric. -/
def State.emit (s : State) (p : Packet) : State := { s with outbox := s.outbox ++ [.packet p] }

/-- Sends a packet: nothing goes to a dead cell (R364). -/
def State.send (s : State) (p : Packet) : State := if s.deadPkg p.dst.toNat then s else s.emit p

/-- The next sequence number of a flow (R350). -/
def State.nextSeq (s : State) (flow : BitVec 16) (dst : Nat) : BitVec 16 × State :=
  match s.flowsOut.find? fun f => f.flow = flow ∧ f.dst = dst with
  | some f =>
    (f.next, { s with flowsOut := updWhere (fun g => g.flow = flow && g.dst == dst) (fun g => { g with next := f.next + 1#16 }) s.flowsOut })
  | none => (0#16, { s with flowsOut := ⟨flow, dst, 1#16⟩ :: s.flowsOut })

/-- The requests sent since the state was `t` are retries after a moved status, which are not timed (R345, R366). -/
def State.asRetry (s t : State) : State :=
  { s with reqs := s.reqs.map fun r => if t.reqs.any (fun q => q.tag == r.tag) then r else { r with retried := true } }

/-- The request belongs to a flow. -/
def Req.inFlow (r : Req) (flow : BitVec 16) (dst : Nat) : Bool := r.pkt.flow == flow && r.pkt.dst.toNat == dst

/-- A flow has as many strong requests without an answer as it may have (R350). -/
def State.flowFull (s : State) (flow : BitVec 16) (dst : Nat) : Bool :=
  decide (32768 ≤ s.reqs.countP fun r => r.inFlow flow dst && r.pkt.flags.getLsbD 7 && r.reply.isNone)

/-- Sends a request and keeps it outstanding; a strong request takes the next sequence number of its flow, and one that finds
the flow full is held until it has room (R350). A request to a dead cell is neither sent nor kept (R364). -/
def State.request (s : State) (p : Packet) (purpose : Purpose) (strong : Bool) : State :=
  let dst := p.dst.toNat
  if s.deadPkg dst then s
  else if strong && (s.flowFull p.flow dst || s.reqs.any fun r => r.phase == .held && r.inFlow p.flow dst) then
    { s with reqs := s.reqs ++ [⟨p.tag, p, purpose, .held, 0, none, [], none, false, false⟩], nextId := s.nextId + 1 }
  else
    let q := if strong then s.nextSeq p.flow dst else (0#16, s)
    let p := if strong then { p with seq := q.1, flags := p.flags ||| 0x80#8 } else p
    let s := q.2
    State.emit { s with reqs := s.reqs ++ [⟨p.tag, p, purpose, .sent, 0, none, [], none, false, false⟩], nextId := s.nextId + 1 } p

/-- A held request leaves, if its flow has room and no earlier one of the flow is held (R350). -/
def State.unhold (s : State) (r : Req) : State :=
  let dst := r.pkt.dst.toNat
  if s.flowFull r.pkt.flow dst || (s.reqs.takeWhile fun q => q.tag != r.tag).any (fun q => q.phase == .held && q.inFlow r.pkt.flow dst)
  then s
  else
    let q := s.nextSeq r.pkt.flow dst
    let p := { r.pkt with seq := q.1, flags := r.pkt.flags ||| 0x80#8 }
    State.send { q.2 with reqs := updWhere (fun x => x.tag == r.tag) (fun x => { x with pkt := p, phase := .sent }) q.2.reqs } p

/-- Held requests leave as far as their flows have room. -/
def State.sendHeld (s : State) : State := (s.reqs.filter fun r => r.phase = .held).foldl State.unhold s

/-- The flow of a group's requests (R350, R352): source die, the group's slot of its die, kind 0. The slot is numbered core
in die × 64 + quadrant × 16 + the group's place in its quadrant (log 12). -/
def groupFlow (core quad slot : Nat) : BitVec 16 :=
  BitVec.ofNat 16 (dieOfCore core + 4 * ((core % 48) * 64 + quad * 16 + slot % 16))

/-- The flow of a home unit's requests, kind 1. -/
def unitFlow (die unit : Nat) : BitVec 16 := BitVec.ofNat 16 (die + 4 * (unit % 4096) + 16384)

/-! ### Lines of other packages and recalls of local lines (R95, R97, R359) -/

/-- Whether an access to a line can be made now, must wait (in the state given, which has sent what it waits for), or
fails with a reply status. -/
inductive Ready where
  | yes (s : State)
  | wait (s : State)
  | fail (s : State) (status : Nat)

def State.llcState (s : State) (line : Nat) : Option LlcState := (s.llc.find? fun l => l.line = line).map (·.st)

/-- The FLAGS of a strong request: scope and kind codes (R352). -/
def strongFlags (k : Kind) (sc : Scope) : BitVec 8 := scopeCode sc ||| (kindCode k <<< 3)

/-- A request for a line of another package: a read copy, or ownership (R353). `fl` are the FLAGS of a strong access, whose
request is numbered in its flow (R350); of a weak one they are 0. -/
def State.wantLine (s : State) (fl : BitVec 8) (ctx : BitVec 10) (flow : BitVec 16) (line : Nat) (own : Bool) : Ready :=
  let purpose : Purpose := if own then .own line else .fill line
  if !s.deadPkg (pkgOf line) && s.reqs.any fun r => r.purpose == .writeback line then .wait s
  else
  match s.reqs.find? fun r => r.purpose = purpose with
  | some r =>
    match r.reply with
    | none => .wait s
    | some (st, _) => .fail { s with reqs := s.reqs.filter fun q => q.tag ≠ r.tag } st
  | none =>
    if s.deadPkg (pkgOf line) then .fail s 256
    else if fl ≠ 0#8 && s.flowFull flow (pkgOf line) then .wait s
    else .wait (s.request (s.mkPacket 0x01#8 (if own then 1#8 else 0#8) line ctx flow fl []) purpose (fl != 0#8))

/-- The packages a directory entry names (R360). -/
def State.holders (s : State) (e : DirEntry) : List Nat :=
  (e.owner.toList ++ (if e.cellMode then e.readers.flatMap s.members else e.readers)).dedup

/-- Sends a COH packet: OP 0 recall, 1 invalidation, 2 downgrade (log 18). -/
def State.coh (s : State) (line h : Nat) (op : BitVec 8) : State :=
  let p := s.mkPacket 0x06#8 op line 0#10 (unitFlow (homeDie line) (homeSlice line)) 0#8 []
  { s.send { p with dst := BitVec.ofNat 24 h } with nextId := s.nextId + 1 }

/-- Puts an entry last: the most recently used (R360). -/
def State.putDir (s : State) (e : DirEntry) : State := { s with dir := (s.dir.filter fun x => x.line ≠ e.line) ++ [e] }

/-- Removes a line's entry: no other package holds it. -/
def State.dropDir (s : State) (line : Nat) : State := { s with dir := s.dir.filter fun x => x.line ≠ line }

/-- Sends a recall, downgrade or invalidation of a local line to holders of it, and waits for their COHACKs (R359). -/
def State.recall (s : State) (line : Nat) (e : DirEntry) (hs : List Nat) (kind : RecallKind) : State :=
  let s := hs.foldl (fun s h => s.coh line h (if kind = .down then 2#8 else if kind = .all ∧ e.owner = some h then 0#8 else 1#8)) s
  { s with recalls := s.recalls ++ [⟨line, kind, hs⟩] }

/-- The readers of an entry that are in no dead cell. -/
def State.liveReaders (s : State) (e : DirEntry) : List Nat :=
  if e.cellMode then e.readers.filter fun c => !(s.dead.any fun d => d.toNat = c) else e.readers.filter fun p => !s.deadPkg p

/-- Resolves a dead cell's part in a line's entry, as the recovery engine does (R365): a line it owned in M or O is poisoned
at home and the other holders' copies are invalidated, those of a downgrade under way too; one it owned in E is reclaimed; as
a reader it goes. An entry that names no dead cell is left as it is. -/
def State.resolveDead (s : State) (line : Nat) : State :=
  match s.dir.find? fun e => e.line = line with
  | none => s
  | some e =>
    let e' : DirEntry := { e with readers := s.liveReaders e }
    match e.owner with
    | some o =>
      if s.deadPkg o then
        if e.st = .m ∨ e.st = .o then
          let e' : DirEntry := { e' with st := .s, owner := none }
          let s := s.addPoison [line]
          let others := (s.holders e').filter fun h => h ≠ s.pkg ∧ !s.deadPkg h
          let now : State := { s with dir := updWhere (fun x => x.line == line) (fun _ => e') s.dir }
          match s.recalls.find? fun r => r.line = line with
          | none => if others.isEmpty then s.dropDir line else now.recall line e' others .drop
          | some r =>
            if r.kind ≠ .down ∨ others.isEmpty then s.dropDir line
            else
              let s := others.foldl (fun s h => s.coh line h 1#8) now
              { s with
                recalls := updWhere (fun x => x.line == line) (fun r => { r with kind := .drop, wait := insertAll others r.wait }) s.recalls }
        else s.dropDir line
      else if e'.readers = e.readers then s
      else { s with dir := updWhere (fun x => x.line == line) (fun _ => e') s.dir }
    | none =>
      if e'.readers = e.readers then s
      else if e'.readers.isEmpty then s.dropDir line
      else { s with dir := updWhere (fun x => x.line == line) (fun _ => e') s.dir }

/-- Packages other than this one that hold a line. -/
def State.otherHolders (s : State) (e : DirEntry) : List Nat := (s.holders e).filter (· ≠ s.pkg)

/-- Makes a line accessible (R95, R97, R359). A local line that is frozen is refused (status 1, moved). One that other
packages hold is recalled where the access needs it: a read takes the data of an owner, who keeps the line; a write takes the
line from every holder. A write that is to be performed at device scope or narrower (`wide` false) goes on at once where home
memory is current and others only read the line: their copies are called in behind it. A line of another package must be held
in the LLC, in M or E for writing; `fl` are the FLAGS of the request for it. -/
def State.readyAs (s : State) (fl : BitVec 8) (wide : Bool) (ctx : BitVec 10) (flow : BitVec 16) (line : Nat) (write : Bool) : Ready :=
  if s.here line then
    if s.frozen line then .fail s 1
    else
      let s := s.resolveDead line
      let busy := s.recalls.any fun r => r.line = line
      match s.dir.find? fun e => e.line = line with
      | none => if busy then .wait s else .yes s
      | some e =>
        let others := s.otherHolders e
        if e.st = .s ∧ busy then (if wide then .wait s else .yes s)
        else if busy then .wait s
        else if e.st = .s ∧ !write then .yes (s.putDir e)
        else if e.st = .o ∧ !write ∧ e.supplied then .yes (s.putDir { e with supplied := false })
        else if others = [] then .yes (s.dropDir line)
        else if e.st = .s ∧ !wide then .yes (s.recall line e others .all)
        else if write then .wait (s.recall line e others .all)
        else .wait (s.recall line e (e.owner.toList.filter (· ≠ s.pkg)) .down)
  else
    match s.llcState line with
    | some .m => .yes s
    | some .e => .yes (if write then { s with llc := updWhere (fun l => l.line == line) (fun l => { l with st := .m }) s.llc } else s)
    | some _ => if write then s.wantLine fl ctx flow line true else .yes s
    | none => s.wantLine fl ctx flow line write

/-- Makes a line accessible for a weak access, or for the hardware. -/
def State.readyAt (s : State) (wide : Bool) (ctx : BitVec 10) (flow : BitVec 16) (line : Nat) (write : Bool) : Ready :=
  s.readyAs 0#8 wide ctx flow line write

/-- A line refused as moved is asked for again, which is not timed (R345, R366). -/
def State.reask (s : State) (fl : BitVec 8) (ctx : BitVec 10) (flow : BitVec 16) (line : Nat) (write : Bool) : State :=
  match s.readyAs fl true ctx flow line write with
  | .wait t => t.asRetry s
  | _ => s

/-- Makes a line accessible for an access at cell or system scope, or by a home. -/
def State.readyLine (s : State) (ctx : BitVec 10) (flow : BitVec 16) (line : Nat) (write : Bool) : Ready :=
  s.readyAt true ctx flow line write

/-- Makes every line of a list accessible for writing: one refused as moved is asked for again (R345). -/
def State.readyLines (s : State) (ctx : BitVec 10) (flow : BitVec 16) : List Nat → Ready
  | [] => .yes s
  | l :: r =>
    match s.readyLine ctx flow l true with
    | .yes s => State.readyLines s ctx flow r
    | .wait s => .wait s
    | .fail s st => .fail (if st = 1 then s.reask 0#8 ctx flow l true else s) st

/-! ### L1 and posted stores (R95, R96) -/

/-- The youngest posted byte of a core. -/
def State.postedByte (s : State) (core pa : Nat) : Option Byte :=
  s.posted.foldl (fun acc e =>
    if e.core = core then
      e.bytes.foldl (fun acc c => if c.1 = pa then some c.2 else acc) acc
    else acc) none

def State.l1Word (s : State) (core word : Nat) : Option L1Word := s.l1.find? fun w => w.core = core ∧ w.word = word

/-- A byte as the core's own weak and team-scope reads see it: its posted stores, its L1, then the home (R95, R96, R99). -/
def State.coreByte (s : State) (core pa : Nat) : Byte :=
  match s.postedByte core pa with
  | some b => b
  | none =>
    match s.l1Word core (wordOf pa) with
    | some w => w.val.extractLsb' (8 * (pa % 4)) 8
    | none => s.homeByte pa

/-- Every byte of an access is in the core's L1: posted, or in a valid word (R220). -/
def State.inL1 (s : State) (core pa n : Nat) (registered : Bool) : Bool :=
  (List.range n).all fun k =>
    (match s.l1Word core (wordOf (pa + k)) with
     | some w => w.reg || !registered
     | none => false) || (!registered && (s.postedByte core (pa + k)).isSome)

/-- The access meets poison: of the L1 word that serves it, or of the line at home (R120, R121). -/
def State.corePoison (s : State) (core pa n : Nat) : Bool :=
  (List.range n).any fun k =>
    match s.l1Word core (wordOf (pa + k)) with
    | some w => w.poison
    | none => s.poisoned (pa + k)

/-- The home's value of a word. -/
def State.homeWord (s : State) (word : Nat) : W32 := BitVec.ofNat 32 (ofBytes (s.homeBytes (4 * word) 4))

/-- A core's L1 holds 1,024 lines of 128 bytes (R1, R87): to take in one more it displaces another, which a free value picks.
A registered word of the displaced line is at its home already (R96). -/
def State.roomL1 (s : State) (core line : Nat) : State :=
  let ls := ((s.l1.filter fun w => w.core == core).map fun w => lineOf (4 * w.word)).dedup.filter (· ≠ line)
  if ls.length < 1024 then s
  else
    let out := ls[(s.freeW 7).toNat % ls.length]?.getD 0
    { s with l1 := s.l1.filter fun w => !(w.core == core && lineOf (4 * w.word) == out) }

/-- A fill of the line of an address into a core's L1: every word that is not valid there becomes a copy (R96). -/
def State.fill (s : State) (core pa : Nat) : State :=
  let s := s.roomL1 core (lineOf pa)
  let ws := (List.range 32).map fun k => lineOf pa / 4 + k
  let new := (ws.filter fun w => (s.l1Word core w).isNone).map fun w =>
    ({ core := core, word := w, val := s.homeWord w, reg := false, poison := s.poisoned (4 * w) } : L1Word)
  { s with l1 := new ++ s.l1 }

/-- Copies of words in a core's L1 that a strong access beyond the L1 has gone past (R98). -/
def State.dropCopies (s : State) (core : Nat) (ws : List Nat) : State :=
  { s with l1 := s.l1.filter fun w => !(w.core == core && ws.contains w.word && !w.reg) }

/-- A strong read at die scope or wider is served beyond the L1, and its fill replaces the copies it reads (R95, R98). -/
def State.refresh (s : State) (core pa n : Nat) : State :=
  let ws := ((List.range n).map fun k => wordOf (pa + k)).dedup
  (s.dropCopies core ws).fill core pa

/-- Self-invalidation (R96): every copy word of the core's L1; registered words stay. -/
def State.selfInvalidate (s : State) (core : Nat) : State :=
  { s with l1 := s.l1.filter fun w => w.core != core || w.reg }

/-- The scope is die or wider. -/
def dieUp (sc : Scope) : Bool :=
  match sc with
  | .team => false
  | _ => true

/-- The scope is cell or system. -/
def cellUp (sc : Scope) : Bool :=
  match sc with
  | .cell | .sys => true
  | _ => false

/-- The FLAGS of the request for a posted store's line (R350, R352). -/
def Posted.flags (e : Posted) : BitVec 8 := if e.strong then strongFlags (if e.release then .rel else .st) e.scope else 0#8

/-- An earlier posted store of the same core touches a byte of this one (R98), or this one is a release at die scope or
wider and an earlier one is pending (R103), or it is strong and an earlier one of its group to the same line has been refused
as moved (R345). The two parts of one lane's 16 bytes do not hold each other back (R92). -/
def State.heldBack (s : State) (e : Posted) : Bool :=
  s.posted.any fun f =>
    f.core == e.core && decide (f.id < e.id) && !(f.batch == e.batch && f.part == e.part) &&
      ((e.release && dieUp e.scope) || (f.bytes.any fun c => e.bytes.any fun d => c.1 == d.1) ||
        (e.strong && f.moved && f.team == e.team && f.group == e.group && lineOf f.va.toNat == lineOf e.va.toNat))

/-- Registers the words of a performed store in its core's L1; every other core's registration ends (R96). -/
def State.register (s : State) (core : Nat) (ws : List Nat) : State :=
  let s := s.roomL1 core (lineOf (4 * ws.headD 0))
  let s := { s with l1 := s.l1.filter fun w => !(ws.contains w.word && (w.reg || w.core == core)) }
  { s with
    l1 := (ws.map fun w =>
      ({ core := core, word := w, val := s.homeWord w, reg := true, poison := s.poisoned (4 * w) } : L1Word)) ++ s.l1 }

/-- The other part of the 16 bytes of a lane's store, which is not performed yet (R92). -/
def State.sibling (s : State) (e : Posted) : Option Posted :=
  if e.pair then s.posted.find? fun f => f.batch == e.batch && f.part == e.part && f.id != e.id else none

/-- A posted store may be performed now: no earlier one holds it or the other part of its lane back, which a refusal would end
together (R242). A release at cell or system scope also waits for every recall in progress (R95, R103). -/
def State.postedFree (s : State) (e : Posted) : Bool :=
  !e.moved && !s.heldBack e && (s.sibling e).all (fun f => !f.moved && !s.heldBack f) &&
    !(e.release && cellUp e.scope && !s.recalls.isEmpty)

/-- A posted store's bytes reach its home, and its core's L1 holds its words (R95, R96): the last part of an instruction that
covers a line whole clears its poison (R122). -/
def State.landPosted (s : State) (e : Posted) : State :=
  let s := { s with posted := s.posted.filter fun f => f.id ≠ e.id }
  let s := s.homeWrite (some e.core) e.bytes
  let done := e.whole.filter fun l =>
    !(s.posted.any fun f => f.batch == e.batch && f.bytes.any fun c => lineOf c.1 == l)
  (s.clearPoison done).register e.core ((e.bytes.map fun c => wordOf c.1).dedup)

/-- Before a line leaves the package: a store of 16 bytes of which one part has been performed there is performed whole, so
that no refusal finds it half done (R242). -/
def State.finishPairs (s : State) (line : Nat) : State :=
  (s.posted.filter fun e => e.pair && (s.sibling e).isNone && e.bytes.any fun c => lineOf c.1 == line).foldl State.landPosted s

/-- Performs a posted store at its home (R95, R96), if nothing holds it back and its line can be written at its scope. The
request of one that has been refused as moved is a retry (R366). -/
def State.performPosted (s : State) (e : Posted) : Ready :=
  if !s.postedFree e then .wait s
  else
    match e.bytes with
    | [] => .yes { s with posted := s.posted.filter fun f => f.id ≠ e.id }
    | c :: _ =>
      match s.readyAs e.flags (cellUp e.scope) e.ctx e.flow (lineOf c.1) true with
      | .wait t => .wait (if e.again then t.asRetry s else t)
      | .fail s st => .fail s st
      | .yes s => .yes (s.landPosted e)

/-- Performs posted stores in the order given as far as they go: the state, and whether all were performed. A store whose
home refuses it stays, for its own event to report it (R242). -/
def State.drainList (s : State) : List Nat → State × Bool
  | [] => (s, true)
  | id :: r =>
    match s.posted.find? fun e => e.id = id with
    | none => s.drainList r
    | some e =>
      match s.performPosted e with
      | .yes s => s.drainList r
      | .wait s => (s, false)
      | .fail _ _ => (s, false)

/-- Performs every posted store of a core. -/
def State.drainCore (s : State) (core : Nat) : State × Bool :=
  s.drainList ((s.posted.filter fun e => e.core = core).map (·.id))

/-- Performs the posted stores of a core that touch some bytes, with what must go before them. -/
def State.drainBytes (s : State) (core pa n : Nat) : State × Bool :=
  let hit := s.posted.filter fun e => e.core == core && e.bytes.any fun c => decide (pa ≤ c.1) && decide (c.1 < pa + n)
  match hit.getLast? with
  | none => (s, true)
  | some l =>
    let ids := (s.posted.filter fun e => e.core == core && decide (e.id ≤ l.id) &&
      ((hit.any fun h => h.release) || hit.any fun h => h.id == e.id)).map (·.id)
    s.drainList ids

end Sys2Proof.Machine
end

