-- ==== Sys2Proof/Machine/Xlate.lean ====
section
/-! DEFINITION. Translation: page tables of five levels, residency masks, TLBs and their invalidation (15 R334-R341). -/

namespace Sys2Proof.Machine

/-- What a translation is for (R336). -/
inductive Access where
  | load | store | fetch | step
deriving DecidableEq, Repr

/-- A translation's outcome; the state holds the leaves and pointers it brought in. A walk may have to wait for the line of a
table, which another package holds or homes, or which is frozen. -/
inductive Xlated where
  | ok (s : State) (pa : Nat)
  | notPresent (s : State)
  | permission (s : State)
  | wait (s : State) (line : Nat)

/-- Bits [56:0] are implemented; a canonical address repeats bit 56 above (R5). -/
def canonical (va : W64) : Bool := va.extractLsb' 57 7 == (if va.getLsbD 56 then 0x7F#7 else 0#7)

/-- The implemented part of an address. -/
def vaNum (va : W64) : Nat := va.toNat % 2 ^ 57

/-! ### Entries (R335-R337) -/

def entryV (e : Nat) : Bool := e.testBit 0
def entryT (e : Nat) : Bool := e.testBit 1
def entryAddr (e : Nat) : Nat := bitsAt e 12 50 * 4096

/-- Reserved bits of a table pointer are 0: [63:62] and [11:2]. -/
def pointerOk (e : Nat) : Bool := bitsAt e 62 2 == 0 && bitsAt e 2 10 == 0

/-- Reserved bits of a leaf are 0: [63:62] and [6]. -/
def leafReservedOk (e : Nat) : Bool := bitsAt e 62 2 == 0 && bitsAt e 6 1 == 0

/-- log2 of a leaf's size. -/
def leafSz (e : Nat) : Nat := 12 + bitsAt e 7 5

/-- A leaf read at a level is legal (R336, R337). -/
def leafOk (e c lvl : Nat) : Bool :=
  entryV e && !entryT e && leafReservedOk e && decide (lvl < 3) && decide (12 + 9 * lvl ≤ leafSz e) &&
    decide (leafSz e < 21 + 9 * lvl) && decide (leafSz e ≤ 32) && entryAddr e % 2 ^ leafSz e == 0 &&
    (!e.testBit 4 || (leafSz e == 21 && bitsAt c 53 11 == 0))

/-- The address a leaf gives, `none` where the part is absent (R337). -/
def leafPa (e c va : Nat) : Option Nat :=
  let pa := entryAddr e + va % 2 ^ leafSz e
  if e.testBit 4 then
    if c.testBit (bitsAt va 16 5) then some pa
    else if e.testBit 5 then some (bitsAt c 32 21 * 2 ^ 41 + pa % 2 ^ 41)
    else none
  else some pa

/-! ### The walk -/

/-- The bits of the address that select an entry at a level, with those above. -/
def vaIdx (va lvl : Nat) : Nat := va / 2 ^ (12 + 9 * lvl)

/-- A walk finds a leaf, or none, or waits for a line. -/
inductive Walked where
  | leaf (s : State) (l : Leaf)
  | absent (s : State)
  | wait (s : State) (line : Nat)

/-- An entry of a table, by a strong read at device scope (R340). A table that its home answers as not present, a granule
without a valid key among them, or does not answer at all has no entry (R373; log 80); one that is moving is read again
(R345). -/
def State.entry (s : State) (die : Nat) (ctx : BitVec 10) (a : Nat) (f : State → Nat → Walked) : Walked :=
  if s.here a && !s.homed a then .absent s
  else
    match s.readyAs (strongFlags .st .dev) false ctx (unitFlow die 0) (lineOf a) false with
    | .yes s => f s (ofBytes (s.homeBytes a 8))
    | .wait s => .wait s (lineOf a)
    | .fail s st => if st = 1 then .wait (s.reask (strongFlags .st .dev) ctx (unitFlow die 0) (lineOf a) false) (lineOf a) else .absent s

/-- The number of entries that a leaf of a level covers: its naturally aligned run (R336). -/
def leafRun (e lvl : Nat) : Nat := 2 ^ (leafSz e - 12 - 9 * lvl)

/-- A leaf entry translates: with its companion, where it has a residency mask; not present where it is not legal (R336). -/
def State.takeLeaf (s : State) (die : Nat) (ctx : BitVec 10) (va lvl a e : Nat) : Walked :=
  let fin (s : State) (c : Nat) : Walked :=
    if leafOk e c lvl then
      .leaf s ⟨ctx, va / 2 ^ leafSz e * 2 ^ leafSz e, leafSz e, BitVec.ofNat 64 e, BitVec.ofNat 64 c⟩
    else .absent s
  if e.testBit 4 then s.entry die ctx (a + 4096) fin else fin s 0

/-- An entry of a level is a leaf that covers a run of `n` entries, more than one (R336). -/
def isRun (e lvl n : Nat) : Bool :=
  entryV e && !entryT e && leafReservedOk e && decide (lvl < 3) && decide (leafSz e < 21 + 9 * lvl) && decide (leafSz e ≤ 32) &&
    decide (1 < n) && leafRun e lvl == n

/-- The index of the entry that serves index `idx` of a table: its own, or, where an entry at hand is a leaf whose run takes
`idx` in, any entry of that run. Which one is not predictable: free values pick the run's size, the leaf and the entry
(R336). -/
def State.servingIdx (s : State) (die : Nat) (ctx : BitVec 10) (lvl table idx : Nat) : Nat :=
  let n := 2 ^ (1 + (s.freeW 900001).toNat % 8)
  let first := idx / n * n
  let a := table + 8 * (first + (s.freeW 900002).toNat % n)
  match s.readyAt false ctx (unitFlow die 0) (lineOf a) false with
  | .yes t => if isRun (ofBytes (t.homeBytes a 8)) lvl n then first + (s.freeW 900003).toNat % n else idx
  | _ => idx

/-- Table pointers that a die holds (R340). -/
def ptrCap : Nat := 512

/-- A die takes in a table pointer; where it is full, a free value picks one that goes. -/
def State.ptrAdd (s : State) (p : TablePtr) : State :=
  let mine := s.ptrs.filter fun x => x.die = p.die
  if mine.length < ptrCap then { s with ptrs := p :: s.ptrs }
  else
    let out := mine[(s.freeW 9).toNat % mine.length]?
    { s with ptrs := p :: s.ptrs.filter fun x => some x ≠ out }

/-- Walks from a table at a level to a leaf; the table pointers of a die serve where it holds them (R336, R340). -/
def State.walk (die : Nat) (ctx : BitVec 10) (va : Nat) : Nat → State → Nat → Walked
  | 0, s, table =>
    let a := table + 8 * s.servingIdx die ctx 0 table (vaIdx va 0 % 512)
    s.entry die ctx a fun s e => s.takeLeaf die ctx va 0 a e
  | lvl + 1, s, table =>
    match s.ptrs.find? fun p => p.die = die ∧ p.ctx = ctx ∧ p.lvl = lvl + 1 ∧ p.idx = vaIdx va (lvl + 1) with
    | some p => State.walk die ctx va lvl s p.addr
    | none =>
      let own := vaIdx va (lvl + 1) % 512
      let i := s.servingIdx die ctx (lvl + 1) table own
      let a := table + 8 * i
      s.entry die ctx a fun s e =>
        if entryV e && entryT e then
          if pointerOk e then
            State.walk die ctx va lvl
              (if i = own then s.ptrAdd ⟨die, ctx, lvl + 1, vaIdx va (lvl + 1), entryAddr e⟩ else s) (entryAddr e)
          else .absent s
        else s.takeLeaf die ctx va (lvl + 1) a e

/-- A leaf that covers an address. -/
def leafCovers (ctx : BitVec 10) (va : Nat) (l : Leaf) : Bool :=
  l.ctx == ctx && va / 2 ^ l.sz * 2 ^ l.sz == l.va

/-- The leaf a site or its die holds. -/
def State.tlbFind (s : State) (sites : List TlbSite) (ctx : BitVec 10) (va : Nat) : Option Leaf :=
  sites.findSome? fun x => (s.tlb.find? fun t => t.1 = x ∧ leafCovers ctx va t.2).map (·.2)

/-- Leaves that a structure holds (R340). -/
def TlbSite.cap : TlbSite → Nat
  | .core _ => 256
  | .die _ => 8192
  | .engine _ => 64

/-- A structure takes in a leaf; where it is full, a free value picks one that goes. -/
def State.tlbPut (s : State) (l : Leaf) (x : TlbSite) : State :=
  if s.tlb.contains (x, l) then s
  else
    let mine := s.tlb.filter fun t => t.1 = x
    if mine.length < x.cap then { s with tlb := (x, l) :: s.tlb }
    else
      let out := mine[(s.freeW 10).toNat % mine.length]?
      { s with tlb := (x, l) :: s.tlb.filter fun t => some t ≠ out }

def State.tlbAdd (s : State) (sites : List TlbSite) (l : Leaf) : State := sites.foldl (fun s x => s.tlbPut l x) s

/-- Checks of R336 once a leaf is at hand: residency, reserved ranges, W and X; the save region, which no translation reaches
(R330); and the key map's valid bit, without which an access to local HBM is answered as not present (R373). -/
def State.useLeaf (s : State) (l : Leaf) (va : Nat) (a : Access) : Xlated :=
  match leafPa l.entry.toNat l.companion.toNat va with
  | none => .notPresent s
  | some pa =>
    if s.reservedPa pa || s.inRegion pa then .notPresent s
    else if a = .store ∧ !l.entry.getLsbD 2 then .permission s
    else if a = .fetch ∧ !l.entry.getLsbD 3 then .permission s
    else if s.here pa && (s.keyOf pa).isNone then .notPresent s
    else .ok s pa

/-- Translates through the TLBs of the sites given, walking where none holds the page (R336, R340). -/
def State.translateAt (s : State) (sites : List TlbSite) (die : Nat) (ctx : BitVec 10) (va : W64) (a : Access) : Xlated :=
  if !canonical va then .notPresent s
  else
    let v := vaNum va
    match s.tlbFind sites ctx v with
    | some l => (s.tlbAdd sites l).useLeaf l v a
    | none =>
      match State.walk die ctx v 4 s (s.descField ctx 0 8) with
      | .absent s => .notPresent s
      | .wait s line => .wait s line
      | .leaf s l => (s.tlbAdd sites l).useLeaf l v a

/-- A core's translation. -/
def State.translate (s : State) (core : Nat) (ctx : BitVec 10) (va : W64) (a : Access) : Xlated :=
  s.translateAt [.core core, .die (dieOfCore core)] (dieOfCore core) ctx va a

/-- An HOU's or slice's translation, through its die's structures (R338). -/
def State.translateHome (s : State) (die : Nat) (ctx : BitVec 10) (va : W64) (a : Access) : Xlated :=
  s.translateAt [.die die] die ctx va a

/-- A copy engine's translation (R340). -/
def State.translateEngine (s : State) (core : Nat) (ctx : BitVec 10) (va : W64) (a : Access) : Xlated :=
  s.translateAt [.engine core, .die (dieOfCore core)] (dieOfCore core) ctx va a

/-! ### Invalidation (R341, R342) -/

/-- Removes the leaves of a context that meet a range, and every table pointer of the context. -/
def State.invalRange (s : State) (ctx : BitVec 10) (lo len : Nat) : State :=
  { s with
    tlb := s.tlb.filter fun t =>
      !(t.2.ctx == ctx && decide (t.2.va < lo + len) && decide (lo < t.2.va + 2 ^ t.2.sz))
    ptrs := s.ptrs.filter fun p => p.ctx != ctx }

/-- Removes every translation of a context. -/
def State.invalCtx (s : State) (ctx : BitVec 10) : State :=
  { s with tlb := s.tlb.filter fun t => t.2.ctx != ctx, ptrs := s.ptrs.filter fun p => p.ctx != ctx }

/-- Drops one address from a core's and its die's TLBs (R345). -/
def State.dropVa (s : State) (core : Nat) (ctx : BitVec 10) (va : W64) : State :=
  { s with
    tlb := s.tlb.filter fun t =>
      !((t.1 == .core core || t.1 == .die (dieOfCore core) || t.1 == .engine core) && leafCovers ctx (vaNum va) t.2) }

/-- Removes the leaves whose frames meet a range of physical addresses. -/
def State.invalFrames (s : State) (lo len : Nat) : State :=
  { s with
    tlb := s.tlb.filter fun t =>
      !(decide (entryAddr t.2.entry.toNat < lo + len) && decide (lo < entryAddr t.2.entry.toNat + 2 ^ t.2.sz)) }

/-- The state after a translation. -/
def Xlated.state : Xlated → State
  | .ok s _ => s
  | .notPresent s => s
  | .permission s => s
  | .wait s _ => s

/-- The line of an address refused as moved and translated afresh is asked for again, which is not timed (R345, R366). -/
def Xlated.reask (x : Xlated) (fl : BitVec 8) (ctx : BitVec 10) (flow : BitVec 16) (write : Bool) : State :=
  match x with
  | .ok s pa => s.reask fl ctx flow (lineOf pa) write
  | x => x.state

end Sys2Proof.Machine
end

