-- ==== Sys2Proof/Machine/Ops.lean ====
section
/-! DEFINITION. The shared operations: the working copies of the issuing group, issue bookkeeping (R17, R29, R145),
counters and triggers (R262, R380), events (R364), the save region (R330), and taking a fault or trap as ONE operation:
the record (R304), the fault queue (R303), the operand log (R307, R309), the dispositions (R302), termination (R312), and
the merge table (R343); and the return from one (R308, R310, R311). -/

namespace Sys2Proof.Machine

/-! ### Working copies -/

/-- Writes the working copies back into the team list. -/
def State.storeFocus (s : State) : State :=
  { s with
    teams := (s.teams.map fun t =>
      if t.tid = s.t.tid then { s.t with groups := s.t.groups.map fun g => if g.id = s.g.id then s.g else g } else t).filter
        fun t => !t.gone }

/-- Takes a group of a resident team as the working copy. -/
def State.loadFocus (s : State) (r : GroupRef) : Option State :=
  match s.teams.find? fun t => t.tid = r.team with
  | none => none
  | some t => (t.groups.find? fun g => g.id = r.group).map fun g => { s with t := t, g := g }

/-- Refreshes the working copies from the team list. -/
def State.reload (s : State) : State := (s.loadFocus ⟨s.t.tid, s.g.id⟩).getD s

/-- Changes groups of every team, the working copy included. -/
def State.mapGroups (s : State) (f : Team → Group → Group) : State :=
  let s := s.storeFocus
  State.reload { s with teams := s.teams.map fun t => { t with groups := t.groups.map (f t) } }

/-- Empties the working copies: no team has the number 0. -/
def State.noFocus (s : State) : State := { s with t := Team.blank, g := Group.blank, iss := Issue.blank }

/-- Acts on a group other than the current one, and returns to the current one. -/
def State.withGroup (s : State) (r : GroupRef) (f : State → State) : State :=
  let old : GroupRef := ⟨s.t.tid, s.g.id⟩
  let iss := s.iss
  let s := s.storeFocus
  match s.loadFocus r with
  | none => s
  | some s =>
    let s := (f s).storeFocus
    match s.loadFocus old with
    | none => s.noFocus
    | some s => { s with iss := iss }

/-- The name of the current group. -/
def State.me (s : State) : GroupRef := ⟨s.t.tid, s.g.id⟩

/-- The current group's die. -/
def State.myDie (s : State) : Nat := dieOfCore s.t.core

/-- The flow of the current group's requests. -/
def State.myFlow (s : State) : BitVec 16 := groupFlow s.t.core s.g.quad s.g.slot

def State.setG (s : State) (g : Group) : State := { s with g := g }

/-- An event that follows of itself. -/
def State.pushDue (s : State) (e : Instr) : State := { s with due := s.due ++ [e] }

/-! ### Issue bookkeeping (R17, R25, R29) -/

/-- The starvation counter after an issue: 0 when every runnable lane issued, else one more (R29). -/
def starveNext (old : W64) (runnable issuing : Mask) : W64 := if runnable &&& ~~~issuing = 0#32 then 0#64 else old + 1#64

/-- A read of memory that waits for its data while its window has closed: the parked lanes of a split load (R26, R107). -/
def Op.beyondWindow (o : Op) : Bool := o.win == 0 && o.parked != 0#32 && o.pend != 0#32

/-- Counts an issue: yield bits of the issuing lanes clear, the starvation counter moves, every open window shortens, and
the group has issued most recently (R17, R25, R29, R32). A word that faults at issue counts as well. -/
def State.commit (s : State) : State :=
  { s with
    iss := { s.iss with beyond := (s.g.ops.filter Op.beyondWindow).map (·.id) }
    g := { s.g with
      starve := starveNext s.g.starve s.g.runnable s.iss.mask
      yielded := s.g.yielded &&& ~~~s.iss.mask
      ops := s.g.ops.map fun o => { o with win := o.win - 1 }
      lastKey := s.iss.key
      lastWait := s.iss.waitm
      lastIssue := some s.nextId
      needLatch := false
      needA := none }
    nextId := s.nextId + 1 }

/-! ### Events (R364) -/

/-- An 8-byte counter at its home. -/
def State.ctrAt (s : State) (pa : Nat) : W64 := BitVec.ofNat 64 (ofBytes (s.homeBytes pa 8))

/-- A held grid whose trigger has fired joins the queue of its level (R262, R320). -/
def State.fireGrid (s : State) (gid : Nat) : State :=
  match s.grids.find? fun g => g.gid = gid with
  | none => s
  | some g =>
    let lvl : Fin 4 := Fin.ofNat 4 g.level
    { s with
      grids := updWhere (fun g => g.gid == gid) (fun g => { g with waiting := false }) s.grids
      queues := s.queues.set lvl.val (s.queues[lvl] ++ [.grid gid]) }

/-- A trigger has fired: its grid is queued here, or the package that holds it is told (log 18). -/
def State.fireTrigger (s : State) (t : Trigger) : State :=
  if t.pkg = s.pkg then s.fireGrid t.grid
  else
    s.request (s.mkPacket 0x03#8 0x35#8 (t.pkg * 2 ^ 41) t.ctx (unitFlow (homeDie t.addr) (homeSlice t.addr))
      (strongFlags .rel t.scope) (toBytes 8 t.grid)) .notify true

/-- Fires the triggers registered at an address whose counter has been left at 0 by an update at its home (R262). -/
def State.fireAt (s : State) (pa : Nat) : State :=
  if s.triggers.all fun t => t.addr ≠ pa then s
  else if s.ctrAt pa ≠ 0#64 then s
  else
    (s.triggers.filter fun t => t.addr = pa).foldl State.fireTrigger
      { s with triggers := s.triggers.filter fun t => t.addr ≠ pa }

/-- Adds to an 8-byte counter at its home, as one read-modify-write, and fires what it fires (R262). -/
def State.addHome (s : State) (pa : Nat) (delta : W64) : State :=
  (s.hwWrite pa (toBytes 8 (s.ctrAt pa + delta).toNat)).fireAt pa

/-- Additions to the counter at a fabric physical address that are not made yet, of those that came before number `n`. -/
def State.addsLeft (s : State) (pa n : Nat) : Bool :=
  (s.adds.any fun a => a.phys && a.va.toNat == pa && decide (a.at_ < n)) ||
    s.reqs.any fun r => r.purpose == .notify && r.pkt.typ == 0x03#8 && r.pkt.op == 0x20#8 && r.pkt.addr.toNat == pa && r.reply.isNone

/-- Makes an addition whose counter a descriptor or the control block names by its fabric physical address, at the counter's
home once its line has been taken from every holder, and after the additions that go before it; false while it waits (R302,
R357, R364). A poisoned counter keeps its bytes (log 67). -/
def State.makePhys (s : State) (a : Addition) : State × Bool :=
  let pa := a.va.toNat
  let flow := unitFlow (homeDie pa) (homeSlice pa)
  if a.behind ≠ 0 && s.addsLeft a.behind a.at_ then (s, false)
  else if s.here pa then
    match s.readyLine 0#10 flow (lineOf pa) true with
    | .yes s => (if s.poisoned pa then s else s.addHome pa a.delta, true)
    | .wait s | .fail s _ => (s, false)
  else (s.request (s.mkPacket 0x03#8 0x20#8 pa 0#10 flow (strongFlags .rel .sys) (toBytes 8 a.delta.toNat)) .notify true, true)

/-- An addition is made, or waits its turn at its line (R357). -/
def State.orHold (s : State) (a : Addition) (r : State × Bool) : State :=
  if r.2 then r.1 else { r.1 with adds := r.1.adds ++ [{ a with at_ := s.nextId }], nextId := r.1.nextId + 1 }

/-- An addition to a counter named by its fabric physical address, a release at system scope; `behind`: the counter whose
additions go first, 0 for none (R302). -/
def State.addPhys (s : State) (pa : Nat) (delta : W64) (behind : Nat) : State :=
  let a : Addition := ⟨s.nextId, 0, 0#10, true, BitVec.ofNat 64 pa, delta, .sys, behind⟩
  s.orHold a (s.makePhys a)

/-- Appends an event to the ring (R364): a full ring drops it, and EVTNOTE still rises. `b` holds bytes 1 to 31. -/
def State.event (s : State) (cause : Nat) (b : List (Nat × List Byte)) : State :=
  let base := s.rd (s.fcb + 40) 8
  let note := s.rd (s.fcb + 48) 8
  let s :=
    if base = 0 then s
    else
      let tail := s.rd base 8
      let head := s.rd (base + 8) 8
      if 256 ≤ tail - head then s
      else
        let slot := base + 64 + 32 * (tail % 256)
        let rec0 := (List.replicate 32 (0#8 : Byte)).set 0 (BitVec.ofNat 8 cause)
        let bytes := (b ++ [(16, toBytes 8 s.cycle.toNat)]).foldl
          (fun (r : List Byte) (p : Nat × List Byte) => (p.2.zipIdx).foldl (fun (r : List Byte) (q : Byte × Nat) => r.set (p.1 + q.2) q.1) r) rec0
        (s.hwWrite slot bytes).wrN base 8 (tail + 1)
  if note = 0 then s else s.addPhys note 1#64 0

/-! ### Counters named by virtual address (R113, R263, R380) -/

/-- The event of a counter addition that is not made (R380): 1 poison, 2 not present, 3 permission, 4 refusal. -/
def State.notMade (s : State) (why : Nat) (ctx : BitVec 10) (va : W64) : State :=
  s.event 7 [(1, toBytes 1 why), (4, toBytes 4 ctx.toNat), (24, toBytes 8 va.toNat)]

/-- An addition with no requester waiting: translated for writing at this moment with the context's tables, made at the
counter's home, and reported by an event where it cannot be made (R380); false while it waits. As a release at cell or system
scope it follows every recall in progress (R95, R103). A counter of another package is updated there. -/
def State.makeVa (s : State) (a : Addition) : State × Bool :=
  if cellUp a.scope && !s.recalls.isEmpty then (s, false)
  else
    match s.translateHome a.die a.ctx a.va .store with
    | .notPresent s => (s.notMade 2 a.ctx a.va, true)
    | .permission s => (s.notMade 3 a.ctx a.va, true)
    | .wait s _ => (s, false)
    | .ok s pa =>
      let flow := unitFlow a.die (homeSlice pa)
      if s.here pa then
        match s.readyLine a.ctx flow (lineOf pa) true with
        | .yes s => (if s.poisoned pa then s.notMade 1 a.ctx a.va else s.addHome pa a.delta, true)
        | .wait s | .fail s _ => (s, false)
      else
        (s.request (s.mkPacket 0x03#8 0x20#8 pa a.ctx flow (strongFlags .rel a.scope) (toBytes 8 a.delta.toNat))
          (.counter a.ctx a.va) true, true)

/-- An addition to a counter named by its virtual address, a release at a scope (R113, R380). -/
def State.addVa (s : State) (die : Nat) (ctx : BitVec 10) (sc : Scope) (va delta : W64) : State :=
  let a : Addition := ⟨s.nextId, die, ctx, false, va, delta, sc, 0⟩
  s.orHold a (s.makeVa a)

/-- Tries an addition that waited again, in its old place. -/
def State.retryAdd (s : State) (a : Addition) : State :=
  let r := if a.phys then s.makePhys a else s.makeVa a
  if r.2 then { r.1 with adds := r.1.adds.filter fun x => x.at_ ≠ a.at_ } else r.1

/-! ### The save region (R330) -/

/-- The areas in use, as base and units. -/
def State.areas (s : State) : List (Nat × Nat) :=
  (s.saved.map fun v => (v.area, v.units)) ++
    s.storeFocus.teams.filterMap fun t => if t.header then none else t.area.map fun a => (a, areaUnits t.groupCount t.rows)

/-- The lowest free run of units, above the header unit. -/
def State.allocArea (s : State) (units : Nat) : Option Nat :=
  let used := s.areas
  let lo := s.regionBase + 4096
  let hi := s.regionBase + s.policy.saveBytes
  let cands := lo :: used.map fun a => a.1 + 4096 * a.2
  let ok := cands.filter fun c =>
    decide (lo ≤ c) && decide (c + 4096 * units ≤ hi) &&
      used.all fun a => decide (c + 4096 * units ≤ a.1) || decide (a.1 + 4096 * a.2 ≤ c)
  ok.foldl (fun (m : Option Nat) c => match m with
    | none => some c
    | some x => some (min x c)) none

/-- A counter of the header unit for a team kept on its core: the first that no other such team has. The unit holds 512 of
them; where all are taken, which counter a further team gets is not said, and it shares the first (R330; log 81: a design
choice). -/
def State.headerSlot (s : State) : Nat :=
  let used := s.storeFocus.teams.filterMap fun t => if t.header then t.area else none
  (((List.range 512).map fun k => s.regionBase + 8 * k).find? fun a => !used.contains a).getD s.regionBase

/-- Gives the current team its resume counter, in a save area or, when the region has no room, in the header unit
(R311, R330). -/
def State.ensureArea (s : State) : State :=
  match s.t.area with
  | some _ => s
  | none =>
    match s.allocArea (areaUnits s.t.groupCount s.t.rows) with
    | some a => ({ s with t := { s.t with area := some a } }).wrN a 8 0
    | none =>
      let a := s.headerSlot
      ({ s with t := { s.t with area := some a, header := true } }).wrN a 8 0

/-- The address of the current team's resume counter, 0 when it has none. -/
def State.resumeAddr (s : State) : Nat := s.t.area.getD 0

/-- Raises the resume counter of the current team (R302, R311). -/
def State.raiseResume (s : State) (n : Nat) : State :=
  State.wrN { s with t := { s.t with raised := true, zeroed := false } } s.resumeAddr 8 (s.rd s.resumeAddr 8 + n)

/-- An update from outside the team has been performed: where it has left a resume counter at 0, the team's resumption is due
(R311). Later updates of that counter have no further effect. -/
def State.latchResume (s : State) : State :=
  let hit (t : Team) : Bool := t.raised && !t.zeroed && t.area.isSome && s.rd (t.area.getD 0) 8 == 0
  let now (v : Saved) : Bool := !v.eligible && !v.zeroed && s.rd v.area 8 == 0
  { s with
    teams := updWhere hit (fun t => { t with zeroed := true }) s.teams
    t := if hit s.t then { s.t with zeroed := true } else s.t
    saved := updWhere now (fun v => { v with zeroed := true }) s.saved
    due := s.due ++ (((s.teams.filter hit).map (·.tid)) ++ (s.saved.filter now).map (·.tid)).map Instr.teamResume }

/-! ### Ending a context (R312) -/

/-- Ends a context on this package. -/
def State.terminate (s : State) (ctx : BitVec 10) : State :=
  let s := s.wrN (s.desc ctx + 10) 1 3
  let dead := s.tiles.filter fun t => t.ctx = ctx
  let s := s.addPoison (dead.flatMap (·.frames))
  let gone := (s.teams.filter fun t => t.ctx = ctx).map (·.tid)
  { s with
    tiles := s.tiles.filter fun t => t.ctx ≠ ctx
    triggers := s.triggers.filter fun t => t.ctx ≠ ctx
    teams := s.teams.filter fun t => t.ctx ≠ ctx
    t := if s.t.ctx = ctx then { s.t with gone := true } else s.t
    saved := s.saved.filter fun v => v.ctx ≠ ctx
    queues := s.queues.map fun q => q.filter fun e =>
      match e with
      | .saved tid => s.saved.any fun v => v.tid == tid && v.ctx != ctx
      | .grid gid => s.grids.any fun g => g.gid == gid && g.ctx != ctx
    grids := s.grids.filter fun g => g.ctx ≠ ctx
    staging := s.staging.filter fun h => h.ctx ≠ ctx
    nextHandle := s.nextHandle.filter fun h => h.1 ≠ ctx
    mma := s.mma.filter fun m => !gone.contains m.team
    engines := s.engines.map fun e =>
      { e with
        places := e.places.filter fun p => !(p.members.any fun m => gone.contains m.team)
        held := e.held.filter fun h => !gone.contains h.team }
    copies := s.copies.filter fun c => !gone.contains c.team
    acps := s.acps.filter fun c => !gone.contains c.team
    merge := (s.merge.map fun m => { m with waiters := m.waiters.filter fun w => !gone.contains w.team }).filter
      fun m => !m.waiters.isEmpty }

/-! ### The fault record (R304, R305) -/

/-- Writes byte fields into a record. -/
def putFields (len : Nat) (fs : List (Nat × Nat × Nat)) : List Byte :=
  fs.foldl (fun (r : List Byte) f => ((toBytes f.2.1 f.2.2).zipIdx).foldl (fun r q => r.set (f.1 + q.2) q.1) r)
    (List.replicate len 0#8)

/-- The 256 bytes of a fault record of the current group. -/
def State.recordBytes (s : State) (f : FaultInfo) (resume : Nat) : List Byte :=
  putFields 96
    [(0, 1, f.code.toNat), (1, 1, f.pos.toNat), (2, 1, s.g.held.length), (3, 1, s.g.id), (4, 2, s.t.ctx.toNat),
     (6, 2, s.t.core), (8, 4, f.lpc.toNat), (12, 4, f.lanes.toNat), (16, 4, f.active.toNat), (20, 4, s.g.yielded.toNat),
     (24, 4, f.waitm.toNat), (28, 4, s.g.exited.toNat), (32, 8, s.t.grid), (40, 4, s.t.x.toNat), (44, 2, s.t.y.toNat),
     (46, 2, s.t.z.toNat), (48, 8, f.addr.toNat), (56, 8, f.detail.toNat), (64, 8, f.cycle.toNat), (72, 8, resume)]
    ++ (lanes.flatMap fun i => toBytes 4 (s.g.lpc[i]).toNat) ++ lanes.map fun i => s.g.dep[i]

/-- The queue's record count exponent, from the descriptor (R298). -/
def logSize (x : Nat) : Nat := if x = 0 then 6 else if x ≤ 5 then 6 else if 16 < x then 16 else x

/-- The disposition of a code: 2 bits of DISP, whose default 0x0200_0000 stands for 0; 3 acts as 0 (R298, R302). -/
def State.disposition (s : State) (ctx : BitVec 10) (code : BitVec 8) : Nat :=
  let d := s.descField ctx 44 4
  let d := if d = 0 then 0x0200_0000 else d
  let x := bitsAt d (2 * code.toNat) 2
  if x = 3 then 0 else x

/-- Raises NOTIFY by 1, unless its address is 0 (R302). -/
def State.notify (s : State) (ctx : BitVec 10) : State :=
  let a := s.descField ctx 48 8
  if a = 0 then s else s.addPhys a 1#64 0

/-- Lowers HANDLER by 1 after NOTIFY has risen, unless its address is 0 (R302). -/
def State.handler (s : State) (ctx : BitVec 10) : State :=
  let a := s.descField ctx 56 8
  if a = 0 then s else s.addPhys a (BitVec.allOnes 64) (s.descField ctx 48 8)

/-- NOTIFY has not risen yet (R302). -/
def State.notifyLeft (s : State) (ctx : BitVec 10) : Bool :=
  let a := s.descField ctx 48 8
  a != 0 && s.addsLeft a s.nextId

/-- Sets the current group's status. -/
def State.setStatus (s : State) (x : GroupStatus) : State := { s with g := { s.g with status := x } }

/-- Marks the current team for saving; a team in the header unit stays on its core (R330). A save under way
keeps its cause when a second one comes up while the team drains (log 79). -/
def State.askSave (s : State) (c : SaveCause) : State :=
  match s.t.saving with
  | some _ => s
  | none => if s.t.header then s else { s with t := { s.t with saving := some c } }

/-- The context's fault queue: its base, 0 when it has none, and its number of records (R298, R303). -/
def State.queueBase (s : State) : Nat := s.descField s.t.ctx 32 8

def State.queueSize (s : State) : Nat := 2 ^ logSize (s.descField s.t.ctx 40 1)

/-- The slot of the next record. -/
def State.queueSlot (s : State) : Nat := s.queueBase + 256 + 256 * (s.rd s.queueBase 8 % s.queueSize)

/-- Writes one record at the queue's tail and counts it (R303, R301). -/
def State.appendRecord (s : State) (f : FaultInfo) (resume : Nat) : State :=
  let base := s.queueBase
  let tail := s.rd base 8
  let s := (s.hwWrite s.queueSlot (s.recordBytes f resume)).wrN base 8 (tail + 1)
  { s with trapseq := s.trapseq + 1#64 }

/-- The context has a fault queue. -/
def State.hasQueue (s : State) : Bool := s.queueBase != 0

/-- The queue has room: tail − head is below 2^FQSIZE (R303). -/
def State.queueRoom (s : State) : Bool :=
  let base := s.queueBase
  (BitVec.ofNat 64 (s.rd base 8) - BitVec.ofNat 64 (s.rd (base + 8) 8)).toNat != s.queueSize

/-- Goes on with a record to be written, once the package holds the lines of the queue's counts and of the slot, wherever
they are homed, and the queue has room; otherwise the group waits (R303). -/
def State.withQueue (s : State) (f : FaultInfo) (k : WaitKind) (go : State → State) : State :=
  let flow := unitFlow s.myDie 0
  match s.readyLines s.t.ctx flow [lineOf s.queueBase] with
  | .wait s | .fail s _ => s.setStatus (.queueWait f k)
  | .yes s =>
    if !s.queueRoom then s.setStatus (.queueWait f k)
    else
      match s.readyLines s.t.ctx flow [lineOf s.queueSlot, lineOf (s.queueSlot + 128)] with
      | .wait s | .fail s _ => s.setStatus (.queueWait f k)
      | .yes s => go s

/-- Another group of the context still writes the record of a FINAL (R344). -/
def State.finalLeft (s : State) : Bool :=
  s.storeFocus.teams.any fun t => t.ctx == s.t.ctx && t.groups.any fun g =>
    match g.status with
    | .queueWait _ k => k == .both || k == .finaled
    | _ => false

/-- Some group of the context has ended it with its record (R344). -/
def State.condemned (s : State) : Bool :=
  s.storeFocus.teams.any fun t => t.ctx == s.t.ctx && t.groups.any fun g => g.status == .condemned

/-- A context is to end with this group's record: it does once every group of the same FINAL has written its own, and NOTIFY
has risen (R302, R312, R344). -/
def State.endContext (s : State) : State := if s.finalLeft || s.notifyLeft s.t.ctx then s else s.terminate s.t.ctx

/-- Writes a record and applies the disposition (R302): parked with its team, or, under disposition 2, ended with its context. -/
def State.applyDisposition (s : State) (f : FaultInfo) : State :=
  let ctx := s.t.ctx
  match s.disposition ctx f.code with
  | 2 =>
    (((s.appendRecord f 0).notify ctx).setStatus .condemned).endContext
  | d =>
    let s := s.ensureArea
    let s := (s.appendRecord f s.resumeAddr).raiseResume 1
    let s := (s.notify ctx).setStatus .stopped
    let s := if d = 1 then s.handler ctx else s
    let s := s.askSave .park
    if s.condemned then s.endContext else s

/-- Delivers a record and applies the disposition (R301-R303). With no queue every disposition acts as 2 and no record is
written. `k` says what the group waits for where the record cannot be written yet. -/
def State.deliverRecord (s : State) (f : FaultInfo) (k : WaitKind) : State :=
  if !s.hasQueue then ((s.notify s.t.ctx).setStatus .condemned).endContext
  else s.withQueue f k fun s => s.applyDisposition f

/-- The page of a fault for the merge table. -/
def pageOf (va : W64) : Nat := vaNum va / 4096

/-- Writes the first record of a fault that is entered in the merge table, RESUME 0 (R310); without a queue no record is
written (R302). -/
def State.firstRecord (s : State) (f : FaultInfo) (k : WaitKind) (go : State → State) : State :=
  if !s.hasQueue then go s else s.withQueue f k fun s => go (s.appendRecord f 0)

/-- Enters a not-present or permission fault in the die's merge table (R310, R343): a new key has its record written; a known
key joins its list; a full table keeps the group stopped. -/
def State.enterMerge (s : State) (f : FaultInfo) : State :=
  let die := s.myDie
  let ctx := s.t.ctx
  let page := pageOf f.addr
  let same : MergeEntry → Bool := fun m => m.die == die && m.ctx == ctx && m.page == page
  if s.merge.any same then
    let joined := updWhere same (fun m => { m with waiters := m.waiters ++ [s.me] }) s.merge
    State.setStatus { s with merge := joined } (.merged f)
  else if 256 ≤ (s.merge.filter fun m => m.die = die).length then s.setStatus (.mergeFull f)
  else
    State.firstRecord { s with merge := s.merge ++ [⟨die, ctx, page, [s.me]⟩] } f .entered fun s => s.setStatus (.merged f)

/-- Delivers a fault: codes 6 and 7 go through the merge table (R310). The context's descriptor is read (R297). -/
def State.deliver (s : State) (f : FaultInfo) : State :=
  let s := s.readDesc s.t.ctx
  if f.code = 0x06#8 ∨ f.code = 0x07#8 then s.enterMerge f else s.deliverRecord f .final

/-! ### Taking a fault or trap (R301, R305, R309, R379) -/

/-- Takes a fault of the current group. A POS-1 fault brings the operation to be logged; where the log is full, the entry
is held behind it (R309), at most 15 of them. -/
def State.takeFault (s : State) (f : FaultInfo) (op : Option Op) : State :=
  match op with
  | none => s.deliver f
  | some o =>
    match s.g.log with
    | none => ({ s with g := { s.g with log := some ⟨o, f, 0#8⟩, replay := false } }).deliver f
    | some _ =>
      if s.g.held.length < 15 then { s with g := { s.g with held := s.g.held ++ [⟨o, f, 0#8⟩] } } else s

/-- The issuing lanes that a POS-0 fault does not report advance (R17, R305; log 16). -/
def State.passRest (s : State) (reported : Mask) : State := s.setG (s.g.advance (s.iss.mask &&& ~~~reported))

/-- The operation is not complete (R143, R146): lanes to perform, failures to take, or registers to write. -/
def Op.isOpen (o : Op) : Bool := o.pend != 0#32 || !o.fails.isEmpty || !o.late.isEmpty

/-- Every instruction that the group has issued has taken its full effect: no operation is open, and no FENCE waits. -/
def Group.quiet (g : Group) : Bool := !g.ops.any Op.isOpen && g.fence.isNone

/-- A fault that leaves its lanes at the word: it is taken once every earlier instruction of the group has taken its full
effect or failed (R38, R146, R379). One of those that fails is taken first, and this one follows it (`Group.stop`). -/
def State.stopFault (s : State) (f : FaultInfo) : State :=
  if s.g.quiet then s.takeFault f none else (s.setStatus (.drain f)).pushDue (.faultTaken s.me)

/-- A fault of a check made at issue (R379), POS 0: no lane takes effect, and the reported lanes stand at the word. The
word counts as issued: every issuing lane's yield bit clears and the starvation counter moves (R17, R29). -/
def State.issueFault (s : State) (code : BitVec 8) (lanes : Mask) (addr detail : W64) : State :=
  (s.commit.passRest lanes).stopFault
    { code := code, pos := 0#8, lpc := s.iss.key.lpc, lanes := lanes, active := lanes, waitm := s.iss.waitm
      addr := addr, detail := detail, cycle := s.cycle }

/-- A check made at issue stops the word (R379). Code 0 says that the check of an address still walks the page tables (R340):
the word has not issued, and the group waits for the line that the walk needs. -/
def State.checkFault (s : State) (code : BitVec 8) (lanes : Mask) (addr detail : W64) : State :=
  if code = 0#8 then
    match s.translate s.t.core s.t.ctx addr .load with
    | .wait s line => s.setStatus (.walk line)
    | _ => s
  else s.issueFault code lanes addr detail

/-- The illegal-instruction fault (R125): every issuing lane, with the word in DETAIL. An illegal word may have no guard to
read: ACTIVE is every issuing lane too (log 58). -/
def State.illegal (s : State) : State := s.issueFault 0x01#8 s.iss.mask 0#64 s.iss.word

/-- A fault that other lanes of the word have passed (R38, POS 0): depth overflow, a bad register. -/
def State.laneFault (s : State) (code : BitVec 8) (lanes active : Mask) (detail : W64) : State :=
  s.stopFault
    { code := code, pos := 0#8, lpc := s.iss.key.lpc, lanes := lanes, active := active, waitm := s.iss.waitm
      addr := 0#64, detail := detail, cycle := s.cycle }

/-- DETAIL of a register-file error: bit 5, and the register in [15:6] (R305). -/
def badDetail (reg : Nat) : W64 := BitVec.ofNat 64 (32 + 64 * reg)

/-- The register that a register-file error of a word names: the first that its lowest bad lane reads (R305; log 17). -/
def Group.badReg (g : Group) (i : Instr) (bad : Mask) : Nat :=
  ((lanesOf bad).findSome? fun l => g.badReads i.reads l).getD 0

/-- The poisoned-data fault of a register-file error in a register (R369). -/
def State.registerFault (s : State) (reg : Nat) (bad active : Mask) : State :=
  s.laneFault 0x09#8 bad active (badDetail reg)

/-- A register-file error met by a word whose lanes act together: no lane takes effect, and every active lane is reported
(log 17). -/
def State.registerStop (s : State) (i : Instr) (act : Mask) : State :=
  (s.commit.passRest act).registerFault (s.g.badReg i act) act act

/-! ### Issuing a word -/

/-- What every word does at issue: the module is on, the registers it names exist (R41), and then its own effect. -/
def State.issueWord (s : State) (i : Instr) (f : State → State) : Host.Outcome State Fault Refusal :=
  if s.power = .off then .fault .moduleOff
  else if s.g.inAlloc i then .next (f s)
  else .next s.illegal

/-- A vector word that acts in its active lanes (R17, R153): lanes that meet a bad register are reported and keep their
place; every other issuing lane goes on. -/
def State.vec (s : State) (i : Instr) (guard : BitVec 7) (f : Mask → Group → Group) :
    Host.Outcome State Fault Refusal :=
  s.issueWord i fun s =>
    let act := s.iss.mask &&& s.g.pred guard
    let bad := s.g.badLanes i act
    let s' := s.commit
    let s' := s'.setG ((f (act &&& ~~~bad) s'.g).advance (s.iss.mask &&& ~~~bad))
    if bad = 0#32 then s' else s'.registerFault (s.g.badReg i bad) bad act

/-- A vector word whose effect reaches beyond the group: as `vec`, with the active lanes given to `f` after every issuing
lane has advanced. -/
def State.vecThen (s : State) (i : Instr) (guard : BitVec 7) (f : Mask → State → State) :
    Host.Outcome State Fault Refusal :=
  s.issueWord i fun s =>
    let act := s.iss.mask &&& s.g.pred guard
    let bad := s.g.badLanes i act
    let s' := s.commit
    let s' := f (act &&& ~~~bad) (s'.setG (s'.g.advance (s.iss.mask &&& ~~~bad)))
    if bad = 0#32 then s' else s'.registerFault (s.g.badReg i bad) bad act

/-- A word that acts once for the group when some issuing lane is active (R235, R243): otherwise it is a NOP. -/
def State.once (s : State) (i : Instr) (guard : BitVec 7) (f : Mask → State → State) : Host.Outcome State Fault Refusal :=
  s.issueWord i fun s =>
    let act := s.iss.mask &&& s.g.pred guard
    if act = 0#32 then
      let s := s.commit
      s.setG (s.g.advance s.iss.mask)
    else
      let bad := s.g.badLanes i act
      if bad = 0#32 then f act s else s.registerStop i act

/-- A cross-lane word (R208): its active lanes act together. -/
def State.cross (s : State) (i : Instr) (guard : BitVec 7) (f : Mask → Group → Group) :
    Host.Outcome State Fault Refusal :=
  s.issueWord i fun s =>
    let act := s.iss.mask &&& s.g.pred guard
    if s.g.badLanes i act = 0#32 then
      let s := s.commit
      s.setG ((f act s.g).advance s.iss.mask)
    else s.registerStop i act

/-- A scalar-unit word (R138): it executes once when its guard, after negation, is true; `f` gives the group afterwards,
before the issuing lanes advance. -/
def State.unit (s : State) (i : Instr) (q : BitVec 4) (neg : Bool) (f : State → State) : Host.Outcome State Fault Refusal :=
  s.issueWord i fun s =>
    if s.g.qp q != neg then
      let bad := s.g.badLanes i s.iss.mask
      if bad = 0#32 then f s else s.registerStop i s.iss.mask
    else
      let s := s.commit
      s.setG (s.g.advance s.iss.mask)

/-- A scalar-unit word whose effect is on the group alone. -/
def State.unitG (s : State) (i : Instr) (q : BitVec 4) (neg : Bool) (f : Group → Group) :
    Host.Outcome State Fault Refusal :=
  s.unit i q neg fun s =>
    let s := s.commit
    s.setG ((f s.g).advance s.iss.mask)

/-- The events of the table: nothing happens to a module that is off. -/
def State.ev (s : State) (f : State → State) : Host.Outcome State Fault Refusal :=
  if s.power = .off then .fault .moduleOff else .next (f s)

/-- An event about one group: nothing happens when the group is not resident. -/
def State.evGroup (s : State) (r : GroupRef) (f : State → State) : Host.Outcome State Fault Refusal :=
  s.ev fun s => s.withGroup r f

/-! ### Return from a fault (R308, R310, R311) -/

/-- The group resumes in place: it issues again, its log, if any, performed first (R308, R310); after a starvation trap it
counts from 0 (R332). -/
def State.resumeInPlace (s : State) : State :=
  { s with g := { s.g with
      status := if s.mma.any fun m => m.team == s.t.tid && m.group == s.g.id then .rendezvous else .running
      replay := s.g.log.isSome
      starve := if s.g.starved then 0#64 else s.g.starve
      starved := false } }

end Sys2Proof.Machine
end

