-- ==== Sys2Proof/Machine/Issue.lean ====
section
/-! DEFINITION. Which word a group issues and when: fetch and decode (R19, R125), the waits of windows, interlocks and
fences, what holds an issued access at the core (R31, R103-R105, R107, R109, R143-R146, R168, R173), the choice of a
quadrant among its groups (R32), and the turns that are no operation of the table. -/

namespace Sys2Proof

/-- The word belongs to the scalar unit: the U-form words, which own s and q (R144). -/
def Instr.isU : Instr → Bool
  | .sadd _ | .saddIs _ | .ssub _ | .smul _ | .smad _ | .sand _ | .sandIu _ | .sor _ | .sorIu _ | .sxor _ | .sxorIu _
  | .sshl _ | .sshlIu _ | .sshr _ | .sshrIu _ | .ssar _ | .ssarIu _ | .smovi _ | .smovhi _ | .scmpEq _ | .scmpLt _
  | .scmpLe _ | .scmpLtU _ | .scmpLeU _ | .ssel _ | .sbra _ | .sld _ | .sst _ | .sread _ | .sreadW _ | .speer _ => true
  | _ => false

/-- Long-latency reads of memory: the operations whose value binds on completion (R107, R143). -/
def Instr.isRead : Instr → Bool
  | .ldv _ | .lds _ | .sld _ | .cread _ | .atom _ | .atoms _ | .casw _ | .enq _ | .chld _ => true
  | _ => false

/-- Long-latency floating-point operations (R197, R198). -/
def Instr.isLongFloat : Instr → Bool
  | .fdivF64 .. | .fsqrtF64 .. | .fdivF32 .. | .fsqrtF32 .. | .frcp .. | .frsq .. | .fexp2 .. | .flog2 .. | .fsin ..
  | .fcos .. => true
  | _ => false

/-- The words whose part in flight is a wait at an engine or a home and no access of the group's own (R143). -/
def Instr.isEngine : Instr → Bool
  | .mma _ | .accopen _ | .accclose _ | .tcopy _ | .glaunch _ | .tlaunch _ | .acp _ => true
  | _ => false

/-- The word is PREFETCH. -/
def Instr.isPrefetch : Instr → Bool
  | .prefetch _ => true
  | _ => false

/-- The word is MMA. -/
def Instr.isMma : Instr → Bool
  | .mma _ => true
  | _ => false

/-- The word accesses memory or scratchpad, itself or through an engine. -/
def Instr.isMemory : Instr → Bool
  | .ldv _ | .stv _ | .lds _ | .sts _ | .prefetch _ | .atom _ | .red _ | .atoms _ | .casw _ | .enq _ | .chld _ | .stc _
  | .fence _ | .acp _ | .cinc _ | .cdec _ | .cwait _ | .cread _ | .binit _ | .barrive _ | .bwait _ | .mma _ | .accopen _
  | .accclose _ | .tcopy _ | .glaunch _ | .tlaunch _ | .sld _ | .sst _ | .svc _ => true
  | _ => false

/-- The word, an acquire, and its scope (R100). -/
def Instr.acquire : Instr → Option Scope
  | .ldv m | .lds m => match m.acc with | .strong .acq sc => some sc | _ => none
  | .sld u => match u.acc with | .strong .acq sc => some sc | _ => none
  | .atom m | .red m | .atoms m => match m.kind with | .acq | .ar => some m.scope | _ => none
  | .casw m => match m.kind with | .acq | .ar => some m.scope | _ => none
  | .chld m => match m.kind with | .acq => some m.scope | _ => none
  | .cread g => match g.kind with | .acq => some g.scope | _ => none
  | .cwait g => some g.scope
  | .bwait _ => some .team
  | _ => none

/-- The word is a release (R100): the reads issued before it bind first (R103). -/
def Instr.isRelease : Instr → Bool
  | .stv m | .sts m => match m.acc with | .strong .rel _ => true | _ => false
  | .sst u => match u.acc with | .strong .rel _ => true | _ => false
  | .atom m | .red m | .atoms m => match m.kind with | .rel | .ar => true | _ => false
  | .casw m => match m.kind with | .rel | .ar => true | _ => false
  | .enq m => m.kind == .rel
  | .stc m => m.kind == .rel
  | .cinc g | .cdec g => g.kind == .rel
  | .barrive _ | .glaunch _ | .tlaunch _ | .tcopy _ | .acp _ | .accclose _ | .svc _ => true
  | _ => false

/-- The read-modify-writes and scratchpad stores that no word waits for. -/
def Instr.isSide : Instr → Bool
  | .red _ | .cinc _ | .cdec _ | .sts _ | .binit _ | .barrive _ => true
  | .sst u => u.sp
  | _ => false

/-- The stores to generic memory: their bytes pass through the core's L1 (R95). -/
def Instr.isPosted : Instr → Bool
  | .stv _ | .stc _ => true
  | .sst u => !u.sp
  | _ => false

/-- The word only reads memory. -/
def Instr.onlyReads : Instr → Bool
  | .ldv _ | .lds _ | .sld _ | .cread _ | .chld _ | .cwait _ | .bwait _ => true
  | _ => false

/-- Bytes that one lane of a word touches, and whether they are in scratchpad; none where its words do not say. -/
def Instr.footSize : Instr → Option (Bool × Nat)
  | .ldv m => some (false, m.size.bytes)
  | .lds m => some (true, m.size.bytes)
  | .stv m => some (false, m.size.bytes)
  | .sts m => some (true, m.size.bytes)
  | .atom m | .red m => some (false, if m.wide8 then 8 else 4)
  | .atoms m => some (true, if m.wide8 then 8 else 4)
  | .sld u => some (u.sp, u.size.bytes)
  | .sst u => some (u.sp, u.size.bytes)
  | .casw m => some (false, if m.wide32 then 32 else 16)
  | .cread g => some (g.sp, 8)
  | .cinc g | .cdec g => some (g.sp, 8)
  | .binit _ | .barrive _ => some (true, 16)
  | _ => none

/-- The access is strong. -/
def Acc.isStrong : Acc → Bool
  | .strong _ _ => true
  | .wk => false

/-- The accesses of the word to generic memory are strong (R90): loads and stores that say so, and every read-modify-write,
counter access and chain. -/
def Instr.isStrong : Instr → Bool
  | .ldv m => m.acc.isStrong
  | .stv m => m.acc.isStrong
  | .sld u => !u.sp && u.acc.isStrong
  | .sst u => !u.sp && u.acc.isStrong
  | .cread g => !g.sp
  | .cinc g | .cdec g | .cwait g => !g.sp
  | .atom _ | .red _ | .casw _ | .enq _ | .chld _ | .stc _ => true
  | _ => false

/-- The word's own accesses, generic or to scratchpad, are strong (R90). -/
def Instr.strongAt : Instr → Bool
  | .ldv m | .lds m => m.acc.isStrong
  | .stv m | .sts m => m.acc.isStrong
  | .sld u => u.acc.isStrong
  | .sst u => u.acc.isStrong
  | _ => true

/-- The word waits for a value. -/
def Instr.waits : Instr → Bool
  | .cwait _ | .bwait _ => true
  | _ => false

/-- The word only writes. -/
def Instr.onlyWrites : Instr → Bool
  | .stv _ | .sts _ | .sst _ | .binit _ => true
  | _ => false

/-- The word accesses memory once for its group, for no lane (R222, R235, R239). -/
def Instr.forGroup : Instr → Bool
  | .sld _ | .sst _ | .cread _ | .cinc _ | .cdec _ | .binit _ | .barrive _ => true
  | _ => false

end Sys2Proof

namespace Sys2Proof.Machine

/-! ### Fetch (R19) -/

/-- A fetch: the word, a translation fault at an address, a line on its way, or none. -/
inductive Fetched where
  | word (s : State) (w : W64)
  | fault (s : State) (code : BitVec 8) (va : W64)
  | wait (s : State)

/-- The code base of the current group's grid (R19, R260). -/
def State.codeBase (s : State) : W64 :=
  match s.grids.find? fun g => g.gid = s.t.grid with
  | some g => g.record.codeBase
  | none => 0#64

/-- The address of the word at an LPC (R19). -/
def State.codeAddr (s : State) (lpc : W32) : W64 := s.codeBase + 8#64 * lpc.zeroExtend 64

/-- Fetches the word at an LPC through the core's translation, at its home (log 13). A line that its home answers as not
present gives the not-present fault, a poisoned one the poison fault, and one that cannot be had the fabric timeout; R19 names
translation faults alone, and the model reports all three at the fetch, POS 0 (log 82: a design choice). -/
def State.fetch (s : State) (lpc : W32) : Fetched :=
  let va := s.codeAddr lpc
  match s.translate s.t.core s.t.ctx va .fetch with
  | .notPresent s => .fault s 0x06#8 va
  | .permission s => .fault s 0x07#8 va
  | .wait s _ => .wait s
  | .ok s pa =>
    match s.readyLine s.t.ctx s.myFlow (lineOf pa) false with
    | .yes s => if s.poisoned pa then .fault s 0x09#8 va else .word s (BitVec.ofNat 64 (ofBytes (s.homeBytes pa 8)))
    | .wait s => .wait s
    | .fail s st =>
      if st = 1 then .wait (((s.dropVa s.t.core s.t.ctx va).translate s.t.core s.t.ctx va .fetch).reask 0#8 s.t.ctx s.myFlow false)
      else .fault s (if st = 4 then 0x06#8 else 0x0B#8) va

/-! ### The record of a chain (R230) -/

def sizeOf (n : Nat) : Size :=
  match n with
  | 0 => .b1 | 1 => .b2 | 2 => .b4 | 3 => .b8 | _ => .b16

/-- The reads of a chain before its final one, from its header. -/
def chainSteps (gops : List W64) : Nat := ((gops.getD 0 0#64).toNat) % 16

/-- The size of a chain's final read, from its header. -/
def chainSize (gops : List W64) : Size := sizeOf ((gops.getD 0 0#64).toNat / 16 % 8)

/-! ### Waits before issue -/

/-- A store or read-modify-write that no word waits for: it is no marked instruction (R143). -/
def Op.isStore (o : Op) : Bool := !(o.instr.isRead || o.instr.isLongFloat || o.instr.isEngine)

/-- The operation is incomplete in the sense of R143: a register is to be written in a lane that is not parked-split, or
the engine has not accepted its command. -/
def Op.incomplete (o : Op) : Bool :=
  !o.isStore && ((o.pend &&& ~~~o.parked) != 0#32 || !o.late.isEmpty || o.fails.any fun f => !o.parked.getLsbD f.lane.val)

/-- The record of a TCOPY or a launch in flight has not been read: its checks are to be made before any later word issues
(R146, R257, R261). GROUPOPS then hold the addresses of the record and the counter alone. -/
def Op.unread (o : Op) : Bool :=
  match o.instr with
  | .tcopy _ | .glaunch _ | .tlaunch _ => o.gops.length == 3
  | _ => false

/-- Such an operation is still to make its checks. -/
def Op.unchecked (o : Op) : Bool := o.pend != 0#32 && o.unread

/-- The word that follows the window waits for the operation (R143, R145); parked lanes hold nothing back (R26). -/
def Op.blocks (o : Op) : Bool := (o.incomplete && o.win == 0) || o.unchecked

/-- Every lane of the operation has replied, and some failed: no word issues any more (R146). -/
def Op.failed (o : Op) : Bool := o.pend == 0#32 && o.late.isEmpty && !o.fails.isEmpty

/-- The starvation threshold of a context (R30, R298). -/
def State.threshold (s : State) (ctx : BitVec 10) : W64 :=
  let k := s.descField ctx 11 1
  BitVec.ofNat 64 (2 ^ (if 12 ≤ k ∧ k ≤ 40 then k else 24))

/-- The vector registers an operation writes, as first and count: a CHLD's number follows from its record (R230). -/
def Op.writesV (o : Op) : List (BitVec 7 × Nat) :=
  match o.instr with
  | .chld m => [(m.d, (chainSize o.gops).regs)]
  | i => i.writesV

/-- No write to v(a) to v(a + 15) is pending in any lane (R250). -/
def Group.settled (g : Group) (a : BitVec 7) : Bool :=
  let meets (o : Op) : Bool := o.writesV.any fun w =>
    decide (w.1.toNat < a.toNat + 16) && decide (a.toNat < w.1.toNat + w.2)
  !(g.ops.any fun o => o.isOpen && meets o) && !(g.log.toList ++ g.held).any fun e => meets e.op

/-- The TCOPY commands that the engine of a core holds or has still to accept (R257). -/
def State.copiesOn (s : State) (core : Nat) : Nat :=
  s.copies.countP (fun c => c.core == core) +
    ((s.storeFocus.teams.filter fun t => t.core = core).map fun t => (t.groups.map fun g => g.ops.countP fun o =>
      match o.instr with
      | .tcopy _ => o.pend != 0#32
      | _ => false).sum).sum

/-- The group may issue as far as its own condition goes (R30, R31). -/
def State.mayIssue (s : State) : Bool :=
  (match s.g.status with
   | .running => true
   | .tcopy => decide (s.copiesOn s.t.core < 8)
   | .walk l => !s.frozen l && !(s.recalls.any fun r => r.line == l) &&
       !(s.reqs.any fun r => r.reply.isNone && r.purpose == .fill l)
   | _ => false) &&
    (!s.g.needLatch || s.g.watch.isNone) && (s.g.needA.all fun a => s.g.settled a) && s.g.shrinkTo.isNone &&
    !s.g.replay && s.g.held.isEmpty && s.g.stop.isNone && s.t.saving.isNone && !s.t.header && !s.g.retired &&
    decide (s.g.starve.toNat < (s.threshold s.t.ctx).toNat) &&
    !s.g.ops.any Op.failed && !s.g.ops.any Op.blocks

/-- Two byte ranges meet. -/
def rangesMeet (a n b m : Nat) : Bool := decide (a < b + m) && decide (b < a + n)

/-- The frame an access of the current group would reach, where its address has a translation. -/
def State.paOf (s : State) (va : W64) : Option Nat :=
  match s.translate s.t.core s.t.ctx va .load with
  | .ok _ pa => some pa
  | _ => none

/-- The bytes of one lane's access meet those of another's, by virtual address or by frame (R5, R98, R99, R105). -/
def State.meet1 (s : State) (sp : Bool) (a : W64) (n : Nat) (b : W64) (m : Nat) : Bool :=
  rangesMeet a.toNat n b.toNat m ||
    (!sp && (match s.paOf a, s.paOf b with
      | some x, some y => rangesMeet x n y m
      | _, _ => false))

/-- An access of `o` may touch a byte that a pending lane of the earlier `p` touches, and the two are ordered: one lane makes
both, and one of them writes (R99, R102, R105); or both are strong, and `p` writes or `o` reads (R98). An access made once
for the group is no lane's and meets every lane's. Where the bytes are not known they meet, but a CWAIT or BWAIT returns
no value that a read before it could contradict. -/
def State.overlaps (s : State) (o p : Op) : Bool :=
  let strong := o.instr.strongAt && p.instr.strongAt && !(o.instr.onlyWrites && p.instr.onlyReads)
  let reads := o.instr.onlyReads && p.instr.onlyReads
  match o.instr.footSize, p.instr.footSize with
  | some (sp, n), some (sq, m) =>
    sp == sq && (lanesOf (o.pend &&& ~~~o.sent)).any fun l => (lanesOf (p.pend &&& ~~~p.sent)).any fun k =>
      (strong || (!reads && (l == k || o.instr.forGroup || p.instr.forGroup))) &&
        s.meet1 sp (o.lanes[l]).addr n (p.lanes[k]).addr m
  | _, _ => !reads || (strong && !o.instr.waits)

/-- Lanes of the operation have not bound, performed or entered the L1 yet. -/
def Op.unbound (o : Op) : Bool := o.pend &&& ~~~o.sent != 0#32 || !o.fails.isEmpty

/-- Some lane of `o` still to be performed accesses the line of an address. -/
def Op.inLine (o : Op) (va : W64) : Bool :=
  (lanesOf (o.pend &&& ~~~o.sent)).any fun l => lineOf (o.lanes[l]).addr.toNat == lineOf va.toNat

/-- A strong access of `o` may touch a line at which an earlier strong access of the group has been refused as moved: an
operation's, or a posted store's (R345). -/
def State.behindMoved (s : State) (o : Op) : Bool :=
  o.instr.isStrong &&
    (((s.g.ops.takeWhile fun p => p.id != o.id).any fun p =>
        p.moved && (lanesOf (p.pend &&& ~~~p.sent)).any fun l => o.inLine (p.lanes[l]).addr) ||
      s.posted.any fun e => e.moved && e.team == s.t.tid && e.group == s.g.id && decide (e.part.1 < o.id) && o.inLine e.va)

/-- A lane of `p` still to be performed may write bytes of the record that a TCOPY or a launch reads (R257, R261). -/
def State.meetsRecord (s : State) (o p : Op) : Bool :=
  match p.instr.footSize with
  | some (sp, n) => !sp && (lanesOf (p.pend &&& ~~~p.sent)).any fun k => s.meet1 false (o.gops.getD 0 0#64) 64 (p.lanes[k]).addr n
  | none => true

/-- The earlier operation `p` of the current group holds back the access of `o`: `p` is an acquire that has not bound
(R104); a read whose window had closed when `o` issued (R107); an access that a release follows (R103); or one that meets
its bytes (R98, R99, R102, R105), every write before an engine's command being one of them (R113). The read of a record
follows the group's writes to it, and no other (R257, R261). A PREFETCH takes no part in the order of accesses (R221). -/
def State.holds (s : State) (o p : Op) : Bool :=
  p.unbound && !p.instr.isMma && !p.instr.isLongFloat && !p.instr.isPrefetch &&
    (p.instr.acquire.isSome ||
      if o.instr.isPrefetch then false
      else if o.unchecked then (p.instr.isSide || p.instr.isPosted || !p.instr.onlyReads && p.instr.isRead) && s.meetsRecord o p
      else
        o.after.contains p.id ||
          ((p.instr.isRead || p.instr.isSide || p.instr.isPosted || p.instr.isEngine) && o.instr.isRelease) ||
          (if o.instr.isEngine then p.instr.isSide || p.instr.isPosted
           else (p.instr.isRead || p.instr.isSide || p.instr.isPosted) && s.overlaps o p))

/-- An issued operation of the current group may act; a memory operation is otherwise held at the core (R103-R105, R107,
R345). -/
def State.gate (s : State) (o : Op) : Bool :=
  o.instr.isLongFloat || !(s.g.ops.takeWhile fun p => p.id != o.id).any (s.holds o) && !s.behindMoved o

/-- A word as the operation it would be, with nothing captured but its lanes. -/
def State.bareOp (s : State) (i : Instr) : Op :=
  { id := s.nextId, instr := i, lpc := s.iss.key.lpc, issue := s.iss.mask, active := s.iss.mask, waitm := s.iss.waitm
    win := 0, pend := s.iss.mask, parked := 0#32, sent := 0#32, after := (s.g.ops.filter Op.beyondWindow).map (·.id)
    late := [], moved := false, fails := []
    lanes := Vector.replicate 32 LaneOp.zero, gops := [], cover := ([], []) }

/-- A TCOPY or a launch as the operation it would be with its record unread. -/
def State.recordOp (s : State) (i : Instr) (rec_ ctr : W64) : Op := { s.bareOp i with gops := [rec_, ctr, 0#64] }

/-- The earlier operations of the current group that hold a command back: the engine accepts it, and begins once they let it
(R103, R104, R107, R113). -/
def State.heldBy (s : State) (o : Op) : List Nat :=
  ((s.g.ops.takeWhile fun p => p.id != o.id).filter (s.holds o)).map (·.id)

/-- Waits of a memory word before it issues: a FENCE of the group not complete (R109). -/
def State.memoryReady (s : State) : Bool := s.g.fence.isNone

/-- The scalar registers of a chain record that its steps need, beyond the header (R230). -/
def Group.chainNeeds (g : Group) (e : BitVec 7) : List Nat :=
  let n := (g.sr64 (sreg7 e)).toNat % 16
  (if 1 ≤ n then [e.toNat + 1] else []) ++ (if 5 ≤ n then [e.toNat + 2] else []) ++
    (List.range (min n 8)).map fun k => e.toNat + 3 + k

/-- Waits between the units (R144): a vector word for every pending scalar register it names, a scalar word for those
the vector unit writes, and a vector-class SREAD for a pending vector destination; a parked-split lane's load lands after
that SREAD (R51). -/
def Group.interlocked (g : Group) (i : Instr) : Bool :=
  g.ops.any fun o =>
    o.isOpen &&
      ((!(i.isU && o.instr.isU) && (i.readsS ++ i.writesS).any fun r => o.instr.writesS.contains r) ||
        (i.isU && o.incomplete && i.writesV.any fun w => o.writesV.any fun x => x.1.toNat ≤ w.1.toNat &&
          decide (w.1.toNat < x.1.toNat + x.2)))

/-- The decoded word may issue now. EXIT, BPT and SVC wait for every earlier instruction to complete (R168, R173). -/
def State.wordReady (s : State) (i : Instr) : Bool :=
  !s.g.interlocked i &&
    (!i.isMemory || s.memoryReady) &&
    (match i with
     | .exit _ | .bpt _ | .svc _ => !s.g.ops.any Op.incomplete
     | .mma _ => s.g.watch.isNone
     | .chld m => (s.g.chainNeeds m.e).all fun r => !s.g.ops.any fun o => o.isOpen && o.instr.writesS.contains r
     | .sread u => u.sel != 0x13#8 || !s.g.ops.any fun o => o.isOpen && o.instr.isLongFloat
     | .sreadW _ => !s.g.ops.any fun o => o.isOpen && o.instr.isLongFloat
     | _ => true)

/-! ### Records that a word reads before it issues (R257, R261) -/

/-- Makes the line of a record readable: the core's own pending bytes of it are performed first. -/
def State.recordLine (s : State) (pa : Nat) : Ready :=
  let d := s.drainBytes s.t.core pa 64
  if !d.2 then .wait d.1
  else d.1.readyLine s.t.ctx s.myFlow (lineOf pa) false

/-- A record refused as moved is translated afresh and asked for again (R345). -/
def State.recordMoved (s : State) (rec_ : W64) : State :=
  ((s.dropVa s.t.core s.t.ctx rec_).translate s.t.core s.t.ctx rec_ .load).reask 0#8 s.t.ctx s.myFlow false

/-- The address of the record that a word reads before it issues. -/
def State.recordOf (s : State) (i : Instr) : Option W64 :=
  match i with
  | .tcopy e => if (s.iss.mask &&& s.g.pred e.guard) = 0#32 then none else some (s.g.sr64 (sreg7 e.a))
  | .glaunch e => if (s.iss.mask &&& s.g.pred e.guard) = 0#32 ∨ s.g.id ≠ 0 then none else some (s.g.sr64 (sreg7 e.a))
  | .tlaunch e => if (s.iss.mask &&& s.g.pred e.guard) = 0#32 ∨ s.g.id ≠ 0 then none else some (s.g.sr64 (sreg7 e.a))
  | _ => none

/-- The request ring of a context: its base, 0 when it has none, and its number of slots (R298, R313). -/
def State.ringBase (s : State) (ctx : BitVec 10) : Nat := s.descField ctx 64 8

def State.ringSize (s : State) (ctx : BitVec 10) : Nat := 2 ^ logSize (s.descField ctx 41 1)

/-- The address of the slot taken at a count (R313). -/
def State.slotAddr (s : State) (ctx : BitVec 10) (count : Nat) : Nat :=
  s.ringBase ctx + 128 + 128 * (count % s.ringSize ctx)

/-- The ring's counts, and the slots of `n` calls, wherever they are homed, with the descriptor as read at the call (R297,
R314). -/
def State.ringReady (s : State) (n : Nat) : Ready :=
  if n = 0 then .yes s
  else
    let s := s.readDesc s.t.ctx
    let base := s.ringBase s.t.ctx
    if base = 0 then .yes s
    else
      match s.readyLines s.t.ctx s.myFlow [lineOf base] with
      | .yes s => s.readyLines s.t.ctx s.myFlow ((List.range n).map fun k => s.slotAddr s.t.ctx (s.rd base 8 + k))
      | x => x

/-- Whether the record or the ring of a word can be reached now; the state has asked for its lines. A record that an earlier
access holds back is read once the word is in flight. -/
def State.recordReady (s : State) (i : Instr) : Ready :=
  match i with
  | .svc w => s.ringReady (lanesOf (s.iss.mask &&& s.g.pred w.guard)).length
  | _ =>
    match s.recordOf i with
    | none => .yes s
    | some rec_ =>
      if !s.gate (s.recordOp i rec_ 0#64) then .yes s
      else
        match s.paOf rec_ with
        | none => .yes s
        | some pa => s.recordLine pa

/-- What the current group would do if its quadrant chose it. -/
inductive Prep where
  | none
  | run (i : Instr) (s : State)
  | illegal (s : State)
  | fetchFault (s : State) (code : BitVec 8) (va : W64)
  | stall (s : State)

/-- The issue record of a key. -/
def Group.issueAt (g : Group) (k : Key) (w : W64) : Issue :=
  ⟨g.atKey k, k, w, g.yielded, g.runnable &&& ~~~g.atKey k, []⟩

/-- Selects the key, fetches, decodes and tests the waits of the current group (R18, R19, R125). -/
def State.prep (s : State) : Prep :=
  if !s.mayIssue then .none
  else
    let s := { s with g := { s.g with status := .running } }
    match s.g.selectKey with
    | Option.none => .none
    | some k =>
      match s.fetch k.lpc with
      | .wait s' => if s'.reqs.length = s.reqs.length ∧ s'.recalls.length = s.recalls.length then .none else .stall s'
      | .fault s code va => .fetchFault { s with iss := s.g.issueAt k 0#64 } code va
      | .word s w =>
        let s := { s with iss := s.g.issueAt k w }
        match decode w with
        | Option.none => .illegal s
        | some i =>
          if !s.wordReady i then .none
          else
            match s.recordReady i with
            | .yes _ => .run i s
            | .fail s' _ => .stall s'
            | .wait s' =>
              if s'.reqs.length = s.reqs.length ∧ s'.recalls.length = s.recalls.length ∧ s'.posted.length = s.posted.length then .none
              else .stall s'

/-- The fault of a fetch (R19, R305): POS 0, the issuing lanes reported, DETAIL[4] set for codes 6 and 7. -/
def State.fetchTrap (s : State) (code : BitVec 8) (va : W64) : State :=
  s.issueFault code s.iss.mask va (if code = 0x06#8 ∨ code = 0x07#8 then 0x10#64 else 0#64)

/-! ### Choosing a group (R32) -/

/-- The groups of a quadrant, in the order of placement and group id. -/
def State.quadrant (s : State) (core quad : Nat) : List GroupRef :=
  (s.teams.filter fun t => t.core = core).flatMap fun t =>
    (t.groups.filter fun g => g.quad = quad).map fun g => ⟨t.tid, g.id⟩

/-- A group ready to issue, with its level and the time of its last issue. -/
structure Candidate where
  level : Nat
  last : Option Nat
  prep : Prep

/-- What a group of a quadrant offers. -/
def State.offer (s : State) (r : GroupRef) : Option Candidate :=
  match s.loadFocus r with
  | none => none
  | some s =>
    match s.prep with
    | .none => none
    | p => some ⟨s.t.level, s.g.lastIssue, p⟩

/-- `a` goes before `b`, which comes later in the order of placement. -/
def Candidate.beats (b a : Candidate) : Bool :=
  decide (a.level < b.level) ||
    (a.level == b.level &&
      match b.last, a.last with
      | none, some _ => true
      | some x, some y => decide (x < y)
      | _, none => false)

/-- The choice of a quadrant: highest level, then least recent issue, then earliest placement, then lowest id (R32). -/
def State.chooseGroup (s : State) (core quad : Nat) : Option Candidate :=
  ((s.quadrant core quad).filterMap s.offer).foldl
    (fun best c => match best with
      | none => some c
      | some b => if c.beats b then some c else some b) none

/-! ### Turns -/

/-- The command at the head of CTXCTL's queue (R300). -/
def ctxctlEvent (w : W64) : Instr :=
  let ctx := w.extractLsb' 0 10
  if w &&& ~~~0xF3FF#64 ≠ 0#64 then .ctxctlInvalidCommand w
  else
    match (w.toNat / 4096) % 16 with
    | 1 => .ctxctlSuspend ctx
    | 2 => .ctxctlResume ctx
    | 3 => .ctxctlTerminate ctx
    | 4 => .ctxctlFlush ctx
    | _ => .ctxctlInvalidCommand w

/-- Each turn passes some core cycles, and later free values are new ones (R52; log 5, 10). -/
def State.tick (s : State) : State :=
  { s with cycle := s.cycle + BitVec.ofNat 64 (Config.elapsed s.fresh), fresh := s.fresh + 1 }

/-! ### Turns that are no operation of the table (log 6) -/

/-- The event of an uncorrectable error: bytes 8-15 name the level and the place in a form the spec does not give
(R364, R369; log 19). -/
def State.errorEvent (s : State) : State := s.event 4 [(8, toBytes 8 (s.freeW 0).toNat)]

/-- Adds a bad register of a group (R369). -/
def State.spoil (s : State) (r : GroupRef) (f : Group → Group) : State :=
  (s.withGroup r fun s => s.setG (f s.g)).errorEvent

/-- A word of a core's L1 takes an uncorrectable error: a copy becomes invalid, a registered word poisons its line
(R369). -/
def State.spoilL1 (s : State) (core word : Nat) : State :=
  let s' := { s with l1 := s.l1.filter fun w => !(w.core == core && w.word == word) }
  match s.l1Word core word with
  | some w => (if w.reg then s'.addPoison [lineOf (4 * word)] else s').errorEvent
  | none => s

/-- A line of another package leaves the LLC: a modified line is written back to its home, with its poison, and the words of
the line in the cores' L1s end with it (R96, R97, R120). A line that an open tile holds stays (R253), and a store half done
there is done first (R242). -/
def State.evictLine (s : State) (line : Nat) : State :=
  match s.llcState line with
  | none => s
  | some st =>
    if (s.tileAt line).isSome then s
    else
      let s := s.finishPairs line
      let s' := { s with
        llc := s.llc.filter fun l => l.line ≠ line
        l1 := s.l1.filter fun w => lineOf (4 * w.word) ≠ line }
      match st with
      | .m | .o =>
        s'.request (s'.mkPacket 0x02#8 2#8 line 0#10 (unitFlow (homeDie line) (homeSlice line))
          (if s.poisoned line then 0x40#8 else 0#8) (s.homeBytes line 128)) (.writeback line) false
      | _ => s'

/-- Lines that a slice of a die holds beside the carve-out: 4 MiB, less its part of the die's carve-out, which the slices share
alike (R1, R87, R88, R347). -/
def State.sliceCap (s : State) (die : Nat) : Nat := 2 ^ 15 - s.carve.toList.getD die 0 * 2 ^ 10

/-- The lines of other packages that stand in a slice. -/
def State.sliceLines (s : State) (die slice : Nat) : List Nat := (s.llc.map (·.line)).filter (inSlice die slice)

/-- Lines leave a slice until it holds no more than it can; a free value picks each, an open tile's lines apart. -/
def State.fitSlice (die slice : Nat) : Nat → State → State
  | 0, s => s
  | fuel + 1, s =>
    if (s.sliceLines die slice).length ≤ s.sliceCap die then s
    else
      let out := (s.sliceLines die slice).filter fun l => (s.tileAt l).isNone
      State.fitSlice die slice fuel (s.evictLine ((out[(s.freeW (11 + fuel)).toNat % out.length]?).getD 0))

/-- A slice holds no more than it can. -/
def State.fitLlc (s : State) (die slice : Nat) : State :=
  State.fitSlice die slice ((s.sliceLines die slice).length - s.sliceCap die) s

end Sys2Proof.Machine
end

