-- ==== Sys2Proof/Machine/Scalar.lean ====
section
/-! DEFINITION. The scalar-unit instructions but for SLD and SST (06 R179-R187; 02 R50-R52; 13 R299, R300). -/

namespace Sys2Proof.Machine

/-- A scalar word with two sources. -/
def State.ubin (s : State) (i : Instr) (u : UBin) (f : W64 → W64 → W64) : Host.Outcome State Fault Refusal :=
  s.unitG i u.q u.neg fun g => g.setS (reg9 u.d) (f (g.sr64 (reg9 u.a)) (g.sr64 (reg9 u.b)))

/-- A scalar word with one source and an immediate. -/
def State.uimm (s : State) (i : Instr) (u : UImm) (f : W64 → W64) : Host.Outcome State Fault Refusal :=
  s.unitG i u.q u.neg fun g => g.setS (reg9 u.d) (f (g.sr64 (reg9 u.a)))

/-- A scalar compare: result, then complement (R183). -/
def State.ucmp (s : State) (i : Instr) (u : UCmp) (f : W64 → W64 → Bool) : Host.Outcome State Fault Refusal :=
  s.unitG i u.q u.neg fun g =>
    let t := f (g.sr64 (reg9 u.a)) (g.sr64 (reg9 u.b))
    (g.setQ u.qd t).setQ u.qc (!t)

/-- SADD (R180). -/
def execSadd (u : UBin) (s : State) : Host.Outcome State Fault Refusal := s.ubin (.sadd u) u fun a b => a + b

/-- SADD is (R180). -/
def execSaddIs (u : UImm) (s : State) : Host.Outcome State Fault Refusal :=
  s.uimm (.saddIs u) u fun a => a + u.imm.signExtend 64

/-- SSUB (R180). -/
def execSsub (u : UBin) (s : State) : Host.Outcome State Fault Refusal := s.ubin (.ssub u) u fun a b => a - b

/-- SMUL (R180). -/
def execSmul (u : UBin) (s : State) : Host.Outcome State Fault Refusal := s.ubin (.smul u) u fun a b => a * b

/-- SMAD (R180). -/
def execSmad (u : UBin) (s : State) : Host.Outcome State Fault Refusal :=
  s.unitG (.smad u) u.q u.neg fun g =>
    g.setS (reg9 u.d) (g.sr64 (reg9 u.d) + g.sr64 (reg9 u.a) * g.sr64 (reg9 u.b))

/-- SAND (R180). -/
def execSand (u : UBin) (s : State) : Host.Outcome State Fault Refusal := s.ubin (.sand u) u fun a b => a &&& b

/-- SAND iu (R180). -/
def execSandIu (u : UImm) (s : State) : Host.Outcome State Fault Refusal :=
  s.uimm (.sandIu u) u fun a => a &&& u.imm.zeroExtend 64

/-- SOR (R180). -/
def execSor (u : UBin) (s : State) : Host.Outcome State Fault Refusal := s.ubin (.sor u) u fun a b => a ||| b

/-- SOR iu (R180). -/
def execSorIu (u : UImm) (s : State) : Host.Outcome State Fault Refusal :=
  s.uimm (.sorIu u) u fun a => a ||| u.imm.zeroExtend 64

/-- SXOR (R180). -/
def execSxor (u : UBin) (s : State) : Host.Outcome State Fault Refusal := s.ubin (.sxor u) u fun a b => a ^^^ b

/-- SXOR iu (R180). -/
def execSxorIu (u : UImm) (s : State) : Host.Outcome State Fault Refusal :=
  s.uimm (.sxorIu u) u fun a => a ^^^ u.imm.zeroExtend 64

/-- SSHL (R181). -/
def execSshl (u : UBin) (s : State) : Host.Outcome State Fault Refusal :=
  s.ubin (.sshl u) u fun a b => a <<< (b.toNat % 256)

/-- SSHL iu (R181). -/
def execSshlIu (u : UImm) (s : State) : Host.Outcome State Fault Refusal :=
  s.uimm (.sshlIu u) u fun a => a <<< (u.imm.toNat % 64)

/-- SSHR (R181). -/
def execSshr (u : UBin) (s : State) : Host.Outcome State Fault Refusal :=
  s.ubin (.sshr u) u fun a b => a >>> (b.toNat % 256)

/-- SSHR iu (R181). -/
def execSshrIu (u : UImm) (s : State) : Host.Outcome State Fault Refusal :=
  s.uimm (.sshrIu u) u fun a => a >>> (u.imm.toNat % 64)

/-- SSAR (R181). -/
def execSsar (u : UBin) (s : State) : Host.Outcome State Fault Refusal :=
  s.ubin (.ssar u) u fun a b => a.sshiftRight (b.toNat % 256)

/-- SSAR iu (R181). -/
def execSsarIu (u : UImm) (s : State) : Host.Outcome State Fault Refusal :=
  s.uimm (.ssarIu u) u fun a => a.sshiftRight (u.imm.toNat % 64)

/-- SMOVI (R182). -/
def execSmovi (u : UConst) (s : State) : Host.Outcome State Fault Refusal :=
  s.unitG (.smovi u) u.q u.neg fun g => g.setS (reg9 u.d) (u.imm.signExtend 64)

/-- SMOVHI (R182). -/
def execSmovhi (u : UImm) (s : State) : Host.Outcome State Fault Refusal :=
  s.uimm (.smovhi u) u fun a => (a <<< 20) ||| u.imm.zeroExtend 64

/-- SCMP.EQ (R183). -/
def execScmpEq (u : UCmp) (s : State) : Host.Outcome State Fault Refusal := s.ucmp (.scmpEq u) u fun a b => a == b

/-- SCMP.LT (R183). -/
def execScmpLt (u : UCmp) (s : State) : Host.Outcome State Fault Refusal := s.ucmp (.scmpLt u) u fun a b => a.slt b

/-- SCMP.LE (R183). -/
def execScmpLe (u : UCmp) (s : State) : Host.Outcome State Fault Refusal := s.ucmp (.scmpLe u) u fun a b => a.sle b

/-- SCMP.LT.U (R183). -/
def execScmpLtU (u : UCmp) (s : State) : Host.Outcome State Fault Refusal := s.ucmp (.scmpLtU u) u fun a b => a.ult b

/-- SCMP.LE.U (R183). -/
def execScmpLeU (u : UCmp) (s : State) : Host.Outcome State Fault Refusal := s.ucmp (.scmpLeU u) u fun a b => a.ule b

/-- SSEL (R184). -/
def execSsel (u : USel) (s : State) : Host.Outcome State Fault Refusal :=
  s.unitG (.ssel u) u.q u.neg fun g =>
    g.setS (reg9 u.d) (if g.qp u.qc then g.sr64 (reg9 u.a) else g.sr64 (reg9 u.b))

/-- SBRA (R185): every issuing lane together. -/
def execSbra (u : UBranch) (s : State) : Host.Outcome State Fault Refusal :=
  s.unit (.sbra u) u.q u.neg fun s =>
    let s := s.commit
    s.setG (s.g.jump s.iss.mask fun l => s.g.lpc[l] + u.imm.signExtend 32)

/-- The peer address of SPEER (R186). -/
def peerAddr (base stride w : W64) (k : Int) : W64 :=
  let rank : Nat := w.toNat % 2 ^ 32
  let n : Nat := w.toNat / 2 ^ 32
  let idx : Nat := if n = 0 then 0 else (((rank : Int) + k) % (n : Int)).toNat
  base + stride * BitVec.ofNat 64 idx

/-- SPEER (R186). -/
def execSpeer (u : UPeer) (s : State) : Host.Outcome State Fault Refusal :=
  s.unitG (.speer u) u.q u.neg fun g =>
    g.setS (reg9 u.d)
      (peerAddr (g.sr64 (reg9 u.a)) (g.sr64 (reg9 u.b)) (g.sr64 ⟨(u.b.toNat + 1) % 512, Nat.mod_lt _ (by decide)⟩) u.imm.toInt)

/-! ### SREAD (R50-R52, R187, R299) -/

/-- The grid of the current group. -/
def State.myGrid (s : State) : Option Grid := s.grids.find? fun g => g.gid = s.t.grid

/-- The status CTXCTL reads: bit 63 while a command waits or runs (R300). -/
def State.ctxctlRead (s : State) : W64 := if s.ctxctlQueue.isEmpty then s.ctxctlStatus else 0x8000_0000_0000_0000#64

/-- A privileged register, as read by a group of context `ctx` (R299). -/
def State.privRead (s : State) (ctx : BitVec 10) (sel : BitVec 8) : W64 :=
  match sel.toNat with
  | 0x80 => s.ctxtab
  | 0x81 => ctx.zeroExtend 64
  | 0x82 => s.supctx.zeroExtend 64
  | 0x83 => s.ctxctlRead
  | _ => s.trapseq

/-- A privileged register written: CTXTAB reads 0 in bits [17:0], SUPCTX has ten bits, CTXCTL takes a command (R299, R300).
The others are not writable. -/
def State.privWrite (s : State) (sel : BitVec 8) (x : W64) : State :=
  match sel.toNat with
  | 0x80 => { s with ctxtab := (x >>> 18) <<< 18 }
  | 0x82 => { s with supctx := x.extractLsb' 0 10 }
  | 0x83 => { s with ctxctlQueue := s.ctxctlQueue ++ [⟨x, false⟩] }
  | _ => s

/-- A scalar-class special value (R50). -/
def State.special (s : State) (sel : BitVec 8) : W64 :=
  let ofGrid (f : Grid → Nat) : W64 := BitVec.ofNat 64 ((s.myGrid.map f).getD 0)
  match sel.toNat with
  | 0x00 => BitVec.ofNat 64 s.g.id
  | 0x01 => s.t.x.zeroExtend 64
  | 0x02 => s.t.y.zeroExtend 64
  | 0x03 => s.t.z.zeroExtend 64
  | 0x04 => BitVec.ofNat 64 s.t.groupCount
  | 0x05 => BitVec.ofNat 64 s.t.grid
  | 0x06 => ofGrid (·.record.ex)
  | 0x07 => ofGrid (·.record.ey)
  | 0x08 => ofGrid (·.record.ez)
  | 0x09 => ofGrid (·.nest)
  | 0x0A => BitVec.ofNat 64 s.t.core
  | 0x0B => BitVec.ofNat 64 s.g.quad
  | 0x0C => BitVec.ofNat 64 s.myDie
  | 0x0D => BitVec.ofNat 64 s.pkg
  | 0x0E => s.g.cell.zeroExtend 64
  | 0x0F => s.cycle
  | 0x10 => BitVec.ofNat 64 s.g.n
  | 0x11 => BitVec.ofNat 64 (1536 * s.t.rows)
  | 0x12 => s.g.gangr.zeroExtend 64
  | 0x13 => s.g.fpctl.zeroExtend 64
  | 0x14 => s.iss.mask.zeroExtend 64
  | 0x15 => s.g.runnable.zeroExtend 64
  | 0x16 => s.g.exited.zeroExtend 64
  | 0x17 => s.iss.yieldm.zeroExtend 64
  | _ => s.privRead s.t.ctx sel

/-- A vector-class special value of a lane (R50). -/
def Group.laneSpecial (g : Group) (sel : BitVec 8) (l : Fin 32) : W32 :=
  match sel.toNat with
  | 0x40 => BitVec.ofNat 32 l.val
  | 0x41 => g.lpc[l]
  | 0x42 => (g.dep[l]).zeroExtend 32
  | _ => g.sr[l]

/-- The group may use a privileged selector (R299). -/
def State.privileged (s : State) : Bool := s.t.ctx == s.supctx

/-- SREAD (R187): a privileged selector is a decode check whatever the guard; a vector-class selector writes every lane
that has not exited (R51). -/
def execSread (u : URead) (s : State) : Host.Outcome State Fault Refusal :=
  if s.power = .off then .fault .moduleOff
  else if privSel u.sel && !s.privileged then .next s.illegal
  else
    s.unit (.sread u) u.q u.neg fun s =>
      let old := s.g
      let x := s.special u.sel
      let s := s.commit
      let g :=
        if vectorSel u.sel then
          s.g.setV (~~~old.exited) (reg7 (u.d.extractLsb' 0 7)) fun l => old.laneSpecial u.sel l
        else s.g.setS (reg9 u.d) x
      s.setG (g.advance s.iss.mask)

/-- SREAD.W (R50): the old value goes to the destination, and source A replaces it. -/
def execSreadW (u : UReadW) (s : State) : Host.Outcome State Fault Refusal :=
  if s.power = .off then .fault .moduleOff
  else if privSel u.sel && !s.privileged then .next s.illegal
  else
    s.unit (.sreadW u) u.q u.neg fun s =>
      let x := s.special u.sel
      let a := s.g.sr64 (reg9 u.a)
      let s := s.commit
      let s := s.setG ((s.g.setS (reg9 u.d) x).advance s.iss.mask)
      if u.sel = 0x13#8 then s.setG { s.g with fpctl := fpctlWritten a } else s.privWrite u.sel a

end Sys2Proof.Machine
end

