-- ==== Sys2Proof/Machine/SpecialFn.lean ====
section
/-! DEFINITION. The special functions FRCP, FRSQ, FEXP2, FLOG2, FSIN and FCOS (07_float_crosslane R198-R200). The result
within the bound is the module's own: the free value `Config.special` stands where the bound of R198 admits it, and a value
near the exact one where it does not, so that every result meets R198 (log 9). The exact value is enclosed by fixed-point
series with 128 fraction bits. -/

namespace Sys2Proof.Machine

/-- The six functions, in the numbering of `Config.special`. -/
inductive SpecialFn where
  | rcp | rsq | exp2 | log2 | sin | cos
deriving DecidableEq, Repr

def SpecialFn.num : SpecialFn → Nat
  | .rcp => 0 | .rsq => 1 | .exp2 => 2 | .log2 => 3 | .sin => 4 | .cos => 5

/-- ln 2 and π with 128 fraction bits, rounded down. -/
def ln2Fix : Nat := 235865763225513294137944142764154484399
def piFix : Nat := 1069028584064966747859680373161870783300

/-- Units within which the series below are off. -/
def slack : Int := 65536

/-- 2^128. -/
def fixOne : Nat := 2 ^ 128

/-- m × 2^e with 128 fraction bits, rounded down. -/
def toFix (m : Nat) (e : Int) : Nat :=
  if 0 ≤ e + 128 then m * 2 ^ (e + 128).toNat else m / 2 ^ (-(e + 128)).toNat

/-- Sum of x^k ÷ k! from term `k` on. -/
def expSeries (x : Nat) : Nat → Nat → Nat → Nat
  | 0, _, _ => 0
  | fuel + 1, k, term => term + expSeries x fuel (k + 1) (term * x / fixOne / (k + 1))

/-- Sum of z^(2j+1) ÷ (2j+1) from term `j` on. -/
def atanhSeries (z2 : Nat) : Nat → Nat → Nat → Nat
  | 0, _, _ => 0
  | fuel + 1, j, pow => pow / (2 * j + 1) + atanhSeries z2 fuel (j + 1) (pow * z2 / fixOne)

/-- Alternating sum of x^(2k+1) ÷ (2k+1)! from term `k` on. -/
def sinSeries (x2 : Nat) : Nat → Nat → Int → Int
  | 0, _, _ => 0
  | fuel + 1, k, term => term - sinSeries x2 fuel (k + 1) (term * x2 / (fixOne : Int) / ((2 * k + 2) * (2 * k + 3)))

/-- sin(π × a), 128 fraction bits, for a with 128 fraction bits. -/
def sinPi (a : Nat) : Int :=
  let r := a % (2 * fixOne)
  let neg := decide (fixOne ≤ r)
  let r := r % fixOne
  let r := if fixOne < 2 * r then fixOne - r else r
  let x := piFix * r / fixOne
  let y := sinSeries (x * x / fixOne) 30 0 (x : Int)
  if neg then -y else y

/-- The operand's magnitude is below 2^k. -/
def below (k : Int) (m : Nat) (e : Int) : Bool := decide ((Nat.log2 m : Int) + e < k)

/-- An enclosure of the exact result y for the finite operand (−1)^neg × m × 2^e, m > 0, outside the cases of R199: x, q and
w with (x − w) × 2^q < y < (x + w) × 2^q. It is narrow enough that no FP32 value lies at the bound's distance from a number
strictly inside it, but for y itself, so that it decides R198. Where y differs from 0 or 1 by less than the series show, the
side on which it lies is known, and the enclosure ends there. -/
def SpecialFn.exact (fn : SpecialFn) (neg : Bool) (m : Nat) (e : Int) : Int × Int × Int :=
  let sgn : Int := if neg then -1 else 1
  let one : Int := fixOne
  match fn with
  | .rcp => (sgn * ((2 ^ 160 / m : Nat) : Int), -e - 160, slack)
  | .rsq =>
    let m' := if e % 2 = 0 then m else 2 * m
    let e' := if e % 2 = 0 then e else e - 1
    ((Nat.sqrt (2 ^ 320 / m') : Nat), -(e' / 2) - 160, slack)
  | .exp2 =>
    if below (-100) m e then (one + sgn * 2 ^ 28, -128, 2 ^ 28)
    else
      let a : Int := sgn * toFix m e
      let f := (a % one).toNat
      (expSeries (f * ln2Fix / fixOne) 45 0 fixOne, a / one - 128, slack)
  | .log2 =>
    let l := Nat.log2 m
    let mant := m * fixOne / 2 ^ l
    let z := (mant - fixOne) * fixOne / (mant + fixOne)
    let s := 2 * atanhSeries (z * z / fixOne) 50 0 z
    (((l : Int) + e) * one + ((s * fixOne / ln2Fix : Nat) : Int), -128, slack)
  | .sin => if below (-100) m e then (sgn * 2 ^ 30, -128, 2 ^ 30) else (sgn * sinPi (toFix m e), -128, slack)
  | .cos => if below (-50) m e then (one - 2 ^ 32, -128, 2 ^ 32) else (sinPi (toFix m e + fixOne / 2), -128, slack)

/-- log2 of ulp(y) for y near x × 2^q (R198). -/
def ulpExp (x q : Int) : Int :=
  (if x = 0 then -126 else max ((Nat.log2 x.natAbs : Int) + q) (-126)) - 23

/-- The bound of R198 as count × 2^exponent, the larger of the listed bounds. The exact results of FSIN and FCOS lie strictly
between −1 and 1, where 2 ulp are 2^−23 at most. -/
def SpecialFn.bound (fn : SpecialFn) (half2 : Bool) (x q : Int) : Int × Int :=
  let u := ulpExp x q
  match fn with
  | .rcp => (1, u)
  | .rsq | .exp2 => (2, u)
  | .log2 => if half2 then (1, -22) else (2, u)
  | .sin | .cos => (1, -23)

/-- The FP32 pattern `r` lies within the bound bn × 2^be of the exact value that x, q and w enclose. -/
def withinBound (r : Nat) (x q w bn be : Int) : Bool :=
  match fmtF32.decode r with
  | .num neg m e =>
    let lo := min e (min q be)
    let v : Int := (if neg then -(m : Int) else (m : Int)) * 2 ^ (e - lo).toNat
    let y : Int := x * 2 ^ (q - lo).toNat
    let d := (v - y).natAbs
    decide ((d : Int) + w * 2 ^ (q - lo).toNat ≤ bn * 2 ^ (be - lo).toNat)
  | _ => false

/-- Flags of an inexact result (R200): NX, with UF when it is subnormal or zero. -/
def specialFlags (r : Nat) : Flags :=
  flagNX ||| flagIf (decide (r % 2 ^ 31 < 2 ^ 23)) flagUF

/-- The result of R198 where R199 lists none. -/
def SpecialFn.approx (fn : SpecialFn) (a : W32) (neg : Bool) (m : Nat) (e : Int) : Nat × Flags :=
  let y := fn.exact neg m e
  -- 0.5 ≤ a ≤ 2, where FLOG2 has an absolute bound
  let half2 := decide (0x3F00_0000 ≤ a.toNat) && decide (a.toNat ≤ 0x4000_0000)
  let b := fn.bound half2 y.1 y.2.1
  let r := (Config.special fn.num a).toNat
  let near := (fmtF32.roundNum .rne (decide (y.1 < 0)) y.1.natAbs y.2.1).1
  if withinBound r y.1 y.2.1 y.2.2 b.1 b.2 then (r, specialFlags r) else (near, specialFlags near)

/-- The bits of an integer as FP32. -/
def f32OfInt (x : Int) : Nat := (fmtF32.roundNum .rne (decide (x < 0)) x.natAbs 0).1

/-- FRCP (R198-R200). -/
def fRcp (a : W32) : Nat × Flags :=
  match fmtF32.decode a.toNat with
  | .nan s => (fmtF32.cnan, flagIf s flagNV)
  | .inf neg => (fmtF32.signed neg 0, 0#5)
  | .num neg m e =>
    if m = 0 then (fmtF32.signed neg fmtF32.infBits, flagDZ)
    else
      let l := Nat.log2 m
      if m = 2 ^ l then
        -- ±2^n: ±2^−n where that is representable, infinity with OF and NX where it overflows
        let n : Int := (l : Int) + e
        if 127 < -n then (fmtF32.signed neg fmtF32.infBits, flagOF ||| flagNX)
        else (fmtF32.roundNum .rne neg 1 (-n))
      else if (l : Int) + e < -128 then (fmtF32.signed neg fmtF32.infBits, flagOF ||| flagNX)
      else SpecialFn.rcp.approx a neg m e

/-- FRSQ. -/
def fRsq (a : W32) : Nat × Flags :=
  match fmtF32.decode a.toNat with
  | .nan s => (fmtF32.cnan, flagIf s flagNV)
  | .inf neg => if neg then (fmtF32.cnan, flagNV) else (0, 0#5)
  | .num neg m e =>
    if m = 0 then (fmtF32.signed neg fmtF32.infBits, flagDZ)
    else if neg then (fmtF32.cnan, flagNV)
    else
      let l := Nat.log2 m
      let n : Int := (l : Int) + e
      if m = 2 ^ l ∧ n % 2 = 0 then (fmtF32.roundNum .rne false 1 (-(n / 2))) else SpecialFn.rsq.approx a false m e

/-- FEXP2. -/
def fExp2 (a : W32) : Nat × Flags :=
  match fmtF32.decode a.toNat with
  | .nan s => (fmtF32.cnan, flagIf s flagNV)
  | .inf neg => if neg then (0, 0#5) else (fmtF32.infBits, 0#5)
  | .num neg m e =>
    if m = 0 then (f32OfInt 1, 0#5)
    else
      let r := toIntegral .rtz neg m e
      if !neg && decide (128 ≤ r.1) then (fmtF32.infBits, flagOF ||| flagNX)
      else if neg && decide (r.1 ≤ -151) then (0, flagUF ||| flagNX)
      else if !r.2 && decide (-149 ≤ r.1) then (fmtF32.roundNum .rne false 1 r.1)
      else SpecialFn.exp2.approx a neg m e

/-- FLOG2. -/
def fLog2 (a : W32) : Nat × Flags :=
  match fmtF32.decode a.toNat with
  | .nan s => (fmtF32.cnan, flagIf s flagNV)
  | .inf neg => if neg then (fmtF32.cnan, flagNV) else (fmtF32.infBits, 0#5)
  | .num neg m e =>
    if m = 0 then (fmtF32.signed true fmtF32.infBits, flagDZ)
    else if neg then (fmtF32.cnan, flagNV)
    else
      let l := Nat.log2 m
      if m = 2 ^ l then (f32OfInt ((l : Int) + e), 0#5) else SpecialFn.log2.approx a false m e

/-- FSIN of half-turns. -/
def fSin (a : W32) : Nat × Flags :=
  match fmtF32.decode a.toNat with
  | .nan s => (fmtF32.cnan, flagIf s flagNV)
  | .inf _ => (fmtF32.cnan, flagNV)
  | .num neg m e =>
    let d := toIntegral .rdn neg m e
    let d2 := toIntegral .rdn neg m (e + 1)
    if m = 0 then (fmtF32.signed neg 0, 0#5)
    else if !d.2 then (fmtF32.signed neg 0, 0#5)
    else if !d2.2 then (f32OfInt (if d.1 % 2 = 0 then 1 else -1), 0#5)
    else SpecialFn.sin.approx a neg m e

/-- FCOS of half-turns. -/
def fCos (a : W32) : Nat × Flags :=
  match fmtF32.decode a.toNat with
  | .nan s => (fmtF32.cnan, flagIf s flagNV)
  | .inf _ => (fmtF32.cnan, flagNV)
  | .num neg m e =>
    let d := toIntegral .rdn neg m e
    let d2 := toIntegral .rdn neg m (e + 1)
    if m = 0 then (f32OfInt 1, 0#5)
    else if !d.2 then (f32OfInt (if d.1 % 2 = 0 then 1 else -1), 0#5)
    else if !d2.2 then (0, 0#5)
    else SpecialFn.cos.approx a neg m e

/-- The function a name computes. -/
def SpecialFn.run : SpecialFn → W32 → Nat × Flags
  | .rcp => fRcp | .rsq => fRsq | .exp2 => fExp2 | .log2 => fLog2 | .sin => fSin | .cos => fCos

end Sys2Proof.Machine
end

