-- ==== Sys2Proof/Machine/FloatOps.lean ====
section
/-! DEFINITION. The floating-point, special-function and conversion instructions (07 R188-R207). -/

namespace Sys2Proof.Machine

/-- The operand kinds of the arithmetic forms (R188). -/
inductive FKind where
  | f64 | f32 | f16x2 | bf16x2
deriving DecidableEq, Repr

/-- The format of one element. -/
def FKind.fmt : FKind → Fmt
  | .f64 => fmtF64 | .f32 => fmtF32 | .f16x2 => fmtF16 | .bf16x2 => fmtBf16

/-- The operand of a lane, as 64 bits. -/
def Group.fsrc (g : Group) (k : FKind) (x : VSrc) (l : Fin 32) : W64 :=
  match k with
  | .f64 => g.src64 x l
  | _ => (g.src x l).zeroExtend 64

/-- Element `e` of a packed register (R65). -/
def half16 (x : W64) (e : Nat) : Nat := x.toNat / 2 ^ (16 * e) % 65536

/-- Two 16-bit elements in one register. -/
def pack16 (lo hi : Nat) : W64 := BitVec.ofNat 64 (hi % 65536 * 65536 + lo % 65536)

/-- Applies an operation of one format to one or both elements of each operand. -/
def FKind.map (k : FKind) (op : Fmt → List Nat → Nat × Flags) (xs : List W64) : W64 × Flags :=
  match k with
  | .f64 | .f32 =>
    let r := op k.fmt (xs.map BitVec.toNat)
    (BitVec.ofNat 64 r.1, r.2)
  | _ =>
    let r0 := op k.fmt (xs.map fun x => half16 x 0)
    let r1 := op k.fmt (xs.map fun x => half16 x 1)
    (pack16 r0.1 r1.1, r0.2 ||| r1.2)

/-- Writes a register or a pair in the lanes of a mask. -/
def Group.setWide (g : Group) (wide : Bool) (m : Mask) (d : BitVec 7) (f : Fin 32 → W64) : Group :=
  if wide then g.setPair m d f else g.setV m (reg7 d) fun l => (f l).extractLsb' 0 32

/-- A word whose lanes give a result and flags (R188). -/
def State.fvec (s : State) (i : Instr) (guard : BitVec 7) (wide : Bool) (d : BitVec 7)
    (f : Group → Fin 32 → W64 × Flags) : Host.Outcome State Fault Refusal :=
  s.vec i guard fun m g => (g.setWide wide m d fun l => (f g l).1).raise (flagsOf m fun l => (f g l).2)

def FKind.wide (k : FKind) : Bool := k == .f64

/-- An operation of one format on two operands. -/
def op2 (f : Fmt → Nat → Nat → Nat × Flags) : Fmt → List Nat → Nat × Flags
  | fm, [a, b] => f fm a b
  | _, _ => (0, 0#5)

/-- An operation of one format on three operands. -/
def op3 (f : Fmt → Nat → Nat → Nat → Nat × Flags) : Fmt → List Nat → Nat × Flags
  | fm, [a, b, c] => f fm a b c
  | _, _ => (0, 0#5)

/-- FADD, FSUB, FMUL (R190). -/
def State.frnd (s : State) (i : Instr) (k : FKind) (w : WRnd) (f : Fmt → RMode → Nat → Nat → Nat × Flags) :
    Host.Outcome State Fault Refusal :=
  s.fvec i w.guard k.wide w.d fun g l =>
    k.map (op2 fun fm => f fm (rndMode w.rnd g.fpctl)) [g.fsrc k w.a l, g.fsrc k w.b l]

/-- FFMA (R191). -/
def State.ffma (s : State) (i : Instr) (k : FKind) (w : WTri) : Host.Outcome State Fault Refusal :=
  s.fvec i w.guard k.wide w.d fun g l =>
    k.map (op3 fun fm => fFma fm (rmOf g.fpctl)) [g.fsrc k w.a l, g.fsrc k w.b l, g.fsrc k w.c l]

/-- FMIN, FMAX (R192). -/
def State.fminmax (s : State) (i : Instr) (k : FKind) (max : Bool) (w : WBin) : Host.Outcome State Fault Refusal :=
  s.fvec i w.guard k.wide w.d fun g l => k.map (op2 fun fm => fMinMax fm max) [g.fsrc k w.a l, g.fsrc k w.b l]

/-- FABS, FNEG of a scalar format (R193). -/
def State.fsign (s : State) (i : Instr) (k : FKind) (negate : Bool) (w : WUn) : Host.Outcome State Fault Refusal :=
  s.fvec i w.guard k.wide w.d fun g l =>
    let r := fSign k.fmt negate (g.fsrc k w.a l).toNat
    (BitVec.ofNat 64 r.1, r.2)

/-- FABS.x2, FNEG.x2: the sign bits alone (R193). -/
def State.signBits (s : State) (i : Instr) (w : WUn) (f : W32 → W32) : Host.Outcome State Fault Refusal :=
  s.vec i w.guard fun m g => g.setV m (reg7 w.d) fun l => f (g.src w.a l)

/-- FCMP (R195). -/
def State.fcmp (s : State) (i : Instr) (k : FKind) (c : FCond) (w : WCmp) : Host.Outcome State Fault Refusal :=
  s.vec i w.guard fun m g =>
    let r : Fin 32 → Bool × Flags := fun l => fCmp k.fmt c (g.fsrc k w.a l).toNat (g.fsrc k w.b l).toNat
    let t := maskOf fun l => (r l).1
    ((g.setP m w.pd t).setP m w.pc (~~~t)).raise (flagsOf m fun l => (r l).2)

/-- FCLASS (R196). -/
def State.fclass (s : State) (i : Instr) (k : FKind) (w : WCmp) : Host.Outcome State Fault Refusal :=
  s.vec i w.guard fun m g =>
    let t := maskOf fun l => (g.src w.b l).getLsbD (fClass k.fmt (g.fsrc k w.a l).toNat)
    (g.setP m w.pd t).setP m w.pc (~~~t)

/-! ### Long-latency operations (R143, R197, R198) -/

/-- A long-latency floating operation: its operands are read and its results computed at issue; with LA 0 they are
written at once, and otherwise when the operation completes (R143, R144). -/
def State.flong (s : State) (i : Instr) (guard la : BitVec 7) (wide : Bool) (d : BitVec 7)
    (f : Group → Fin 32 → W64 × Flags) : Host.Outcome State Fault Refusal :=
  if la = 0#7 then s.fvec i guard wide d f
  else
    s.vecThen i guard fun m s =>
      let r := f s.g
      let o : Op :=
        { id := s.nextId, instr := i, lpc := s.iss.key.lpc, issue := s.iss.mask, active := m, waitm := s.iss.waitm
          win := la.toNat, pend := m, parked := 0#32, sent := 0#32, after := [], late := [], moved := false, fails := []
          lanes := Vector.ofFn fun l =>
            { LaneOp.zero with
              aux := (r l).2.zeroExtend 64
              data := (LaneOp.zero.data.set 0 ((r l).1.extractLsb' 0 32)).set 1 ((r l).1.extractLsb' 32 32) }
          gops := [], cover := ([], []) }
      if m = 0#32 then s else { s with g := { s.g with ops := s.g.ops ++ [o] }, nextId := s.nextId + 1 }

/-- Writes the result of one lane of a long-latency floating operation, and its flags (R46, R144, R188). -/
def Group.landFloat (g : Group) (o : Op) (wide : Bool) (d : BitVec 7) (l : Fin 32) : Group :=
  (g.setWide wide (oneLane l) d fun l => (o.lanes[l]).data[1] ++ (o.lanes[l]).data[0]).raise
    ((o.lanes[l]).aux.extractLsb' 0 5)

def State.fdiv (s : State) (i : Instr) (k : FKind) (w : WBin) (la : BitVec 4) : Host.Outcome State Fault Refusal :=
  s.flong i w.guard (la.zeroExtend 7) k.wide w.d fun g l =>
    k.map (op2 fun fm => fDiv fm (rmOf g.fpctl)) [g.fsrc k w.a l, g.fsrc k w.b l]

def State.fsqrt (s : State) (i : Instr) (k : FKind) (w : WUn) (la : BitVec 4) : Host.Outcome State Fault Refusal :=
  s.flong i w.guard (la.zeroExtend 7) k.wide w.d fun g l =>
    let r := fSqrt k.fmt (rmOf g.fpctl) (g.fsrc k w.a l).toNat
    (BitVec.ofNat 64 r.1, r.2)

def State.fspecial (s : State) (i : Instr) (fn : SpecialFn) (w : WUn) (la : BitVec 4) : Host.Outcome State Fault Refusal :=
  s.flong i w.guard (la.zeroExtend 7) false w.d fun g l =>
    let r := fn.run (g.src w.a l)
    (BitVec.ofNat 64 r.1, r.2)

/-! ### Conversions (R201-R207) -/

/-- The format of a floating type, or of one element of a packed one. -/
def cvtFmt : FType → Fmt
  | .f64 => fmtF64
  | .f32 => fmtF32
  | .f16 | .f16x2 => fmtF16
  | .bf16 | .bf16x2 => fmtBf16
  | .e4m3 => fmtE4m3
  | _ => fmtE5m2

def cvtPacked : FType → Bool
  | .f16x2 | .bf16x2 => true
  | _ => false

/-- Bits of an integer type, and whether it is signed. -/
def intBits : FType → Nat
  | .si8 | .ui8 => 8
  | .si16 | .ui16 => 16
  | .si32 | .ui32 => 32
  | _ => 64

def intSigned : FType → Bool
  | .si8 | .si16 | .si32 | .si64 => true
  | _ => false

/-- The least and greatest value of an integer type (R71). -/
def intLo (t : FType) : Int := if intSigned t then -(2 ^ (intBits t - 1)) else 0
def intHi (t : FType) : Int := if intSigned t then 2 ^ (intBits t - 1) - 1 else 2 ^ intBits t - 1

/-- The raw operand of a type: a register or a pair. -/
def Group.tsrc (g : Group) (t : FType) (x : VSrc) (l : Fin 32) : W64 :=
  if t.is64 then g.src64 x l else (g.src x l).zeroExtend 64

/-- An integer operand's value: the low bits of its register, extended by its type (R201, R204). -/
def intVal (t : FType) (x : W64) : Int :=
  let n : Nat := x.toNat % 2 ^ intBits t
  if intSigned t && decide (2 ^ (intBits t - 1) ≤ n) then (n : Int) - 2 ^ intBits t else (n : Int)

/-- The mode of a conversion that is not stochastic. -/
def cvtMode (m : CvtMode) (fpctl : W32) : RMode :=
  match m with
  | .sel r => rndMode r fpctl
  | .sr => .rne

/-- Converts one element, with the advanced state `st` under `.sr` (R74, R202). -/
def cvtElem (src tgt : Fmt) (m : CvtMode) (fpctl st : W32) (a : Nat) : Nat × Flags :=
  match m with
  | .sr => fCvtSr src tgt st a
  | .sel r => fCvt src tgt (rndMode r fpctl) a

/-- The result of FCVT in a lane whose state is `st`. -/
def fcvtLane (w : WCvt) (fpctl st : W32) (a : W64) : W64 × Flags :=
  let src := cvtFmt w.src
  let tgt := cvtFmt w.tgt
  let st1 := srAdvance st
  if cvtPacked w.src then
    let r0 := cvtElem src tgt w.mode fpctl st1 (half16 a 0)
    let r1 := cvtElem src tgt w.mode fpctl (srAdvance st1) (half16 a 1)
    (pack16 r0.1 r1.1, r0.2 ||| r1.2)
  else
    let r := cvtElem src tgt w.mode fpctl st1 (a.toNat % 2 ^ src.width)
    (BitVec.ofNat 64 r.1, r.2)

/-- Advances the stochastic-rounding state of the lanes of a mask `n` times, under `.sr` alone (R73). -/
def Group.drawSr (g : Group) (mode : CvtMode) (m : Mask) (n : Nat) : Group :=
  match mode with
  | .sr => { g with sr := laneUpd g.sr m fun l => (List.range n).foldl (fun x _ => srAdvance x) g.sr[l] }
  | .sel _ => g

/-- FCVT (R202). -/
def execFcvt (w : WCvt) (s : State) : Host.Outcome State Fault Refusal :=
  s.vec (.fcvt w) w.guard fun m g =>
    let r : Fin 32 → W64 × Flags := fun l => fcvtLane w g.fpctl g.sr[l] (g.tsrc w.src w.a l)
    ((g.setWide w.tgt.is64 m w.d fun l => (r l).1).raise (flagsOf m fun l => (r l).2)).drawSr w.mode m
      (if cvtPacked w.src then 2 else 1)

/-- FCVT.SEED (R203). -/
def execFcvtSeed (w : WSeed) (s : State) : Host.Outcome State Fault Refusal :=
  s.vec (.fcvtSeed w) w.guard fun m g => { g with sr := laneUpd g.sr m fun l => srSeed l (g.src w.a l) }

/-- I2F (R204). -/
def execI2f (w : WCvt) (s : State) : Host.Outcome State Fault Refusal :=
  s.fvec (.i2f w) w.guard w.tgt.is64 w.d fun g l =>
    let r := fOfInt (cvtFmt w.tgt) (cvtMode w.mode g.fpctl) (intVal w.src (g.tsrc w.src w.a l))
    (BitVec.ofNat 64 r.1, r.2)

/-- F2I (R204): a narrow signed result fills the register with its sign (R201). -/
def execF2i (w : WCvt) (s : State) : Host.Outcome State Fault Refusal :=
  s.fvec (.f2i w) w.guard w.tgt.is64 w.d fun g l =>
    let src := cvtFmt w.src
    let r := fToInt src (cvtMode w.mode g.fpctl) (intLo w.tgt) (intHi w.tgt)
      ((g.tsrc w.src w.a l).toNat % 2 ^ src.width)
    (BitVec.ofInt 64 r.1, r.2)

/-- FRND (R205). -/
def execFrnd (w : WCvt) (s : State) : Host.Outcome State Fault Refusal :=
  s.fvec (.frnd w) w.guard w.tgt.is64 w.d fun g l =>
    let f := cvtFmt w.src
    let a := g.tsrc w.src w.a l
    let mode := cvtMode w.mode g.fpctl
    if cvtPacked w.src then
      let r0 := fRnd f mode (half16 a 0)
      let r1 := fRnd f mode (half16 a 1)
      (pack16 r0.1 r1.1, r0.2 ||| r1.2)
    else
      let r := fRnd f mode (a.toNat % 2 ^ f.width)
      (BitVec.ofNat 64 r.1, r.2)

/-- FSCALE (R206). -/
def execFscale (w : WCvt2) (s : State) : Host.Outcome State Fault Refusal :=
  s.fvec (.fscale w) w.guard w.tgt.is64 w.d fun g l =>
    let f := cvtFmt w.src
    let r := fScale f (cvtMode w.mode g.fpctl) ((g.tsrc w.src w.a l).toNat % 2 ^ f.width) (g.vr (reg7 w.b) l).toInt
    (BitVec.ofNat 64 r.1, r.2)

/-- The result of FPACK in a lane (R207): `old` is the old destination. -/
def fpackLane (w : WCvt2) (fpctl st old : W32) (a b : W64) : W32 × Flags :=
  let src := cvtFmt w.src
  let tgt := cvtFmt w.tgt
  let st1 := srAdvance st
  let x := cvtElem src tgt w.mode fpctl st1 (a.toNat % 2 ^ src.width)
  let y := cvtElem src tgt w.mode fpctl (srAdvance st1) (b.toNat % 2 ^ src.width)
  (if cvtPacked w.tgt then BitVec.ofNat 32 (y.1 * 65536 + x.1)
   else BitVec.ofNat 32 (old.toNat % 65536 * 65536 + y.1 * 256 + x.1), x.2 ||| y.2)

/-- FPACK (R207). -/
def execFpack (w : WCvt2) (s : State) : Host.Outcome State Fault Refusal :=
  s.vec (.fpack w) w.guard fun m g =>
    let b : Fin 32 → W64 := fun l => if w.src.is64 then g.vpair w.b l else (g.vr (reg7 w.b) l).zeroExtend 64
    let r : Fin 32 → W32 × Flags := fun l =>
      fpackLane w g.fpctl g.sr[l] (g.vr (reg7 w.d) l) (g.tsrc w.src w.a l) (b l)
    ((g.setV m (reg7 w.d) fun l => (r l).1).raise (flagsOf m fun l => (r l).2)).drawSr w.mode m 2

/-! ### The instructions -/

/-- FADD.F64 (R190). -/
def execFaddF64 (w : WRnd) (s : State) : Host.Outcome State Fault Refusal :=
  s.frnd (.faddF64 w) .f64 w fAdd

/-- FADD.F32 (R190). -/
def execFaddF32 (w : WRnd) (s : State) : Host.Outcome State Fault Refusal :=
  s.frnd (.faddF32 w) .f32 w fAdd

/-- FADD.F16x2 (R190). -/
def execFaddF16x2 (w : WRnd) (s : State) : Host.Outcome State Fault Refusal :=
  s.frnd (.faddF16x2 w) .f16x2 w fAdd

/-- FADD.Bf16x2 (R190). -/
def execFaddBf16x2 (w : WRnd) (s : State) : Host.Outcome State Fault Refusal :=
  s.frnd (.faddBf16x2 w) .bf16x2 w fAdd

/-- FSUB.F64 (R190). -/
def execFsubF64 (w : WRnd) (s : State) : Host.Outcome State Fault Refusal :=
  s.frnd (.fsubF64 w) .f64 w fSub

/-- FSUB.F32 (R190). -/
def execFsubF32 (w : WRnd) (s : State) : Host.Outcome State Fault Refusal :=
  s.frnd (.fsubF32 w) .f32 w fSub

/-- FSUB.F16x2 (R190). -/
def execFsubF16x2 (w : WRnd) (s : State) : Host.Outcome State Fault Refusal :=
  s.frnd (.fsubF16x2 w) .f16x2 w fSub

/-- FSUB.Bf16x2 (R190). -/
def execFsubBf16x2 (w : WRnd) (s : State) : Host.Outcome State Fault Refusal :=
  s.frnd (.fsubBf16x2 w) .bf16x2 w fSub

/-- FMUL.F64 (R190). -/
def execFmulF64 (w : WRnd) (s : State) : Host.Outcome State Fault Refusal :=
  s.frnd (.fmulF64 w) .f64 w fMul

/-- FMUL.F32 (R190). -/
def execFmulF32 (w : WRnd) (s : State) : Host.Outcome State Fault Refusal :=
  s.frnd (.fmulF32 w) .f32 w fMul

/-- FMUL.F16x2 (R190). -/
def execFmulF16x2 (w : WRnd) (s : State) : Host.Outcome State Fault Refusal :=
  s.frnd (.fmulF16x2 w) .f16x2 w fMul

/-- FMUL.Bf16x2 (R190). -/
def execFmulBf16x2 (w : WRnd) (s : State) : Host.Outcome State Fault Refusal :=
  s.frnd (.fmulBf16x2 w) .bf16x2 w fMul

/-- FFMA.F64 (R191). -/
def execFfmaF64 (w : WTri) (s : State) : Host.Outcome State Fault Refusal :=
  s.ffma (.ffmaF64 w) .f64 w

/-- FFMA.F32 (R191). -/
def execFfmaF32 (w : WTri) (s : State) : Host.Outcome State Fault Refusal :=
  s.ffma (.ffmaF32 w) .f32 w

/-- FFMA.F16x2 (R191). -/
def execFfmaF16x2 (w : WTri) (s : State) : Host.Outcome State Fault Refusal :=
  s.ffma (.ffmaF16x2 w) .f16x2 w

/-- FFMA.Bf16x2 (R191). -/
def execFfmaBf16x2 (w : WTri) (s : State) : Host.Outcome State Fault Refusal :=
  s.ffma (.ffmaBf16x2 w) .bf16x2 w

/-- FMIN.F64 (R192). -/
def execFminF64 (w : WBin) (s : State) : Host.Outcome State Fault Refusal :=
  s.fminmax (.fminF64 w) .f64 false w

/-- FMIN.F32 (R192). -/
def execFminF32 (w : WBin) (s : State) : Host.Outcome State Fault Refusal :=
  s.fminmax (.fminF32 w) .f32 false w

/-- FMIN.F16x2 (R192). -/
def execFminF16x2 (w : WBin) (s : State) : Host.Outcome State Fault Refusal :=
  s.fminmax (.fminF16x2 w) .f16x2 false w

/-- FMIN.Bf16x2 (R192). -/
def execFminBf16x2 (w : WBin) (s : State) : Host.Outcome State Fault Refusal :=
  s.fminmax (.fminBf16x2 w) .bf16x2 false w

/-- FMAX.F64 (R192). -/
def execFmaxF64 (w : WBin) (s : State) : Host.Outcome State Fault Refusal :=
  s.fminmax (.fmaxF64 w) .f64 true w

/-- FMAX.F32 (R192). -/
def execFmaxF32 (w : WBin) (s : State) : Host.Outcome State Fault Refusal :=
  s.fminmax (.fmaxF32 w) .f32 true w

/-- FMAX.F16x2 (R192). -/
def execFmaxF16x2 (w : WBin) (s : State) : Host.Outcome State Fault Refusal :=
  s.fminmax (.fmaxF16x2 w) .f16x2 true w

/-- FMAX.Bf16x2 (R192). -/
def execFmaxBf16x2 (w : WBin) (s : State) : Host.Outcome State Fault Refusal :=
  s.fminmax (.fmaxBf16x2 w) .bf16x2 true w

/-- FABS.F64 (R193). -/
def execFabsF64 (w : WUn) (s : State) : Host.Outcome State Fault Refusal :=
  s.fsign (.fabsF64 w) .f64 false w

/-- FABS.F32 (R193). -/
def execFabsF32 (w : WUn) (s : State) : Host.Outcome State Fault Refusal :=
  s.fsign (.fabsF32 w) .f32 false w

/-- FNEG.F64 (R193). -/
def execFnegF64 (w : WUn) (s : State) : Host.Outcome State Fault Refusal :=
  s.fsign (.fnegF64 w) .f64 true w

/-- FNEG.F32 (R193). -/
def execFnegF32 (w : WUn) (s : State) : Host.Outcome State Fault Refusal :=
  s.fsign (.fnegF32 w) .f32 true w

/-- FABS.x2 (R193). -/
def execFabsX2 (w : WUn) (s : State) : Host.Outcome State Fault Refusal :=
  s.signBits (.fabsX2 w) w fun a => a &&& 0x7FFF_7FFF#32

/-- FNEG.x2 (R193). -/
def execFnegX2 (w : WUn) (s : State) : Host.Outcome State Fault Refusal :=
  s.signBits (.fnegX2 w) w fun a => a ^^^ 0x8000_8000#32

/-- FCMP.EQ.F64 (R195). -/
def execFcmpEqF64 (w : WCmp) (s : State) : Host.Outcome State Fault Refusal :=
  s.fcmp (.fcmpEqF64 w) .f64 .eq w

/-- FCMP.EQ.F32 (R195). -/
def execFcmpEqF32 (w : WCmp) (s : State) : Host.Outcome State Fault Refusal :=
  s.fcmp (.fcmpEqF32 w) .f32 .eq w

/-- FCMP.LT.F64 (R195). -/
def execFcmpLtF64 (w : WCmp) (s : State) : Host.Outcome State Fault Refusal :=
  s.fcmp (.fcmpLtF64 w) .f64 .lt w

/-- FCMP.LT.F32 (R195). -/
def execFcmpLtF32 (w : WCmp) (s : State) : Host.Outcome State Fault Refusal :=
  s.fcmp (.fcmpLtF32 w) .f32 .lt w

/-- FCMP.LE.F64 (R195). -/
def execFcmpLeF64 (w : WCmp) (s : State) : Host.Outcome State Fault Refusal :=
  s.fcmp (.fcmpLeF64 w) .f64 .le w

/-- FCMP.LE.F32 (R195). -/
def execFcmpLeF32 (w : WCmp) (s : State) : Host.Outcome State Fault Refusal :=
  s.fcmp (.fcmpLeF32 w) .f32 .le w

/-- FCLASS.F64 (R196). -/
def execFclassF64 (w : WCmp) (s : State) : Host.Outcome State Fault Refusal :=
  s.fclass (.fclassF64 w) .f64 w

/-- FCLASS.F32 (R196). -/
def execFclassF32 (w : WCmp) (s : State) : Host.Outcome State Fault Refusal :=
  s.fclass (.fclassF32 w) .f32 w

/-- FDIV.F64 (R197). -/
def execFdivF64 (w : WBin) (la : BitVec 4) (s : State) : Host.Outcome State Fault Refusal :=
  s.fdiv (.fdivF64 w la) .f64 w la

/-- FSQRT.F64 (R197). -/
def execFsqrtF64 (w : WUn) (la : BitVec 4) (s : State) : Host.Outcome State Fault Refusal :=
  s.fsqrt (.fsqrtF64 w la) .f64 w la

/-- FDIV.F32 (R197). -/
def execFdivF32 (w : WBin) (la : BitVec 4) (s : State) : Host.Outcome State Fault Refusal :=
  s.fdiv (.fdivF32 w la) .f32 w la

/-- FSQRT.F32 (R197). -/
def execFsqrtF32 (w : WUn) (la : BitVec 4) (s : State) : Host.Outcome State Fault Refusal :=
  s.fsqrt (.fsqrtF32 w la) .f32 w la

/-- FRCP (R198, R199). -/
def execFrcp (w : WUn) (la : BitVec 4) (s : State) : Host.Outcome State Fault Refusal :=
  s.fspecial (.frcp w la) .rcp w la

/-- FRSQ (R198, R199). -/
def execFrsq (w : WUn) (la : BitVec 4) (s : State) : Host.Outcome State Fault Refusal :=
  s.fspecial (.frsq w la) .rsq w la

/-- FEXP2 (R198, R199). -/
def execFexp2 (w : WUn) (la : BitVec 4) (s : State) : Host.Outcome State Fault Refusal :=
  s.fspecial (.fexp2 w la) .exp2 w la

/-- FLOG2 (R198, R199). -/
def execFlog2 (w : WUn) (la : BitVec 4) (s : State) : Host.Outcome State Fault Refusal :=
  s.fspecial (.flog2 w la) .log2 w la

/-- FSIN (R198, R199). -/
def execFsin (w : WUn) (la : BitVec 4) (s : State) : Host.Outcome State Fault Refusal :=
  s.fspecial (.fsin w la) .sin w la

/-- FCOS (R198, R199). -/
def execFcos (w : WUn) (la : BitVec 4) (s : State) : Host.Outcome State Fault Refusal :=
  s.fspecial (.fcos w la) .cos w la

/-- FDOT2 (R194). -/
def execFdot2F16x2 (w : WTri) (s : State) : Host.Outcome State Fault Refusal :=
  s.fvec (.fdot2F16x2 w) w.guard false w.d fun g l =>
    let r := fDot2 fmtF16 (rmOf g.fpctl) (g.src w.a l).toNat (g.src w.b l).toNat (g.src w.c l).toNat
    (BitVec.ofNat 64 r.1, r.2)

/-- FDOT2 (R194). -/
def execFdot2Bf16x2 (w : WTri) (s : State) : Host.Outcome State Fault Refusal :=
  s.fvec (.fdot2Bf16x2 w) w.guard false w.d fun g l =>
    let r := fDot2 fmtBf16 (rmOf g.fpctl) (g.src w.a l).toNat (g.src w.b l).toNat (g.src w.c l).toNat
    (BitVec.ofNat 64 r.1, r.2)

/-! ### H-words (05 R139-R141) -/

/-- What one slot of an H-word gives in a lane: `d` its first source, `b` its second (R140). -/
def halfValue (h : Half) (fpctl d b : W32) : W32 × Flags :=
  let im := h.b.reg.zeroExtend 32
  let n := h.b.reg.toNat % 32
  let f2 (k : FKind) (f : Fmt → RMode → Nat → Nat → Nat × Flags) : W32 × Flags :=
    let r := k.map (op2 fun fm => f fm (rmOf fpctl)) [d.zeroExtend 64, b.zeroExtend 64]
    (r.1.extractLsb' 0 32, r.2)
  let mm (max : Bool) : W32 × Flags :=
    let r := fMinMax fmtF32 max d.toNat b.toNat
    (BitVec.ofNat 32 r.1, r.2)
  let sg (neg : Bool) : W32 × Flags :=
    let r := fSign fmtF32 neg b.toNat
    (BitVec.ofNat 32 r.1, r.2)
  match h.op with
  | .nop => (d, 0#5)
  | .mov => (b, 0#5)
  | .iadd => (d + b, 0#5)
  | .isub => (d - b, 0#5)
  | .imin => (if d.slt b then d else b, 0#5)
  | .iminU => (if d.ult b then d else b, 0#5)
  | .imax => (if d.slt b then b else d, 0#5)
  | .imaxU => (if d.ult b then b else d, 0#5)
  | .and => (d &&& b, 0#5)
  | .or => (d ||| b, 0#5)
  | .xor => (d ^^^ b, 0#5)
  | .andn => (d &&& ~~~b, 0#5)
  | .shl => (d <<< (b.toNat % 256), 0#5)
  | .shr => (d >>> (b.toNat % 256), 0#5)
  | .sar => (d.sshiftRight (b.toNat % 256), 0#5)
  | .rol => (d.rotateLeft (b.toNat % 32), 0#5)
  | .iaddI => (d + im, 0#5)
  | .isubI => (d - im, 0#5)
  | .shlI => (d <<< n, 0#5)
  | .shrI => (d >>> n, 0#5)
  | .sarI => (d.sshiftRight n, 0#5)
  | .andI => (d &&& im, 0#5)
  | .orI => (d ||| im, 0#5)
  | .xorI => (d ^^^ im, 0#5)
  | .movi => (im, 0#5)
  | .imulLo => (d * b, 0#5)
  | .faddF32 => f2 .f32 fAdd
  | .fsubF32 => f2 .f32 fSub
  | .fmulF32 => f2 .f32 fMul
  | .fminF32 => mm false
  | .fmaxF32 => mm true
  | .faddF16x2 => f2 .f16x2 fAdd
  | .fmulF16x2 => f2 .f16x2 fMul
  | .faddBf16x2 => f2 .bf16x2 fAdd
  | .fmulBf16x2 => f2 .bf16x2 fMul
  | .fabsF32 => sg false
  | .fnegF32 => sg true

/-- The results of a slot, from the registers as they stand in `old`. -/
def Group.halfLanes (old : Group) (h : Half) (l : Fin 32) : W32 × Flags :=
  halfValue h old.fpctl (old.vr (reg7 h.d) l) (old.src h.b l)

/-- Writes a slot's results, computed from `old`, in the lanes of `m` (R141). -/
def Group.writeHalf (g old : Group) (h : Half) (m : Mask) : Group :=
  if h.op = .nop then g
  else (g.setV m (reg7 h.d) fun l => (old.halfLanes h l).1).raise (flagsOf m fun l => (old.halfLanes h l).2)

/-- The lanes in which a slot is active: one of p0 to p7 (R139). -/
def Group.halfPred (g : Group) (h : Half) : Mask := g.pred (h.guard.zeroExtend 7)

/-- The lanes of a slot that read a bad register (R369). -/
def Group.halfBad (g : Group) (h : Half) (m : Mask) : Mask :=
  if g.clean then 0#32 else m &&& maskOf fun l => (g.badReads h.reads l).isSome

/-- The register that a register-file error of an H-word names: the first that a slot active in the lowest bad lane reads
(R305; log 17). -/
def Group.halfReg (g : Group) (h k : Half) (m0 m1 bad : Mask) : Nat :=
  ((lanesOf bad).findSome? fun l =>
    (if m0.getLsbD l.val then g.badReads h.reads l else none).or
      (if m1.getLsbD l.val then g.badReads k.reads l else none)).getD 0

/-- An H-word (R139-R141): both slots read before either writes. A lane in which a slot reads a bad register takes
effect in neither slot. -/
def execHWord (slot0 slot1 : Half) (s : State) : Host.Outcome State Fault Refusal :=
  s.issueWord (.hWord slot0 slot1) fun s =>
    let m0 := s.iss.mask &&& s.g.halfPred slot0
    let m1 := s.iss.mask &&& s.g.halfPred slot1
    let bad := s.g.halfBad slot0 m0 ||| s.g.halfBad slot1 m1
    let s' := s.commit
    let old := s'.g
    let s' := s'.setG (((old.writeHalf old slot0 (m0 &&& ~~~bad)).writeHalf old slot1 (m1 &&& ~~~bad)).advance
      (s.iss.mask &&& ~~~bad))
    if bad = 0#32 then s'
    else s'.registerFault (s.g.halfReg slot0 slot1 m0 m1 bad) bad (m0 ||| m1)

end Sys2Proof.Machine
end

