-- ==== Sys2Proof/Machine/Inflight.lean ====
section
/-! DEFINITION. Accesses to memory and scratchpad, lane by lane: loads, posted stores, atomics, HOU operations and chains
(04 R90-R122; 08 R216-R242), the operation in flight that holds them (05 R143-R146), and the faults found after issue
(13 R379). -/

namespace Sys2Proof

/-- The kind is an acquire. -/
def Kind.acquires (k : Kind) : Bool := k == .acq || k == .ar

/-- The kind is a release. -/
def Kind.releases (k : Kind) : Bool := k == .rel || k == .ar

/-- The access is a release. -/
def Acc.isRelease : Acc → Bool
  | .strong k _ => k.releases
  | .wk => false

/-- The scope of a strong access; a weak one has none and takes the narrowest. -/
def Acc.scope : Acc → Scope
  | .strong _ sc => sc
  | .wk => .team

/-- The FLAGS of the request of an access: scope and kind of a strong one (R350, R352). -/
def Acc.flags : Acc → BitVec 8
  | .strong k sc => Machine.strongFlags k sc
  | .wk => 0#8

/-- A store to generic memory: its size in bytes, whether it is a release and strong, and its scope. -/
structure StoreForm where
  size : Nat
  release : Bool
  strong : Bool
  scope : Scope

/-- The form of a word that stores to generic memory. -/
def Instr.storeForm : Instr → StoreForm
  | .stv m => ⟨m.size.bytes, m.acc.isRelease, m.acc.isStrong, m.acc.scope⟩
  | .sst u => ⟨u.size.bytes, u.acc.isRelease, u.acc.isStrong, u.acc.scope⟩
  | .stc m => ⟨m.size.bytes, m.kind.releases, true, m.scope⟩
  | _ => ⟨0, false, false, .team⟩

/-- The word acts once for the group: its lanes share one outcome (R235). -/
def Instr.isOnce : Instr → Bool
  | .sld _ | .sst _ | .sts _ | .cread _ | .cinc _ | .cdec _ | .binit _ | .barrive _ | .accopen _ | .accclose _ | .glaunch _
  | .tlaunch _ | .tcopy _ | .svc _ => true
  | _ => false

/-- The word's lanes make read-modify-writes, which are performed in ascending lane order (R111). -/
def Instr.isRmw : Instr → Bool
  | .atom _ | .red _ | .atoms _ | .casw _ | .enq _ => true
  | _ => false

end Sys2Proof

namespace Sys2Proof.Machine

/-! ### Fills that no pending load names -/

/-- A line comes into a core's L1 as a repeated weak read of it would bring it (R91, R96), where nothing has to be asked of
another package first. -/
def State.spareFill (s : State) (core pa : Nat) : State :=
  if s.reservedPa pa || decide (192 ≤ core) then s
  else
    match s.readyAt false 0#10 0#16 (lineOf pa) false with
    | .yes t => t.fill core pa
    | _ => s

/-! ### The outcome of one lane -/

/-- One lane's part was performed, waits, or failed: code, address, DETAIL (R379). -/
inductive Tried where
  | done (s : State)
  | wait (s : State)
  | fail (s : State) (code : BitVec 8) (addr detail : W64)

/-- The fault of a reply status (R242, R353, R366): 1 is moved, drops the translation and waits (R345); `poison` is the poison
code of the access. Status 6 is the dropped request of an abort, 256 a home in a dead cell, 257 an abort without answer, 258 a
timed-out read. -/
def failStatus (s : State) (status : Nat) (poison : BitVec 8) (va : W64) (home : Nat) (step : W64) : Tried :=
  match status with
  | 1 => .wait (s.dropVa s.t.core s.t.ctx va)
  | 2 => .fail s 0x08#8 va (BitVec.ofNat 64 home)
  | 3 => .fail s poison va step
  | 4 => .fail s 0x06#8 va step
  | 257 => .fail s 0x0B#8 va (0x10000#64 ||| step)
  | _ => .fail s 0x0B#8 va step

/-- Translates for an access, and goes on with the physical address. -/
def State.withPa (s : State) (va : W64) (a : Access) (step : W64) (f : State → Nat → Tried) : Tried :=
  match s.translate s.t.core s.t.ctx va a with
  | .notPresent s => .fail s 0x06#8 va step
  | .permission s => .fail s 0x07#8 va step
  | .wait s _ => .wait s
  | .ok s pa => f s pa

/-- Makes the line of a strong access with FLAGS `fl` accessible at a scope, and goes on. -/
def State.withLine (s : State) (fl : BitVec 8) (wide : Bool) (va : W64) (pa : Nat) (write : Bool) (poison : BitVec 8)
    (f : State → Tried) : Tried :=
  match s.readyAs fl wide s.t.ctx s.myFlow (lineOf pa) write with
  | .yes s => f s
  | .wait s => .wait s
  | .fail s st => failStatus s st poison va (pkgOf pa) 0#64

/-- Performs the core's own posted bytes of a range first. -/
def State.afterBytes (s : State) (pa n : Nat) (f : State → Tried) : Tried :=
  let d := if s.t.tid = 0 then (s, true) else s.drainBytes s.t.core pa n
  if d.2 then f d.1 else .wait d.1

/-- Performs every write pending in the core at a scope first: where it is cell or system, the recalls that stores of narrower
scopes have left behind have ended too (R95, R103). -/
def State.flushed (s : State) (sc : Scope) : State × Bool :=
  let d := s.drainCore s.t.core
  (d.1, d.2 && (!cellUp sc || d.1.recalls.isEmpty))

/-- Performs every write pending in the core first, for a release at die scope or wider (R103); an operation that a home
performs for another package has none here. -/
def State.afterCore (s : State) (release : Bool) (sc : Scope) (f : State → Tried) : Tried :=
  if release && dieUp sc && s.t.tid != 0 then
    let d := s.flushed sc
    if d.2 then f d.1 else .wait d.1
  else f s

/-- No weak read of the group returns an older scratchpad word any more: what an acquire or a FENCE does (R102, R105). -/
def Group.forgetAll (g : Group) : Group := { g with old := [] }

/-- Lanes of a mask have written these scratchpad words: their weak reads return that or later (R99). -/
def Group.forget (g : Group) (m : Mask) (ws : List Nat) : Group :=
  { g with old := g.old.map fun w => if ws.contains w.word then { w with lanes := w.lanes &&& ~~~m } else w }

/-- The older value of a scratchpad byte that a weak read of some lanes still returns (R91, R273). -/
def Group.oldByte (g : Group) (m : Mask) (a : Nat) : Option Byte :=
  (g.old.find? fun w => w.word == a / 4 && w.lanes &&& m == m).map fun w => w.val.extractLsb' (8 * (a % 4)) 8

/-- The end of an acquire at a scope: the group sees what the acquire orders before it, and at die scope or wider the core's L1
invalidates itself (R104). -/
def State.acquired (s : State) (acq : Bool) (sc : Scope) : State :=
  if acq then
    let s := s.setG s.g.forgetAll
    if dieUp sc then s.selfInvalidate s.t.core else s
  else s

/-! ### Scratchpad (R53, R54, R118, R120, R122) -/

/-- A byte of the current team's scratchpad; a byte nothing has written is 0 in cleared rows, and otherwise a free value of
the placement (R325; log 8). -/
def State.scrByte (s : State) (a : Nat) : Byte :=
  match cellAt s.t.scr a with
  | some b => b
  | none => if s.t.cleared.contains (a / 1536) then 0#8 else (Config.free s.t.placed (1000000 + a)).extractLsb' 0 8

def State.scrBytes (s : State) (a n : Nat) : List Byte := (List.range n).map fun k => s.scrByte (a + k)

/-- The words of a byte range. -/
def wordsIn (a n : Nat) : List Nat := ((List.range n).map fun k => (a + k) / 4).dedup

def State.scrPoisoned (s : State) (a n : Nat) : Bool := (wordsIn a n).any fun w => s.t.scrPoison.contains w

/-- Notes bytes of a team's scratchpad written while an MMA of the team awaits its latch event (R249). -/
def MmaOp.noteB (m : MmaOp) (team : Nat) (as : List Nat) : MmaOp :=
  if m.team = team then { m with dirty := insertAll (as.filter fun a => m.b ≤ a ∧ a < m.b + 8192) m.dirty } else m

def State.noteB (s : State) (team : Nat) (as : List Nat) : State :=
  { s with
    mma := s.mma.map fun m => m.noteB team as
    engines := s.engines.map fun e => { e with places := e.places.map fun p => ⟨p.members.map fun m => m.noteB team as⟩ } }

/-- Writes cells of the scratchpad. -/
def State.scrPut (s : State) (cells : List Host.Cell) : State :=
  State.noteB { s with t := { s.t with scr := cells.foldl (fun m c => cellPut m c.1 c.2) s.t.scr } } s.t.tid (cells.map (·.1))

/-- The units of `k` bytes every byte of which is among the addresses. -/
def coveredUnits (k : Nat) (as : List Nat) : List Nat :=
  (as.map (· / k)).dedup.filter fun u => (List.range k).all fun j => as.contains (k * u + j)

/-- One plain write instruction to scratchpad: its bytes, and the poison of the words it covers whole cleared (R122). -/
def State.scrStore (s : State) (cells : List Host.Cell) : State :=
  let whole := coveredUnits 4 (cells.map (·.1))
  let s := s.scrPut cells
  { s with t := { s.t with scrPoison := s.t.scrPoison.filter fun w => !whole.contains w } }

/-- The group has written a byte range of the scratchpad as one. -/
def State.forgetOnce (s : State) (a n : Nat) : State := s.setG (s.g.forget (BitVec.allOnes 32) (wordsIn a n))

/-- Scratchpad bytes of the team. -/
def State.scrSize (s : State) : Nat := 1536 * s.t.rows

/-! ### Values and registers -/

/-- A loaded value written to its destination registers (R219): sign-extended on request, upper bits zero. -/
def Group.putLoad (g : Group) (l : Fin 32) (d : BitVec 7) (size : Size) (sx : Bool) (bs : List Byte) : Group :=
  let word (k : Nat) : W32 := BitVec.ofNat 32 (ofBytes ((bs.drop (4 * k)).take 4))
  match size with
  | .b1 => g.setV (oneLane l) (reg7 d) fun _ => if sx then sextTo 32 8 (ofBytes bs) else word 0
  | .b2 => g.setV (oneLane l) (reg7 d) fun _ => if sx then sextTo 32 16 (ofBytes bs) else word 0
  | _ => (List.range size.regs).foldl (fun g k => g.setV (oneLane l) (regUp d k) fun _ => word k) g

/-- `n` registers of a lane as bytes. -/
def Group.laneBytes (g : Group) (l : Fin 32) (d : BitVec 7) (n : Nat) : List Byte :=
  (List.range n).flatMap fun k => toBytes 4 (g.vr (regUp d k) l).toNat

/-- The store data of a size: the low bytes of its registers (R219). -/
def Group.storeBytes (g : Group) (l : Fin 32) (d : BitVec 7) (size : Size) : List Byte :=
  (g.laneBytes l d size.regs).take size.bytes

/-- A run of registers written from bytes. -/
def Group.putRun (g : Group) (l : Fin 32) (d : BitVec 7) (n : Nat) (bs : List Byte) : Group :=
  (List.range n).foldl
    (fun g k => g.setV (oneLane l) (regUp d k) fun _ => BitVec.ofNat 32 (ofBytes ((bs.drop (4 * k)).take 4))) g

/-- DATA of a lane as bytes, and back (R307). -/
def LaneOp.bytes (o : LaneOp) : List Byte := o.data.toList.flatMap fun w => toBytes 4 w.toNat

def laneOpOf (addr aux : W64) (bs : List Byte) : LaneOp :=
  ⟨addr, aux, Vector.ofFn fun k : Fin 16 => BitVec.ofNat 32 (ofBytes ((bs.drop (4 * k.val)).take 4))⟩

/-! ### Loads (R95, R96, R107, R121, R220) -/

/-- What a read comes to: its bytes, or as `Tried` says. -/
inductive Got where
  | bytes (s : State) (bs : List Byte)
  | wait (s : State)
  | fail (s : State) (code : BitVec 8) (addr detail : W64)

/-- What is done with the bytes of a read. -/
def Got.to (x : Got) (f : State → List Byte → State) : Tried :=
  match x with
  | .bytes s bs => .done (f s bs)
  | .wait s => .wait s
  | .fail s code addr detail => .fail s code addr detail

/-- The end of a read: an acquire's effect (R104). -/
def State.ended (s : State) (acc : Acc) : State :=
  match acc with
  | .strong k sc => s.acquired k.acquires sc
  | .wk => s

/-- A generic read of `n` bytes. A weak or team-scope one is served by any valid word of the L1 and fills it otherwise; a
strong one at die scope or wider is served at the home. -/
def State.readVa (s : State) (va : W64) (n : Nat) (acc : Acc) : Got :=
  match s.translate s.t.core s.t.ctx va .load with
  | .notPresent s => .fail s 0x06#8 va 0#64
  | .permission s => .fail s 0x07#8 va 0#64
  | .wait s _ => .wait s
  | .ok s pa =>
    let refused (s : State) (st : Nat) : Got :=
      match failStatus s st 0x09#8 va (pkgOf pa) 0#64 with
      | .fail s code addr detail => .fail s code addr detail
      | .wait s | .done s => .wait ((s.translate s.t.core s.t.ctx va .load).reask acc.flags s.t.ctx s.myFlow false)
    let near := match acc with
      | .wk => true
      | .strong _ sc => !dieUp sc
    if near then
      if s.inL1 s.t.core pa n false then
        if s.corePoison s.t.core pa n then .fail s 0x09#8 va 0#64
        else .bytes (s.ended acc) ((List.range n).map fun k => s.coreByte s.t.core (pa + k))
      else
        match s.readyAs acc.flags false s.t.ctx s.myFlow (lineOf pa) false with
        | .wait s => .wait s
        | .fail s st => refused s st
        | .yes s =>
          if s.corePoison s.t.core pa n then .fail s 0x09#8 va 0#64
          else
            let s := s.fill s.t.core pa
            .bytes (s.ended acc) ((List.range n).map fun k => s.coreByte s.t.core (pa + k))
    else
      let d := s.drainBytes s.t.core pa n
      if !d.2 then .wait d.1
      else
        match d.1.readyAs acc.flags (cellUp acc.scope) s.t.ctx s.myFlow (lineOf pa) false with
        | .wait s => .wait s
        | .fail s st => refused s st
        | .yes s =>
          if s.poisoned pa then .fail s 0x09#8 va 0#64
          else
            let bs := s.homeBytes pa n
            .bytes ((s.refresh s.t.core pa n).ended acc) bs

/-- A scratchpad read. -/
def State.readSp (s : State) (a : W64) (n : Nat) (acc : Acc) : Got :=
  if s.scrPoisoned a.toNat n then .fail s 0x09#8 a 0#64
  else .bytes (s.ended acc) (s.scrBytes a.toNat n)

/-- The lanes of a scratchpad load that name the word of a byte: the word is read once for them all (R56). -/
def Op.sharing (o : Op) (n a : Nat) : Mask :=
  o.active &&& maskOf fun l => (wordsIn (o.lanes[l]).addr.toNat n).any (wordsIn a 1).contains

/-- A lane's scratchpad read: a weak one may return older bytes that its group has kept (R91), where they are kept for every
lane that reads the word with it (R56). -/
def State.readSpLane (o : Op) (size : Nat) (s : State) (a : W64) (n : Nat) (acc : Acc) : Got :=
  match acc with
  | .strong _ _ => s.readSp a n acc
  | .wk =>
    if s.scrPoisoned a.toNat n then .fail s 0x09#8 a 0#64
    else .bytes s ((List.range n).map fun k =>
      (s.g.oldByte (o.sharing size (a.toNat + k)) (a.toNat + k)).getD (s.scrByte (a.toNat + k)))

/-- The current value of a scratchpad word is kept for the weak reads of the current group (log 21). -/
def State.keepWord (s : State) (word : Nat) : State :=
  if s.scrPoisoned (4 * word) 4 ∨ s.scrSize < 4 * word + 4 then s
  else
    let w : OldWord := ⟨word, BitVec.ofNat 32 (ofBytes (s.scrBytes (4 * word) 4)), BitVec.allOnes 32⟩
    s.setG { s.g with old := w :: s.g.old.filter fun x => x.word != word }

/-- A generic load of `n` bytes, which go to `f`. -/
def State.loadVa (s : State) (va : W64) (n : Nat) (acc : Acc) (f : State → List Byte → State) : Tried :=
  (s.readVa va n acc).to f

/-- A scratchpad load. -/
def State.loadSp (s : State) (a : W64) (n : Nat) (acc : Acc) (f : State → List Byte → State) : Tried :=
  (s.readSp a n acc).to f

/-- An access of 16 bytes that is strong: two accesses of 8 (R92). -/
def isHalved (n : Nat) (acc : Acc) : Bool :=
  match acc with
  | .strong _ _ => n == 16
  | .wk => false

/-- The half of a strong access of 16 bytes that lane `l` performs next: AUX is 0 before either, when a free value picks one
(R92: they are not ordered), one for the lanes of a word to scratchpad, which its banks serve together (R56), and afterwards 1
more than the half performed. -/
def State.nextHalf (s : State) (lo : LaneOp) (l : Fin 32) : Nat :=
  if lo.aux = 0#64 then (s.freeW (512 + l.val)).toNat % 2 else 2 - lo.aux.toNat

/-- The lane whose free value picks the half: one lane for all where they go to scratchpad. -/
def Op.halfLane (o : Op) (l : Fin 32) : Fin 32 :=
  match o.instr with
  | .lds _ | .sts _ | .binit _ => 0
  | _ => l

/-- A lane's load: one access, or the next of the two that a strong load of 16 bytes is made of (R92). DATA keeps the bytes of
the first until the second has come. -/
def State.loadLane (s : State) (o : Op) (l : Fin 32) (n : Nat) (acc : Acc) (rd : State → W64 → Nat → Acc → Got)
    (f : State → List Byte → State) : Op × Tried :=
  let lo := o.lanes[l]
  if !isHalved n acc then (o, (rd s lo.addr n acc).to f)
  else
    let h := s.nextHalf lo (o.halfLane l)
    let va := lo.addr + BitVec.ofNat 64 (8 * h)
    if lo.aux = 0#64 then
      match rd s va 8 (.strong .st acc.scope) with
      | .bytes s bs =>
        ({ o with lanes := o.lanes.set l.val (laneOpOf lo.addr (BitVec.ofNat 64 (h + 1)) bs) }, .wait s)
      | .wait s => (o, .wait s)
      | .fail s code _ detail => (o, .fail s code lo.addr detail)
    else
      let first := (LaneOp.bytes lo).take 8
      match rd s va 8 acc with
      | .bytes s bs => (o, .done (f s (if h = 1 then first ++ bs else bs ++ first)))
      | .wait s => (o, .wait s)
      | .fail s code _ detail =>
        ({ o with lanes := o.lanes.set l.val (laneOpOf lo.addr 0#64 []) }, .fail s code lo.addr detail)

/-! ### Read-modify-writes (R111, R112, R225) -/

/-- f of R225 on `w`-byte values. -/
def atomApply (op : AtomOp) (wide8 : Bool) (old v : Nat) : Nat :=
  if wide8 then
    let a : W64 := BitVec.ofNat 64 old
    let b : W64 := BitVec.ofNat 64 v
    match op with
    | .add => (a + b).toNat
    | .min => if a.slt b then a.toNat else b.toNat
    | .max => if a.slt b then b.toNat else a.toNat
    | .minU => if a.ult b then a.toNat else b.toNat
    | .maxU => if a.ult b then b.toNat else a.toNat
    | .and => (a &&& b).toNat
    | .or => (a ||| b).toNat
    | .xor => (a ^^^ b).toNat
    | .swap => b.toNat
    | .fadd => (fAdd fmtF64 .rne a.toNat b.toNat).1
  else
    let a : W32 := BitVec.ofNat 32 old
    let b : W32 := BitVec.ofNat 32 v
    match op with
    | .add => (a + b).toNat
    | .min => if a.slt b then a.toNat else b.toNat
    | .max => if a.slt b then b.toNat else a.toNat
    | .minU => if a.ult b then a.toNat else b.toNat
    | .maxU => if a.ult b then b.toNat else a.toNat
    | .and => (a &&& b).toNat
    | .or => (a ||| b).toNat
    | .xor => (a ^^^ b).toNat
    | .swap => b.toNat
    | .fadd => (fAdd fmtF32 .rne a.toNat b.toNat).1

/-- Code of an operation in an ATOM packet (log 18): 0-9 as R225, and 64 more for 8 bytes; 0x10 CASW, 0x11 ENQ, 0x20 a counter
addition. -/
def atomCode (op : AtomOp) : BitVec 8 :=
  match op with
  | .add => 0#8 | .min => 1#8 | .max => 2#8 | .minU => 3#8 | .maxU => 4#8 | .and => 5#8 | .or => 6#8 | .xor => 7#8
  | .swap => 8#8 | .fadd => 9#8

/-- Where a lane's reply stands: not asked, waiting, or here. -/
inductive Asked where
  | no
  | waiting
  | reply (s : State) (status : Nat) (data : List Byte)

/-- The outstanding request of a lane of an operation of the current group. -/
def State.asked (s : State) (op : Nat) (l : Fin 32) : Asked :=
  match s.reqs.find? fun r => r.purpose = .lane s.me op l.val with
  | none => .no
  | some r =>
    match r.reply with
    | none => .waiting
    | some (st, bs) => .reply { s with reqs := s.reqs.filter fun q => q.tag ≠ r.tag } st bs

/-- Asks the home of another package to perform an operation, or takes its reply, which may name a fault of its own (R112,
R353; log 18). -/
def State.remote (s : State) (op : Nat) (l : Fin 32) (typ code : BitVec 8) (va : W64) (pa : Nat) (k : Kind) (sc : Scope)
    (poison : BitVec 8) (payload : List Byte) (f : State → List Byte → Tried) : Tried :=
  match s.asked op l with
  | .waiting => .wait s
  | .reply s st bs =>
    let code := ofBytes ((bs.drop 16).take 8)
    if st = 0 then f s bs
    else if code ≠ 0 then
      -- a refused write names the package that refuses it (R305)
      .fail s (BitVec.ofNat 8 code) (BitVec.ofNat 64 (ofBytes (bs.take 8)))
        (if code = 8 then BitVec.ofNat 64 (ofBytes ((bs.drop 8).take 8)) else 0#64)
    else failStatus s st poison va (pkgOf pa) 0#64
  | .no =>
    if s.deadPkg (pkgOf pa) then .fail s 0x0B#8 va 0#64
    else
      if s.flowFull s.myFlow (pkgOf pa) then .wait s
      else .wait (s.request (s.mkPacket typ code pa s.t.ctx s.myFlow (strongFlags k sc) payload) (.lane s.me op l.val) true)

/-- The write of a read-modify-write at the home, `none` where it writes nothing. -/
def State.putHome (s : State) (pa : Nat) (new : Option (List Byte)) : State :=
  match new with
  | none => s
  | some bs => s.homeWrite (some s.t.core) (cellsAt pa bs)

/-- An atomic of a lane: it executes in the core's L1, at the slice, or at the home HOU, as its scope says, or, `hou`, at the
home HOU whatever its scope; the scope decides what it synchronises with (R112). `f` gives the new bytes from the old; `g`
receives the old ones; an update at the home HOU that `fires` fires triggers (R262). A lane that writes nothing has read
beyond the L1, whose copies of what it read go (R98). -/
def State.atomVa (s : State) (op : Nat) (l : Fin 32) (code : BitVec 8) (va : W64) (n : Nat) (k : Kind) (sc : Scope)
    (hou : Bool) (payload : List Byte) (fires : Bool) (f : List Byte → Option (List Byte)) (g : State → List Byte → State) :
    Tried :=
  let far := cellUp sc || hou
  s.withPa va .store 0#64 fun s pa =>
    s.afterCore k.releases sc fun s =>
      s.afterBytes pa n fun s =>
        if far && !s.here pa then
          s.remote op l 0x03#8 (if n = 8 ∧ code.toNat < 10 then code ||| 0x40#8 else code) va pa k sc 0x0A#8 payload fun s bs =>
            .done (g (State.acquired { s with l1 := s.l1.filter fun w => !((wordsIn pa n).contains w.word && w.core == s.t.core) }
              k.acquires sc) (bs.take n))
        else
          s.withLine (strongFlags k sc) far va pa true 0x0A#8 fun s =>
            if s.poisoned pa then .fail s 0x0A#8 va 0#64
            else
              let old := s.homeBytes pa n
              let s := if (f old).isSome then s.putHome pa (f old) else s.dropCopies s.t.core (wordsIn pa n)
              let s := if fires && far then s.fireAt pa else s
              let s := if dieUp sc || hou then s else s.register s.t.core (wordsIn pa n)
              .done (g (s.acquired k.acquires sc) old)

/-! ### Posted stores (R95, R96, R122) -/

/-- The store data of one lane posted in the core's L1: in one part, or two of 8 bytes (R92). -/
def State.post (s : State) (batch : Nat) (va : W64) (pa : Nat) (part : Nat × Fin 32) (f : StoreForm)
    (whole : List Nat) (bs : List Byte) : State :=
  let mk (id : Nat) (off : Nat) (bs' : List Byte) : Posted :=
    { id := id, batch := batch, core := s.t.core, team := s.t.tid, group := s.g.id, ctx := s.t.ctx, flow := s.myFlow
      va := va + BitVec.ofNat 64 off, part := part, release := f.release, strong := f.strong, scope := f.scope
      bytes := cellsAt (pa + off) bs', whole := whole, moved := false, again := false, pair := decide (8 < bs.length) }
  if bs.length ≤ 8 then { s with posted := s.posted ++ [mk s.nextId 0 bs], nextId := s.nextId + 1 }
  else
    { s with
      posted := s.posted ++ [mk s.nextId 0 (bs.take 8), mk (s.nextId + 1) 8 (bs.drop 8)]
      nextId := s.nextId + 2 }

/-- The line is held so that a store to it cannot be refused: it is local, or held in M or E (R95). -/
def State.ownedLine (s : State) (pa : Nat) : Bool :=
  s.here pa || (match s.llcState (lineOf pa) with
    | some .m | some .e => true
    | _ => false)

/-! ### Operations in flight (R143-R146) -/

/-- The operation of the current group with a number. -/
def Group.opOf (g : Group) (id : Nat) : Option Op := g.ops.find? fun o => o.id = id

/-- A fault found at issue waits for the group's operations (R146). -/
def Group.draining (g : Group) : Bool :=
  match g.status with
  | .drain _ => true
  | _ => false

/-- The CYCLE at which the failure of an operation is known: every lane has replied or failed (R146, R304). -/
def State.noteFailure (s : State) (o : Op) : Op := if o.failed && o.found.isNone then { o with found := some s.cycle } else o

/-- Replaces an operation, and drops it when every lane has been performed. A failed operation whose lanes have all
replied, and a fault that waited for the last operation, are taken in an event of their own (R146, R379). -/
def State.putOp (s : State) (o : Op) : State :=
  let o := s.noteFailure o
  let ops := updWhere (fun x => x.id == o.id) (fun _ => o) s.g.ops
  let s := { s with g := { s.g with ops := ops.filter Op.isOpen } }
  if o.failed || s.g.draining then s.pushDue (.faultTaken s.me) else s

/-- The lanes of an operation end with a fault. -/
def Op.failLanes (o : Op) (m : Mask) (code : BitVec 8) (addr detail : W64) : Op :=
  { o with
    pend := o.pend &&& ~~~m
    fails := o.fails ++ (lanesOf m).map fun l => ⟨l, code, addr, detail⟩ }

/-- The home refused a lane's posted store: its operation learns of it (R242). -/
def State.partRefused (s : State) (e : Posted) (status : Nat) : State :=
  s.withGroup ⟨e.team, e.group⟩ fun s =>
    match s.g.opOf e.part.1 with
    | none => s
    | some o =>
      match failStatus s status 0x0A#8 e.va (e.bytes.head?.elim 0 fun c => pkgOf c.1) 0#64 with
      | .fail s code addr detail =>
        s.putOp (o.failLanes (if o.instr.isOnce then o.pend else o.pend &&& oneLane e.part.2) code addr detail)
      | _ => s

/-- A posted store is performed at its home if it can be; refused, it writes nothing, and neither does the other part of its
lane (R92, R95, R96, R242), and refused as moved it waits for a new walk (R345). -/
def State.ackPosted (s : State) (id : Nat) : State :=
  match s.posted.find? fun e => e.id = id with
  | none => s
  | some e =>
    match s.performPosted e with
    | .yes s => s
    | .wait s => s
    | .fail s st =>
      if st = 1 then
        { s with posted := updWhere (fun f => f.id == id) (fun f => { f with moved := true, again := true }) s.posted }
      else
        let other := (s.sibling e).map (·.id)
        State.partRefused { s with posted := s.posted.filter fun f => f.id ≠ id ∧ some f.id ≠ other } e st

/-- The lanes of a store operation whose bytes have all been performed; a scalar store's lanes share one access. -/
def State.landed (s : State) (o : Op) : Mask :=
  o.sent &&& maskOf fun l =>
    let l := if o.instr.isOnce then lowLane o.active else l
    !(s.posted.any fun e => e.core == s.t.core && e.part == (o.id, l)) &&
    !(s.stcs.any fun c => c.team == s.t.tid && c.group == s.g.id && c.op == o.id && c.lane == l.val)

/-! ### The bytes of a store enter the L1 (R95, R98, R122) -/

/-- A lane of a store: translated, with its bytes, or failed. -/
structure StoreLane where
  lane : Fin 32
  va : W64
  pa : Option Nat
  code : BitVec 8
  bytes : List Byte

/-- Translates the lanes of a store for writing, in ascending order. A lane whose walk waits has code 0. -/
def State.storeLanes (s : State) (ls : List (Fin 32)) (va : Fin 32 → W64) (bs : Fin 32 → List Byte) :
    State × List StoreLane :=
  ls.foldl (fun (x : State × List StoreLane) l =>
    match x.1.translate x.1.t.core x.1.t.ctx (va l) .store with
    | .ok s pa => (s, x.2 ++ [⟨l, va l, some pa, 0#8, bs l⟩])
    | .notPresent s => (s, x.2 ++ [⟨l, va l, none, 0x06#8, bs l⟩])
    | .permission s => (s, x.2 ++ [⟨l, va l, none, 0x07#8, bs l⟩])
    | .wait s _ => (s, x.2 ++ [⟨l, va l, none, 0#8, bs l⟩])) (s, [])

/-- The decrements of the lanes of an STC, each behind its own store and every write pending in the core (R229). -/
def State.queueStc (s : State) (o : Op) (ls : List (Fin 32)) : State :=
  match o.instr with
  | .stc m =>
    let before := (s.posted.filter fun e => e.core == s.t.core).map (·.id)
    ls.foldl (fun s l =>
      { s with
        stcs := s.stcs ++ [{ id := s.nextId, core := s.t.core, team := s.t.tid, group := s.g.id, op := o.id, lane := l.val
                             ctx := s.t.ctx, amount := m.size.bytes, kind := m.kind, scope := m.scope
                             ctr := o.gops.getD 0 0#64, after := before }]
        nextId := s.nextId + 1 }) s
  | _ => s

/-- The lanes of a store as translated: those that have a frame are posted, as one instruction; the others fail. -/
def State.postLanes (s : State) (o : Op) (todo only : Mask) (zs : List StoreLane) : State :=
  let f := o.instr.storeForm
  let ok := zs.filterMap fun z => z.pa.map fun pa => (z, pa)
  let bad := zs.filter fun z => z.pa.isNone
  let whole := (coveredUnits 128 (ok.flatMap fun y => (List.range y.1.bytes.length).map fun k => y.2 + k)).map (128 * ·)
  let batch := s.nextId
  let s := ok.foldl (fun s y => s.post batch y.1.va y.2 (o.id, y.1.lane) f whole y.1.bytes)
    { s with nextId := s.nextId + 1 }
  let s := s.queueStc o (ok.map (·.1.lane) ++ lanesOf only)
  s.putOp (bad.foldl (fun o z => o.failLanes (if o.instr.isOnce then o.pend else oneLane z.lane) z.code z.va 0#64)
    { o with sent := o.sent ||| todo })

/-- The bytes of a store's captured lanes enter its core's L1, in ascending lane order (R95, R98): each lane is translated,
and one that has no translation fails; while one walks, none is sent. A scalar store makes one access for its lanes. An STC
lane whose store was performed before its log was written (AUX 1) only awaits its decrement (R229, R307). -/
def State.sendStore (s : State) (o : Op) : State :=
  let todo := o.pend &&& ~~~o.sent
  let only := todo &&& maskOf fun l => (o.lanes[l]).aux == 1#64
  let ls := if o.instr.isOnce then [lowLane todo] else lanesOf (todo &&& ~~~only)
  let x := s.storeLanes ls (fun l => (o.lanes[l]).addr) fun l => (LaneOp.bytes (o.lanes[l])).take o.instr.storeForm.size
  if x.2.any fun z => z.pa.isNone && z.code == 0#8 then x.1 else x.1.postLanes o todo only x.2

/-! ### Checks made at issue (R379) -/

/-- The code by which a check says that its address is still being translated. -/
def walking : BitVec 8 := 0x00#8

/-- The failed check a word reports: the first code in the order of R379, the address of its lowest lane, and the lanes
that fail any. `f` lists the failed checks of a lane, with their addresses. -/
def failedCheck (act : Mask) (f : Fin 32 → List (BitVec 8 × W64)) : Option (BitVec 8 × W64 × W64) :=
  let ls := (lanesOf act).filterMap fun l => if (f l).isEmpty then none else some (l, f l)
  let codes := ls.flatMap fun x => x.2.map (·.1)
  match codes with
  | [] => none
  | c :: r =>
    let code := r.foldl (fun a b => if b.toNat < a.toNat then b else a) c
    let addr := (ls.findSome? fun x => (x.2.find? fun y => y.1 = code).map (·.2)).getD 0#64
    let m := ls.foldl (fun m x => m ||| oneLane x.1) 0#32
    some (code, addr, m.zeroExtend 64 <<< 32)

/-- Alignment of an address (R92). -/
def misaligned (a : W64) (n : Nat) : List (BitVec 8 × W64) := if a.toNat % n = 0 then [] else [(0x04#8, a)]

/-- Bounds of a scratchpad access (R54). -/
def State.outside (s : State) (a : W64) (n : Nat) : List (BitVec 8 × W64) :=
  if a.toNat + n ≤ s.scrSize && decide (a.toNat < 2 ^ 21) then [] else [(0x05#8, a)]

/-- Translation of an address for a check made at issue. -/
def State.unmapped (s : State) (a : W64) (x : Access) : List (BitVec 8 × W64) :=
  match s.translate s.t.core s.t.ctx a x with
  | .ok .. => []
  | .notPresent _ => [(0x06#8, a)]
  | .permission _ => [(0x07#8, a)]
  | .wait _ _ => [(walking, a)]

end Sys2Proof.Machine
end

