-- ==== Sys2Proof/Machine/Call.lean ====
section
/-! DEFINITION. Service calls: the slots of the request ring, their reservation, and what a call that has its slots does
(01 R34; 06 R177; 13 R313, R314). -/

namespace Sys2Proof.Machine

/-- The bytes of a lane's request: its argument block and fields 72-111 and 112 of R313, as runs. -/
def State.slotRuns (s : State) (args : List Byte) (lpc : W32) (l : Fin 32) (resume count : Nat) : List (Nat × List Byte) :=
  [(0, args),
   (72, toBytes 8 resume ++ toBytes 4 lpc.toNat ++ toBytes 1 l.val ++ toBytes 1 s.g.id ++
     toBytes 2 s.t.ctx.toNat ++ toBytes 8 s.t.grid ++ toBytes 4 s.t.x.toNat ++ toBytes 2 s.t.y.toNat ++
     toBytes 2 s.t.z.toNat ++ toBytes 8 count ++ toBytes 1 1)]

/-- Slots of a context's ring that calls issued here have reserved and not yet written (R314). -/
def State.reserved (s : State) (ctx : BitVec 10) : Nat :=
  ((s.storeFocus.teams.filter fun t => t.ctx = ctx).map fun t => (t.groups.map fun g => (g.ops.map fun o =>
    match o.instr with
    | .svc _ => (lanesOf o.pend).length
    | _ => 0).sum).sum).sum

/-- The tail as advanced by every call that has issued (R314). -/
def State.ringTail (s : State) (ctx : BitVec 10) : Nat := s.rd (s.ringBase ctx) 8 + s.reserved ctx

/-- The ring takes a slot for each of `n` lanes: tail − head + n is at most the ring's size (R314). -/
def State.ringRoom (s : State) (ctx : BitVec 10) (n : Nat) : Bool :=
  decide ((BitVec.ofNat 64 (s.ringTail ctx) - BitVec.ofNat 64 (s.rd (s.ringBase ctx + 8) 8)).toNat + n ≤ s.ringSize ctx)

/-- The slots taken at `count` are written in ascending lane order; then the tail and the doorbell (R314). The team's resume
counter counts the lanes (R311). -/
def State.writeSlots (s : State) (d : BitVec 7) (act : Mask) (lpc : W32) (args : Fin 32 → List Byte) (count : Nat) : State :=
  let ctx := s.t.ctx
  let base := s.ringBase ctx
  let ls := lanesOf act
  let s := s.ensureArea
  let s := s.raiseResume ls.length
  let s := (ls.zipIdx).foldl (fun s p =>
    let slot := s.slotAddr ctx (count + p.2)
    let s := (s.slotRuns (args p.1) lpc p.1 s.resumeAddr (count + p.2)).foldl (fun s r => s.hwWrite (slot + r.1) r.2) s
    { s with t := { s.t with calls := s.t.calls ++ [(s.g.id, p.1.val, d, slot)] } }) s
  let s := s.wrN base 8 (count + ls.length)
  let bell := s.descField ctx 72 8
  if bell = 0 then s else s.addPhys bell 1#64 0

/-- The lanes of a call are parked, its group stops, and its team leaves the core (R34). -/
def State.parkCall (s : State) (act : Mask) : State :=
  let s := s.setG (s.g.setLane act .parkedCall)
  let s := if s.t.header then s.setStatus .stopped else s
  s.askSave .call

/-- A call in flight writes its slots once every write before it has been performed at system scope, the calls before it have
written theirs, and the lines are here (R103, R314). -/
def State.callAgain (s : State) (w : WSvc) (o : Op) : Tried :=
  let count := (o.gops.getD 0 0#64).toNat
  let ctx := s.t.ctx
  let d := s.flushed .sys
  if !d.2 then .wait d.1
  else
    match d.1.readyLines ctx s.myFlow [lineOf (s.ringBase ctx)] with
    | .wait s | .fail s _ => .wait s
    | .yes s =>
      if s.rd (s.ringBase ctx) 8 ≠ count then .wait s
      else
        match s.readyLines ctx s.myFlow ((List.range (lanesOf o.pend).length).map fun k => s.slotAddr ctx (count + k)) with
        | .wait s | .fail s _ => .wait s
        | .yes s => .done (s.writeSlots w.d o.pend o.lpc (fun l => LaneOp.bytes (o.lanes[l])) count)

end Sys2Proof.Machine
end

