-- ==== Sys2Proof/Machine/Grids.lean ====
section
/-! DEFINITION. Launch records, launching and completing grids, and their triggers (01 R36, R37; 09 R260-R263;
14 R319, R320). -/

namespace Sys2Proof.Machine

/-! ### Launch records (R260) -/

/-- The scope of a code (R218). -/
def scopeOf (x : Nat) : Option Scope :=
  match x with
  | 0 => some .team
  | 1 => some .die
  | 2 => some .dev
  | 3 => some .cell
  | 4 => some .sys
  | _ => none

/-- A field of a record. -/
def fieldAt (bs : List Byte) (off n : Nat) : Nat := ofBytes ((bs.drop off).take n)

/-- A launch record, `none` when it is invalid (R260). The code base is aligned to 8: its low bits do not count. -/
def parseLaunch (bs : List Byte) : Option LaunchRec :=
  let groups := fieldAt bs 20 1
  let regs := 16 * (fieldAt bs 21 1 % 8 + 1)
  let rows := fieldAt bs 22 2
  let ex := fieldAt bs 12 4
  let ctl := fieldAt bs 56 1
  match scopeOf (ctl % 8) with
  | none => none
  | some sc =>
    if groups = 0 ∨ 32 < groups ∨ 4096 < groups * regs ∨ 1024 < rows ∨ ex = 0 ∨ 2 ^ 31 < ex ∨ fieldAt bs 48 8 % 8 ≠ 0 ∨
        15 < fieldAt bs 57 1 then none
    else
      some
        { codeBase := BitVec.ofNat 64 (fieldAt bs 0 8 / 8 * 8), entry := BitVec.ofNat 32 (fieldAt bs 8 4), ex := ex
          ey := fieldAt bs 16 2 + 1, ez := fieldAt bs 18 2 + 1, groups := groups, regs := regs, rows := rows
          dataSeg := BitVec.ofNat 64 (fieldAt bs 24 8), arg0 := BitVec.ofNat 64 (fieldAt bs 32 8)
          arg1 := BitVec.ofNat 64 (fieldAt bs 40 8), ctr := BitVec.ofNat 64 (fieldAt bs 48 8), scope := sc
          prio := ctl / 8 % 4, order := ctl / 32 % 4, tile := fieldAt bs 57 1, dies := BitVec.ofNat 4 (fieldAt bs 58 1) }

/-! ### Accepting a grid (R319, R320) -/

/-- The pending-grid limit of a context is reached (R298, R319). -/
def State.gridLimit (s : State) (ctx : BitVec 10) : Bool :=
  let lim := s.descField ctx 18 2
  decide ((if lim = 0 then 4096 else lim) ≤ (s.grids.filter fun g => g.ctx = ctx ∧ !g.placedAll).length)

/-- A die field, 0 meaning all four. -/
def diesOf (x : BitVec 4) : BitVec 4 := if x = 0#4 then 0xF#4 else x

/-- The allowed dies of a grid (R319). -/
def State.allowedDies (s : State) (ctx : BitVec 10) (r : LaunchRec) : BitVec 4 :=
  let c := diesOf (BitVec.ofNat 4 (s.descField ctx 17 1))
  let d := diesOf r.dies &&& c
  if d = 0#4 then c else d

/-- The grid that a record makes, numbered by the package's next number. -/
def State.newGrid (s : State) (r : LaunchRec) (ctx : BitVec 10) (nest : Nat) (parent : Option Nat) (trig : Option Scope) :
    Grid :=
  { gid := s.nextId, ctx := ctx, record := r, level := min r.prio (s.descField ctx 16 1 % 4)
    dies := s.allowedDies ctx r, nest := nest, parent := parent, waiting := trig.isSome, trigScope := trig, dealt := 0
    placed := 0, placedAll := false, live := 0, children := 0, lastCore := none, completing := false }

/-- Queues a grid, or holds it behind its trigger. -/
def State.acceptGrid (s : State) (g : Grid) : State :=
  let s := { s with
    nextId := s.nextId + 1
    grids := (updWhere (fun x => some x.gid == g.parent) (fun x => { x with children := x.children + 1 }) s.grids) ++ [g] }
  if g.waiting then s else s.fireGrid g.gid

/-! ### GLAUNCH and TLAUNCH (R261, R262) -/

/-- What a launch comes to: a status with its effect done, failed checks, a poisoned record, a record that cannot be read yet,
a record read whose checks have passed, or a launch that waits for the group's accesses or for its trigger's registration. -/
inductive LaunchTry where
  | status (s : State) (n : Nat)
  | fault (s : State) (cs : List (BitVec 8 × W64))
  | late (s : State) (code : BitVec 8) (addr detail : W64)
  | wait (s : State)
  | checked (s : State) (bytes : List Byte)
  | registering (s : State)

/-- The failed translation of an address. -/
def xlateFail (va : W64) : Xlated → List (BitVec 8 × W64)
  | .ok .. => []
  | .notPresent _ => [(0x06#8, va)]
  | .permission _ => [(0x07#8, va)]
  | .wait _ _ => [(walking, va)]

/-- Queues the grid of a TLAUNCH behind a trigger on the counter at `pa` (R262). A registration that another package does not
answer is asked for again (R267; log 64). -/
def State.trigger (s : State) (g : Grid) (va : W64) (pa : Nat) (sc : Scope) : LaunchTry :=
  if !s.here pa then
    match s.reqs.find? fun r => r.purpose = .launch s.me with
    | none =>
      if s.deadPkg (pkgOf pa) then .registering s
      else .registering (s.request (s.mkPacket 0x03#8 0x33#8 pa s.t.ctx s.myFlow (strongFlags .ar sc) []) (.launch s.me) true)
    | some r =>
      match r.reply with
      | none => .registering s
      | some (st, bs) =>
        let s := { s with reqs := s.reqs.filter fun q => q.tag ≠ r.tag }
        if st = 1 then .registering (s.dropVa s.t.core s.t.ctx va)
        else if st ≠ 0 then .registering s
        else
          match ofBytes (bs.take 8) with
          | 0 => .status (s.acceptGrid { g with gid := r.tag.toNat }) 0
          | 1 =>
            let s := s.acceptGrid { g with gid := r.tag.toNat }
            .status (s.fireGrid r.tag.toNat) 0
          | _ => .status s 3
  else
    match s.readyLine s.t.ctx s.myFlow (lineOf pa) false with
    | .wait s => .registering s
    | .fail s _ => .registering s
    | .yes s =>
      if 4096 ≤ (s.triggers.filter fun t => homeUnit t.addr = homeUnit pa).length then .status s 3
      else
        let s' := s.acceptGrid g
        if s.ctrAt pa = 0#64 then .status (s'.fireGrid g.gid) 0
        else .status { s' with triggers := s'.triggers ++ [⟨pa, s.pkg, s.t.ctx, g.gid, sc⟩] } 0

/-- The nesting level of the current group's grid (R36). -/
def State.nestLevel (s : State) : Nat :=
  match s.grids.find? fun g => g.gid = s.t.grid with
  | some g => g.nest
  | none => 0

/-- The addresses of a launch that are translated and aligned before its record is read (R261): the state, and the checks that
fail. -/
def State.launchAddrs (s : State) (rec_ : W64) (trig : Option (W64 × Scope)) : State × List (BitVec 8 × W64) :=
  let x := s.translate s.t.core s.t.ctx rec_ .load
  let y := trig.map fun t => (t.1, x.state.translate s.t.core s.t.ctx t.1 .store)
  (match y with | some z => z.2.state | none => x.state,
   misaligned rec_ 64 ++ (match trig with | some t => misaligned t.1 8 | none => []) ++ xlateFail rec_ x ++
     (match y with | some z => xlateFail z.1 z.2 | none => []))

/-- The checks of a launch by the current group (R261): its group and level, its addresses, its record, and the completion
counter that a valid record names. -/
def State.checkLaunch (s : State) (rec_ : W64) (trig : Option (W64 × Scope)) : LaunchTry :=
  if s.g.id ≠ 0 then .status s 1
  else if s.nestLevel = 10 then .status s 2
  else
    let a := s.launchAddrs rec_ trig
    if a.2 ≠ [] then .fault a.1 a.2
    else
      match a.1.translate s.t.core s.t.ctx rec_ .load with
      | .ok s pa =>
        match s.recordLine pa with
        | .wait s => .wait s
        | .fail s st => .wait (if st = 1 then s.recordMoved rec_ else s)
        | .yes s =>
          if s.poisoned pa then .late s 0x09#8 rec_ 0#64
          else
            match parseLaunch (s.homeBytes pa 64) with
            | none => .status s 5
            | some r =>
              let c := if r.ctr = 0#64 then [] else xlateFail r.ctr (s.translate s.t.core s.t.ctx r.ctr .store)
              if c ≠ [] then .fault s c else .checked s (s.homeBytes pa 64)
      | x => .fault x.state (xlateFail rec_ x)

/-- A launch whose checks have passed (R261): the pending-grid limit, and, once every write before it has been performed at
system scope, the grid, queued or held behind its trigger. -/
def State.goLaunch (s : State) (bytes : List Byte) (trig : Option (W64 × Scope)) : LaunchTry :=
  match parseLaunch bytes with
  | none => .status s 5
  | some r =>
    if s.gridLimit s.t.ctx then .status s 4
    else
      let d := s.flushed .sys
      let s := d.1
      if !d.2 then .registering s
      else
        let g := s.newGrid r s.t.ctx (s.nestLevel + 1) (some s.t.grid) (trig.map (·.2))
        match trig with
        | none => .status (s.acceptGrid g) 0
        | some t =>
          match s.translate s.t.core s.t.ctx t.1 .store with
          | .ok s pa => s.trigger g t.1 pa t.2
          | .wait s _ => .registering s
          | .notPresent s => .late s 0x06#8 t.1 0#64
          | .permission s => .late s 0x07#8 t.1 0#64

/-- The 64 bytes of a launch record, as words of GROUPOPS. -/
def recordWords (bs : List Byte) : List W64 := (List.range 8).map fun k => BitVec.ofNat 64 (fieldAt bs (8 * k) 8)

/-- The operands of a launch held in an operation: record, trigger counter. -/
def launchOperands (o : Op) : W64 × W64 := (o.gops.getD 0 0#64, o.gops.getD 1 0#64)

/-- A launch in flight: its checks, where they are still to be made, or made again from the log (R308), and then its effect
(R261). A check that fails before it was ever made is precise at the word. -/
def State.launchAgain (s : State) (d : BitVec 7) (o : Op) (trig : Option Scope) : Op × Tried :=
  let x := launchOperands o
  let tr := trig.map fun sc => (x.2, sc)
  let read := decide (3 < o.gops.length)
  match if read then s.goLaunch ((o.gops.drop 2).flatMap fun w => toBytes 8 w.toNat) tr else s.checkLaunch x.1 tr with
  | .status s n => (o, .done (s.setG (s.g.setS (sreg7 d) (BitVec.ofNat 64 n))))
  | .checked s bs => ({ o with gops := [x.1, x.2] ++ recordWords bs }, .wait s)
  | .wait s | .registering s => (o, .wait s)
  | .late s code addr detail => ({ o with gops := [x.1, x.2] }, .fail s code addr detail)
  | .fault s cs =>
    match failedCheck o.active (fun _ => cs) with
    | some (code, addr, detail) => if code = walking then (o, .wait s) else (o, .fail s code addr (if o.unread then detail else 0#64))
    | none => (o, .wait s)

/-! ### Completion (R37, R263) -/

/-- Completes a grid whose teams have retired and whose children are complete, and then the grids that waited for it. -/
def State.completeGrid : Nat → State → Nat → State
  | 0, s, _ => s
  | fuel + 1, s, gid =>
    match s.grids.find? fun g => g.gid = gid with
    | none => s
    | some g =>
      if g.placedAll && g.live == 0 && g.children == 0 then
        let s := { s with grids := updWhere (fun x => some x.gid == g.parent) (fun x => { x with children := x.children - 1 })
                            (s.grids.filter fun x => x.gid ≠ gid) }
        let s := if g.record.ctr = 0#64 then s
          else s.addVa (dieOfCore (g.lastCore.getD 0)) g.ctx g.record.scope g.record.ctr 1#64
        match g.parent with
        | none => s
        | some p => State.completeGrid fuel s p
      else s

/-- One team of a grid has retired. -/
def State.teamDone (s : State) (gid : Nat) : State :=
  State.completeGrid 12 { s with grids := updWhere (fun g => g.gid == gid) (fun g => { g with live := g.live - 1 }) s.grids } gid

end Sys2Proof.Machine
end

