-- ==== Sys2Proof/Machine/Shape.lean ====
section
/-! DEFINITION. Shape records, and the acceptance of a TCOPY by its engine (09 R256, R257). -/

namespace Sys2Proof.Machine

/-! ### Shape records (R256) -/

/-- A signed 32-bit field. -/
def int32At (bs : List Byte) (off : Nat) : Int := (BitVec.ofNat 32 (fieldAt bs off 4)).toInt

/-- A shape record, `none` when it is invalid. Dimensions at or above dims have extent 1 and stride 0. -/
def parseShape (bs : List Byte) : Option Shape :=
  let ctl := fieldAt bs 38 2
  let esz := ctl % 8
  let dims := ctl / 8 % 8
  if 4 < esz ∨ dims = 0 ∨ 5 < dims then none
  else
    let used (d : Nat) (x : Int) : Int := if d < dims then x else 0
    some
      { base := BitVec.ofNat 64 (fieldAt bs 0 8)
        gstride := (List.range 5).map fun d => used d (int32At bs (8 + 4 * d))
        extent := (List.range 5).map fun d => if d < dims then fieldAt bs (28 + 2 * d) 2 + 1 else 1
        esize := 2 ^ esz, dims := dims, toGlobal := ctl.testBit 6, sbase := fieldAt bs 40 4 % 2 ^ 21
        sstride := (List.range 4).map fun d => used (d + 1) (int32At bs (44 + 4 * d)), raw := bs }

/-- Elements of the copy. -/
def Shape.count (h : Shape) : Nat := h.extent.foldl (· * ·) 1

/-- The iteration vector of element number `q`, i0 first. -/
def Shape.vector (h : Shape) (q : Nat) : List Nat :=
  (h.extent.foldl (fun (x : List Nat × Nat) e => (x.1 ++ [x.2 % e], x.2 / e)) ([], q)).1

/-- The number of the element of an iteration vector. -/
def Shape.number (h : Shape) (v : List Nat) : Nat :=
  ((List.zip v h.extent).foldr (fun p q => p.1 + p.2 * q) 0)

/-- The global address of an element (R257). -/
def Shape.globalAt (h : Shape) (v : List Nat) : W64 :=
  h.base + BitVec.ofInt 64 ((List.zip h.gstride v).map fun p => p.1 * (p.2 : Int)).sum

/-- The scratchpad strides of all five dimensions. -/
def Shape.strides (h : Shape) : List Int := (h.esize : Int) :: h.sstride

/-- The scratchpad address of an element (R257). -/
def Shape.scratchAt (h : Shape) (v : List Nat) : Int :=
  (h.sbase : Int) + ((List.zip h.strides v).map fun p => p.1 * (p.2 : Int)).sum

/-- The lowest and the highest scratchpad address of the iteration space. -/
def Shape.reach (h : Shape) : Int × Int :=
  (List.zip h.strides h.extent).foldl (fun (x : Int × Int) p =>
    let d := p.1 * ((p.2 : Int) - 1)
    (x.1 + min 0 d, x.2 + max 0 d)) ((h.sbase : Int), (h.sbase : Int))

/-! ### TCOPY (R257) -/

/-- The checks of an accepted record: alignment, then bounds. The address reported is that of the misaligned base, else the
scratchpad address, else the counter (log 24). -/
def State.shapeChecks (s : State) (h : Shape) (ctr : W64) (sp : Bool) : List (BitVec 8 × W64) :=
  let off (x : Int) : Bool := x % (h.esize : Int) != 0
  let r := h.reach
  misaligned h.base h.esize ++ (if h.gstride.any off then [(0x04#8, h.base)] else []) ++
    (if off (h.sbase : Int) || h.sstride.any off then [(0x04#8, BitVec.ofNat 64 h.sbase)] else []) ++ misaligned ctr 8 ++
    (if decide (0 ≤ r.1) && decide (r.2 + (h.esize : Int) ≤ (s.scrSize : Int)) then [] else [(0x05#8, BitVec.ofInt 64 r.1)]) ++
    (if sp then s.outside ctr 8 else [])

/-- A TCOPY command of the current group; `behind` are the operations that hold it back (R103, R113). -/
def State.newCopy (s : State) (e : ETcopy) (active : Mask) (lpc : W32) (waitm : Mask) (rec_ : W64) (h : Shape) (ctr : W64)
    (done : Nat) (behind : List Nat) : CopyCmd :=
  { id := s.nextId, instr := .tcopy e, active := active, core := s.t.core, team := s.t.tid, group := s.g.id, ctx := s.t.ctx
    lpc := lpc, waitm := waitm, recAddr := rec_, shape := h, ctr := ctr, ctrSp := e.sp, scope := e.scope, started := false, done := done
    after := (s.posted.filter fun p => p.core == s.t.core).map (·.id), behind := behind, clear := false
    covered := [], sources := [], freed := [], lost := [], stuck := none }

/-- The engine takes a command in (R257). -/
def State.takeCopy (s : State) (c : CopyCmd) : State := { s with copies := s.copies ++ [c], nextId := s.nextId + 1 }

/-- What a TCOPY's checks come to: they pass, one fails, or its record cannot be read yet. -/
inductive ShapeTry where
  | ok (s : State) (h : Shape)
  | bad (s : State) (code : BitVec 8) (addr detail : W64)
  | wait (s : State)

/-- The checks of a TCOPY, in their order (R257, R379), reported for the lanes `act`. A record whose home does not answer is
read again, and no fault of it is taken (R267; log 64). -/
def State.checkCopy (s : State) (e : ETcopy) (act : Mask) (rec_ ctr : W64) : ShapeTry :=
  let x := s.translate s.t.core s.t.ctx rec_ .load
  match failedCheck act (fun _ => misaligned rec_ 64 ++ xlateFail rec_ x) with
  | some (code, addr, detail) => .bad s code addr detail
  | none =>
    match x with
    | .ok s pa =>
      match s.recordLine pa with
      | .wait s => .wait s
      | .fail s st => .wait (if st = 1 then s.recordMoved rec_ else s)
      | .yes s =>
        match parseShape (s.homeBytes pa 64) with
        | none => .bad s 0x02#8 rec_ 3#64
        | some h =>
          match failedCheck act (fun _ => s.shapeChecks h ctr e.sp) with
          | some (code, addr, detail) => .bad s code addr detail
          | none => .ok s h
    | x => .wait x.state

/-- A TCOPY in flight makes its checks once the accesses before it let its record be read (R104, R257). -/
def State.copyAgain (s : State) (e : ETcopy) (o : Op) : Op × Tried :=
  let rec_ := o.gops.getD 0 0#64
  let ctr := o.gops.getD 1 0#64
  match s.checkCopy e o.active rec_ ctr with
  | .wait s => (o, .wait s)
  | .bad s code addr detail => if code = walking then (o, .wait s) else (o, .fail s code addr detail)
  | .ok s h =>
    (o, .done (s.takeCopy (s.newCopy e o.active o.lpc o.waitm rec_ h ctr 0 (s.heldBy { o with gops := [] }))))

end Sys2Proof.Machine
end

