-- ==== Sys2Proof/Machine/Tiles.lean ====
section
/-! DEFINITION. Accumulation tiles at their home slice: opening, merging, holding and refusing contributions, closing and
expiry (03 R81-R86; 09 R253-R255). -/

namespace Sys2Proof

/-- Bytes of a tile element (R247). -/
def TileFmt.bytes : TileFmt → Nat
  | .f64 => 8
  | _ => 4

/-- The partial format of an MMA form (R77). -/
def MmaFmt.tile : MmaFmt → TileFmt
  | .f64 => .f64
  | .i8 => .i32
  | _ => .f32

/-- K of an MMA form (R77, R247). -/
def MmaFmt.depth : MmaFmt → Nat
  | .f64 => 16
  | .f32 => 32
  | .bf16 | .f16 => 64
  | _ => 128

/-- Bytes of an input element. -/
def MmaFmt.bytes : MmaFmt → Nat
  | .f64 => 8
  | .f32 => 4
  | .bf16 | .f16 => 2
  | _ => 1

end Sys2Proof

namespace Sys2Proof.Machine

/-! ### Faults of a command of a group (R258, R259) -/

/-- A failed operation of a group joins its operations, and its fault is taken in an event of its own, behind the group's
earlier words (R146); of a saved team it waits until the group runs again. -/
def State.failOp (s : State) (r : GroupRef) (o : Op) : State :=
  let s := { s with
    nextId := s.nextId + 1
    saved := updWhere (fun v => v.tid == r.team) (fun v => { v with
      extra := updWhere (fun x => x.group == r.group) (fun x => { x with faults := x.faults ++ [o] }) v.extra }) s.saved }
  s.withGroup r fun s => State.pushDue { s with g := { s.g with ops := s.g.ops ++ [o] } } (.faultTaken s.me)

/-- An operation all of whose lanes have replied, some of them with a failure (R379). -/
def failedOp (id : Nat) (i : Instr) (lpc : W32) (waitm act : Mask) (fails : List LaneFail) (ls : Vector LaneOp 32)
    (gops : List W64) : Op :=
  { id := id, instr := i, lpc := lpc, issue := act, active := act, waitm := waitm, win := 0, pend := 0#32, parked := 0#32
    sent := 0#32, after := [], late := [], moved := false, fails := fails, lanes := ls, gops := gops, cover := ([], []) }

/-- A fault of a word the group issued earlier and that acts for the group. It reports the active lanes of that word (R243),
and `waitm` is the mask of its issue (R304). Each lane's slot in the log names the address `own` of the word's own operand:
the record of a TCOPY (R258, R307). -/
def State.failLater (s : State) (r : GroupRef) (i : Instr) (lpc : W32) (waitm act : Mask) (own : W64) (code : BitVec 8)
    (addr detail : W64) (gops : List W64) (cover : List Nat × List Nat) : State :=
  s.failOp r { failedOp s.nextId i lpc waitm act ((lanesOf act).map fun l => ⟨l, code, addr, detail⟩)
    (Vector.replicate 32 { LaneOp.zero with addr := own }) gops with cover := cover, found := some s.cycle }

/-- The word of a contribution, as far as a record needs it. -/
def Contribution.word (c : Contribution) : Instr :=
  .mma { guard := 0#7, la := 0#4, a := 0#7, b := 0#7, c := 0#7, fmt := c.fmt, free := c.free, reuse := false }

/-- Every group of a contribution's gang takes the fabric-timeout fault (R84): the tile address and the lowest missing tag. -/
def State.tileFault (s : State) (c : Contribution) (missing : BitVec 16) : State :=
  c.members.foldl (fun s m =>
    s.failOp ⟨c.team, m.group⟩ { failedOp s.nextId c.word m.lpc m.waitm (BitVec.allOnes 32)
      (lanes.map fun l => ⟨l, 0x0B#8, c.t, missing.zeroExtend 64⟩) (Vector.replicate 32 LaneOp.zero) [] with
      found := some s.cycle }) s

/-! ### Merging (R81, R82, R85) -/

/-- One merge of an element (R81). -/
def mergeElem (f : TileFmt) (x y : W64) : W64 :=
  match f with
  | .f64 => BitVec.ofNat 64 (fAdd fmtF64 .rne x.toNat y.toNat).1
  | .f32 => BitVec.ofNat 64 (fAdd fmtF32 .rne x.toNat y.toNat).1
  | .i32 => (x.extractLsb' 0 32 + y.extractLsb' 0 32).zeroExtend 64

/-- Merges a contribution: a poisoned one poisons every line (R248); no engine counts as refused any more (R82). -/
def Tile.add (t : Tile) (c : Contribution) : Tile :=
  { t with
    elems := List.zipWith (mergeElem t.fmt) t.elems c.elems
    merged := t.merged + 1
    next := t.next + 1#16
    poisoned := if c.poison then t.frames else t.poisoned
    refusedBy := []
    refusedFar := [] }

/-- Merges the held contributions whose tags have come up. -/
def Tile.drain : Nat → Tile → Tile
  | 0, t => t
  | k + 1, t =>
    match t.kept.find? fun c => c.tag = t.next with
    | none => t
    | some c => Tile.drain k (Tile.add { t with kept := t.kept.filter fun x => x.tag ≠ c.tag } c)

/-- What the slice does with an arriving contribution, and whether it refuses it, for want of a place (R82, R85, R248). -/
def Tile.arrive (t : Tile) (c : Contribution) : Tile × Bool :=
  if c.fmt.tile ≠ t.fmt ∨ c.rows ≠ t.rows ∨ c.free ≠ t.free then ({ t with tagError := true }, false)
  else if t.free then (t.add c, false)
  else
    let off := (c.tag - t.next).toNat
    if t.n - t.merged ≤ off then ({ t with tagError := true }, false)
    else if off = 0 then (Tile.drain 4 (t.add c), false)
    else if t.kept.any fun k => k.tag = c.tag then ({ t with tagError := true }, false)
    else if t.kept.length < 4 then ({ t with kept := t.kept ++ [c] }, false)
    else (t, true)

/-! ### Closing (R254) -/

/-- The elements a store touched while the tile was open (R117). -/
def Tile.touchedElems (t : Tile) : List Nat :=
  ((t.frames.zipIdx).flatMap fun p =>
    (t.touched.filter fun a => lineOf a = p.1).map fun a => (128 * p.2 + a % 128) / t.fmt.bytes).dedup

/-- The bytes written back: an element a store touched is a free value. -/
def State.tileBytes (s : State) (t : Tile) : List Byte :=
  let bad := t.touchedElems
  (t.elems.zipIdx).flatMap fun p => toBytes t.fmt.bytes (if bad.contains p.2 then s.freeW p.2 else p.1).toNat

/-- Tells an engine of another package that a place may have come free at the tile that refused it (R82; log 18). -/
def State.signal (s : State) (t : Tile) (who : Nat × Nat) : State :=
  s.request (s.mkPacket 0x03#8 0x37#8 (who.1 * 2 ^ 41) t.ctx (unitFlow t.die t.slice) 0x0C#8 (toBytes 8 who.2)) .notify true

/-- A line written at the home: its bytes stand there, and a line of another package is modified in the LLC (R97). -/
def State.ownWrite (s : State) (line : Nat) (bs : List Byte) : State :=
  let s := s.homeWrite none (cellsAt line bs)
  { s with llc := updWhere (fun l => l.line == line) (fun l => { l with st := .m }) s.llc }

/-- The write-back of a tile whose lines the package holds for writing, its end, and its counter addition (R254). -/
def State.writeTile (s : State) (t : Tile) : State :=
  let bytes := s.tileBytes t
  let s := { s with tiles := s.tiles.filter fun x => x.id ≠ t.id }
  let s := (t.frames.zipIdx).foldl (fun s p => s.ownWrite p.1 ((bytes.drop (128 * p.2)).take 128)) s
  let s := s.addPoison t.poisoned
  if t.ctr = 0#64 then s else s.addVa t.die t.ctx t.scope t.ctr (if t.tagError then 0x1_0000_0001#64 else 1#64)

/-- A tile whose close is pending is written back once its contributions are merged and every one of its lines is held for
writing: recalled from other packages, or, homed there, owned (R95, R117, R254). Until then it stays open. -/
def State.closeReady (s : State) (id : Nat) : State :=
  match s.tiles.find? fun t => t.id = id with
  | none => s
  | some t =>
    if t.closing && decide (t.n ≤ t.merged) then
      match s.readyLines t.ctx (unitFlow t.die t.slice) t.frames with
      | .yes s => s.writeTile t
      | .wait s | .fail s _ => s
    else s

/-- Keeps a changed tile: every engine of another package that it no longer refuses is signalled (R82), and the tile closes
when it can. -/
def State.putTile (s : State) (t : Tile) : State :=
  let old := ((s.tiles.find? fun x => x.id = t.id).map (·.refusedFar)).getD []
  let s := { s with tiles := updWhere (fun x => x.id == t.id) (fun _ => t) s.tiles }
  ((old.filter fun r => !t.refusedFar.contains r).foldl (fun s r => s.signal t r) s).closeReady t.id

/-- Poisons a line of a tile, here or at the home of another package (R84, R120). -/
def State.poisonLine (s : State) (ctx : BitVec 10) (line : Nat) : State :=
  let s := s.addPoison [line]
  if s.here line then s
  else if s.ownedLine line then
    { s with llc := updWhere (fun l => l.line == line) (fun l => { l with st := .m }) s.llc }
  else
    s.request (s.mkPacket 0x02#8 0#8 line ctx (unitFlow (homeDie line) (homeSlice line)) 0x4C#8 (s.homeBytes line 128))
      .notify true

/-- The expiry of a tile (R84, R255): its lines are poisoned, it leaves the accumulating state, its counter shows the expiry,
and every group whose engine is stalled on it takes the fault, at the signal where the engine is another package's. -/
def State.expireTile (s : State) (t : Tile) : State :=
  let stalled := s.transit.filter fun c => c.refused && c.tile == t.base
  let s := { s with
    tiles := s.tiles.filter fun x => x.id ≠ t.id
    transit := s.transit.filter fun c => !(c.refused && c.tile == t.base)
    expired := ⟨t.base, t.va, t.next⟩ :: s.expired }
  let s := t.frames.foldl (fun s l => s.poisonLine t.ctx l) s
  let s := if t.ctr = 0#64 then s else s.addVa t.die t.ctx t.scope t.ctr 0x2_0000_0001#64
  let s := t.refusedFar.foldl (fun s r => s.signal t r) s
  stalled.foldl (fun s c => s.tileFault c t.next) s

/-! ### ACCOPEN and ACCCLOSE at the home slice (R253, R254) -/

/-- The lines of a tile as its pages' translations give them, or the first failure. -/
inductive Frames where
  | ok (s : State) (fs : List Nat)
  | bad (s : State) (code : BitVec 8) (va : W64)
  | wait (s : State) (va : W64)

/-- Translates `k` lines from an address for writing. -/
def State.frames (s : State) (va : W64) : Nat → Frames
  | 0 => .ok s []
  | k + 1 =>
    match s.translate s.t.core s.t.ctx va .store with
    | .notPresent s => .bad s 0x06#8 va
    | .permission s => .bad s 0x07#8 va
    | .wait s _ => .wait s va
    | .ok s pa =>
      match State.frames s (va + 128#64) k with
      | .ok s fs => .ok s (pa :: fs)
      | b => b

/-- The size of an ACCOPEN's tile in bytes. -/
def openSize (e : EAccOpen) : Nat := 16 * e.gsize.toNat * 64 * e.fmt.bytes

/-- The status of an ACCOPEN at a slice that need not open: 1 a tile is open there, 2 eight tiles are (R253). -/
def State.openStatus (s : State) (pa : Nat) : Option W64 :=
  if s.tiles.any fun t => t.base = pa then some 1#64
  else if 8 ≤ (s.tiles.filter fun t => t.die = homeDie pa ∧ t.slice = homeSlice pa).length then some 2#64
  else none

/-- Opens a tile of context `ctx` (R253). -/
def State.addTile (s : State) (e : EAccOpen) (ctx : BitVec 10) (t tags ctr : W64) (fs : List Nat) : State :=
  let pa := fs.headD 0
  let f := e.fmt.bytes
  let bytes := fs.flatMap fun l => s.homeBytes l 128
  let elems := (List.range (16 * e.gsize.toNat * 64)).map fun k =>
    if e.z then 0#64 else BitVec.ofNat 64 (ofBytes ((bytes.drop (f * k)).take f))
  let tile : Tile :=
    { id := s.nextId, ctx := ctx, base := pa, va := t, die := homeDie pa, slice := homeSlice pa, frames := fs
      fmt := e.fmt, free := e.free, rows := 16 * e.gsize.toNat, scope := e.scope, ctr := ctr
      next := tags.extractLsb' 0 16, n := (tags.extractLsb' 16 16).toNat + 1, merged := 0, elems := elems, kept := []
      refusedBy := [], refusedFar := [], tagError := false, closing := false, poisoned := [], touched := [] }
  let s := s.dropWords none (fs.flatMap fun l => (List.range 32).map fun k => wordOf l + k)
  { s with
    tiles := s.tiles ++ [tile], nextId := s.nextId + 1
    expired := s.expired.filter fun x => x.base ≠ pa
    l1 := s.l1.filter fun w => !fs.contains (lineOf (4 * w.word)) }

/-- The fields of an ACCOPEN in a request to another package (log 18): tile, counter, tags, size, format, mode and zero,
scope, and the frame of every page after the first (R253). -/
def openBytes (e : EAccOpen) (t tags ctr : W64) (fs : List Nat) : List Byte :=
  let at_ (k : Nat) : Nat := (4096 - t.toNat % 4096) / 128 + 32 * k
  toBytes 8 t.toNat ++ toBytes 8 ctr.toNat ++ toBytes 4 tags.toNat ++ toBytes 1 e.gsize.toNat ++
    toBytes 1 (match e.fmt with | .f64 => 0 | .f32 => 1 | .i32 => 2) ++
    toBytes 1 ((if e.free then 1 else 0) + (if e.z then 2 else 0)) ++ toBytes 1 (scopeCode e.scope).toNat ++
    (((List.range 12).filterMap fun k => fs[at_ k]?).flatMap fun f => toBytes 8 f)

/-- A status that a home answers to ACCOPEN or ACCCLOSE, beside 0: refused as moved, the word asks again after a new walk
(R345); `denied`, write ownership may be refused; and a home that does not answer is asked again, for R267 names no fault of
it (log 64). -/
def State.tileStatus (s : State) (st : Nat) (denied : Bool) (va : W64) (pa : Nat) : Tried :=
  match st with
  | 1 => .wait (s.dropVa s.t.core s.t.ctx va)
  | 2 => if denied then .fail s 0x08#8 va (BitVec.ofNat 64 (pkgOf pa)) else .wait s
  | 4 => .fail s 0x06#8 va 0#64
  | _ => .wait s

/-- Asks the home slice of another package to open or close a tile, or takes its reply (R253, R254; log 18). -/
def State.askTile (s : State) (o : Op) (l : Fin 32) (code : BitVec 8) (va : W64) (pa : Nat) (k : Kind) (sc : Scope)
    (payload : List Byte) (f : State → List Byte → State) : Tried :=
  match s.asked o.id l with
  | .waiting => .wait s
  | .reply s st bs => if st = 0 then .done (f s bs) else s.tileStatus st (code == 0x30#8) va pa
  | .no =>
    if s.deadPkg (pkgOf pa) || s.flowFull s.myFlow (pkgOf pa) then .wait s
    else .wait (s.request (s.mkPacket 0x03#8 code pa s.t.ctx s.myFlow (strongFlags k sc) payload) (.lane s.me o.id l.val) true)

/-- ACCOPEN as captured: tile address, tags, counter (R253). -/
def State.openTile (s : State) (e : EAccOpen) (o : Op) (l : Fin 32) : Tried :=
  let t := o.gops.getD 0 0#64
  let tags := o.gops.getD 1 0#64
  let ctr := o.gops.getD 2 0#64
  let put (s : State) (x : W64) : State := s.setG (s.g.setS (sreg7 e.d) x)
  match s.frames t (openSize e / 128) with
  | .bad s code va => .fail s code va 0#64
  | .wait s _ => .wait s
  | .ok s fs =>
    let pa := fs.headD 0
    if !s.here pa then
      s.afterCore true .dev fun s =>
        s.askTile o l 0x30#8 t pa .ar e.scope (openBytes e t tags ctr fs)
          fun s bs => put s (BitVec.ofNat 64 (ofBytes (bs.take 8)))
    else
      match s.openStatus pa with
      | some x => .done (put s x)
      | none =>
        s.afterCore true .dev fun s =>
          match s.readyLines s.t.ctx s.myFlow fs with
          | .wait s => .wait s
          | .fail s st => s.tileStatus st true t pa
          | .yes s => .done (put (s.addTile e s.t.ctx t tags ctr fs) 0#64)

/-- Asks for the close of the tile with a base: the status, and the state (R254). -/
def State.askClose (s : State) (pa : Nat) : W64 × State :=
  match s.tiles.find? fun t => t.base = pa with
  | none => (1#64, s)
  | some t => if t.closing then (2#64, s) else (0#64, s.putTile { t with closing := true })

/-- ACCCLOSE as captured: the tile address (R254). Its counter update is a release at the tile's scope: every write pending in
the core goes first (R100, R103). -/
def State.closeTile (s : State) (e : EAccClose) (o : Op) (l : Fin 32) : Tried :=
  let t := o.gops.getD 0 0#64
  let put (s : State) (x : W64) : State := s.setG (s.g.setS (sreg7 e.d) x)
  s.withPa t .load 0#64 fun s pa =>
    let wide := !s.here pa || s.tiles.any fun x => x.base == pa && cellUp x.scope
    s.afterCore true (if wide then .sys else .dev) fun s =>
      if !s.here pa then
        s.askTile o l 0x31#8 t pa .rel .sys [] fun s bs => put s (BitVec.ofNat 64 (ofBytes (bs.take 8)))
      else
        let r := s.askClose pa
        .done (put r.2 r.1)

end Sys2Proof.Machine
end

