-- ==== Sys2Proof/Machine/Progress.lean ====
section
/-! DEFINITION. The part of one lane of an operation in flight: what is performed, what waits and what fails (04 R111, R112;
08 R220-R239), the words in flight as a whole, and the checks made at issue (13 R379). -/

namespace Sys2Proof.Machine

/-! ### One lane of an operation in flight -/

/-- Offsets and masks of the chain record of a CHLD, as captured (R230). -/
def chainOffset (gops : List W64) (k : Nat) : W64 :=
  sextTo 64 16 (((gops.getD (1 + k / 4) 0#64).toNat) / 2 ^ (16 * (k % 4)))

def chainMask (gops : List W64) (k : Nat) : W64 := gops.getD (3 + k) 0#64

def chainFinalOffset (gops : List W64) : W64 := sextTo 64 16 ((gops.getD 0 0#64).toNat / 2 ^ 16)

/-- The address and size of read `k` of a chain whose pointer is `p` (R231). -/
def chainRead (gops : List W64) (k : Nat) (p : W64) : W64 × Nat :=
  if k < chainSteps gops then (p + chainOffset gops k, 8) else (p + chainFinalOffset gops, (chainSize gops).bytes)

/-- A chain read goes on with the state and the bytes, or ends; the step and pointer go with it. -/
inductive ChainRes where
  | data (s : State) (bs : List Byte)
  | stop (t : Tried) (k : Nat) (p : W64)

/-- The remaining reads of a chain, from read `k` with pointer `p`: each at the home of its address, translated at the
issuing core for read 0 and at the previous read's home after it (R231, R233). A read homed in another package is asked
for with a STEP, whose reply is the datum of the whole rest, or the step and pointer at which it ended (log 18); `p0` is the
lane's first pointer, which a timeout without a notice reports. -/
def State.chain (s : State) (op : Nat) (l : Fin 32) (gops : List W64) (kind : Kind) (sc : Scope) (p0 : W64) :
    Nat → Nat → W64 → Nat → ChainRes
  | 0, k, p, _ => .stop (.wait s) k p
  | fuel + 1, k, p, die =>
    let r := chainRead gops k p
    let step : W64 := BitVec.ofNat 64 k
    if r.1.toNat % r.2 ≠ 0 then .stop (.fail s 0x04#8 p step) k p
    else
      let x := if k = 0 then s.translate s.t.core s.t.ctx r.1 .load else s.translateHome die s.t.ctx r.1 .step
      match x with
      | .notPresent s => .stop (.fail s 0x06#8 p step) k p
      | .permission s => .stop (.fail s 0x07#8 p step) k p
      | .wait s _ => .stop (.wait s) k p
      | .ok s pa =>
        if !s.here pa then
          match s.asked op l with
          | .waiting => .stop (.wait s) k p
          | .reply s st bs =>
            -- the copies that the reads of other homes have gone past go, wherever those were (R98; log 84)
            if st = 0 then .data (s.selfInvalidate s.t.core) bs
            else
              let k' := if bs = [] then 0 else ofBytes (bs.take 8)
              let p' : W64 := if bs = [] then p0 else BitVec.ofNat 64 (ofBytes ((bs.drop 8).take 8))
              let code := ofBytes ((bs.drop 16).take 8)
              -- a fault names the pointer (R233, R287), poison the poisoned address (R305)
              let at_ := if code = 9 ∨ (code = 0 ∧ st = 3) then (chainRead gops k' p').1 else p'
              -- a read refused as moved is translated afresh: the address that goes is the read's own (R345)
              .stop (if code ≠ 0 then .fail s (BitVec.ofNat 8 code) at_ (BitVec.ofNat 64 k')
                else if st = 1 then .wait (s.dropVa s.t.core s.t.ctx (chainRead gops k' p').1)
                else failStatus s st 0x09#8 at_ (pkgOf pa) (BitVec.ofNat 64 k')) k' p'
          | .no =>
            -- the group's own writes go first, wherever the rest of the chain reads (R98, R99)
            let d := s.drainCore s.t.core
            let s := d.1
            if s.deadPkg (pkgOf pa) then .stop (.fail s 0x0B#8 p step) k p
            else if !d.2 || s.flowFull s.myFlow (pkgOf pa) then .stop (.wait s) k p
            else
              let pay := toBytes 8 k ++ toBytes 8 p.toNat ++ gops.flatMap fun w => toBytes 8 w.toNat
              let tag := BitVec.ofNat 32 s.nextId
              let s := s.request (s.mkPacket 0x04#8 0#8 pa s.t.ctx s.myFlow (strongFlags kind sc) pay) (.lane s.me op l.val) true
              -- a home of this package that passes the chain on notifies the core (R233; log 73)
              let note : Option (W64 × W64) := if k = 0 then none else some (step, p)
              .stop (.wait { s with reqs := updWhere (fun r => r.tag == tag) (fun r => { r with notice := note }) s.reqs }) k p
        else
          let d := s.drainBytes s.t.core pa r.2
          if !d.2 then .stop (.wait d.1) k p
          else
            match d.1.readyLine s.t.ctx s.myFlow (lineOf pa) false with
            | .wait s => .stop (.wait s) k p
            | .fail s st => .stop (failStatus s st 0x09#8 r.1 (pkgOf pa) step) k p
            | .yes s =>
              if s.poisoned pa then .stop (.fail s 0x09#8 r.1 step) k p
              else
                let bs := s.homeBytes pa r.2
                -- the strong read goes past the L1's copies (R98)
                let s := s.dropCopies s.t.core (wordsIn pa r.2)
                if k < chainSteps gops then
                  State.chain s op l gops kind sc p0 fuel (k + 1) (BitVec.ofNat 64 (ofBytes bs) &&& chainMask gops k) (homeDie pa)
                else .data s bs

/-- ENQ at its header's home for a requester of a cell (R228): `node` the node pointer, `link` the link offset. The link is
checked against that cell's right to write it (R361). -/
def State.enqHome (s : State) (cell pa : Nat) (node : W64) (link : Nat) (k : Kind) (sc : Scope)
    (g : State → List Byte → State) : Tried :=
  let tail := s.homeBytes (pa + 8) 8
  let old : W64 := BitVec.ofNat 64 (ofBytes tail)
  if node = 0#64 then .done (g (s.dropCopies s.t.core (wordsIn pa 16)) tail)
  else if old = 0#64 then
    .done (g (s.putHome pa (some (toBytes 8 node.toNat ++ toBytes 8 node.toNat))) tail)
  else
    let la := old + BitVec.ofNat 64 link
    if la.toNat % 8 ≠ 0 then .fail s 0x04#8 la 0#64
    else
      match s.translateHome (homeDie pa) s.t.ctx la .store with
      | .notPresent s => .fail s 0x06#8 la 0#64
      | .permission s => .fail s 0x07#8 la 0#64
      | .wait s _ => .wait s
      | .ok s lpa =>
        if s.here lpa && !s.mayWrite lpa cell then .fail s 0x08#8 la (BitVec.ofNat 64 s.pkg)
        else s.afterCore k.releases sc fun s =>
          s.afterBytes lpa 8 fun s =>
            -- for a requester elsewhere the reply says that both writes are performed everywhere (R112)
            s.withLine (strongFlags k sc) (cellUp sc || !s.here lpa || s.t.tid == 0) la lpa true 0x0A#8 fun s =>
              if s.poisoned lpa then .fail s 0x0A#8 la 0#64
              else
                let s := s.putHome (pa + 8) (some (toBytes 8 node.toNat))
                .done (g (s.homeWrite (some s.t.core) (cellsAt lpa (toBytes 8 node.toNat))) tail)

/-! ### Acceptance of an ACP (R238) -/

/-- The copies of an ACP's lanes, translated. -/
def State.acpMoves (s : State) (m : MAcp) (o : Op) : State × List AcpMove :=
  (lanesOf o.pend).foldl (fun (x : State × List AcpMove) l =>
    let sp := ofBytes ((LaneOp.bytes (o.lanes[l])).take 4)
    match x.1.translate x.1.t.core x.1.t.ctx (o.lanes[l]).addr (if m.toGlobal then .store else .load) with
    | .ok s pa => (s, x.2 ++ [⟨l, some pa, sp⟩])
    | .notPresent s => (s, x.2 ++ [⟨l, none, sp⟩])
    | .permission s => (s, x.2 ++ [⟨l, none, sp⟩])
    | .wait s _ => (s, x.2 ++ [⟨l, none, sp⟩])) (s, [])

/-- The coalescer accepts an ACP of the current group; the operations that hold it back hold its accesses (R103, R104, R113).
Lanes performed again from the log leave the sum to be added as it
was (log 65). -/
def State.acceptAcp (s : State) (m : MAcp) (o : Op) : State :=
  let n := m.size.bytes
  let x := s.acpMoves m o
  let s := x.1
  let bytes := x.2.flatMap fun p =>
    (if m.toGlobal then p.pa.toList else [p.sp]).flatMap fun a => (List.range n).map fun k => a + k
  let c : AcpCmd :=
    { id := s.nextId, instr := .acp m, lpc := o.lpc, waitm := o.waitm, active := o.active, core := s.t.core, team := s.t.tid
      group := s.g.id, ctx := s.t.ctx, size := n, toGlobal := m.toGlobal, moves := x.2, fails := [], lanes := o.lanes
      data := [], badWords := []
      whole := if m.toGlobal then (coveredUnits 128 bytes).map (128 * ·) else coveredUnits 4 bytes
      poisoned := [], freed := [], lost := [], bound := false, ctr := o.gops.getD 0 0#64, ctrSp := m.sp, scope := m.scope
      total := if o.gops.getD 1 0#64 = 0#64 then n * x.2.length else (o.gops.getD 1 0#64).toNat
      after := (s.posted.filter fun p => p.core == s.t.core).map (·.id), behind := s.heldBy o, clear := false }
  State.putOp { s with acps := s.acps ++ [c], nextId := s.nextId + 1 } { o with pend := 0#32 }

/-! ### PREFETCH (R221) -/

/-- The line of a PREFETCH: one of another package is asked for, once for each L1 it goes to, and nothing waits for it
(R221, R366); while it is on its way back to its home, it is asked for later. -/
def State.prefetchLine (s : State) (line : Nat) (l1 : Option Nat) : Ready :=
  if s.here line || (s.llcState line).isSome then s.readyLine s.t.ctx s.myFlow line false
  else if s.deadPkg (pkgOf line) || (s.reqs.any fun r => r.purpose == .prefetch line l1) then .fail s 0
  else if s.reqs.any fun r => r.purpose == .writeback line then .wait s
  else .fail (s.request (s.mkPacket 0x01#8 0#8 line s.t.ctx s.myFlow 0#8 []) (.prefetch line l1) false) 0

/-- A lane of a PREFETCH: its line goes to the L1 or the LLC; a lane that has no translation, or meets poison or a refusal, is
dropped, and one whose line is another package's is done when it has asked. -/
def State.prefetchLane (s : State) (m : MPrefetch) (va : W64) : Tried :=
  match s.translate s.t.core s.t.ctx va .load with
  | .notPresent s | .permission s => .done s
  | .wait s _ => .wait s
  | .ok s pa =>
    match s.prefetchLine (lineOf pa) (if m.llc then none else some s.t.core) with
    | .wait s => .wait s
    | .fail s _ => .done s
    | .yes s => .done (if m.llc || s.poisoned pa then s else s.fill s.t.core pa)

/-! ### The part of a lane -/

/-- Performs the part of lane `l` of an operation, as captured, if it can be performed now. -/
def State.attempt (s : State) (o : Op) (l : Fin 32) : Op × Tried :=
  let lo := o.lanes[l]
  let bs := LaneOp.bytes lo
  let put (d : BitVec 7) (size : Size) (sx : Bool) (s : State) (b : List Byte) : State :=
    s.setG (s.g.putLoad l d size sx b)
  match o.instr with
  | .ldv m => s.loadLane o l m.size.bytes m.acc State.readVa (put m.d m.size m.sx)
  | .lds m => s.loadLane o l m.size.bytes m.acc (State.readSpLane o m.size.bytes) (put m.d m.size m.sx)
  | .prefetch m => (o, s.prefetchLane m lo.addr)
  | .sld u =>
    let fin (s : State) (b : List Byte) : State :=
      let x : W64 := if u.sx then sextTo 64 (8 * u.size.bytes) (ofBytes b) else BitVec.ofNat 64 (ofBytes b)
      s.setG (s.g.setS (reg9 u.d) x)
    (o, if u.sp then s.loadSp lo.addr u.size.bytes u.acc fin else s.loadVa lo.addr u.size.bytes u.acc fin)
  | .atom m =>
    let n := if m.wide8 then 8 else 4
    (o, s.atomVa o.id l (atomCode m.op) lo.addr n m.kind m.scope false (bs.take n) false
      (fun old => some (toBytes n (atomApply m.op m.wide8 (ofBytes old) (ofBytes (bs.take n)))))
      fun s old => s.setG (s.g.putRun l m.d (n / 4) old))
  | .red m =>
    let n := if m.wide8 then 8 else 4
    (o, s.atomVa o.id l (atomCode m.op) lo.addr n m.kind m.scope false (bs.take n) false
      (fun old => some (toBytes n (atomApply m.op m.wide8 (ofBytes old) (ofBytes (bs.take n))))) fun s _ => s)
  | .atoms m =>
    let n := if m.wide8 then 8 else 4
    let a := lo.addr.toNat
    (o, s.afterCore m.kind.releases m.scope fun s =>
      if s.scrPoisoned a n then .fail s 0x0A#8 lo.addr 0#64
      else
        let old := s.scrBytes a n
        let s := s.scrPut (cellsAt a (toBytes n (atomApply m.op m.wide8 (ofBytes old) (ofBytes (bs.take n)))))
        let s := s.setG (s.g.forget (oneLane l) (wordsIn a n))
        .done (State.setG (s.acquired m.kind.acquires m.scope) (s.g.putRun l m.d (n / 4) old)))
  | .casw m =>
    let n := if m.wide32 then 32 else 16
    (o, s.atomVa o.id l 0x10#8 lo.addr n m.kind m.scope true (bs.take (2 * n)) false
      (fun old => if old = bs.take n then some ((bs.drop n).take n) else none)
      fun s old => s.setG (s.g.putRun l m.d (n / 4) old))
  | .enq m =>
    let node : W64 := BitVec.ofNat 64 (ofBytes (bs.take 8))
    let fin (s : State) (b : List Byte) : State := s.setG (s.g.putRun l m.d 2 b)
    (o, s.withPa lo.addr .store 0#64 fun s pa =>
      s.afterCore m.kind.releases m.scope fun s =>
        s.afterBytes pa 16 fun s =>
          if !s.here pa then
            s.remote o.id l 0x03#8 0x11#8 lo.addr pa m.kind m.scope 0x0A#8 (bs.take 8 ++ toBytes 8 (8 * m.link.toNat))
              fun s b => .done (fin s (b.take 8))
          else
            s.withLine (strongFlags m.kind m.scope) true lo.addr pa true 0x0A#8 fun s =>
              if s.poisoned pa then .fail s 0x0A#8 lo.addr 0#64
              else s.enqHome s.ownCell pa node (8 * m.link.toNat) m.kind m.scope fin)
  | .chld m =>
    match s.chain o.id l o.gops m.kind m.scope (BitVec.ofNat 64 (ofBytes (bs.take 8))) 10 lo.aux.toNat lo.addr s.myDie with
    | .data s b =>
      (o, .done (put m.d (chainSize o.gops) false (s.acquired m.kind.acquires m.scope) b))
    | .stop t k p => ({ o with lanes := o.lanes.set l.val { lo with addr := p, aux := BitVec.ofNat 64 k } }, t)
  | .cread g =>
    let fin (s : State) (b : List Byte) : State := s.setG (s.g.setS (sreg7 g.d) (BitVec.ofNat 64 (ofBytes b)))
    (o, if g.sp then s.loadSp lo.addr 8 (.strong g.kind g.scope) fin else s.loadVa lo.addr 8 (.strong g.kind g.scope) fin)
  | .cinc g | .cdec g =>
    let delta : W64 := BitVec.ofNat 64 (ofBytes (bs.take 8))
    let upd (old : List Byte) : List Byte := toBytes 8 (BitVec.ofNat 64 (ofBytes old) + delta).toNat
    (o,
      if g.sp then
        s.afterCore g.kind.releases g.scope fun s =>
          if s.scrPoisoned lo.addr.toNat 8 then .fail s 0x0A#8 lo.addr 0#64
          else .done ((s.scrPut (cellsAt lo.addr.toNat (upd (s.scrBytes lo.addr.toNat 8)))).forgetOnce lo.addr.toNat 8)
      else s.atomVa o.id l 0x20#8 lo.addr 8 g.kind g.scope false (toBytes 8 delta.toNat) true (fun old => some (upd old)) fun s _ => s)
  | .sts m =>
    let part (off n : Nat) : List Host.Cell := (lanesOf o.pend).flatMap fun j =>
      cellsAt ((o.lanes[j]).addr.toNat + off) (((LaneOp.bytes (o.lanes[j])).drop off).take n)
    let own (s : State) : State := (lanesOf o.pend).foldl (fun s j =>
      s.setG (s.g.forget (oneLane j) (wordsIn (o.lanes[j]).addr.toNat m.size.bytes))) s
    let h := s.nextHalf lo (o.halfLane l)
    if !isHalved m.size.bytes m.acc then
      (o, s.afterCore m.acc.isRelease m.acc.scope fun s => .done (own (s.scrStore (part 0 m.size.bytes))))
    else if lo.aux = 0#64 then
      match s.afterCore m.acc.isRelease m.acc.scope fun s => .done (own (s.scrStore (part (8 * h) 8))) with
      | .done s => ({ o with lanes := o.lanes.set l.val { lo with aux := BitVec.ofNat 64 (h + 1) } }, .wait s)
      | x => (o, x)
    else (o, .done (own (s.scrStore (part (8 * h) 8))))
  | .sst u =>
    (o, s.afterCore u.acc.isRelease u.acc.scope fun s =>
      .done ((s.scrStore (cellsAt lo.addr.toNat (bs.take u.size.bytes))).forgetOnce lo.addr.toNat u.size.bytes))
  | .binit _ =>
    -- a strong store of 16 bytes: two accesses of 8, in either order (R92, R239)
    let h := s.nextHalf lo (o.halfLane l)
    let a := lo.addr.toNat + 8 * h
    let s := (s.scrStore (cellsAt a ((bs.drop (8 * h)).take 8))).forgetOnce a 8
    if lo.aux = 0#64 then ({ o with lanes := o.lanes.set l.val { lo with aux := BitVec.ofNat 64 (h + 1) } }, .wait s) else (o, .done s)
  | .fdivF64 w _ => (o, .done (s.setG (s.g.landFloat o true w.d l)))
  | .fdivF32 w _ => (o, .done (s.setG (s.g.landFloat o false w.d l)))
  | .fsqrtF64 w _ => (o, .done (s.setG (s.g.landFloat o true w.d l)))
  | .fsqrtF32 w _ | .frcp w _ | .frsq w _ | .fexp2 w _ | .flog2 w _ | .fsin w _ | .fcos w _ =>
    (o, .done (s.setG (s.g.landFloat o false w.d l)))
  | .barrive g =>
    let a := lo.addr.toNat
    if s.scrPoisoned a 12 then (o, .fail s 0x0A#8 lo.addr 0#64)
    else
      let word (k : Nat) : W32 := BitVec.ofNat 32 (ofBytes (s.scrBytes (a + 4 * k) 4))
      let c := word 0 + 1#32
      let full := (word 1).ule c
      let s := s.scrPut (cellsAt a (toBytes 4 (if full then 0#32 else c).toNat))
      let s := if full then s.scrPut (cellsAt (a + 8) (toBytes 4 (word 2 + 1#32).toNat)) else s
      let s := s.forgetOnce a 12
      (o, .done (s.setG (s.g.setS (sreg7 g.d) ((word 2).zeroExtend 64))))
  | .accopen e => (o, s.openTile e o l)
  | .accclose e => (o, s.closeTile e o l)
  | .tcopy e => s.copyAgain e o
  | .glaunch e => s.launchAgain e.d o none
  | .tlaunch e => s.launchAgain e.d o (some e.scope)
  | .svc w => (o, s.callAgain w o)
  | _ => (o, .wait s)

/-- A parked-split lane whose data has come runs again (R26). -/
def State.unpark (s : State) (o : Op) (m : Mask) : State :=
  s.setG (s.g.setLane (m &&& o.parked &&& s.g.inState .parkedSplit) .runnable)

/-- The lanes of a mask that are attempted: a word that acts once is attempted once, by its lowest pending lane, so that it
asks another package once; with a lane of a scratchpad load go those that name its words (R56), and with a lane of
read-modify-writes those below it (R111). -/
def Op.toTry (o : Op) (m : Mask) : List (Fin 32) :=
  let now := o.pend &&& m
  if Instr.isOnce o.instr then (if now = 0#32 then [] else [lowLane o.pend])
  else
    match o.instr with
    | .lds x =>
      lanesOf (o.pend &&& maskOf fun l => (lanesOf now).any fun k =>
        (wordsIn (o.lanes[k]).addr.toNat x.size.bytes).any (wordsIn (o.lanes[l]).addr.toNat x.size.bytes).contains)
    | i => if i.isRmw then (lanesOf o.pend).filter fun l => (lanesOf now).any fun k => decide (l.val ≤ k.val) else lanesOf now

/-- Inside a window, the registers of a bound lane's result of several registers are written one by one, in later moments:
what a word of the window reads in each is the old value or the new one (R144). Outside it they are written at once, as a
parked lane's are (R26). -/
def splitLate (o : Op) (l : Fin 32) (old new : Group) : Group × List (Fin 32 × Nat × W32) :=
  let regs := (o.writesV.filter fun w => 1 < w.2).flatMap fun w => (List.range w.2).map fun k => regUp w.1 k
  if o.win = 0 ∨ o.parked.getLsbD l.val ∨ regs = [] then (new, [])
  else
    ({ regs.foldl (fun g r => g.setV (oneLane l) r fun _ => old.vr r l) new with vbad := old.vbad },
     regs.map fun r => (l, r.val, new.vr r l))

/-- Writes registers of bound lanes (R144): all that are still to be written once the window is closed, and inside it those
that free values pick, one of them at least. -/
def State.writeLate (s : State) (o : Op) (m : Mask) : State × Op :=
  let mine := o.late.filter fun x => m.getLsbD x.1.val
  let sure := (s.freeW 4095).toNat % mine.length
  let now := (mine.zipIdx.filter fun x => o.win == 0 || x.2 == sure || (s.freeW (4096 + x.2)).getLsbD 0).map (·.1)
  (s.setG (now.foldl (fun g x => g.setV (oneLane x.1) (Fin.ofNat 128 x.2.1) fun _ => x.2.2) s.g),
   { o with late := o.late.filter fun x => !now.contains x })

/-- The home of a lane's access, of its request, or of the line it needs, refuses it as moved (R345). -/
def State.refusedLane (s : State) (o : Op) (l : Fin 32) : Bool :=
  let pa := s.paOf (o.lanes[l]).addr
  s.reqs.any (fun r => (r.reply.map (·.1)) == some 1 &&
    (r.purpose == .lane s.me o.id l.val || r.purpose == .launch s.me || pa.any fun a => r.purpose == .fill (lineOf a) || r.purpose == .own (lineOf a))) ||
    (!s.freezes.isEmpty && pa.any s.frozen)

/-- Attempts one lane and notes its outcome. A lane of read-modify-writes waits for those below it (R111). What an operation
that has been refused as moved asks for is a retry (R366). -/
def stepLane (x : State × Op) (l : Fin 32) : State × Op :=
  let m := if Instr.isOnce x.2.instr then x.2.pend else oneLane l &&& x.2.pend
  if m = 0#32 ∨ (Instr.isRmw x.2.instr ∧ lowLane x.2.pend ≠ l) then x
  else
    let r := x.1.attempt x.2 l
    match r.2 with
    | .done s =>
      let w := splitLate r.1 l x.1.g s.g
      ((s.setG w.1).unpark r.1 m, { r.1 with pend := r.1.pend &&& ~~~m, late := r.1.late ++ w.2 })
    | .wait s =>
      let o := if x.1.refusedLane x.2 l then { r.1 with moved := true } else r.1
      (if o.moved then s.asRetry x.1 else s, o)
    | .fail s code addr detail => (s, r.1.failLanes m code addr detail)

/-- Attempts the pending lanes of a mask, in ascending order (R12, R111). -/
def State.attemptLanes (s : State) (o : Op) (m : Mask) : State :=
  let x := s.writeLate o m
  let r := (x.2.toTry m).foldl stepLane x
  r.1.putOp r.2

/-- Goes on with an operation: an ACP is accepted; any other waits while an earlier one holds it at the core. A store's bytes
enter the L1, and its lanes end as their bytes are performed; of another word the lanes of a mask are attempted. -/
def State.progress (s : State) (o : Op) (m : Mask) : State :=
  match o.instr with
  | .acp a => s.acceptAcp a o
  | _ =>
    if !s.gate o then s
    else if o.instr.isPosted then
      if o.pend &&& ~~~o.sent ≠ 0#32 then s.sendStore o else s.putOp { o with pend := o.pend &&& ~~~(s.landed o) }
    else s.attemptLanes o m

/-- Adds an operation to the group; when nothing lets it wait, its lanes are attempted at once. -/
def State.launch (s : State) (o : Op) (now : Bool) : State :=
  let s := { s with g := { s.g with ops := s.g.ops ++ [o] }, nextId := s.nextId + 1 }
  if now then s.progress o o.pend else s

/-- The captured part of a word that acts once: the same in every lane. -/
def oneCapture (addr : W64) (bs : List Byte) : Vector LaneOp 32 := Vector.replicate 32 (laneOpOf addr 0#64 bs)

/-- A captured operation of the current word. -/
def State.newOp (s : State) (i : Instr) (act pend : Mask) (la : Nat) (parked : Mask) (lanes : Vector LaneOp 32)
    (gops : List W64) : Op :=
  { id := s.nextId, instr := i, lpc := s.iss.key.lpc, issue := s.iss.mask, active := act, waitm := s.iss.waitm, win := la
    pend := pend, parked := parked, sent := 0#32, after := s.iss.beyond, late := [], moved := false, fails := [], lanes := lanes
    gops := gops, cover := ([], []) }

end Sys2Proof.Machine
end

