-- ==== Sys2Proof/Machine/MemoryOps.lean ====
section
/-! DEFINITION. Loads, stores, atomics, chained loads, and the scalar unit's loads and stores (08 R216-R233). -/

namespace Sys2Proof.Machine

/-- A vector memory word: lanes that read a bad register are reported alone; a check made at issue that fails in any lane
stops every active lane (R379); otherwise every issuing lane advances and the active ones act. -/
def State.vmem (s : State) (i : Instr) (guard : BitVec 7) (check : State → Fin 32 → List (BitVec 8 × W64))
    (f : Mask → State → State) : Host.Outcome State Fault Refusal :=
  s.issueWord i fun s =>
    let act := s.iss.mask &&& s.g.pred guard
    let bad := s.g.badLanes i act
    let good := act &&& ~~~bad
    match failedCheck good (check s) with
    | some (code, addr, detail) => s.checkFault code act addr detail
    | none =>
      let s' := s.commit
      let s' := s'.setG (s'.g.advance (s'.iss.mask &&& ~~~bad))
      let s' := if good = 0#32 then s' else f good s'
      if bad = 0#32 then s' else s'.registerFault (s.g.badReg i bad) bad act

/-- Alignment of each lane's access. -/
def State.alignCheck (m : MAddr) (n : Nat) (s : State) (l : Fin 32) : List (BitVec 8 × W64) := misaligned (s.g.ea m l) n

/-- Alignment and bounds of each lane's scratchpad access. -/
def State.scrCheck (m : MAddr) (n : Nat) (s : State) (l : Fin 32) : List (BitVec 8 × W64) :=
  misaligned (s.g.ea m l) n ++ s.outside (s.g.ea m l) n

/-- The captured part of each lane: its address and DATA. -/
def State.capture (s : State) (m : MAddr) (data : Fin 32 → List Byte) : Vector LaneOp 32 :=
  Vector.ofFn fun l => laneOpOf (s.g.ea m l) 0#64 (data l)

/-! ### Loads -/

/-- The L1 could serve the lane's load (R220). -/
def State.present (s : State) (m : MLoad) (l : Fin 32) : Bool :=
  match s.translate s.t.core s.t.ctx (s.g.ea m.addr l) .load with
  | .ok _ pa => s.inL1 s.t.core pa m.size.bytes (dieUp m.acc.scope)
  | _ => false

/-- LDV (R220, R26): with LA the lanes bind later, those of a `.split` load that hit the L1 too, so that a word of the window
reads the old value or the new one (R144); under `.split` the lanes that miss park. A lane of the split load that
was present and fails beside parked lanes has no flag of its own in the log (R27, R307): FLAGS[0] is set for them all, and
the replay parks it too (log 61). -/
def execLdv (m : MLoad) (s : State) : Host.Outcome State Fault Refusal :=
  s.vmem (.ldv m) m.guard (State.alignCheck m.addr m.size.bytes) fun act s =>
    let lanes := s.capture m.addr fun _ => []
    if m.split then
      let here := act &&& maskOf fun l => s.present m l
      let away := act &&& ~~~here
      let o := s.newOp (.ldv m) act act m.la.toNat away lanes []
      let s := s.setG (s.g.setLane away .parkedSplit)
      let s := s.launch o false
      if m.la == 0#4 then s.progress o here else s
    else s.launch (s.newOp (.ldv m) act act m.la.toNat 0#32 lanes []) (m.la == 0#4)

/-- LDS (R220). -/
def execLds (m : MLoad) (s : State) : Host.Outcome State Fault Refusal :=
  s.vmem (.lds m) m.guard (State.scrCheck m.addr m.size.bytes) fun act s =>
    s.launch (s.newOp (.lds m) act act m.la.toNat 0#32 (s.capture m.addr fun _ => []) []) (m.la == 0#4)

/-- PREFETCH (R221): each active lane asks for its line; no word waits for it. -/
def execPrefetch (m : MPrefetch) (s : State) : Host.Outcome State Fault Refusal :=
  s.vmem (.prefetch m) m.guard (fun _ _ => []) fun act s =>
    s.launch (s.newOp (.prefetch m) act act 0 0#32 (s.capture m.addr fun _ => []) []) true

/-! ### Stores -/

/-- STV (R220). -/
def execStv (m : MStore) (s : State) : Host.Outcome State Fault Refusal :=
  s.vmem (.stv m) m.guard (State.alignCheck m.addr m.size.bytes) fun act s =>
    s.launch (s.newOp (.stv m) act act 0 0#32 (s.capture m.addr fun l => s.g.storeBytes l m.d m.size) []) true

/-- STS (R220): performed at the bank; a release at die scope or wider waits for the core's writes (R103, R118). -/
def execSts (m : MStore) (s : State) : Host.Outcome State Fault Refusal :=
  s.vmem (.sts m) m.guard (State.scrCheck m.addr m.size.bytes) fun act s =>
    s.launch (s.newOp (.sts m) act act 0 0#32 (s.capture m.addr fun l => s.g.storeBytes l m.d m.size) []) true

/-! ### Atomics -/

/-- ATOM (R225). -/
def execAtom (m : MAtom) (s : State) : Host.Outcome State Fault Refusal :=
  let n := if m.wide8 then 2 else 1
  s.vmem (.atom m) m.guard (State.alignCheck m.addr (4 * n)) fun act s =>
    s.launch (s.newOp (.atom m) act act m.la.toNat 0#32 (s.capture m.addr fun l => s.g.laneBytes l m.e n) []) (m.la == 0#4)

/-- RED (R225): no word waits for it. -/
def execRed (m : MAtom) (s : State) : Host.Outcome State Fault Refusal :=
  let n := if m.wide8 then 2 else 1
  s.vmem (.red m) m.guard (State.alignCheck m.addr (4 * n)) fun act s =>
    s.launch (s.newOp (.red m) act act 0 0#32 (s.capture m.addr fun l => s.g.laneBytes l m.e n) []) true

/-- ATOMS (R225, R226). -/
def execAtoms (m : MAtom) (s : State) : Host.Outcome State Fault Refusal :=
  let n := if m.wide8 then 2 else 1
  s.vmem (.atoms m) m.guard (State.scrCheck m.addr (4 * n)) fun act s =>
    s.launch (s.newOp (.atoms m) act act m.la.toNat 0#32 (s.capture m.addr fun l => s.g.laneBytes l m.e n) []) (m.la == 0#4)

/-- CASW (R227): DATA holds the comparand, then the new value. -/
def execCasw (m : MCasw) (s : State) : Host.Outcome State Fault Refusal :=
  let n := if m.wide32 then 8 else 4
  s.vmem (.casw m) m.guard (State.alignCheck m.addr (4 * n)) fun act s =>
    s.launch (s.newOp (.casw m) act act m.la.toNat 0#32 (s.capture m.addr fun l => s.g.laneBytes l m.e (2 * n)) [])
      (m.la == 0#4)

/-- ENQ (R228): the header is aligned to 16, and each node's link to 8. -/
def execEnq (m : MEnq) (s : State) : Host.Outcome State Fault Refusal :=
  s.vmem (.enq m) m.guard
    (fun s l => misaligned (s.g.ea m.addr l) 16 ++ misaligned (s.g.vpair m.e l + BitVec.ofNat 64 (8 * m.link.toNat)) 8)
    fun act s =>
      s.launch (s.newOp (.enq m) act act m.la.toNat 0#32 (s.capture m.addr fun l => s.g.laneBytes l m.e 2) []) (m.la == 0#4)

/-! ### Chained loads (R230-R233) -/

/-- The header of a chain record is legal, and D suits its final size (R230). -/
def chainOk (header : W64) (d : BitVec 7) (n : Nat) : Bool :=
  let h := header.toNat
  let size := sizeOf (h / 16 % 8)
  decide (h % 16 ≤ 8) && decide (h / 16 % 8 ≤ 4) && bitsAt h 7 9 == 0 && bitsAt h 32 32 == 0 && size.regOk d &&
    decide (d.toNat + size.regs ≤ n)

/-- The chain record s(c) to s(c + 10) (R230). -/
def Group.chainRecord (g : Group) (e : BitVec 7) : List W64 :=
  (List.range 11).map fun k => g.sr64 ⟨(e.toNat + k) % 512, Nat.mod_lt _ (by decide)⟩

/-- A register that the steps of the chain need is bad (R369). -/
def Group.badChain (g : Group) (e : BitVec 7) : Option Nat :=
  (g.chainNeeds e).find? fun r => g.sbad.any fun b => b.1 == r

/-- Alignment of read 0 of a chain, whose address is known at issue; the lane's address is its pointer (R92, R307). -/
def State.chainCheck (m : MChld) (s : State) (l : Fin 32) : List (BitVec 8 × W64) :=
  let p := s.g.ea m.addr l
  let r := chainRead (s.g.chainRecord m.e) 0 p
  if r.1.toNat % r.2 = 0 then [] else [(0x04#8, p)]

/-- CHLD (R231): the record s(c) to s(c + 10) is read at issue. -/
def execChld (m : MChld) (s : State) : Host.Outcome State Fault Refusal :=
  let header := s.g.sr64 (sreg7 m.e)
  if s.power = .off then .fault .moduleOff
  else if !chainOk header m.d s.g.n && !(s.g.sbad.any fun b => b.1 == m.e.toNat) then .next s.illegal
  else
    match s.g.badChain m.e with
    | some r =>
      s.once (.chld m) m.guard fun act s => (s.commit.passRest act).registerFault (256 + r) act act
    | none =>
      s.vmem (.chld m) m.guard (State.chainCheck m) fun act s =>
        s.launch (s.newOp (.chld m) act act m.la.toNat 0#32
          (s.capture m.addr fun l => toBytes 8 (s.g.ea m.addr l).toNat) (s.g.chainRecord m.e)) (m.la == 0#4)

/-! ### STC (R229) -/

/-- STC: the counter is checked at issue; each lane's store enters the L1, and its decrement follows the store and, as every
decrement is a release, every write before it. -/
def execStc (m : MStc) (s : State) : Host.Outcome State Fault Refusal :=
  let ctr := s.g.sr64 (sreg7 m.e)
  s.vmem (.stc m) m.guard
    (fun s l => misaligned (s.g.ea m.addr l) m.size.bytes ++ misaligned ctr 8 ++
      (if ctr.toNat % 8 = 0 then s.unmapped ctr .store else []))
    fun act s =>
      s.launch (s.newOp (.stc m) act act 0 0#32 (s.capture m.addr fun l => s.g.storeBytes l m.d m.size) [ctr]) true

/-! ### The scalar unit's loads and stores (R222) -/

/-- The address of SLD and SST. -/
def Group.scalarAddr (g : Group) (a : BitVec 9) (disp : BitVec 9) : W64 := g.sr64 (reg9 a) + disp.signExtend 64

/-- A scalar memory word: its checks report every issuing lane. -/
def State.umem (s : State) (i : Instr) (q : BitVec 4) (neg : Bool) (sp : Bool) (addr : W64) (n : Nat) (f : State → State) :
    Host.Outcome State Fault Refusal :=
  s.unit i q neg fun s =>
    match failedCheck s.iss.mask (fun _ => misaligned addr n ++ if sp then s.outside addr n else []) with
    | some (code, a, detail) => s.issueFault code s.iss.mask a detail
    | none =>
      let s := s.commit
      f (s.setG (s.g.advance s.iss.mask))

/-- SLD (R222). -/
def execSld (u : ULoad) (s : State) : Host.Outcome State Fault Refusal :=
  let addr := s.g.scalarAddr u.a u.disp
  s.umem (.sld u) u.q u.neg u.sp addr u.size.bytes fun s =>
    s.launch (s.newOp (.sld u) s.iss.mask s.iss.mask u.la.toNat 0#32 (oneCapture addr []) []) (u.la == 0#4)

/-- SST (R222). -/
def execSst (u : UStore) (s : State) : Host.Outcome State Fault Refusal :=
  let addr := s.g.scalarAddr u.a u.disp
  let bs := (toBytes 8 (s.g.sr64 (reg9 u.d)).toNat).take u.size.bytes
  s.umem (.sst u) u.q u.neg u.sp addr u.size.bytes fun s =>
    s.launch (s.newOp (.sst u) s.iss.mask s.iss.mask 0 0#32 (oneCapture addr bs) []) true

end Sys2Proof.Machine
end

