-- ==== Sys2Proof/Machine/Sync.lean ====
section
/-! DEFINITION. The group-level instructions and what completes them: fences, counters, barriers, register allocation
(08 R235-R241; 04 R109), and the completion of operations in flight (01 R26; 05 R143; 04 R96; 08 R229). -/

namespace Sys2Proof.Machine

/-! ### Words that act once for the group (R235) -/

/-- A group-level memory word: checks made at issue report the active lanes (R379); otherwise the word counts as issued. -/
def State.gmem (s : State) (i : Instr) (guard : BitVec 7) (check : State → List (BitVec 8 × W64)) (f : Mask → State → State) :
    Host.Outcome State Fault Refusal :=
  s.once i guard fun act s =>
    match failedCheck act (fun _ => check s) with
    | some (code, addr, detail) => s.checkFault code act addr detail
    | none => f act s.commit

/-- Every issuing lane advances. -/
def State.pass (s : State) : State := s.setG (s.g.advance s.iss.mask)

/-- Alignment and, for a scratchpad object, bounds (R235). -/
def State.objCheck (sp : Bool) (a : W64) (n : Nat) (s : State) : List (BitVec 8 × W64) :=
  misaligned a n ++ if sp then s.outside a n else []

/-- FENCE (R109, R236): it waits for every write pending in the core. -/
def execFence (g : GFence) (s : State) : Host.Outcome State Fault Refusal :=
  s.once (.fence g) g.guard fun _ s =>
    let s := s.commit.pass
    let ids := (s.posted.filter fun e => e.core == s.t.core).map (·.id)
    (s.setG { s.g with fence := some (g.scope, ids) }).pushDue (.fenceComplete s.me)

/-- CINC and CDEC: a read-modify-write with RED's timing (R237). -/
def State.counterAdd (s : State) (i : Instr) (g : GCtr) (delta : W64 → W64) : Host.Outcome State Fault Refusal :=
  let addr := s.g.sr64 (sreg7 g.a)
  let d := delta (s.g.sr64 (sreg7 g.e))
  s.gmem i g.guard (State.objCheck g.sp addr 8) fun act s =>
    let s := s.pass
    s.launch (s.newOp i act act 0 0#32 (oneCapture addr (toBytes 8 d.toNat)) []) true

/-- CINC (R237). -/
def execCinc (g : GCtr) (s : State) : Host.Outcome State Fault Refusal := s.counterAdd (.cinc g) g fun x => x

/-- CDEC (R237). -/
def execCdec (g : GCtr) (s : State) : Host.Outcome State Fault Refusal := s.counterAdd (.cdec g) g fun x => 0#64 - x

/-- CREAD (R237). -/
def execCread (g : GRead) (s : State) : Host.Outcome State Fault Refusal :=
  let addr := s.g.sr64 (sreg7 g.a)
  s.gmem (.cread g) g.guard (State.objCheck g.sp addr 8) fun act s =>
    let s := s.pass
    s.launch (s.newOp (.cread g) act act g.la.toNat 0#32 (oneCapture addr []) []) (g.la == 0#4)

/-- A waiting word ends with a fault found after issue: every issuing lane advances, and the operation goes to the log
(R305, R379). -/
def State.waitFault (s : State) (i : Instr) (issue act : Mask) (addr : W64) (gops : List W64) (code : BitVec 8)
    (fa detail : W64) : State :=
  let lpc := s.g.lpc[lowLane issue]
  let o : Op :=
    { id := s.nextId, instr := i, lpc := lpc, issue := issue, active := act, waitm := s.g.lastWait, win := 0
      pend := 0#32, parked := 0#32, sent := 0#32, after := [], late := [], moved := false, fails := (lanesOf act).map fun l => ⟨l, code, fa, detail⟩
      lanes := oneCapture addr [], gops := gops, cover := ([], []), found := some s.cycle }
  let g := { s.g.advance issue with status := .running, ops := s.g.ops ++ [o] }
  State.pushDue { s with g := g, nextId := s.nextId + 1 } (.faultTaken s.me)

/-- CWAIT reads its counter, once nothing the group issued before holds the read back: a satisfied wait acquires at its scope
and the issuing lanes advance; otherwise the group waits at the word (R104, R237). -/
def State.tryCwait (s : State) (g : GCtr) (issue : Mask) (addr goal : W64) : State :=
  let stay (s : State) : State := s.setStatus (.cwait (.cwait g) issue addr goal)
  let read (s : State) (bs : List Byte) : State :=
    if goal.toNat ≤ ofBytes bs then
      let s := s.acquired true g.scope
      (s.setG (s.g.advance issue)).setStatus .running
    else stay s
  if !s.gate (s.bareOp (.cwait g)) then stay s
  else
  let r := if g.sp then s.loadSp addr 8 (.strong .st g.scope) read else s.loadVa addr 8 (.strong .st g.scope) read
  match r with
  | .done s => s
  | .wait s => stay s
  | .fail s code fa detail =>
    s.waitFault (.cwait g) issue (issue &&& s.g.pred g.guard) addr [goal] code fa detail

/-- CWAIT (R237). -/
def execCwait (g : GCtr) (s : State) : Host.Outcome State Fault Refusal :=
  let addr := s.g.sr64 (sreg7 g.a)
  let goal := s.g.sr64 (sreg7 g.e)
  s.gmem (.cwait g) g.guard (State.objCheck g.sp addr 8) fun _ s => s.tryCwait g s.iss.mask addr goal

/-- BINIT (R239): one strong store of 16 bytes. -/
def execBinit (g : GBar) (s : State) : Host.Outcome State Fault Refusal :=
  let addr := s.g.sr64 (sreg7 g.a)
  let x := (s.g.sr64 (sreg7 g.e)).toNat
  s.gmem (.binit g) g.guard (State.objCheck true addr 16) fun act s =>
    let s := s.pass
    let bs : List Byte := toBytes 4 0 ++ toBytes 4 x ++ toBytes 4 (x / 2 ^ 32) ++ toBytes 4 0
    s.launch (s.newOp (.binit g) act act 0 0#32 (oneCapture addr bs) []) true

/-- BARRIVE (R239). -/
def execBarrive (g : GArrive) (s : State) : Host.Outcome State Fault Refusal :=
  let addr := s.g.sr64 (sreg7 g.a)
  s.gmem (.barrive g) g.guard (State.objCheck true addr 16) fun act s =>
    let s := s.pass
    s.launch (s.newOp (.barrive g) act act 0 0#32 (oneCapture addr []) []) true

/-- BWAIT reads the generation, once nothing the group issued before holds the read back (R104, R239): it returns when the
target is at most 2^31 - 1 behind. A barrier is poisoned where count, expected or generation is; the flags word, which no
instruction reads, does not count (log 63). -/
def State.tryBwait (s : State) (g : GBar) (issue : Mask) (addr : W64) (goal : W32) : State :=
  if !s.gate (s.bareOp (.bwait g)) then s.setStatus (.bwait (.bwait g) issue addr goal)
  else if s.scrPoisoned addr.toNat 12 then
    s.waitFault (.bwait g) issue (issue &&& s.g.pred g.guard) addr [goal.zeroExtend 64] 0x09#8 addr 0#64
  else
    let gen : W32 := BitVec.ofNat 32 (ofBytes (s.scrBytes (addr.toNat + 8) 4))
    if (gen - goal).toNat < 2 ^ 31 then
      let s := s.acquired true .team
      (s.setG (s.g.advance issue)).setStatus .running
    else s.setStatus (.bwait (.bwait g) issue addr goal)

/-- BWAIT (R239). -/
def execBwait (g : GBar) (s : State) : Host.Outcome State Fault Refusal :=
  let addr := s.g.sr64 (sreg7 g.a)
  let goal := (s.g.sr64 (sreg7 g.e)).extractLsb' 0 32
  s.gmem (.bwait g) g.guard (State.objCheck true addr 16) fun _ s => s.tryBwait g s.iss.mask addr goal

/-! ### Register allocation (R240, R241) -/

/-- The register count a word names. -/
def allocOf (n3 : BitVec 3) : Nat := 16 * (n3.toNat + 1)

/-- Register blocks in use on a core (R42). -/
def State.usedBlocks (s : State) (core : Nat) : Nat :=
  ((s.storeFocus.teams.filter fun t => t.core = core).flatMap fun t =>
    (t.groups.filter fun g => !g.retired).map fun g => g.n / 16).sum

/-- The free register blocks of a core, lowest first (R42; log 68). -/
def State.freeBlocks (s : State) (core : Nat) : List Nat :=
  let taken := (s.storeFocus.teams.filter fun t => t.core = core).flatMap fun t =>
    (t.groups.filter fun g => !g.retired).flatMap (·.blocks)
  (List.range 256).filter fun b => !taken.contains b

/-- The lowest free place of a quadrant of a core (R323, R352; log 68), beside the groups `gs`. -/
def State.freeSlot (s : State) (core quad : Nat) (gs : List Group) : Nat :=
  let there := (s.storeFocus.teams.filter fun t => t.core = core).flatMap (·.groups) ++ gs
  let taken := (there.filter fun g => !g.retired && g.quad == quad).map (·.slot)
  ((List.range 16).find? fun k => !taken.contains k).getD 15

/-- A group to be placed on a core takes its place and its blocks, behind the groups `gs` of its team (R42, R323). -/
def State.seatGroup (s : State) (core : Nat) (gs : List Group) (g : Group) : Group :=
  let used := gs.flatMap (·.blocks)
  { g with
    slot := s.freeSlot core g.quad gs
    blocks := ((s.freeBlocks core).filter fun b => !used.contains b).take (g.n / 16) }

/-- A context takes register blocks of a core (R325). -/
def State.ownBlocks (s : State) (core : Nat) (bs : List Nat) (ctx : BitVec 10) : State :=
  { s with
    blockOwner := bs.map (fun b => (core, b, ctx)) ++ s.blockOwner.filter fun o => !(o.1 == core && bs.contains o.2.1) }

/-- The current group grows to `n`, with free blocks of its core: the new registers hold free values (R42). -/
def State.growTo (s : State) (n : Nat) (q : BitVec 4) (issue : Mask) : State :=
  let bs := (s.freeBlocks s.t.core).take ((n - s.g.n) / 16)
  let s := s.ownBlocks s.t.core bs s.t.ctx
  let v := Vector.ofFn fun r : Fin 128 =>
    if s.g.n ≤ r.val && decide (r.val < n) then
      Vector.ofFn fun l : Fin 32 => (s.freeW (r.val * 32 + l.val)).extractLsb' 0 32
    else s.g.v[r]
  (s.setG (({ s.g with n := n, v := v, blocks := s.g.blocks ++ bs }.setQ q true).advance issue)).setStatus .running

/-- Some GROW of the core waits. -/
def State.growWaiting (s : State) (core : Nat) : Bool :=
  s.storeFocus.teams.any fun t => t.core == core && t.groups.any fun g =>
    match g.status with
    | .grow .. => true
    | _ => false

/-- GROW (R240). -/
def execGrow (g : GGrow) (s : State) : Host.Outcome State Fault Refusal :=
  let n := allocOf g.n3
  s.once (.grow g) g.guard fun _ s =>
    let s := s.commit
    if n ≤ s.g.n then s.setG ((s.g.setQ g.q true).advance s.iss.mask)
    else if !s.growWaiting s.t.core && decide (s.usedBlocks s.t.core + (n - s.g.n) / 16 ≤ 256) then
      s.growTo n g.q s.iss.mask
    else State.setStatus { s with nextId := s.nextId + 1 } (.grow s.iss.mask n g.q s.nextId)

/-- No write in flight, logged ones included, targets a register at or above `n` (R240). -/
def Group.clearAbove (g : Group) (n : Nat) : Bool :=
  let below (i : Instr) : Bool := i.writesV.all fun w => decide (w.1.toNat + w.2 ≤ n)
  (g.ops.all fun o => !o.isOpen || below o.instr) && (g.log.toList ++ g.held).all fun e => below e.op.instr

/-- SHRINK (R240): the group waits until no write in flight targets a released register. -/
def execShrink (g : GShrink) (s : State) : Host.Outcome State Fault Refusal :=
  let n := allocOf g.n3
  s.once (.shrink g) g.guard fun _ s =>
    let s := s.commit.pass
    if s.g.n ≤ n then s
    else if s.g.clearAbove n then (s.setG { s.g with n := n, blocks := s.g.blocks.take (n / 16) }).pushDue (.growGrant s.t.core)
    else s.setG { s.g with shrinkTo := some n }

/-- SHRINK_RELEASE (R240). -/
def execShrinkRelease (at_ : GroupRef) (s : State) : Host.Outcome State Fault Refusal :=
  s.evGroup at_ fun s =>
    match s.g.shrinkTo with
    | some n =>
      if s.g.clearAbove n then (s.setG { s.g with n := n, blocks := s.g.blocks.take (n / 16), shrinkTo := none }).pushDue (.growGrant s.t.core) else s
    | none => s

/-- The waiting GROWs of a core, in the order in which they began to wait: group, target, since. -/
def State.growers (s : State) (core : Nat) : List (GroupRef × Nat × Nat) :=
  ((s.storeFocus.teams.filter fun t => t.core = core).flatMap fun t => t.groups.filterMap fun g =>
    match g.status with
    | .grow _ n _ since => some ((⟨t.tid, g.id⟩ : GroupRef), (n - g.n) / 16, since)
    | _ => none).mergeSort fun a b => a.2.2 ≤ b.2.2

/-- GROW_GRANT (R240, R326): the oldest waiting GROW that the free blocks satisfy. -/
def execGrowGrant (core : Nat) (s : State) : Host.Outcome State Fault Refusal :=
  s.ev fun s =>
    let s := s.storeFocus
    match (s.growers core).find? fun x => s.usedBlocks core + x.2.1 ≤ 256 with
    | none => s
    | some x =>
      s.withGroup x.1 fun s =>
        match s.g.status with
        | .grow issue n q _ => (s.growTo n q issue).pushDue (.growGrant core)
        | _ => s

/-- Every resident group of a core waits in GROW, or has no runnable lane because all its lanes are parked (R241). -/
def State.growStuck (s : State) (core : Nat) : Bool :=
  (s.storeFocus.teams.filter fun t => t.core = core).all fun t => t.groups.all fun g =>
    g.retired || (match g.status with
      | .grow .. => true
      | _ => g.runnable == 0#32 && g.exited != BitVec.allOnes 32)

/-- GROW_DEADLOCK_FAIL (R241): the GROW that began waiting most recently completes with false. -/
def execGrowDeadlockFail (core : Nat) (s : State) : Host.Outcome State Fault Refusal :=
  s.ev fun s =>
    let s := s.storeFocus
    if s.growStuck core && !((s.growers core).any fun x => decide (s.usedBlocks core + x.2.1 ≤ 256)) then
      match (s.growers core).getLast? with
      | none => s
      | some x =>
        s.withGroup x.1 fun s =>
          match s.g.status with
          | .grow issue _ q _ => (s.setG ((s.g.setQ q false).advance issue)).setStatus .running
          | _ => s
    else s

/-! ### Completion events -/

/-- Attempts lanes of one operation of a group. -/
def State.complete (s : State) (at_ : GroupRef) (op : Nat) (lanes : Mask) : State :=
  s.withGroup at_ fun s =>
    match s.g.opOf op with
    | none => s
    | some o => s.progress o lanes

/-- SPLIT_DATA_RETURN (R26): the data of parked lanes has come. -/
def execSplitDataReturn (at_ : GroupRef) (op : Nat) (lanes : Mask) (s : State) : Host.Outcome State Fault Refusal :=
  s.ev fun s => s.complete at_ op lanes

/-- LONG_LATENCY_COMPLETE (R143): lanes of an operation bind, or its result is written. -/
def execLongLatencyComplete (at_ : GroupRef) (op : Nat) (lanes : Mask) (s : State) : Host.Outcome State Fault Refusal :=
  s.ev fun s => s.complete at_ op lanes

/-- REGISTRATION_ACK (R95, R96): a posted store is performed at its home. -/
def execRegistrationAck (id : Nat) (s : State) : Host.Outcome State Fault Refusal := s.ev fun s => s.ackPosted id

/-- FENCE_COMPLETE (R109): every write it awaits is performed and every read has bound; at die scope or wider the core's
L1 invalidates itself. No memory word of the group issues in the meantime, so every open operation is an earlier one; a
PREFETCH is no access that it orders (R221). At team scope a store is performed when its bytes are in the L1. A fault that
waited for the FENCE is taken in an event of its own (R146). -/
def execFenceComplete (at_ : GroupRef) (s : State) : Host.Outcome State Fault Refusal :=
  s.evGroup at_ fun s =>
    match s.g.fence with
    | none => s
    | some (sc, ids) =>
      let d := if dieUp sc then s.drainList ids else (s, true)
      let s := d.1
      let open_ := s.g.ops.any fun o => !o.instr.isLongFloat && !o.instr.isMma && !o.instr.isPrefetch &&
        (if dieUp sc || !o.instr.isPosted then o.isOpen else o.unbound)
      if d.2 && !open_ && s.g.log.isNone && !(cellUp sc && !s.recalls.isEmpty) then
        let s := s.setG { s.g.forgetAll with fence := none }
        let s := if dieUp sc then s.selfInvalidate s.t.core else s
        if s.g.draining then s.pushDue (.faultTaken s.me) else s
      else s

/-- CWAIT_WAKE (R237). -/
def execCwaitWake (at_ : GroupRef) (s : State) : Host.Outcome State Fault Refusal :=
  s.evGroup at_ fun s =>
    match s.g.status with
    | .cwait (.cwait g) issue addr goal => s.tryCwait g issue addr goal
    | _ => s

/-- BWAIT_WAKE (R239). -/
def execBwaitWake (at_ : GroupRef) (s : State) : Host.Outcome State Fault Refusal :=
  s.evGroup at_ fun s =>
    match s.g.status with
    | .bwait (.bwait g) issue addr goal => s.tryBwait g issue addr goal
    | _ => s

/-- STC_LANDING (R229): the lane's store, and every write before it, is performed; then its counter is decremented at the
home, by a release at the word's scope (R103, R114). The decrements of different lanes are in no fixed order. -/
def execStcLanding (id : Nat) (s : State) : Host.Outcome State Fault Refusal :=
  s.ev fun s =>
    match s.stcs.find? fun c => c.id = id with
    | none => s
    | some c =>
      let gone := { s with stcs := s.stcs.filter fun x => x.id ≠ id }
      s.withGroup ⟨c.team, c.group⟩ fun s =>
        match s.g.opOf c.op with
        | none => { s with stcs := gone.stcs }
        | some o =>
          let l : Fin 32 := Fin.ofNat 32 c.lane
          if o.fails.any fun f => f.lane == l then { s with stcs := gone.stcs }
          else
            let d := s.drainList c.after
            if !d.2 then d.1
            else
              let amount : W64 := 0#64 - BitVec.ofNat 64 c.amount
              let r := d.1.atomVa c.op l 0x20#8 c.ctr 8 .rel c.scope true (toBytes 8 amount.toNat) true
                (fun old => some (toBytes 8 (BitVec.ofNat 64 (ofBytes old) + amount).toNat)) fun s _ => s
              match r with
              | .wait s' => if s.refusedLane o l then (s'.asRetry s).putOp { o with moved := true }
                else if o.moved then s'.asRetry s else s'
              | .done s =>
                State.putOp { s with stcs := gone.stcs } { o with pend := o.pend &&& ~~~oneLane l }
              | .fail s code addr detail =>
                let lane := o.lanes[l]
                let o := { o with lanes := o.lanes.set l.val { lane with aux := 1#64 } }
                State.putOp { s with stcs := gone.stcs } (o.failLanes (oneLane l) code addr detail)

end Sys2Proof.Machine
end

