-- ==== Sys2Proof/Machine/Matrix.lean ====
section
/-! DEFINITION. Gangs, the rendezvous, MMA and the matrix engine, and accumulation tiles (03 R77, R78, R82-R86;
09 R245-R255). -/

namespace Sys2Proof.Machine

/-! ### The engine of a core -/

/-- The matrix engine of a core. -/
def State.engine (s : State) (core : Nat) : Engine := (s.engines.find? fun e => e.core = core).getD ⟨core, [], [], []⟩

/-- Replaces a core's engine. -/
def State.putEngine (s : State) (e : Engine) : State :=
  { s with engines := e :: s.engines.filter fun x => x.core ≠ e.core }

/-- A refused contribution stalls its engine (R82, R252). -/
def State.stalled (s : State) (core : Nat) : Bool := s.transit.any fun c => c.core == core && c.refused

/-- The core of a resident team. -/
def State.coreOf (s : State) (team : Nat) : Nat := ((s.teams.find? fun t => t.tid = team).map (·.core)).getD 0

/-! ### The rendezvous (R246, R252) -/

/-- The gangs that wait at the rendezvous of a core. -/
def State.gangs (s : State) (core : Nat) : List (Nat × W32) :=
  ((s.mma.filter fun m => s.coreOf m.team = core).map fun m => (m.team, m.gang)).dedup

/-- The MMAs of a gang that wait. -/
def State.waiting (s : State) (k : Nat × W32) : List MmaOp := s.mma.filter fun m => m.team = k.1 ∧ m.gang = k.2

/-- Where a gang stands. -/
inductive Meeting where
  | waits | traps | full
deriving DecidableEq, Repr

/-- A member of a mask has retired or belongs to another gang. -/
def memberLost (t : Team) (mask : W32) : Bool :=
  (lanesOf mask).any fun l =>
    match t.groups.find? fun g => g.id = l.val with
    | none => true
    | some g => g.retired || g.gangr != mask

/-- An acquire before a waiting MMA has not bound: the MMA is held at the core (R104). -/
def State.mmaHeld (s : State) (m : MmaOp) : Bool :=
  match s.loadFocus ⟨m.team, m.group⟩ with
  | none => false
  | some s => (s.g.opOf m.op).any fun o => !s.gate o

/-- The conditions of R246, and of R249 for a held operand. -/
def State.meeting (s : State) (k : Nat × W32) : Meeting :=
  let s := s.storeFocus
  match s.teams.find? fun t => t.tid = k.1, s.waiting k with
  | some t, h :: r =>
    if memberLost t k.2 || (h :: r).any (fun m => m.fmt != h.fmt || m.free != h.free || m.reuse != h.reuse) ||
        (s.engine t.core).held.any (fun a => a.team == k.1 && a.gang == k.2 && a.fmt != h.fmt) then .traps
    else if (lanesOf k.2).all fun l => (h :: r).any fun m => m.group == l.val && !s.mmaHeld m then .full
    else .waits
  | _, _ => .waits

/-- A waiting MMA is withdrawn, and its group takes the illegal-state trap (R246). -/
def State.trapMma (s : State) (m : MmaOp) : State :=
  s.withGroup ⟨m.team, m.group⟩ fun s =>
    match s.g.opOf m.op with
    | none => s
    | some o =>
      let st := if s.g.status = .rendezvous then .running else s.g.status
      State.putOp { s with g := { s.g with status := st, watch := none } }
        (o.failLanes (BitVec.allOnes 32) 0x02#8 0#64 2#64)

/-- The trap of every gang of a core that must take it. -/
def State.trapGangs (s : State) (core : Nat) : State :=
  ((s.gangs core).filter fun k => s.meeting k = .traps).foldl (fun s k =>
    let ws := s.waiting k
    ws.foldl State.trapMma { s with mma := s.mma.filter fun m => !(m.team == k.1 && m.gang == k.2) }) s

/-- The complete gang of a core whose last member came first. -/
def State.firstFull (s : State) (core : Nat) : Option (Nat × W32) :=
  let last (k : Nat × W32) : Nat := ((s.waiting k).map (·.op)).foldl max 0
  ((s.gangs core).filter fun k => s.meeting k = .full).foldl (fun (b : Option (Nat × W32)) k =>
    match b with
    | none => some k
    | some x => if last k < last x then some k else some x) none

/-- A complete gang takes a free place of the engine; its groups are ready again (R31, R252). -/
def State.seat (s : State) (core : Nat) : State :=
  let e := s.engine core
  if 2 ≤ e.places.length + e.latched.length then s
  else
    match s.firstFull core with
    | none => s
    | some k =>
      let ws := (s.waiting k).mergeSort fun a b => a.group ≤ b.group
      let s := { s with mma := s.mma.filter fun m => !(m.team == k.1 && m.gang == k.2) }
      let s := s.putEngine { e with places := e.places ++ [⟨ws⟩] }
      ws.foldl (fun s m => s.withGroup ⟨m.team, m.group⟩ fun s =>
        if s.g.status = .rendezvous then s.setStatus .running else s) s

/-- The rendezvous of a core, evaluated at an arrival, a GANG write, a retirement or a freed place. -/
def State.meet (s : State) (core : Nat) : State := ((s.trapGangs core).seat core).seat core

/-! ### GANG, MRDY, MWAIT -/

/-- GANGR of every group of a mask in the current team (R245). -/
def State.setGang (s : State) (m : Mask) : State :=
  let f (g : Group) : Group := if g.id < 32 && m.getLsbD g.id then { g with gangr := m } else g
  { s with t := { s.t with groups := s.t.groups.map f }, g := f s.g }

/-- Releases what is held for gangs of a team that meet a mask (R245, R249). -/
def State.releaseHeld (s : State) (core team : Nat) (m : Mask) : State :=
  let e := s.engine core
  if e.held.isEmpty then s
  else s.putEngine { e with held := e.held.filter fun a => a.team ≠ team ∨ a.gang &&& m = 0#32 }

/-- GANG (R245). -/
def execGang (e : EGang) (s : State) : Host.Outcome State Fault Refusal :=
  s.once (.gang e) e.guard fun act s =>
    let m : Mask := (s.g.sr64 (sreg7 e.a)).extractLsb' 0 32
    let k := (lanesOf m).length
    if !(s.g.id < 32 && m.getLsbD s.g.id) || decide (k < 2) || decide (6 < k) ||
        (lanesOf m).any (fun l => decide (s.t.groupCount ≤ l.val)) then
      s.issueFault 0x02#8 act 0#64 0#64
    else
      let s := s.commit.pass.setGang m
      (s.releaseHeld s.t.core s.t.tid m).meet s.t.core

/-- MRDY (R250). -/
def execMrdy (e : EMrdy) (s : State) : Host.Outcome State Fault Refusal :=
  s.once (.mrdy e) e.guard fun _ s =>
    let s := s.commit.pass
    s.setG { s.g with needA := some e.a }

/-- MWAIT (R251). -/
def execMwait (e : EGuard) (s : State) : Host.Outcome State Fault Refusal :=
  s.once (.mwait e) e.guard fun _ s =>
    let s := s.commit.pass
    s.setG { s.g with needLatch := true }

/-! ### MMA (R246, R247) -/

/-- The checks of a member's own operands (R247). -/
def State.mmaChecks (s : State) (e : EMma) : List (BitVec 8 × W64) :=
  let b := s.g.sr64 (sreg7 e.b)
  let t := s.g.sr64 (sreg7 e.c)
  misaligned b 128 ++ misaligned t (64 * e.fmt.tile.bytes) ++ s.outside b 8192 ++ s.unmapped t .store

/-- The operation of an MMA joins the rendezvous; `o` holds its operands (R246, R252). -/
def State.joinMma (s : State) (e : EMma) (o : Op) (pa : Nat) : State :=
  let w (k : Nat) : W64 := o.gops.getD k 0#64
  let m : MmaOp :=
    { op := o.id, team := s.t.tid, group := s.g.id, gang := s.g.gangr, fmt := e.fmt, free := e.free, reuse := e.reuse
      a := e.a, b := (w 0).toNat, t := w 1, tile := pa, tag := (w 2).extractLsb' 0 16, scale := (w 3).extractLsb' 0 16
      lpc := o.lpc, waitm := o.waitm, dirty := [] }
  let g := { s.g with ops := s.g.ops ++ [o], status := .rendezvous, watch := some [] }
  State.meet { s with g := g, mma := s.mma ++ [m], nextId := s.nextId + 1 } s.t.core

/-- The gang of the current group holds its A operand (R249). -/
def State.holdsA (s : State) : Bool := (s.engine s.t.core).held.any fun a => a.team == s.t.tid && a.gang == s.g.gangr

/-- A register of v(a) to v(a + 15) that holds an uncorrectable error. -/
def Group.badA (g : Group) (a : BitVec 7) : Option Nat :=
  (g.vbad.find? fun b => a.toNat ≤ b.1 ∧ b.1 < a.toNat + 16).map (·.1)

/-- MMA (R246, R247). A bad register of its A rows is found at issue, or, where it has become bad since, at the latch event
(R369; log 83). -/
def execMma (e : EMma) (s : State) : Host.Outcome State Fault Refusal :=
  s.issueWord (.mma e) fun s =>
    let act := s.iss.mask &&& s.g.pred e.guard
    if s.g.gangr = 0#32 ∨ act ≠ BitVec.allOnes 32 then s.issueFault 0x02#8 act 0#64 1#64
    else if s.g.badLanes (.mma e) act ≠ 0#32 then s.registerStop (.mma e) act
    else
      match if s.holdsA then none else s.g.badA e.a with
      | some r => (s.commit.passRest act).registerFault r act act
      | none =>
        match failedCheck act (fun _ => s.mmaChecks e) with
        | some (code, addr, detail) => s.checkFault code act addr detail
        | none =>
          let t := s.g.sr64 (sreg7 e.c)
          match s.translate s.t.core s.t.ctx t .store with
          | .ok s pa =>
            let up (k : Nat) : W64 := s.g.sr64 ⟨(e.c.toNat + k) % 512, Nat.mod_lt _ (by decide)⟩
            let s := s.commit.pass
            s.joinMma e
              (s.newOp (.mma e) act act e.la.toNat 0#32 (oneCapture t []) [s.g.sr64 (sreg7 e.b), t, up 1, up 2]) pa
          | x => x.state

/-- ENGINE_PLACE_FREE (R252). -/
def execEnginePlaceFree (core : Nat) (s : State) : Host.Outcome State Fault Refusal := s.ev fun s => s.meet core

/-! ### The partial (R77, R78, R247) -/

/-- Element `k` of an A row. -/
def aElem (f : MmaFmt) (row : Vector W32 32) (k : Nat) : Nat :=
  let w (l : Nat) : Nat := (row.toList.getD l 0#32).toNat
  match f with
  | .f64 => w (2 * k) + 2 ^ 32 * w (2 * k + 1)
  | .f32 => w k
  | .bf16 | .f16 => w (k / 2) / 2 ^ (16 * (k % 2)) % 2 ^ 16
  | _ => w (k / 4) / 2 ^ (8 * (k % 4)) % 2 ^ 8

/-- Element (k, j) of the B operand. -/
def bElem (f : MmaFmt) (bs : List Byte) (k j : Nat) : Nat := fieldAt bs (f.bytes * (64 * k + j)) f.bytes

/-- The input format of a floating form. -/
def MmaFmt.input (f : MmaFmt) : Fmt :=
  match f with
  | .f64 => fmtF64
  | .bf16 => fmtBf16
  | .f16 => fmtF16
  | .f8e4 => fmtE4m3
  | .f8e5 => fmtE5m2
  | _ => fmtF32

/-- The scale exponent of an FP8 form: sa + sb (R78). -/
def mmaScale (f : MmaFmt) (sc : BitVec 16) : Int :=
  match f with
  | .f8e4 | .f8e5 => (sc.extractLsb' 0 8).toInt + (sc.extractLsb' 8 8).toInt
  | _ => 0

/-- P(i, j) of R77. -/
def partialElem (f : MmaFmt) (sc : BitVec 16) (row : Vector W32 32) (bs : List Byte) (j : Nat) : W64 :=
  let prods := (List.range f.depth).map fun k => (aElem f row k, bElem f bs k j)
  match f with
  | .i8 =>
    let x : Int := (prods.map fun p => (BitVec.ofNat 8 p.1).toInt * (BitVec.ofNat 8 p.2).toInt).sum
    (BitVec.ofInt 32 x).zeroExtend 64
  | _ =>
    let out : Fmt := if f = .f64 then fmtF64 else fmtF32
    let fi := MmaFmt.input f
    BitVec.ofNat 64 (out.fusedSum .rne (mmaScale f sc) (prods.map fun p => (fi.decode p.1, fi.decode p.2)) []).1

/-! ### The latch event (R248, R249) -/

/-- The A rows of a gang: held, or read from the members' registers, with the rows that R249 leaves unpredictable. -/
def State.aRows (s : State) (core : Nat) (h : MmaOp) (ms : List MmaOp) : List (Vector W32 32) × List Nat :=
  match (s.engine core).held.find? fun a => a.team = h.team ∧ a.gang = h.gang with
  | some a => (a.rows, [])
  | none =>
    let grp (m : MmaOp) : Group := ((s.loadFocus ⟨m.team, m.group⟩).map (·.g)).getD Group.blank
    (ms.flatMap fun m => (List.range 16).map fun r => (grp m).v[(regUp m.a r).val],
     (ms.zipIdx).flatMap fun p =>
       (((grp p.1).watch.getD []).filter fun r => p.1.a.toNat ≤ r ∧ r < p.1.a.toNat + 16).map fun r =>
         16 * p.2 + (r - p.1.a.toNat))

/-- The latch event of a rendezvous: A and B are read, the gang holds A or nothing, and the members' MMAs complete. -/
def State.latch (s : State) (core : Nat) (r : Rendezvous) (rest : List Rendezvous) : State :=
  match r.members with
  | [] => s
  | h :: _ =>
    let s := s.storeFocus
    let e := s.engine core
    let a := s.aRows core h r.members
    let sp := (s.loadFocus ⟨h.team, h.group⟩).getD s
    let bs := sp.scrBytes h.b 8192
    let cols := (h.dirty.map fun x => (x - h.b) / h.fmt.bytes % 64).dedup
    let elems := (a.1.zipIdx).flatMap fun p => (List.range 64).map fun j =>
      if a.2.contains p.2 || cols.contains j then s.freeW (64 * p.2 + j) else partialElem h.fmt h.scale p.1 bs j
    let c : Contribution :=
      { id := s.nextId, core := core, ctx := sp.t.ctx, team := h.team, members := r.members.map fun m => ⟨m.group, m.lpc, m.waitm⟩
        fmt := h.fmt, free := h.free, t := h.t, tile := h.tile, tag := h.tag, rows := 16 * r.members.length
        poison := sp.scrPoisoned h.b 8192, elems := elems, refused := false, signalled := false }
    let others := e.held.filter fun x => !(x.team == h.team && x.gang == h.gang)
    let held := if h.reuse then ⟨h.team, h.gang, h.fmt, a.1⟩ :: others else others
    let s := s.putEngine { e with places := rest, latched := e.latched ++ [c], held := held }
    r.members.foldl (fun s m => s.withGroup ⟨m.team, m.group⟩ fun s =>
      let s := s.setG { s.g with watch := none }
      match s.g.opOf m.op with
      | none => s
      | some o => s.putOp { o with pend := 0#32 }) { s with nextId := s.nextId + 1 }

/-- The members of a rendezvous whose A registers hold an uncorrectable error, with the register; none where the gang holds A
(R249, R369). -/
def State.badRows (s : State) (core : Nat) (r : Rendezvous) : List (MmaOp × Nat) :=
  if (s.engine core).held.any fun a => r.members.any fun m => a.team == m.team && a.gang == m.gang then []
  else r.members.filterMap fun m => ((s.loadFocus ⟨m.team, m.group⟩).bind fun x => x.g.badA m.a).map fun k => (m, k)

/-- The latch event finds bad registers: their members' MMAs are withdrawn with the poisoned-data fault, and the others wait at
the rendezvous again (R246, R369; log 83). -/
def State.latchFails (s : State) (core : Nat) (r : Rendezvous) (rest : List Rendezvous) (bad : List (MmaOp × Nat)) : State :=
  let good := r.members.filter fun m => !bad.any fun b => b.1.op == m.op
  let s := State.putEngine { s with mma := s.mma ++ good } { s.engine core with places := rest }
  let s := good.foldl (fun s m => s.withGroup ⟨m.team, m.group⟩ fun s =>
    if s.g.status = .running then s.setStatus .rendezvous else s) s
  bad.foldl (fun s b => s.withGroup ⟨b.1.team, b.1.group⟩ fun s =>
    match s.g.opOf b.1.op with
    | none => s
    | some o =>
      State.putOp (s.setG { s.g with watch := none }) (o.failLanes (BitVec.allOnes 32) 0x09#8 0#64 (badDetail b.2))) s

/-- MMA_LATCH_EVENT (R248): the engine begins its next MMA once the one before it is done. -/
def execMmaLatchEvent (core : Nat) (s : State) : Host.Outcome State Fault Refusal :=
  s.ev fun s =>
    let e := s.engine core
    match e.places with
    | [] => s
    | r :: rest =>
      if e.latched.isEmpty && !s.stalled core then
        let s := s.storeFocus
        let bad := s.badRows core r
        if bad.isEmpty then s.latch core r rest else s.latchFails core r rest bad
      else s

/-- The number of a form in a contribution's packet (log 18). -/
def mmaCode (f : MmaFmt) : Nat :=
  match f with
  | .f64 => 0 | .f32 => 1 | .bf16 => 2 | .f16 => 3 | .f8e4 => 4 | .f8e5 => 5 | .i8 => 6

/-- Piece `k` of a contribution for the home of another package, at most fourteen elements in 128 bytes (R352; log 18): its
number, tag, rows, form, and the flags free mode, poison and last piece. -/
def Contribution.piece (c : Contribution) (k : Nat) : List Byte :=
  let mine := (c.elems.drop (14 * k)).take 14
  let last := decide (c.elems.length ≤ 14 * (k + 1))
  toBytes 8 c.id ++ toBytes 2 c.tag.toNat ++ toBytes 1 c.rows ++ toBytes 1 (mmaCode c.fmt) ++
    toBytes 1 ((if c.free then 1 else 0) + (if c.poison then 2 else 0) + (if last then 4 else 0)) ++ toBytes 1 mine.length ++
    toBytes 2 0 ++ mine.flatMap fun w => toBytes 8 w.toNat

/-- Sends a contribution to a tile of another package, piece by piece on its engine's flow; in a dead cell there is none to
send it to, and its groups take the fault at once (R364). -/
def State.sendContribution (s : State) (c : Contribution) : State :=
  if s.deadPkg (pkgOf c.tile) then
    State.tileFault { s with transit := s.transit.filter fun x => x.id ≠ c.id } c c.tag
  else
    (List.range ((c.elems.length + 13) / 14)).foldl (fun s k =>
      s.request (s.mkPacket 0x03#8 0x32#8 c.tile c.ctx (unitFlow (dieOfCore c.core) (64 + c.core)) 0x0C#8 (c.piece k))
        (.tile c.id) true) s

/-- MMA_CONTRIBUTION_SEND (R248, R252): contributions leave in MMA order, and a stalled engine sends none. -/
def execMmaContributionSend (core : Nat) (s : State) : Host.Outcome State Fault Refusal :=
  s.ev fun s =>
    let e := s.engine core
    match e.latched with
    | [] => s
    | c :: rest =>
      if s.stalled core then s
      else
        let s := s.putEngine { e with latched := rest }
        let s := { s with transit := s.transit ++ [c] }
        let s := if s.here c.tile then s else s.sendContribution c
        s.meet core

/-! ### Contributions at the slice (R82, R84) -/

/-- A contribution that reaches no open tile: it is dropped, and where a tile expired its groups take the fault. -/
def State.strayContribution (s : State) (c : Contribution) : State :=
  match s.expired.find? fun x => x.base = c.tile with
  | some x => s.tileFault c x.missing
  | none => s

/-- TILE_CONTRIBUTION_ARRIVAL (R82, R248): the oldest contribution of its engine arrives. -/
def execTileContributionArrival (id : Nat) (s : State) : Host.Outcome State Fault Refusal :=
  s.ev fun s =>
    match s.transit.find? fun c => c.id = id with
    | none => s
    | some c =>
      let first := (s.transit.find? fun x => x.core = c.core).map (·.id)
      if c.refused || first != some id || !s.here c.tile then s
      else
        let gone := { s with transit := s.transit.filter fun x => x.id ≠ id }
        match s.tiles.find? fun t => t.base = c.tile with
        | none => gone.strayContribution c
        | some t =>
          let r := t.arrive c
          if r.2 then
            State.putTile { s with transit := updWhere (fun x => x.id == id) (fun x => { x with refused := true }) s.transit }
              { r.1 with refusedBy := r.1.refusedBy ++ [id] }
          else gone.putTile r.1

/-- The slice has signalled the engine of a refused contribution (R82). -/
def State.mayResend (s : State) (c : Contribution) : Bool :=
  c.refused && (if s.here c.tile then !(s.tiles.any fun t => t.refusedBy.contains c.id) else c.signalled)

/-- ENGINE_RESEND (R82): an engine resends only when the slice has signalled it. -/
def execEngineResend (id : Nat) (s : State) : Host.Outcome State Fault Refusal :=
  s.ev fun s =>
    match s.transit.find? fun c => c.id = id with
    | none => s
    | some c =>
      if s.mayResend c then
        let s := { s with
          transit := updWhere (fun c => c.id == id) (fun c => { c with refused := false, signalled := false }) s.transit }
        if s.here c.tile then s else s.sendContribution c
      else s

/-- The timer of a tile runs (R84, R255). -/
def Tile.timed (t : Tile) : Bool :=
  decide (t.merged < t.n) && (t.closing || (!t.free && !t.kept.isEmpty))

/-- TILE_TIMEOUT (R84, R255). -/
def execTileTimeout (tile : Nat) (s : State) : Host.Outcome State Fault Refusal :=
  s.ev fun s =>
    match s.tiles.find? fun t => t.id = tile with
    | none => s
    | some t => if t.timed then s.expireTile t else s

/-! ### ACCOPEN and ACCCLOSE (R253, R254) -/

/-- The checks of an ACCOPEN: the alignment of the tile and of its counter, and their translations. -/
def State.openChecks (s : State) (e : EAccOpen) : List (BitVec 8 × W64) :=
  let t := s.g.sr64 (sreg7 e.a)
  let ctr := s.g.sr64 (sreg7 e.c)
  misaligned t (64 * e.fmt.bytes) ++ misaligned ctr 8 ++
    (match s.frames t (openSize e / 128) with
     | .ok .. => []
     | .bad _ code va => [(code, va)]
     | .wait _ va => [(walking, va)]) ++
    (if ctr = 0#64 then [] else s.unmapped ctr .store)

/-- ACCOPEN (R253). -/
def execAccopen (e : EAccOpen) (s : State) : Host.Outcome State Fault Refusal :=
  let t := s.g.sr64 (sreg7 e.a)
  let gops := [t, s.g.sr64 (sreg7 e.b), s.g.sr64 (sreg7 e.c)]
  s.gmem (.accopen e) e.guard (fun s => s.openChecks e) fun act s =>
    let s := s.pass
    s.launch (s.newOp (.accopen e) act act e.la.toNat 0#32 (oneCapture t []) gops) true

/-- ACCCLOSE (R254). -/
def execAccclose (e : EAccClose) (s : State) : Host.Outcome State Fault Refusal :=
  let t := s.g.sr64 (sreg7 e.a)
  s.gmem (.accclose e) e.guard (fun s => s.unmapped t .load) fun act s =>
    let s := s.pass
    s.launch (s.newOp (.accclose e) act act e.la.toNat 0#32 (oneCapture t []) [t]) true

end Sys2Proof.Machine
end

