-- ==== Sys2Proof/Machine/Copy.lean ====
section
/-! DEFINITION. The tile copy engine and the async-copy coalescer: TCOPY, ACP and what completes them (04 R113, R121, R122;
08 R238; 09 R256-R259). -/

namespace Sys2Proof.Machine

/-! ### TCOPY (R257) -/

/-- TCOPY (R257). Its record is read at issue; one that an earlier acquire or write holds back is read in flight, before any
later word issues (R104, R146; log 22). Where the record cannot be read yet the word has not issued (R31). -/
def execTcopy (e : ETcopy) (s : State) : Host.Outcome State Fault Refusal :=
  s.once (.tcopy e) e.guard fun act s =>
    let rec_ := s.g.sr64 (sreg7 e.a)
    let ctr := s.g.sr64 (sreg7 e.c)
    let i : Instr := .tcopy e
    if 8 ≤ s.copiesOn s.t.core then s.setStatus .tcopy
    else if !s.gate (s.recordOp i rec_ ctr) then
      match failedCheck act (fun _ => misaligned rec_ 64 ++ xlateFail rec_ (s.translate s.t.core s.t.ctx rec_ .load)) with
      | some (code, addr, detail) => s.checkFault code act addr detail
      | none =>
        let s := s.commit.pass
        s.launch (s.newOp i act act e.la.toNat 0#32 (oneCapture rec_ []) [rec_, ctr, 0#64]) false
    else
      match s.checkCopy e act rec_ ctr with
      | .wait s => s
      | .bad s code addr detail => s.checkFault code act addr detail
      | .ok s h =>
        let behind := s.heldBy (s.bareOp i)
        let s := s.commit.pass
        s.takeCopy (s.newCopy e act s.iss.key.lpc s.iss.waitm rec_ h ctr 0 behind)

/-! ### The copy (R257, R258) -/

/-- One element was copied, or the command stands. -/
inductive Copied where
  | went (s : State) (c : CopyCmd)
  | stands (s : State) (c : CopyCmd)

/-- Bytes of scratchpad written by an engine for the current team; words from a poisoned source are poisoned. -/
def State.enginePut (s : State) (a : Nat) (bs : List Byte) (poison : Bool) : State :=
  let s := s.scrPut (cellsAt a bs)
  if poison then { s with t := { s.t with scrPoison := insertAll (wordsIn a bs.length) s.t.scrPoison } } else s

/-- One element from memory to scratchpad. -/
def State.copyIn (s : State) (c : CopyCmd) (g : W64) (a : Nat) : Copied :=
  let n := c.shape.esize
  match s.translateEngine c.core c.ctx g .load with
  | .notPresent s => .stands s { c with stuck := some (0x06#8, g, 0#64) }
  | .permission s => .stands s { c with stuck := some (0x07#8, g, 0#64) }
  | .wait s _ => .stands s c
  | .ok s pa =>
    match s.readyLine c.ctx s.myFlow (lineOf pa) false with
    | .wait s => .stands s c
    | .fail s st =>
      if st = 1 then .stands (((s.dropVa c.core c.ctx g).translateEngine c.core c.ctx g .load).reask 0#8 c.ctx s.myFlow false) c
      else .went { s with t := { s.t with scrPoison := insertAll (wordsIn a n) s.t.scrPoison } }
        { c with done := c.done + 1, sources := insertAll (wordsIn a n) c.sources }
    | .yes s =>
      let bad := s.poisoned pa
      .went (s.enginePut a (s.homeBytes pa n) bad)
        { c with
          done := c.done + 1, covered := insertAll ((List.range n).map (a + ·)) c.covered
          sources := if bad then insertAll (wordsIn a n) c.sources else c.sources }

/-- The bytes an engine's command writes at an address: free values in a staging unit released since it was accepted (R264),
and under a key retired since (R374). -/
def State.looseBytes (s : State) (freed lost : List Nat) (pa : Nat) (bs : List Byte) : List Byte :=
  if freed.contains (pa / 4096) || (s.keyOf pa).any lost.contains then bs.mapIdx fun k _ => (s.freeW (3000000 + pa + k)).extractLsb' 0 8 else bs

/-- One element from scratchpad to memory. -/
def State.copyOut (s : State) (c : CopyCmd) (g : W64) (a : Nat) : Copied :=
  let n := c.shape.esize
  match s.translateEngine c.core c.ctx g .store with
  | .notPresent s => .stands s { c with stuck := some (0x06#8, g, 0#64) }
  | .permission s => .stands s { c with stuck := some (0x07#8, g, 0#64) }
  | .wait s _ => .stands s c
  | .ok s pa =>
    match s.readyLine c.ctx s.myFlow (lineOf pa) true with
    | .wait s => .stands s c
    | .fail s st =>
      if st = 1 then .stands (((s.dropVa c.core c.ctx g).translateEngine c.core c.ctx g .store).reask 0#8 c.ctx s.myFlow true) c
      else if st = 2 then .stands s { c with stuck := some (0x08#8, g, BitVec.ofNat 64 (pkgOf pa)) }
      else .went s { c with done := c.done + 1 }
    | .yes s =>
      let bad := s.scrPoisoned a n
      let s := s.homeWrite (some c.core) (cellsAt pa (s.looseBytes c.freed c.lost pa (s.scrBytes a n)))
      .went (if bad then s.addPoison [lineOf pa] else s)
        { c with
          done := c.done + 1, covered := insertAll ((List.range n).map (pa + ·)) c.covered
          sources := if bad then insertNat (lineOf pa) c.sources else c.sources }

/-- A copy engine walks ahead of the element it copies (R340): the page of an element that is to come enters its TLB. -/
def State.walkAhead (s : State) (cmd ahead : Nat) : State :=
  match s.copies.find? fun c => c.id = cmd with
  | none => s
  | some c =>
    if !c.started || c.shape.count ≤ c.done + ahead then s
    else
      Xlated.state (s.translateEngine c.core c.ctx (c.shape.globalAt (c.shape.vector (c.done + ahead)))
        (if c.shape.toGlobal then .store else .load))

/-- Copies up to `k` elements of a command of the current group. -/
def State.runCopy (c : CopyCmd) : Nat → State → State × CopyCmd
  | 0, s => (s, c)
  | k + 1, s =>
    if c.shape.count ≤ c.done ∨ c.stuck.isSome then (s, c)
    else
      let v := c.shape.vector c.done
      let a := (c.shape.scratchAt v).toNat
      match if c.shape.toGlobal then s.copyOut c (c.shape.globalAt v) a else s.copyIn c (c.shape.globalAt v) a with
      | .went s c => State.runCopy c k s
      | .stands s c => (s, c)

/-- Adds to a counter in the current team's scratchpad (R113, R380). -/
def State.addScratch (s : State) (ctx : BitVec 10) (ctr : W64) (n : Nat) : State :=
  let a := ctr.toNat
  if s.scrPoisoned a 8 then s.notMade 1 ctx ctr
  else s.scrPut (cellsAt a (toBytes 8 (ofBytes (s.scrBytes a 8) + n)))

/-- Replaces a command, as its state has it. -/
def State.putCopy (s : State) (c : CopyCmd) : State :=
  { s with copies := updWhere (fun x => x.id == c.id) (fun _ => c) s.copies }

/-- A command may begin: the operations that hold it back let it, every write pending at its acceptance, and theirs, has been
performed, and at cell or system scope the recalls that such writes have left behind have ended (R103, R113). -/
def State.begins (s : State) (r : GroupRef) (clear : Bool) (sc : Scope) (behind after : List Nat) : State × Bool :=
  if clear then (s, true)
  else if s.g.ops.any fun p => behind.contains p.id && p.unbound then (s, false)
  else
    let d := s.drainList ((s.posted.filter fun e => after.contains e.id ||
      (e.team == r.team && e.group == r.group && behind.contains e.part.1)).map (·.id))
    (d.1, d.2 && (!cellUp sc || d.1.recalls.isEmpty))

/-- The addition to a counter in scratchpad waits, at cell or system scope, for the recalls in progress, as that to a counter in
memory does (R95, R113). -/
def State.scratchWaits (s : State) (sp : Bool) (sc : Scope) : Bool := sp && cellUp sc && !s.recalls.isEmpty

/-- Goes on with a command for up to `k` elements, once it may begin (R113). -/
def State.progressCopy (s : State) (c : CopyCmd) (k : Nat) : State :=
  s.withGroup ⟨c.team, c.group⟩ fun s =>
    let d := s.begins ⟨c.team, c.group⟩ c.clear c.scope c.behind c.after
    if !d.2 then d.1.putCopy { c with started := true }
    else
      let r := State.runCopy { c with started := true, after := [], behind := [], clear := true } k d.1
      r.1.putCopy r.2

/-- The end of a command: the units it covers whole lose their poison, and its counter is added to (R122, R257). -/
def State.endCopy (s : State) (c : CopyCmd) : State :=
  s.withGroup ⟨c.team, c.group⟩ fun s =>
    let s := { s with copies := s.copies.filter fun x => x.id ≠ c.id }
    let s :=
      if c.shape.toGlobal then
        s.clearPoison (((coveredUnits 128 c.covered).map (128 * ·)).filter fun l => !c.sources.contains l)
      else
        let whole := (coveredUnits 4 c.covered).filter fun w => !c.sources.contains w
        { s with t := { s.t with scrPoison := s.t.scrPoison.filter fun w => !whole.contains w } }
    let n := c.shape.esize * c.shape.count
    if c.ctrSp then s.addScratch c.ctx c.ctr n else s.addVa (dieOfCore c.core) c.ctx c.scope c.ctr (BitVec.ofNat 64 n)

/-- TCOPY_START (R257): the engine, which works on at most two commands, starts the next accepted one; `elements` of it are
copied before anything else happens. -/
def execTcopyStart (core elements : Nat) (s : State) : Host.Outcome State Fault Refusal :=
  s.ev fun s =>
    let cs := s.copies.filter fun c => c.core = core
    if 2 ≤ (cs.filter (·.started)).length then s
    else
      match cs.find? fun c => !c.started with
      | none => s
      | some c => s.progressCopy c elements

/-- TCOPY_COMPLETE (R257): the command copies what is left of it, and ends if nothing stops it. -/
def execTcopyComplete (core cmd : Nat) (s : State) : Host.Outcome State Fault Refusal :=
  s.ev fun s =>
    match s.copies.find? fun c => c.id = cmd ∧ c.core = core with
    | none => s
    | some c =>
      if !c.started || c.stuck.isSome then s
      else
        let s := s.progressCopy c c.shape.count
        match s.copies.find? fun x => x.id = cmd with
        | none => s
        | some c => if c.shape.count ≤ c.done && !s.scratchWaits c.ctrSp c.scope then s.endCopy c else s

/-- GROUPOPS of a TCOPY: its record as read, the iteration vector, the counter (R307). -/
def CopyCmd.groupOps (c : CopyCmd) : List W64 :=
  let v := c.shape.vector c.done
  ((List.range 8).map fun k => BitVec.ofNat 64 (fieldAt c.shape.raw (8 * k) 8)) ++
    [BitVec.ofNat 64 (v.getD 0 0 + 2 ^ 16 * v.getD 1 0 + 2 ^ 32 * v.getD 2 0 + 2 ^ 48 * v.getD 3 0)
    , BitVec.ofNat 64 (v.getD 4 0), c.ctr]

/-- TCOPY_WALK_FAULT (R258): the engine stops at the element boundary, and the command goes to its group's log. -/
def execTcopyWalkFault (core cmd : Nat) (s : State) : Host.Outcome State Fault Refusal :=
  s.ev fun s =>
    match s.copies.find? fun c => c.id = cmd ∧ c.core = core with
    | none => s
    | some c =>
      match c.stuck with
      | none => s
      | some (code, addr, detail) =>
        State.failLater { s with copies := s.copies.filter fun x => x.id ≠ cmd } ⟨c.team, c.group⟩ c.instr c.lpc c.waitm c.active
          c.recAddr code addr detail c.groupOps (c.covered, c.sources)

/-- The command that a logged TCOPY resumes as, from its vector; what it has covered stays with it, for it is one command
still (R122, R258, R308). -/
def State.resumeCopy (s : State) (e : ETcopy) (o : Op) : State :=
  let raw := (o.gops.take 8).flatMap fun w => toBytes 8 w.toNat
  match parseShape raw with
  | none => s
  | some h =>
    let v := (o.gops.getD 8 0#64).toNat
    let q := h.number [v % 2 ^ 16, v / 2 ^ 16 % 2 ^ 16, v / 2 ^ 32 % 2 ^ 16, v / 2 ^ 48, (o.gops.getD 9 0#64).toNat % 2 ^ 16]
    let c := s.newCopy e o.active o.lpc o.waitm (o.lanes[lowLane o.pend]).addr h (o.gops.getD 10 0#64) q []
    { s with copies := { c with covered := o.cover.1, sources := o.cover.2 } :: s.copies, nextId := s.nextId + 1 }

/-! ### ACP (R238) -/

/-- A lane's scratchpad address. -/
def Group.acpSide (g : Group) (m : MAcp) (l : Fin 32) : W64 := (g.vr (reg7 m.d) l).zeroExtend 64

/-- The checks of a lane of an ACP. -/
def State.acpChecks (m : MAcp) (s : State) (l : Fin 32) : List (BitVec 8 × W64) :=
  let n := m.size.bytes
  let g := s.g.ea m.addr l
  let a := s.g.acpSide m l
  let ctr := s.g.sr64 (sreg7 m.e)
  misaligned g n ++ misaligned a n ++ misaligned ctr 8 ++ s.outside a n ++ (if m.sp then s.outside ctr 8 else []) ++
    s.unmapped g (if m.toGlobal then .store else .load) ++ (if m.sp then [] else s.unmapped ctr .store)

/-- ACP (R238): acceptance is completion. Held at the core behind an acquire or the accesses it follows, the command is
accepted when they let it (R103, R104, R113). -/
def execAcp (m : MAcp) (s : State) : Host.Outcome State Fault Refusal :=
  s.vmem (.acp m) m.guard (State.acpChecks m) fun act s =>
    let lanes := Vector.ofFn fun l => laneOpOf (s.g.ea m.addr l) 0#64 (toBytes 4 (s.g.acpSide m l).toNat)
    s.launch (s.newOp (.acp m) act act m.la.toNat 0#32 lanes [s.g.sr64 (sreg7 m.e)]) true

/-- The bytes an `.s2g` lane copies: those bound at a save, or the scratchpad's. -/
def State.acpSource (s : State) (c : AcpCmd) (a : Nat) : List Byte :=
  (List.range c.size).map fun k => if c.bound then lookupD c.data (a + k) 0#8 else s.scrByte (a + k)

/-- The source of an `.s2g` lane is poisoned: at the save for one bound there, and otherwise now (R121, R329). -/
def State.acpBad (s : State) (c : AcpCmd) (a : Nat) : Bool :=
  if c.bound then (wordsIn a c.size).any c.badWords.contains else s.scrPoisoned a c.size

/-- The frame of one lane's copy, translated where it has none (R238, R345). -/
def State.acpFrame (s : State) (c : AcpCmd) (m : AcpMove) : Xlated :=
  match m.pa with
  | some pa => .ok s pa
  | none => s.translate c.core c.ctx (c.lanes[m.lane]).addr (if c.toGlobal then .store else .load)

/-- Makes copies of an ACP in lane order, as far as they go; a lane that fails does not stop those after it (R12, R379). A
copy refused as moved drops its translation, walks again and asks again (R345). What is left stays in `moves`;
a side that does not answer is lost (R238). -/
def State.runAcp (c : AcpCmd) : List AcpMove → State → State × AcpCmd
  | [], s => (s, { c with moves := [] })
  | m :: r, s =>
    let va := (c.lanes[m.lane]).addr
    let fail (code : BitVec 8) (detail : W64) : AcpCmd := { c with fails := c.fails ++ [⟨m.lane, code, va, detail⟩] }
    match s.acpFrame c m with
    | .notPresent s => State.runAcp (fail 0x06#8 0#64) r s
    | .permission s => State.runAcp (fail 0x07#8 0#64) r s
    | .wait s _ => (s, { c with moves := m :: r })
    | .ok s pa =>
      match s.readyLine c.ctx (unitFlow (dieOfCore c.core) (64 + c.core)) (lineOf pa) c.toGlobal with
      | .wait s => (s, { c with moves := { m with pa := some pa } :: r })
      | .fail s st =>
        if st = 1 then
          let x := (s.dropVa c.core c.ctx va).translate c.core c.ctx va (if c.toGlobal then .store else .load)
          (x.reask 0#8 c.ctx (unitFlow (dieOfCore c.core) (64 + c.core)) c.toGlobal, { c with moves := { m with pa := none } :: r })
        else if !c.toGlobal then
          State.runAcp { c with poisoned := insertAll (wordsIn m.sp c.size) c.poisoned } r
            { s with t := { s.t with scrPoison := insertAll (wordsIn m.sp c.size) s.t.scrPoison } }
        else if st = 2 then State.runAcp (fail 0x08#8 (BitVec.ofNat 64 (pkgOf pa))) r s
        else State.runAcp c r s
      | .yes s =>
        if c.toGlobal then
          let bad := s.acpBad c m.sp
          let s := s.homeWrite (some c.core) (cellsAt pa (s.looseBytes c.freed c.lost pa (s.acpSource c m.sp)))
          State.runAcp (if bad then { c with poisoned := insertNat (lineOf pa) c.poisoned } else c) r
            (if bad then s.addPoison [lineOf pa] else s)
        else
          let bad := s.poisoned pa
          State.runAcp (if bad then { c with poisoned := insertAll (wordsIn m.sp c.size) c.poisoned } else c) r
            (s.enginePut m.sp (s.homeBytes pa c.size) bad)

/-- The poison an ACP's writes clear (R122). -/
def State.acpClears (s : State) (c : AcpCmd) : State :=
  let whole := c.whole.filter fun u => !c.poisoned.contains u
  if c.toGlobal then s.clearPoison whole
  else { s with t := { s.t with scrPoison := s.t.scrPoison.filter fun w => !whole.contains w } }

/-- The counter addition of an ACP whose team has been saved: a scratchpad counter stands in the save area, and a poisoned
one is not added to (R329, R380). -/
def State.addSaved (s : State) (c : AcpCmd) : State :=
  if c.ctrSp then
    match s.saved.find? fun v => v.tid = c.team with
    | none => s
    | some v =>
      if (wordsIn c.ctr.toNat 8).any v.scrPoison.contains then s.notMade 1 c.ctx c.ctr
      else
        let a := v.area + 4096 + 65536 * s.rd (v.area + 10) 1 + c.ctr.toNat
        s.wrN a 8 (s.rd a 8 + c.total)
  else s.addVa (dieOfCore c.core) c.ctx c.scope c.ctr (BitVec.ofNat 64 c.total)

/-- The counter addition of an ACP of a resident team. -/
def State.addAcp (s : State) (c : AcpCmd) : State :=
  if c.ctrSp then s.addScratch c.ctx c.ctr c.total
  else s.addVa (dieOfCore c.core) c.ctx c.scope c.ctr (BitVec.ofNat 64 c.total)

/-- The end of an ACP: its poison and its addition, `add`; or, where lanes failed, their fault, whose log keeps the whole sum
beside the counter: the addition is made once, when the last lane has been copied (R238, R242, R307; log 65). -/
def State.endAcp (s : State) (c : AcpCmd) (add : State → AcpCmd → State) : State :=
  let s := { s with acps := s.acps.filter fun x => x.id ≠ c.id }
  if c.fails = [] then add (s.acpClears c) c
  else
    s.failOp ⟨c.team, c.group⟩ (failedOp s.nextId c.instr c.lpc c.waitm c.active c.fails c.lanes
      [c.ctr, BitVec.ofNat 64 c.total])

/-- Runs an ACP as far as it goes: `add` makes its counter addition. -/
def State.stepAcp (s : State) (c : AcpCmd) (add : State → AcpCmd → State) : State :=
  let d := s.begins ⟨c.team, c.group⟩ c.clear c.scope c.behind c.after
  if !d.2 then d.1
  else
    let r := State.runAcp { c with after := [], behind := [], clear := true } c.moves d.1
    if r.2.moves.isEmpty && !r.1.scratchWaits c.ctrSp c.scope then r.1.endAcp r.2 add
    else { r.1 with acps := updWhere (fun x => x.id == c.id) (fun _ => r.2) r.1.acps }

/-- Goes on with an accepted ACP of a resident or saved team (R238, R329). -/
def State.goAcp (s : State) (c : AcpCmd) : State :=
  if s.teams.any fun t => t.tid = c.team then s.withGroup ⟨c.team, c.group⟩ fun s => s.stepAcp c State.addAcp
  else s.stepAcp c State.addSaved

/-- ACP_COMPLETE (R238). -/
def execAcpComplete (id : Nat) (s : State) : Host.Outcome State Fault Refusal :=
  s.ev fun s =>
    match s.acps.find? fun c => c.id = id with
    | none => s
    | some c => s.goAcp c

end Sys2Proof.Machine
end

