-- ==== Sys2Proof/Machine/Launch.lean ====
section
/-! DEFINITION. Launches by a group, and collective staging (01 R33, R36; 09 R261, R264). -/

namespace Sys2Proof.Machine

/-- A launch word: its status; its checks, which stop it; a poisoned record, which goes to the log; or a launch in flight, during
which the words of its window issue: it waits for the group's accesses and for its trigger's registration (R103, R143, R261). A
record that an earlier access of the group holds back is read in flight, before any later word issues (R104, R146; log 22); one
that cannot be read yet leaves the word where it is: it has not issued (R31). -/
def State.launchWord (s : State) (i : Instr) (guard : BitVec 7) (la : BitVec 4) (d : BitVec 7) (rec_ ctr : W64)
    (trig : Option Scope) : Host.Outcome State Fault Refusal :=
  s.once i guard fun act s =>
    let tr := trig.map fun sc => (ctr, sc)
    let flight (s : State) (gops : List W64) : State :=
      let s := s.commit.pass
      s.launch (s.newOp i act act la.toNat 0#32 (oneCapture rec_ []) gops) false
    let status (s : State) (n : Nat) : State :=
      let s := s.commit.pass
      s.setG (s.g.setS (sreg7 d) (BitVec.ofNat 64 n))
    let late (s : State) (code : BitVec 8) (addr detail : W64) : State :=
      let s := s.commit.pass
      s.launch ((s.newOp i act 0#32 la.toNat 0#32 (oneCapture rec_ []) [rec_, ctr]).failLanes act code addr detail) true
    if s.g.id = 0 && s.nestLevel != 10 && !s.gate (s.recordOp i rec_ ctr) then
      match failedCheck act (fun _ => (s.launchAddrs rec_ tr).2) with
      | some (code, addr, detail) => s.checkFault code act addr detail
      | none => flight s [rec_, ctr, 0#64]
    else
      match s.checkLaunch rec_ tr with
      | .wait s | .registering s => s
      | .fault s cs =>
        match failedCheck act (fun _ => cs) with
        | some (code, addr, detail) => s.checkFault code act addr detail
        | none => s
      | .status s n => status s n
      | .late s code addr detail => late s code addr detail
      | .checked s bytes =>
        if !s.gate (s.bareOp i) then flight s ([rec_, ctr] ++ recordWords bytes)
        else
          match s.goLaunch bytes tr with
          | .status s n => status s n
          | .late s code addr detail => late s code addr detail
          | .wait s | .registering s | .fault s _ | .checked s _ => flight s ([rec_, ctr] ++ recordWords bytes)

/-- GLAUNCH (R261). -/
def execGlaunch (e : ELaunch) (s : State) : Host.Outcome State Fault Refusal :=
  s.launchWord (.glaunch e) e.guard e.la e.d (s.g.sr64 (sreg7 e.a)) 0#64 none

/-- TLAUNCH (R261). -/
def execTlaunch (e : ETLaunch) (s : State) : Host.Outcome State Fault Refusal :=
  s.launchWord (.tlaunch e) e.guard e.la e.d (s.g.sr64 (sreg7 e.a)) (s.g.sr64 (sreg7 e.b)) (some e.scope)

/-! ### Staging (R264) -/

/-- The units of a context's pool (R298). -/
def State.poolUnits (s : State) (ctx : BitVec 10) : Nat := min 4096 (s.descField ctx 20 2)

/-- The lowest run of `k` free units. -/
def State.freeRun (s : State) (ctx : BitVec 10) (k : Nat) : Option Nat :=
  let held := s.staging.filter fun h => h.ctx = ctx
  ((List.range (s.poolUnits ctx)).filter fun a => a + k ≤ s.poolUnits ctx).find? fun a =>
    held.all fun h => a + k ≤ h.first ∨ h.first + h.count ≤ a

/-- The handle after one that is in use: rising, from 65,535 to 1. -/
def handleUp (h : Nat) : Nat := if 65535 ≤ h then 1 else h + 1

/-- The next handle of a context: the next value of the sequence that the context does not hold. -/
def State.nextFree (s : State) (ctx : BitVec 10) : Nat → Nat → Nat
  | 0, h => h
  | fuel + 1, h => if s.staging.any fun x => x.ctx = ctx ∧ x.handle = h then State.nextFree s ctx fuel (handleUp h) else h

/-- A reservation of `k` units: the status word and the state (R264). -/
def State.reserve (s : State) (ctx : BitVec 10) (k : Nat) : W64 × State :=
  let fail (n : Nat) : W64 × State := (BitVec.ofNat 64 n <<< 56, s)
  if k = 0 ∨ 256 < k then fail 2
  else if 1024 ≤ (s.staging.filter fun h => h.ctx = ctx).length then fail 3
  else
    match s.freeRun ctx k with
    | none => fail 1
    | some first =>
      let h := s.nextFree ctx 1025 (lookupD s.nextHandle ctx 1)
      (BitVec.ofNat 64 (h + 2 ^ 32 * first),
       { s with staging := s.staging ++ [⟨ctx, h, first, k⟩], nextHandle := assocPut s.nextHandle ctx (handleUp h) })

/-- The frames of a run of staging units of the current context, as its 4 KiB pages translate, and the line that a walk waits
for; a page without a translation has no bytes. -/
def State.unitFrames (s : State) (first count : Nat) : State × List Nat × Option Nat :=
  let base := s.descField s.t.ctx 24 8 + 65536 * first
  (List.range (16 * count)).foldl (fun (x : State × List Nat × Option Nat) k =>
    match x.1.translate x.1.t.core x.1.t.ctx (BitVec.ofNat 64 (base + 4096 * k)) .load with
    | .ok s pa => (s, x.2.1 ++ [pa / 4096], x.2.2)
    | .notPresent s | .permission s => (s, x.2)
    | .wait s line => (s, x.2.1, some line)) (s, [], none)

/-- Frames become unpredictable: their bytes are free values of this moment until they are written, and no L1 keeps them
(R123, R264). -/
def State.haze (s : State) (frames : List Nat) : State :=
  let older := s.hazes.map fun h => { h with frames := h.frames.filter fun f => !frames.contains f }
  { s with
    hazes := ⟨frames, s.fresh, []⟩ :: older.filter fun h => !h.frames.isEmpty
    l1 := s.l1.filter fun w => !frames.contains (4 * w.word / 4096) }

/-- CRESV (R264): the units of a reservation hold unpredictable bytes. While their pages are looked up the word has not
issued. -/
def execCresv (e : ELaunch) (s : State) : Host.Outcome State Fault Refusal :=
  s.once (.cresv e) e.guard fun _ s =>
    let k := (s.g.sr64 (sreg7 e.a)).toNat % 512
    let r := s.reserve s.t.ctx k
    if r.1.extractLsb' 0 16 = 0#16 then
      let s := s.commit.pass
      s.setG (s.g.setS (sreg7 e.d) r.1)
    else
      let x := s.unitFrames (r.1.toNat / 2 ^ 32) k
      match x.2.2 with
      | some line => x.1.setStatus (.walk line)
      | none =>
        let s := ((x.1.reserve s.t.ctx k).2.haze x.2.1).commit.pass
        s.setG (s.g.setS (sreg7 e.d) r.1)

/-- What accesses in flight still write into released frames is unpredictable (R264): the bytes of posted stores and captured
operands are free values, and so is what the engines' commands still write there. `lo` and `len` are the units' addresses. -/
def State.loosen (s : State) (frames : List Nat) (ctx : BitVec 10) (lo len : Nat) : State :=
  let inUnit (a : W64) : Bool := decide (lo ≤ vaNum a) && decide (vaNum a < lo + len)
  let loose (o : Op) : Op :=
    if (o.instr.footSize.map (·.1)) = some false then
      { o with lanes := Vector.ofFn fun l : Fin 32 =>
          let x := o.lanes[l]
          if inUnit x.addr then
            { x with data := Vector.ofFn fun k : Fin 16 => (s.freeW (5000000 + 512 * o.id + 16 * l.val + k.val)).extractLsb' 0 32 }
          else x }
    else o
  let s := s.mapGroups fun t g => if t.ctx = ctx then { g with ops := g.ops.map loose } else g
  { s with
    posted := s.posted.map fun e => { e with
      bytes := e.bytes.map fun c =>
        if frames.contains (c.1 / 4096) then (c.1, (s.freeW (4000000 + c.1)).extractLsb' 0 8) else c }
    copies := s.copies.map fun c => { c with freed := insertAll frames c.freed }
    acps := s.acps.map fun c => { c with freed := insertAll frames c.freed } }

/-- CREL (R264, R296): the released bytes are unpredictable, and what accesses in flight write there too. -/
def execCrel (e : EGang) (s : State) : Host.Outcome State Fault Refusal :=
  s.once (.crel e) e.guard fun _ s =>
    let h := (s.g.sr64 (sreg7 e.a)).toNat % 65536
    let ctx := s.t.ctx
    match s.staging.find? fun x => x.ctx = ctx ∧ x.handle = h with
    | none => s.commit.pass
    | some u =>
      let x := s.unitFrames u.first u.count
      match x.2.2 with
      | some line => x.1.setStatus (.walk line)
      | none =>
        let s := { x.1 with staging := x.1.staging.filter fun x => !(x.ctx == ctx && x.handle == h) }
        let lo := vaNum (BitVec.ofNat 64 (s.descField ctx 24 8 + 65536 * u.first))
        ((s.haze x.2.1).loosen x.2.1 ctx lo (65536 * u.count)).commit.pass

end Sys2Proof.Machine
end

