-- ==== Sys2Proof/Machine/Traps.lean ====
section
/-! DEFINITION. Taking faults found after issue, waiting records, held faults, the replay of the operand log, the starvation
trap, and retirement (01 R28-R30, R37; 05 R146; 09 R259, R263; 13 R301-R310, R379; 15 R343). -/

namespace Sys2Proof

/-- The LA of a word (R143). -/
def Instr.la : Instr → Nat
  | .ldv m | .lds m => m.la.toNat
  | .atom m | .red m | .atoms m => m.la.toNat
  | .casw m => m.la.toNat
  | .enq m => m.la.toNat
  | .chld m => m.la.toNat
  | .acp m => m.la.toNat
  | .sld u => u.la.toNat
  | .cread g => g.la.toNat
  | .mma e => e.la.toNat
  | .accopen e => e.la.toNat
  | .accclose e => e.la.toNat
  | .tcopy e => e.la.toNat
  | .glaunch e => e.la.toNat
  | .tlaunch e => e.la.toNat
  | _ => 0

end Sys2Proof

namespace Sys2Proof.Machine

/-! ### A failed operation becomes a fault (R146, R379) -/

/-- The failing lanes of an operation. -/
def Op.failMask (o : Op) : Mask := o.fails.foldl (fun m f => m ||| oneLane f.lane) 0#32

/-- The failure of the lowest failing lane. -/
def Op.lowFail (o : Op) : LaneFail :=
  o.fails.foldl (fun b f => if f.lane.val < b.lane.val then f else b) (o.fails.headD ⟨0, 0#8, 0#64, 0#64⟩)

/-- What the record reports of a failed operation: POS 1, its failing lanes, the code of the lowest, and DETAIL[63] when the
lanes failed under several codes; CYCLE is that of the moment at which its failure was known (R146). A group whose lanes have
all exited reports none (R259). -/
def State.opFault (s : State) (o : Op) : FaultInfo :=
  let f := o.lowFail
  let gone := s.g.exited == BitVec.allOnes 32
  let several := o.fails.any fun x => x.code != f.code
  { code := f.code, pos := 1#8, lpc := o.lpc, lanes := if gone then 0#32 else o.failMask
    active := if gone then 0#32 else o.active, waitm := o.waitm, addr := f.addr
    detail := if several then f.detail ||| 0x8000_0000_0000_0000#64 else f.detail, cycle := o.found.getD s.cycle }

/-- The earliest failed operation, when no earlier one is open; a rendezvous holds nothing back. -/
def firstFailed : List Op → Option Op
  | [] => none
  | o :: r => if o.failed then some o else if o.isOpen && !o.instr.isMma then none else firstFailed r

/-- The fault is one of its word, at which the reported lanes stand (POS 0): an MMA's trap at the rendezvous or a bad register
of its A rows (R246, R369; log 83), or a check that a TCOPY or a launch made once its record could be read (R379; log 22). -/
def Op.precise (o : Op) : Bool :=
  o.unread || (o.instr.isMma && o.fails.any fun f => f.code == 0x02#8 || f.code == 0x09#8)

/-- A fault found at issue that waits is kept while the fault of an earlier operation is taken (R146). -/
def Group.keepStop (g : Group) : Group :=
  match g.status with
  | .drain f => { g with status := .running, stop := some f }
  | _ => g

/-- The group takes the fault of a failed operation. One that is precise at its word, and the fault of an MMA whose tile expired,
which leaves nothing to replay (R259), wait until the log before them is empty. -/
def State.takeFailed (s : State) (o : Op) : State :=
  let f := s.opFault o
  let s' := s.setG { s.g with ops := s.g.ops.filter fun x => x.id != o.id }.keepStop
  let alone := o.precise || (o.instr.isMma && f.code == 0x0B#8)
  if alone then
    if s.g.log.isSome || !(s.g.status == .running || s.g.draining) then s
    else if o.precise then
      (s'.setG (s'.g.jump (o.issue &&& s'.g.runnable) fun _ => o.lpc)).takeFault { f with pos := 0#8 } none
    else s'.takeFault f none
  else
    s'.takeFault f (some { o with
      pend := o.failMask, parked := if o.parked &&& o.failMask = 0#32 then 0#32 else o.failMask, fails := [] })

/-- FAULT_TAKEN (R146, R379): the earliest failed operation, or, once every earlier instruction has taken its full effect, the
fault that a word met at issue. -/
def execFaultTaken (at_ : GroupRef) (s : State) : Host.Outcome State Fault Refusal :=
  s.evGroup at_ fun s =>
    match firstFailed s.g.ops with
    | some o => s.takeFailed o
    | none =>
      match s.g.status with
      | .drain f => if s.g.quiet then s.takeFault f none else s
      | _ => s

/-- A record that waits is written, if it can be now; then the group does what it waits for (R303, R310, R343, R344). -/
def State.writeWaiting (s : State) (f : FaultInfo) (k : WaitKind) : State :=
  let s := s.readDesc s.t.ctx
  match k with
  | .final | .finaled => s.deliverRecord f k
  | .entered => s.firstRecord f k fun s => s.setStatus (.merged f)
  | .resolved => s.firstRecord f k State.resumeInPlace
  | .both => s.firstRecord f k fun s => s.deliverRecord f .finaled

/-- FAULT_QUEUE_ROOM (R303): the record is written once the queue has room; a context that was to end waits no longer once NOTIFY
has risen (R302). -/
def execFaultQueueRoom (at_ : GroupRef) (s : State) : Host.Outcome State Fault Refusal :=
  s.evGroup at_ fun s =>
    match s.g.status with
    | .queueWait f k => s.writeWaiting f k
    | .condemned => s.endContext
    | _ => s

/-- FAULT_MERGE_ENTRY (R343). -/
def execFaultMergeEntry (at_ : GroupRef) (s : State) : Host.Outcome State Fault Refusal :=
  s.evGroup at_ fun s =>
    match s.g.status with
    | .mergeFull f => s.enterMerge f
    | _ => s

/-- HELD_FAULT_DELIVERY (R309): the entry before it has been performed; the next moves into the log, and is delivered, or, a
withdrawn MMA, performed. Behind the last entry comes a fault that a later word met at issue (R146). -/
def execHeldFaultDelivery (at_ : GroupRef) (s : State) : Host.Outcome State Fault Refusal :=
  s.evGroup at_ fun s =>
    if s.g.log.isSome || s.g.status != .running || s.g.ops.any Op.isOpen then s
    else
      match s.g.held with
      | [] =>
        match s.g.stop with
        | none => s
        | some f => if s.g.fence.isNone then State.takeFault (s.setG { s.g with stop := none }) f none else s
      | e :: r =>
        let s := s.setG { s.g with log := some e, held := r, replay := e.info.code == 0#8 }
        if e.info.code = 0#8 then s else s.deliver e.info

/-! ### The replay of the log (R308) -/

/-- The issue that a replay counts as. -/
def Op.asIssue (o : Op) : Issue := ⟨o.pend, ⟨0#8, o.lpc⟩, 0#64, 0#32, o.waitm, []⟩

/-- The operation again, in flight from now, its window the LA of its word. -/
def State.relaunch (s : State) (o : Op) : State :=
  s.launch { o with id := s.nextId, win := o.instr.la, sent := 0#32, after := [], late := [], moved := false, fails := [], found := none } (o.instr.la == 0)

/-- ACTION 0: the operation is performed again from the log. FLAGS[0] parks every PEND lane until its data is written
(R27, R308). -/
def State.replayOp (s : State) (o : Op) : State :=
  let s := if o.parked = 0#32 then s else s.setG (s.g.setLane o.pend .parkedSplit)
  match o.instr with
  | .cwait g => State.tryCwait (s.setG (s.g.jump o.pend fun _ => o.lpc)) g o.pend (o.lanes[lowLane o.pend]).addr (o.gops.getD 0 0#64)
  | .bwait g =>
    State.tryBwait (s.setG (s.g.jump o.pend fun _ => o.lpc)) g o.pend (o.lanes[lowLane o.pend]).addr
      ((o.gops.getD 0 0#64).extractLsb' 0 32)
  | .mma e =>
    match s.translate s.t.core s.t.ctx (o.gops.getD 1 0#64) .store with
    | .ok s pa => s.joinMma e { o with id := s.nextId, win := e.la.toNat, pend := BitVec.allOnes 32, after := [], moved := false, fails := [], found := none } pa
    | .notPresent s | .wait s _ =>
      s.failLater s.me o.instr o.lpc o.waitm (BitVec.allOnes 32) 0#64 0x06#8 (o.gops.getD 1 0#64) 0#64 o.gops o.cover
    | .permission s =>
      s.failLater s.me o.instr o.lpc o.waitm (BitVec.allOnes 32) 0#64 0x07#8 (o.gops.getD 1 0#64) 0#64 o.gops o.cover
  | .tcopy e => s.resumeCopy e o
  | _ => s.relaunch o

/-- ACTION 2: the first bytes of DATA go to the destination of a load, CREAD, CHLD or atomic with return. -/
def State.supplyLane (s : State) (o : Op) (l : Fin 32) : State :=
  let bs := LaneOp.bytes (o.lanes[l])
  match o.instr with
  | .ldv m | .lds m => s.setG (s.g.putLoad l m.d m.size m.sx (bs.take m.size.bytes))
  | .atom m | .atoms m => s.setG (s.g.putRun l m.d (if m.wide8 then 2 else 1) bs)
  | .casw m => s.setG (s.g.putRun l m.d (if m.wide32 then 8 else 4) bs)
  | .enq m => s.setG (s.g.putRun l m.d 2 bs)
  | .chld m => s.setG (s.g.putLoad l m.d (chainSize o.gops) false (bs.take (chainSize o.gops).bytes))
  | .sld u =>
    let x : W64 := if u.sx then sextTo 64 (8 * u.size.bytes) (ofBytes (bs.take u.size.bytes))
      else BitVec.ofNat 64 (ofBytes (bs.take u.size.bytes))
    s.setG (s.g.setS (reg9 u.d) x)
  | .cread g => s.setG (s.g.setS (sreg7 g.d) (BitVec.ofNat 64 (ofBytes (bs.take 8))))
  | _ => s

/-- The tile address of an MMA to be performed again is still being translated: the walk's state (R340). -/
def State.logWalks (s : State) (e : LogEntry) : Option State :=
  if e.op.instr.isMma && e.action = 0#8 then
    match s.translate s.t.core s.t.ctx (e.op.gops.getD 1 0#64) .store with
    | .wait s _ => some s
    | _ => none
  else none

/-- The log performed according to its ACTION, and emptied (R308). The values 3 to 255, which R308 does not name, discard
(log 62). -/
def State.performLog (s : State) (e : LogEntry) : State :=
  let old := s.iss
  let s := { s with g := { s.g with log := none, replay := false }, iss := e.op.asIssue }
  let s :=
    match e.action.toNat with
    | 0 => s.replayOp e.op
    | 2 => State.unpark ((lanesOf e.op.pend).foldl (fun s l => s.supplyLane e.op l) s) e.op e.op.pend
    | _ => s.unpark e.op e.op.pend
  { s with iss := old }

/-- OPERAND_LOG_REPLAY (R308). -/
def execOperandLogReplay (at_ : GroupRef) (s : State) : Host.Outcome State Fault Refusal :=
  s.evGroup at_ fun s =>
    match s.g.log with
    | some e => if s.g.replay && s.t.saving.isNone then (s.logWalks e).getD (s.performLog e) else s
    | none => s

/-! ### The starvation trap (R30) -/

/-- The starvation trap of the current group: no lane is reported (log 20). WAITM is taken at the trap, when the lanes of the
last word stand past it: they wait unless they stand at the key last issued (R304; log 20). -/
def State.starvation (s : State) : FaultInfo :=
  { code := 0x0C#8, pos := 2#8, lpc := s.g.lastKey.lpc, lanes := 0#32, active := 0#32
    waitm := s.g.runnable &&& ~~~s.g.atKey s.g.lastKey, addr := 0#64, detail := s.g.starve, cycle := s.cycle }

/-- STARVATION_TRAP (R30): taken once the words already issued, a FENCE and a SHRINK among them, have completed. -/
def execStarvationTrap (at_ : GroupRef) (s : State) : Host.Outcome State Fault Refusal :=
  s.evGroup at_ fun s =>
    if (s.threshold s.t.ctx).toNat ≤ s.g.starve.toNat ∧ s.g.status = .running ∧ s.g.ops.all (fun o => !o.isOpen) ∧
        s.g.fence.isNone ∧ s.g.shrinkTo.isNone ∧ s.g.log.isNone ∧ s.g.held = [] ∧ s.g.stop.isNone ∧ s.t.saving.isNone then
      State.takeFault (s.setG { s.g with starved := true }) s.starvation none
    else s

/-! ### Retirement (R28, R37, R259, R263) -/

/-- A contribution of the current group is latched, under way or held at a tile. -/
def State.contributes (s : State) : Bool :=
  let mine (c : Contribution) : Bool := c.team == s.t.tid && c.members.any fun m => m.group == s.g.id
  s.transit.any mine || s.engines.any (fun e => e.latched.any mine) || s.tiles.any fun t => t.kept.any mine

/-- Commands of the current group are still running. -/
def State.commands (s : State) : Bool :=
  s.copies.any (fun c => c.team == s.t.tid && c.group == s.g.id) ||
    s.acps.any fun c => c.team == s.t.tid && c.group == s.g.id

/-- Every lane has exited and every word and command of the group is complete. -/
def State.mayRetire (s : State) : Bool :=
  !s.g.retired && s.g.exited == BitVec.allOnes 32 && !(s.g.ops.any Op.isOpen) && s.g.fence.isNone && s.g.log.isNone && s.g.held.isEmpty && s.g.stop.isNone &&
    s.g.status == .running && !s.contributes && !s.commands

/-- The current group retires; with its last group the team does, and its grid may complete. -/
def State.retire (s : State) : State :=
  let core := s.t.core
  let mask : Mask := if s.g.id < 32 then 1#32 <<< s.g.id else 0#32
  let s := (s.setG { s.g with retired := true, vbad := [], sbad := [] }).releaseHeld core s.t.tid mask
  let s := (s.meet core).pushDue (.growGrant core)
  let s := s.storeFocus.reload
  if s.t.groups.all fun g => g.retired then
    State.teamDone { s with t := { s.t with gone := true } } s.t.grid
  else s

/-- GROUP_RETIRE (R28): the group's writes are performed, and then it retires. -/
def execGroupRetire (at_ : GroupRef) (s : State) : Host.Outcome State Fault Refusal :=
  s.evGroup at_ fun s =>
    if s.mayRetire then
      let d := s.drainList ((s.posted.filter fun p => p.team == s.t.tid && p.group == s.g.id).map (·.id))
      if d.2 then d.1.retire else d.1
    else s

end Sys2Proof.Machine
end

