-- ==== Sys2Proof/Machine/Save.lean ====
section
/-! DEFINITION. Saving a team and restoring it: the drain, the save area's bytes, and what a restored group starts from
(13 R306-R308; 14 R328-R332). -/

namespace Sys2Proof.Machine

/-! ### The operand log as bytes (R307) -/

/-- A list of words as `n` bytes. -/
def wordBytes (n : Nat) (ws : List W64) : List Byte :=
  let bs := ws.flatMap fun w => toBytes 8 w.toNat
  (bs ++ List.replicate (n - bs.length) 0#8).take n

/-- An entry of the operand log, 2,688 bytes; `loose` fills the slots of the lanes it does not report, which are
unpredictable (R307; log 5). -/
def LogEntry.bytes (e : LogEntry) (loose : Nat → W64) : List Byte :=
  toBytes 8 ((encode e.op.instr).getD 0#64).toNat ++ toBytes 4 e.op.lpc.toNat ++ toBytes 4 e.op.pend.toNat ++
    toBytes 1 e.info.code.toNat ++ toBytes 1 e.action.toNat ++ toBytes 1 (if e.op.parked = 0#32 then 0 else 1) ++
    List.replicate 13 0#8 ++ wordBytes 96 e.op.gops ++
    lanes.flatMap fun l =>
      let o := if e.op.pend.getLsbD l.val then e.op.lanes[l]
        else
          let x (k : Nat) : W64 := loose (10 * l.val + k)
          ⟨x 0, x 1, Vector.ofFn fun k : Fin 16 => (x (2 + k.val / 2)).extractLsb' (32 * (k.val % 2)) 32⟩
      toBytes 8 o.addr.toNat ++ toBytes 8 o.aux.toNat ++ LaneOp.bytes o

/-- An entry read back; `id` numbers its operation, `info` is what its fault reported and `cover` what its TCOPY covers. The
layout has no field for the lanes active at the instruction's issue: a record of a later failure takes them from `info` (R304;
log 39). -/
def entryOf (id : Nat) (info : FaultInfo) (cover : List Nat × List Nat) (bs : List Byte) : Option LogEntry :=
  (decode (BitVec.ofNat 64 (fieldAt bs 0 8))).map fun i =>
    let pend : Mask := BitVec.ofNat 32 (fieldAt bs 12 4)
    { op :=
        { id := id, instr := i, lpc := BitVec.ofNat 32 (fieldAt bs 8 4), issue := pend, active := info.active, waitm := info.waitm
          win := 0, pend := pend, parked := if (fieldAt bs 18 1).testBit 0 then pend else 0#32, sent := 0#32, after := []
          late := [], moved := false, fails := [], cover := cover
          lanes := Vector.ofFn fun l =>
            laneOpOf (BitVec.ofNat 64 (fieldAt bs (128 + 80 * l.val) 8)) (BitVec.ofNat 64 (fieldAt bs (136 + 80 * l.val) 8))
              ((bs.drop (144 + 80 * l.val)).take 64)
          gops := (List.range 12).map fun k => BitVec.ofNat 64 (fieldAt bs (32 + 8 * k) 8) }
      info := info, action := BitVec.ofNat 8 (fieldAt bs 17 1) }

/-! ### The save area (R330, R331) -/

/-- The codes of lane states; no lane is parked-split at a save (R308). -/
def laneCode (x : LaneState) : Nat :=
  match x with
  | .runnable | .parkedSplit => 0
  | .parkedCall => 2
  | .exited => 3

def laneOfCode (x : Nat) : LaneState :=
  match x with
  | 2 => .parkedCall
  | 3 => .exited
  | _ => .runnable

def SaveCause.code (c : SaveCause) : Nat :=
  match c with
  | .preempt => 0
  | .call => 1
  | .park => 2
  | .suspend => 3

/-- FLAGS of a group (R331): a group that waits in the merge table, or for room, is stopped at its trap too. -/
def Group.saveFlags (g : Group) : Nat :=
  (if g.log.isSome then 2 else 0) +
    (match g.status with
     | .stopped | .merged _ | .mergeFull _ | .queueWait .. | .condemned => 1
     | .grow .. => 4
     | .cwait .. | .bwait .. => 8
     | _ => 0)

/-- A group's block, as runs at offsets: p0 reads as true in every lane (R44), and the reserved bytes up to the log are
zero. -/
def Group.saveRuns (g : Group) (loose : Nat → W64) : List (Nat × List Byte) :=
  [(0, ((g.v.toList.take g.n).flatMap fun r => r.toList.flatMap fun w => toBytes 4 w.toNat)),
   (16384, (g.p.set 0 (BitVec.allOnes 32)).toList.flatMap fun m => toBytes 4 m.toNat),
   (16896, g.s.toList.flatMap fun w => toBytes 8 w.toNat),
   (20992, lanes.flatMap fun l =>
     toBytes 4 (g.lpc[l]).toNat ++ toBytes 1 (g.dep[l]).toNat ++ toBytes 1 (laneCode g.lane[l]) ++
       toBytes 2 (if g.yielded.getLsbD l.val then 1 else 0) ++ toBytes 8 (g.sr[l]).toNat),
   (21504, toBytes 4 g.gangr.toNat ++ toBytes 4 g.fpctl.toNat ++ toBytes 2 g.q.toNat ++ toBytes 1 g.saveFlags ++
     toBytes 1 g.held.length ++ List.replicate 4 0#8 ++ toBytes 8 g.starve.toNat ++ List.replicate 232 0#8),
   (21760, (g.log.map fun e => e.bytes fun k => loose k).getD [])] ++
  (g.held.zipIdx).map fun p => (24448 + 2688 * p.2, LogEntry.bytes p.1 fun k => loose (320 * (p.2 + 1) + k))

/-- A saved TCOPY command, 128 bytes. -/
def CopyCmd.bytes (c : CopyCmd) : List Byte :=
  c.shape.raw.take 64 ++ (c.shape.vector c.done).flatMap (toBytes 2) ++ List.replicate 6 0#8 ++ toBytes 8 c.ctr.toNat ++
    toBytes 1 (scopeCode c.scope).toNat ++ toBytes 1 (if c.ctrSp then 1 else 0) ++ toBytes 1 c.group ++ List.replicate 37 0#8

/-- The header of an area past its resume counter. -/
def State.saveHeader (s : State) (t : Team) (c : SaveCause) (n copies : Nat) : List (Nat × List Byte) :=
  [(8, toBytes 2 t.ctx.toNat ++ toBytes 1 t.groupCount ++ toBytes 1 (n / 16 - 1) ++ toBytes 2 t.rows ++ toBytes 1 t.level ++
     toBytes 1 t.dies.toNat ++ toBytes 8 t.grid ++ toBytes 4 t.x.toNat ++ toBytes 2 t.y.toNat ++ toBytes 2 t.z.toNat ++
     toBytes 8 s.cycle.toNat ++ toBytes 1 c.code ++ toBytes 1 copies ++ List.replicate 22 0#8),
   (1088, List.replicate 3008 0#8)]

/-- Writes runs at offsets from an address. -/
def State.writeRuns (s : State) (base : Nat) (rs : List (Nat × List Byte)) : State :=
  rs.foldl (fun s r => s.hwWrite (base + r.1) r.2) s

/-! ### The drain (R329) -/

/-- Nothing of a group is in flight but an MMA not yet latched, and what waits for the log before it: a precise fault, and a FENCE
(R39, R146). No record of it waits to be written; a fault that a later word met at issue stays behind the log or the MMA. -/
def Group.drained (g : Group) : Bool :=
  g.retired ||
    ((g.ops.all fun o => !o.isOpen || o.instr.isMma || (o.failed && o.precise)) && (g.fence.isNone || g.log.isSome) &&
      (g.stop.isNone || g.log.isSome || !g.held.isEmpty) &&
      (match g.status with
       | .queueWait .. => false
       | .drain _ => g.ops.any Op.isOpen
       | _ => true))

/-- The team's groups, commands and writes allow its save. -/
def State.teamDrained (s : State) (t : Team) : Bool :=
  t.groups.all Group.drained &&
    !(s.copies.any fun c => c.team == t.tid && c.stuck.isSome) &&
    !(s.acps.any fun c => c.team == t.tid && !c.toGlobal) &&
    !(s.stcs.any fun c => c.team == t.tid)

/-- Withdraws a group's MMA into its log, or behind it (R252, R309). -/
def Group.withdraw (g : Group) (cycle : W64) : Group :=
  match g.ops.find? fun o => o.instr.isMma && o.isOpen && !o.failed with
  | none => g
  | some o =>
    let info : FaultInfo := ⟨0#8, 1#8, o.lpc, BitVec.allOnes 32, o.active, o.waitm, 0#64, 0#64, cycle⟩
    let e : LogEntry := ⟨{ o with pend := BitVec.allOnes 32 }, info, 0#8⟩
    let g := { g with ops := g.ops.filter fun x => x.id != o.id, watch := none }
    if g.log.isNone then { g with log := some e } else { g with held := g.held ++ [e] }

/-- An engine without what it holds of a team (R252). -/
def Engine.without (e : Engine) (tid : Nat) : Engine :=
  { e with
    places := e.places.filter fun p => !(p.members.any fun m => m.team == tid)
    held := e.held.filter fun a => a.team ≠ tid }

/-- An accepted `.s2g` ACP binds its scratchpad reads, and their poison, when its team leaves (R121, R329). -/
def AcpCmd.bind (c : AcpCmd) (rd : Nat → Byte) (bad : List Nat) : AcpCmd :=
  { c with
    bound := true
    data := c.moves.flatMap fun m => (List.range c.size).map fun k => (m.sp + k, rd (m.sp + k))
    badWords := (c.moves.flatMap fun m => wordsIn m.sp c.size).filter bad.contains }

/-- What leaves the engines with a team: MMAs not latched, held operands, and TCOPY commands (R252, R258, R329). -/
def State.withdrawTeam (s : State) (t : Team) : State :=
  let s : State := { s with
    mma := s.mma.filter fun m => m.team ≠ t.tid
    engines := s.engines.map fun e => e.without t.tid
    copies := s.copies.filter fun c => c.team ≠ t.tid
    merge := s.merge.map fun (m : MergeEntry) => { m with waiters := m.waiters.filter fun w => w.team ≠ t.tid } }
  let s' : State := { s with t := t }
  { s with
    acps := s.acps.map fun (c : AcpCmd) =>
      if c.team = t.tid ∧ !c.bound then c.bind s'.scrByte t.scrPoison else c }

/-! ### The save (R330) -/

/-- What a group keeps beside its area. -/
def Group.extra (g : Group) : GroupExtra :=
  { group := g.id, n := g.n, cell := g.cell, needLatch := g.needLatch, needA := g.needA, shrinkTo := g.shrinkTo
    starved := g.starved, stop := g.stop, fence := g.fence.map (·.1), vbad := g.vbad, sbad := g.sbad, lastKey := g.lastKey
    infos := (g.log.toList ++ g.held).map (·.info), covers := (g.log.toList ++ g.held).map (·.op.cover)
    faults := g.ops.filter fun o => o.failed && (o.instr.isMma || o.precise) }

/-- A saved team joins the front of its level's queue, behind the saved teams there (R320). -/
def State.joinFront (s : State) (level tid : Nat) : State :=
  let lvl : Fin 4 := Fin.ofNat 4 level
  let isSaved (e : QEntry) : Bool :=
    match e with
    | .saved _ => true
    | .grid _ => false
  let q := s.queues[lvl]
  { s with queues := s.queues.set lvl.val (q.takeWhile isSaved ++ [.saved tid] ++ q.dropWhile isSaved) }

/-- Writes a drained team to its area and takes it off its core. A team whose resume counter has been raised waits for the
update that leaves it at 0, or has had it already (R311). -/
def State.writeTeam (s : State) (t : Team) (cause : SaveCause) (area : Nat) : State :=
  let s := { s with teams := updWhere (fun x => x.tid == t.tid) (fun x => { x with area := some area }) s.teams }
  let copies := s.copies.filter fun c => c.team = t.tid
  let s := s.withdrawTeam t
  let gs := (t.groups.filter fun g => !g.retired).map fun g => g.keepStop.withdraw s.cycle
  let n := (gs.map (·.n)).foldl max 16
  let s := s.writeRuns area (s.saveHeader t cause n copies.length)
  let s := s.writeRuns area ((copies.zipIdx).map fun p => (64 + 128 * p.2, p.1.bytes))
  let s := gs.foldl (fun s g => s.writeRuns (area + 4096 + 65536 * g.id) (g.saveRuns fun k => s.freeW (6000000 + 8192 * g.id + k))) s
  let s := s.hwWrite (area + 4096 + 65536 * t.groupCount)
    ((List.range (1536 * t.rows)).map fun a => State.scrByte { s with t := t } a)
  let v : Saved :=
    { tid := t.tid, area := area, units := areaUnits t.groupCount t.rows, ctx := t.ctx, level := t.level, core := t.core
      cause := cause, scrPoison := t.scrPoison, extra := gs.map Group.extra, copies := copies, calls := t.calls
      zeroed := t.zeroed, eligible := !t.raised }
  let s := { s with teams := s.teams.filter fun x => x.tid ≠ t.tid, saved := s.saved ++ [v] }
  let s := if !t.raised then s.joinFront t.level t.tid else if t.zeroed then s.pushDue (.teamResume t.tid) else s
  (s.pushDue (.enginePlaceFree t.core)).pushDue (.growGrant t.core)

/-- The save of a team: where the region has no room, no pre-emption happens (R330). -/
def State.saveTeam (s : State) (t : Team) (cause : SaveCause) : State :=
  let keep : State := { s with teams := updWhere (fun x => x.tid == t.tid) (fun x => { x with saving := none }) s.teams }
  match t.area with
  | some a => if t.header then keep else s.writeTeam t cause a
  | none =>
    match s.allocArea (areaUnits t.groupCount t.rows) with
    | none => keep
    | some a => (s.writeTeam t cause a).wrN a 8 0

/-- TEAM_SAVE (R329): once the team has drained and its core's writes are performed at system scope (R94). -/
def execTeamSave (team : Nat) (s : State) : Host.Outcome State Fault Refusal :=
  s.ev fun s =>
    match s.teams.find? fun t => t.tid = team with
    | none => s
    | some t =>
      match t.saving with
      | none => s
      | some cause =>
        if s.teamDrained t then
          let d := s.drainCore t.core
          if d.2 && d.1.recalls.isEmpty then d.1.saveTeam t cause else d.1
        else s

/-! ### The restore (R331, R332) -/

/-- The operand log and held entries of a saved group. -/
def State.readLog (s : State) (base flags held : Nat) (x : GroupExtra) : Option LogEntry × List LogEntry :=
  let blank : FaultInfo := ⟨0#8, 1#8, 0#32, 0#32, 0#32, 0#32, 0#64, 0#64, s.cycle⟩
  let entry (k off : Nat) : Option LogEntry :=
    entryOf (s.nextId + k) (x.infos.getD k blank) (x.covers.getD k ([], [])) (s.hwBytes (base + off) 2688)
  let first := if flags.testBit 1 then 1 else 0
  (if first = 1 then entry 0 21760 else none,
   (List.range (min held 15)).filterMap fun k => entry (k + first) (24448 + 2688 * k))

/-- A group as its block has it (R331): registers at and above `n` are free values; reserved bits of FPCTL read as zero (R46). -/
def State.readGroup (s : State) (base quad : Nat) (x : GroupExtra) : Group :=
  let w (off : Nat) : W32 := BitVec.ofNat 32 (s.rd (base + off) 4)
  let flags := s.rd (base + 21514) 1
  let l := s.readLog base flags (s.rd (base + 21515) 1) x
  { Group.blank with
    id := x.group, quad := quad, n := x.n, cell := x.cell
    v := Vector.ofFn fun r : Fin 128 => Vector.ofFn fun i : Fin 32 =>
      if r.val < x.n then w (128 * r.val + 4 * i.val) else (s.freeW (10000 * x.group + 32 * r.val + i.val)).extractLsb' 0 32
    p := Vector.ofFn fun k : Fin 128 => w (16384 + 4 * k.val)
    s := Vector.ofFn fun k : Fin 512 => BitVec.ofNat 64 (s.rd (base + 16896 + 8 * k.val) 8)
    q := BitVec.ofNat 16 (s.rd (base + 21512) 2)
    lpc := Vector.ofFn fun i : Fin 32 => w (20992 + 16 * i.val)
    dep := Vector.ofFn fun i : Fin 32 => BitVec.ofNat 8 (s.rd (base + 20996 + 16 * i.val) 1)
    yielded := maskOf fun i => (s.rd (base + 20998 + 16 * i.val) 1).testBit 0
    lane := Vector.ofFn fun i : Fin 32 => laneOfCode (s.rd (base + 20997 + 16 * i.val) 1)
    sr := Vector.ofFn fun i : Fin 32 => w (21000 + 16 * i.val)
    gangr := w 21504, fpctl := w 21508 &&& 0x31F#32
    starve := if x.starved then 0#64 else BitVec.ofNat 64 (s.rd (base + 21520) 8)
    lastKey := x.lastKey, status := .running, ops := x.faults, log := l.1, held := l.2, replay := l.1.isSome, needLatch := x.needLatch
    needA := x.needA, shrinkTo := x.shrinkTo, stop := x.stop, fence := x.fence.map fun sc => (sc, []), vbad := x.vbad, sbad := x.sbad }

/-- A TCOPY command as the area has it, ahead of any new command of its core (R332); it is one command still (R122). -/
def State.readCopy (s : State) (area core : Nat) (p : CopyCmd × Nat) : CopyCmd :=
  let a := area + 64 + 128 * p.2
  match parseShape (s.hwBytes a 64) with
  | none => { p.1 with core := core, started := false, after := [], behind := [], clear := false }
  | some h =>
    { p.1 with
      core := core, shape := h, done := h.number ((List.range 5).map fun k => s.rd (a + 64 + 2 * k) 2)
      ctr := BitVec.ofNat 64 (s.rd (a + 80) 8), started := false, after := [], behind := [], clear := false }

/-- Places a saved team: quadrant of group k from `q0`, rows from `row0` (R324, R332). -/
def State.restoreTeam (s : State) (v : Saved) (core q0 row0 : Nat) : State :=
  let a := v.area
  let gcount := s.rd (a + 10) 1
  let rows := s.rd (a + 12) 2
  let bytes := s.hwBytes (a + 4096 + 65536 * gcount) (1536 * rows)
  let gs := (v.extra.map fun x => s.readGroup (a + 4096 + 65536 * x.group) ((q0 + x.group) % 4) x).foldl
    (fun gs g => gs ++ [s.seatGroup core gs g]) []
  let t : Team :=
    { tid := v.tid, grid := s.rd (a + 16) 8, ctx := v.ctx, x := BitVec.ofNat 32 (s.rd (a + 24) 4)
      y := BitVec.ofNat 16 (s.rd (a + 28) 2), z := BitVec.ofNat 16 (s.rd (a + 30) 2), level := v.level
      dies := BitVec.ofNat 4 (s.rd (a + 15) 1), core := core, row0 := row0, rows := rows, cleared := []
      scr := cellsAt 0 bytes, scrPoison := v.scrPoison, groupCount := gcount
      groups := gs, placed := s.fresh, saving := none, area := none, header := false, calls := [], raised := false
      zeroed := false, forHead := none, gone := false }
  let s := (s.ownBlocks core (gs.flatMap (·.blocks)) v.ctx).readDesc v.ctx
  let copies := (v.copies.zipIdx).map (s.readCopy a core)
  State.selfInvalidate { s with
    teams := s.teams ++ [t], saved := s.saved.filter fun x => x.tid ≠ v.tid, copies := copies ++ s.copies
    nextId := s.nextId + 16 * v.extra.length } core

/-! ### Resumption (R311, R315) -/

/-- The lines of the slots of a team's calls. -/
def slotLines (calls : List (Nat × Nat × BitVec 7 × Nat)) : List Nat :=
  (calls.flatMap fun c => [lineOf (c.2.2.2 + 64), lineOf (c.2.2.2 + 112)]).dedup

/-- The status of each call is copied to the saved vd, the slot is consumed, and the lane is runnable (R315). -/
def State.replySaved (s : State) (v : Saved) : State :=
  v.calls.foldl (fun s c =>
    let base := v.area + 4096 + 65536 * c.1
    let s := s.wrN (base + 128 * c.2.2.1.toNat + 4 * c.2.1) 4 (s.rd (c.2.2.2 + 64) 4)
    (s.wrN (c.2.2.2 + 112) 1 3).wrN (base + 20997 + 16 * c.2.1) 1 0) s

/-- The same for the calls of a team that stayed on its core. -/
def State.replyHere (s : State) (t : Team) : State :=
  t.calls.foldl (fun s c =>
    s.withGroup ⟨t.tid, c.1⟩ fun s =>
      let l : Fin 32 := Fin.ofNat 32 c.2.1
      let x : W32 := BitVec.ofNat 32 (s.rd (c.2.2.2 + 64) 4)
      let s := s.setG ((s.g.setV (oneLane l) (reg7 c.2.2.1) fun _ => x).setLane (oneLane l) .runnable)
      s.wrN (c.2.2.2 + 112) 1 3) s

/-- A team kept on its core resumes there, each group with an acquire, and its context's descriptor is read as at a placement
(R94, R297, R311, R330). -/
def State.resumeHere (s : State) (t : Team) : State :=
  let s := (s.replyHere t).readDesc t.ctx
  let s := t.groups.foldl (fun s g =>
    s.withGroup ⟨t.tid, g.id⟩ fun s => if s.g.status = .stopped then s.resumeInPlace else s) s
  State.selfInvalidate { s with
    teams := updWhere (fun x => x.tid == t.tid)
      (fun x => { x with groups := x.groups.map Group.forgetAll, area := none, header := false, calls := [], raised := false, zeroed := false }) s.teams } t.core

/-- TEAM_RESUME (R311, R315): an update has left the resume counter at 0. The slots of the calls are read and marked once the
package holds their lines. -/
def execTeamResume (team : Nat) (s : State) : Host.Outcome State Fault Refusal :=
  s.ev fun s =>
    match s.saved.find? fun v => v.tid = team with
    | some v =>
      if v.eligible || !v.zeroed then s
      else
        match s.readyLines v.ctx (unitFlow (dieOfCore v.core) 0) (slotLines v.calls) with
        | .wait s | .fail s _ => s
        | .yes s =>
          let s := s.replySaved v
          State.joinFront { s with
            saved := updWhere (fun x => x.tid == team) (fun x => { x with eligible := true, calls := [] }) s.saved } v.level team
    | none =>
      match s.teams.find? fun t => t.tid = team with
      | none => s
      | some t =>
        if t.header && t.zeroed then
          match s.readyLines t.ctx (unitFlow (dieOfCore t.core) 0) (slotLines t.calls) with
          | .wait s | .fail s _ => s
          | .yes s => s.resumeHere t
        else s

end Sys2Proof.Machine
end

