-- ==== Sys2Proof/Machine/Sched.lean ====
section
/-! DEFINITION. The scheduler: the order in which a grid deals its teams, room on a core, placement, and the choice of a
pre-emption (02 R40; 09 R244; 14 R320-R327). -/

namespace Sys2Proof.Machine

/-! ### Team order (R322) -/

/-- The bits at even places, packed. -/
def evenBits (d : Nat) : Nat := ((List.range 16).map fun k => if d.testBit (2 * k) then 2 ^ k else 0).sum

def morton (d : Nat) : Nat × Nat := (evenBits d, evenBits (d / 2))

/-- `fuel` rounds of the Hilbert curve, from side `s`. -/
def hilbertFrom : Nat → Nat → Nat → Nat → Nat → Nat × Nat
  | 0, _, _, x, y => (x, y)
  | fuel + 1, s, k, x, y =>
    let rx := k / 2 % 2
    let ry := (k ^^^ rx) % 2
    let p := if ry = 0 then (if rx = 1 then (s - 1 - y, s - 1 - x) else (y, x)) else (x, y)
    hilbertFrom fuel (2 * s) (k / 4) (p.1 + s * rx) (p.2 + s * ry)

/-- The Hilbert curve of side 2 ^ `t`. -/
def hilbert (t d : Nat) : Nat × Nat := hilbertFrom t 1 d 0 0

/-- The team index at place `k` of the deal, which may lie outside the grid under a tiled order. -/
def LaunchRec.at (r : LaunchRec) (k : Nat) : Nat × Nat × Nat :=
  match r.order with
  | 0 => (k % r.ex, k / r.ex % r.ey, k / (r.ex * r.ey))
  | 1 => (k / r.ey % r.ex, k % r.ey, k / (r.ex * r.ey))
  | o =>
    let e := 2 ^ r.tile
    let tx := (r.ex + e - 1) / e
    let ty := (r.ey + e - 1) / e
    let j := k % (tx * ty * (e * e))
    let d := j % (e * e)
    let t := j / (e * e)
    let p := if o = 2 then morton d else hilbert r.tile d
    (e * (t % tx) + p.1, e * (t / tx) + p.2, k / (tx * ty * (e * e)))

/-- Places of the deal, those outside the grid included. -/
def LaunchRec.places (r : LaunchRec) : Nat :=
  let e := if r.order < 2 then 1 else 2 ^ r.tile
  ((r.ex + e - 1) / e) * ((r.ey + e - 1) / e) * (e * e) * r.ez

/-- The first place at or after `k` that lies in the grid. -/
def LaunchRec.next (r : LaunchRec) : Nat → Nat → Nat
  | 0, k => k
  | fuel + 1, k => if (r.at k).1 < r.ex ∧ (r.at k).2.1 < r.ey then k else LaunchRec.next r fuel (k + 1)

/-! ### What a queue entry asks for (R320, R323) -/

/-- A team that waits for a core: its groups' ids, their register blocks, its rows and dies, and the core from which the
search starts, none for the first team of a grid. -/
structure Wanted where
  entry : QEntry
  ids : List Nat
  blocks : Nat
  rows : Nat
  dies : BitVec 4
  start : Option Nat

/-- The context is active (R298). -/
def State.active (s : State) (ctx : BitVec 10) : Bool := s.rd (s.desc ctx + 10) 1 == 1

/-- What an entry asks for; a suspended context's entries are passed over. -/
def State.wanted (s : State) (e : QEntry) : Option Wanted :=
  match e with
  | .saved tid =>
    match s.saved.find? fun v => v.tid = tid with
    | none => none
    | some v =>
      if s.active v.ctx then
        some ⟨e, v.extra.map (·.group), (v.extra.map fun x => x.n / 16).sum, s.rd (v.area + 12) 2,
              BitVec.ofNat 4 (s.rd (v.area + 15) 1), some v.core⟩
      else none
  | .grid gid =>
    match s.grids.find? fun g => g.gid = gid with
    | none => none
    | some g =>
      if s.active g.ctx then
        some ⟨e, List.range g.record.groups, g.record.groups * (g.record.regs / 16), g.record.rows, g.dies,
              g.lastCore.map (· + 1)⟩
      else none

/-- The team at the head of a level's queue. -/
def State.head (s : State) (level : Nat) : Option Wanted := (s.queues[level]?.getD []).findSome? s.wanted

/-! ### Room on a core (R323, R324) -/

/-- The groups of a list of teams that have not retired. -/
def groupsOf (ts : List Team) : List Group := (ts.flatMap (·.groups)).filter fun g => !g.retired

/-- The quadrant with the fewest groups, the lowest on a tie. -/
def bestQuad (gs : List Group) : Nat :=
  let count (q : Nat) : Nat := gs.countP fun g => g.quad == q
  (List.range 4).foldl (fun b q => if count q < count b then q else b) 0

/-- The lowest run of `w` rows that no team of the list holds. -/
def rowRun (ts : List Team) (w : Nat) : Option Nat :=
  if w = 0 then some 0
  else
    let free (a : Nat) : Bool := decide (a + w ≤ 1024) && ts.all fun t =>
      t.rows == 0 || decide (a + w ≤ t.row0) || decide (t.row0 + t.rows ≤ a)
    ((0 :: ts.map fun t => t.row0 + t.rows).filter free).foldl (fun (b : Option Nat) a => some (min a (b.getD a))) none

/-- Room for a team on a core whose resident teams are `ts`: q0 and the first row. -/
def room (ts : List Team) (w : Wanted) : Option (Nat × Nat) :=
  let gs := groupsOf ts
  let q0 := bestQuad gs
  let fits := (List.range 4).all fun q =>
    decide ((gs.countP fun g => g.quad == q) + (w.ids.countP fun k => (q0 + k) % 4 == q) ≤ 16)
  if fits && decide ((gs.map fun g => g.n / 16).sum + w.blocks ≤ 256) then (rowRun ts w.rows).map fun a => (q0, a) else none

/-- The cores of a set of dies that are in service. -/
def State.coresOf (s : State) (dies : BitVec 4) : List Nat :=
  (List.range 192).filter fun c => dies.getLsbD (dieOfCore c) && !s.spares.fenced.contains c

def State.onCore (s : State) (core : Nat) : List Team := s.teams.filter fun t => t.core = core

/-- A core whose freed blocks a waiting GROW takes first, or whose groups are stuck until R241 fails one (R326). -/
def State.growFirst (s : State) (core : Nat) : Bool :=
  let gs := s.growers core
  (gs.any fun x => decide (s.usedBlocks core + x.2.1 ≤ 256)) || (!gs.isEmpty && s.growStuck core)

/-- The core for a team among some of its allowed set, with q0 and the first row (R324). -/
def State.seatIn (s : State) (cores : List Nat) (w : Wanted) : Option (Nat × Nat × Nat) :=
  let fits := cores.filterMap fun c => (room (s.onCore c) w).map fun p => (c, p)
  match w.start with
  | none =>
    fits.foldl (fun (b : Option (Nat × Nat × Nat)) f =>
      match b with
      | none => some f
      | some x => if s.usedBlocks f.1 < s.usedBlocks x.1 then some f else b) none
  | some c =>
    match fits.find? fun f => c ≤ f.1 with
    | some f => some f
    | none => fits.head?

/-- The core on which a team is placed as things stand: none whose freed blocks go to a GROW first (R326). -/
def State.seatFor (s : State) (w : Wanted) : Option (Nat × Nat × Nat) :=
  s.seatIn ((s.coresOf w.dies).filter fun c => !s.growFirst c) w

/-! ### Placement (R244, R325) -/

/-- The context of the last team that owned a row of a core is this one (R325). -/
def State.ownedRow (s : State) (core row : Nat) (ctx : BitVec 10) : Bool :=
  s.rowOwner.any fun o => o.1 == core && o.2.1 == row && o.2.2 == ctx

/-- The context of the last team that owned a register block of a core is this one (R325). -/
def State.ownedBlock (s : State) (core block : Nat) (ctx : BitVec 10) : Bool :=
  s.blockOwner.any fun o => o.1 == core && o.2.1 == block && o.2.2 == ctx

/-- A core's rows pass to a context. -/
def State.takeRows (s : State) (core row0 rows : Nat) (ctx : BitVec 10) : State :=
  { s with
    rowOwner := ((List.range rows).map fun k => (core, row0 + k, ctx)) ++
      s.rowOwner.filter fun o => !(o.1 == core && decide (row0 ≤ o.2.1) && decide (o.2.1 < row0 + rows)) }

/-- s3 at launch: the staging pool's base, or 0 (R244). -/
def State.stageBase (s : State) (ctx : BitVec 10) : W64 :=
  if s.poolUnits ctx = 0 then 0#64 else BitVec.ofNat 64 (s.descField ctx 24 8)

/-- A group at launch, behind the groups `prev` of its team (R40, R244). The registers of a block that is cleared are 0
(R325); the others hold free values. -/
def State.launchGroup (s : State) (g : Grid) (core q0 : Nat) (prev : List Group) (k : Nat) : Group :=
  let r := g.record
  let free (j : Nat) : W64 := s.freeW (20000 * (k + 1) + j)
  let seat := s.seatGroup core prev { Group.blank with id := k, quad := (q0 + k) % 4, n := r.regs }
  let zero := seat.blocks.map fun b => !s.ownedBlock core b g.ctx
  { seat with
    cell := BitVec.ofNat 32 s.ownCell
    v := Vector.ofFn fun m : Fin 128 => Vector.ofFn fun l : Fin 32 =>
      if m.val = 0 then BitVec.ofNat 32 (32 * k + l.val)
      else if zero.getD (m.val / 16) false then 0#32
      else (free (32 * m.val + l.val)).extractLsb' 0 32
    p := Vector.ofFn fun m : Fin 128 => (free (5000 + m.val)).extractLsb' 0 32
    s := Vector.ofFn fun m : Fin 512 =>
      match m.val with
      | 0 => r.dataSeg
      | 1 => r.arg0
      | 2 => r.arg1
      | 3 => s.stageBase g.ctx
      | j => free (6000 + j)
    lpc := Vector.replicate 32 r.entry
    sr := Vector.ofFn fun l : Fin 32 => BitVec.ofNat 32 (l.val + 1) }

/-- Takes an entry off its queue. -/
def State.dequeue (s : State) (e : QEntry) : State := { s with queues := s.queues.map fun q => q.filter (· ≠ e) }

/-- Places the next team of a grid. -/
def State.dealTeam (s : State) (g : Grid) (core q0 row0 : Nat) : State :=
  let s := s.readDesc g.ctx
  let r := g.record
  let k := r.next (r.places - g.dealt) g.dealt
  let i := r.at k
  let gs := (List.range r.groups).foldl (fun gs k => gs ++ [s.launchGroup g core q0 gs k]) []
  let t : Team :=
    { tid := s.nextId, grid := g.gid, ctx := g.ctx, x := BitVec.ofNat 32 i.1, y := BitVec.ofNat 16 i.2.1
      z := BitVec.ofNat 16 i.2.2, level := g.level, dies := g.dies, core := core, row0 := row0, rows := r.rows
      cleared := (List.range r.rows).filter fun j => !s.ownedRow core (row0 + j) g.ctx
      scr := [], scrPoison := [], groupCount := r.groups
      groups := gs, placed := s.fresh, saving := none, area := none, header := false, calls := [], raised := false
      zeroed := false, forHead := none, gone := false }
  let last := decide (r.ex * r.ey * r.ez ≤ g.placed + 1)
  let s := State.takeRows { s with
    nextId := s.nextId + 1
    teams := s.teams ++ [t]
    grids := updWhere (fun x => x.gid == g.gid)
      (fun x => { x with dealt := k + 1, placed := x.placed + 1, placedAll := last, live := x.live + 1, lastCore := some core })
      s.grids } core row0 r.rows g.ctx
  let s := (s.ownBlocks core (gs.flatMap (·.blocks)) g.ctx).selfInvalidate core
  if last then s.dequeue (.grid g.gid) else s

/-- Places the team an entry names (R324, R332). -/
def State.placeAt (s : State) (e : QEntry) (core q0 row0 : Nat) : State :=
  match e with
  | .grid gid =>
    match s.grids.find? fun g => g.gid = gid with
    | none => s
    | some g => s.dealTeam g core q0 row0
  | .saved tid =>
    match s.saved.find? fun v => v.tid = tid with
    | none => s
    | some v =>
      let rows := s.rd (v.area + 12) 2
      ((s.restoreTeam v core q0 row0).takeRows core row0 rows v.ctx).dequeue e

/-- The head of a higher level fits somewhere, and goes first (R321). -/
def State.higherFits (s : State) (level : Nat) : Bool :=
  (List.range 4).any fun l => decide (level < l) && ((s.head l).bind s.seatFor).isSome

/-- Places the head of a level's queue where it fits. -/
def State.placeHead (s : State) (level : Nat) : State :=
  match s.head level with
  | none => s
  | some w =>
    if s.higherFits level then s
    else
      match s.seatFor w with
      | none => s
      | some x => s.placeAt w.entry x.1 x.2.1 x.2.2

/-- TEAM_PLACEMENT (R321). -/
def execTeamPlacement (level : Nat) (s : State) : Host.Outcome State Fault Refusal := s.ev fun s => s.placeHead level

/-! ### Pre-emption (R327) -/

/-- The head that an entry stands for: the place of the deal tells the teams of one grid apart. -/
def State.headPlace (s : State) (e : QEntry) : Nat :=
  match e with
  | .saved _ => 0
  | .grid gid => ((s.grids.find? fun g => g.gid = gid).map (·.dealt)).getD 0

/-- Reserves a save area for each team of a set, in order; none when the region has no room (R330). They are saved for the
head `h`. -/
def State.reserveAreas (s : State) (h : QEntry × Nat) : List Team → Option State
  | [] => some s
  | t :: r =>
    match s.allocArea (areaUnits t.groupCount t.rows) with
    | none => none
    | some a =>
      State.reserveAreas (State.wrN { s with
        teams := updWhere (fun x => x.tid == t.tid)
          (fun x => { x with area := some a, saving := some .preempt, forHead := some h }) s.teams } a 8 0) h r

/-- The keys of R327 after the first: highest level, earliest placement, core. -/
def victimKeys (c : Nat × List Team) : Nat × Nat × Nat :=
  ((c.2.map (·.level)).foldl max 0, (c.2.map (·.placed)).foldl min ((c.2.map (·.placed)).headD 0), c.1)

/-- `a` comes before `b`: lowest highest level, then latest earliest placement, then lowest core. -/
def victimsBefore (a b : Nat × List Team) : Bool :=
  let x := victimKeys a
  let y := victimKeys b
  decide (x.1 < y.1) || (x.1 == y.1 && (decide (y.2.1 < x.2.1) || (x.2.1 == y.2.1 && decide (x.2.2 < y.2.2))))

/-- The sets of `k` teams of a core below level `level` that make room when removed. -/
def State.victims (s : State) (w : Wanted) (level k core : Nat) : List (Nat × List Team) :=
  let ts := s.onCore core
  let may := ts.filter fun t => decide (t.level < level) && t.saving.isNone && !t.header
  ((may.sublistsLen k).filter fun S => (room (ts.filter fun t => !S.contains t) w).isSome).map fun S => (core, S)

/-- The pair that comes first under R327: the smallest sets first; of sets that are equal in every key, the one that stands
first among the sublists of the core's teams in the order of their placement (log 70). -/
def State.chooseVictims (s : State) (w : Wanted) (level : Nat) : Option (Nat × List Team) :=
  (List.range 65).findSome? fun k =>
    ((s.coresOf w.dies).flatMap (s.victims w level k)).foldl (fun (b : Option (Nat × List Team)) c =>
      match b with
      | none => some c
      | some x => if victimsBefore c x then some c else b) none

/-- A pre-emption for the team is under way. -/
def State.roomComing (s : State) (w : Wanted) : Bool :=
  s.teams.any fun t => t.saving.isSome && t.forHead == some (w.entry, s.headPlace w.entry)

/-- Chooses and begins the pre-emption for the head of a level, which fits no core of its allowed set (R323, R327). -/
def State.preemptFor (s : State) (level : Nat) : State :=
  match s.head level with
  | none => s
  | some w =>
    if s.roomComing w || (s.seatIn (s.coresOf w.dies) w).isSome then s
    else
      match s.chooseVictims w level with
      | none => s
      | some c => (s.reserveAreas (w.entry, s.headPlace w.entry) c.2).getD s

/-- PREEMPTION (R327). -/
def execPreemption (level : Nat) (s : State) : Host.Outcome State Fault Refusal := s.ev fun s => s.preemptFor level

end Sys2Proof.Machine
end

