-- ==== Sys2Proof/Machine/Home.lean ====
section
/-! DEFINITION. What a home does with the requests of other packages and of hosts: the directory, the firewall, HOU
operations, chain steps, launches, and reply records (08 R229, R231, R233; 09 R262; 14 R318; 16 R353, R357-R361, R366,
R367). -/

namespace Sys2Proof

/-- The context of a packet. -/
def Packet.context (p : Packet) : BitVec 10 := p.ctx.extractLsb' 0 10

/-- The cell of a packet's source. -/
def Packet.cell (p : Packet) : Nat := p.srcCell.toNat % 2 ^ 21

/-- The address of a packet. -/
def Packet.pa (p : Packet) : Nat := p.addr.toNat % 2 ^ 62

/-- A field of a packet's payload. -/
def Packet.field (p : Packet) (off n : Nat) : Nat := Machine.fieldAt p.payload off n

end Sys2Proof

namespace Sys2Proof.Machine

/-! ### The outcome of a request at its home -/

/-- A request was done with a status and data, waits, finds no free resource, or was passed on to another home. -/
inductive Served where
  | done (s : State) (status : Nat) (data : List Byte)
  | wait (s : State)
  | busy (s : State)
  | pass (s : State)

/-- Data of a reply that names where the request failed: an address, a step, a fault code (log 18). -/
def failData (a b : Nat) (code : Nat) : List Byte := toBytes 8 a ++ toBytes 8 b ++ toBytes 8 code

/-- Makes the line of a request accessible, and goes on. -/
def State.homeLine (s : State) (ctx : BitVec 10) (pa : Nat) (write : Bool) (f : State → Served) : Served :=
  if !s.homed pa then .done s 4 []
  else
    match s.readyLine ctx 0#16 (lineOf pa) write with
    | .fail s st => .done s st []
    | .wait s => .wait s
    | .yes s => f s

/-- The firewall, then the line for writing (R361). -/
def State.homeWritable (s : State) (p : Packet) (f : State → Served) : Served :=
  if !s.mayWrite p.pa p.cell then .done s 2 [] else s.homeLine p.context p.pa true f

/-! ### The directory (R359, R360) -/

/-- An entry with one more reader, in package mode while four ids are enough, then in cell mode, in which the cell of an owner
counts too; `none` where neither fits. -/
def State.addReader (s : State) (e : DirEntry) (pkg : Nat) : Option DirEntry :=
  let rs := insertNat pkg e.readers
  if !e.cellMode && decide ((e.owner.toList ++ rs).dedup.length ≤ 4) then some { e with readers := rs }
  else
    let readers := if e.cellMode then s.cellOf pkg :: e.readers.map some else rs.map s.cellOf
    let cells := e.owner.toList.map s.cellOf ++ readers
    if cells.all (·.isSome) && decide ((cells.filterMap id).dedup.length ≤ 8) then
      some { e with readers := insertAll (readers.filterMap id) [], cellMode := true }
    else none

/-- The directory of a line's die has room for it; else the least recently used line of the die (R360). -/
def State.dirVictim (s : State) (line : Nat) : Option DirEntry :=
  let mine := s.dir.filter fun e => homeDie e.line = homeDie line
  if 2 ^ 20 ≤ mine.length then mine.head? else none

/-- Drops a line from the L1s of this package's cores: its ownership leaves the package. -/
def State.dropLine (s : State) (line : Nat) : State := { s with l1 := s.l1.filter fun w => lineOf (4 * w.word) ≠ line }

/-- The line's bytes, as a reply carries them. -/
def State.lineReply (s : State) (line : Nat) : Served := .done (s.latchLine line) 0 (s.homeBytes line 128)

/-- The package takes the line for writing again: an open tile there that had given it up holds it, or has closed (R253). -/
def State.closeFar (s : State) (line who : Nat) : State := { s with openFar := s.openFar.filter (· ≠ (line, who)) }

/-- A request for a read copy or for ownership (R359-R361). An owner in M or O is asked for its data for each new reader, and
keeps the line in O; the requester of a line that nobody else holds gets it in E or M, and no registered word of it stays. -/
def State.serveLine (s : State) (p : Packet) (own : Bool) : Served :=
  let line := lineOf p.pa
  let who := p.src.toNat
  if !s.homed line then .done s 4 []
  else if s.frozen line then .done s 1 []
  else if own && !s.mayWrite line p.cell then .done s 2 []
  else
    let s := s.resolveDead line
    if s.recalls.any fun r => r.line = line then .wait s
    else
      match s.dir.find? fun e => e.line = line with
      | none =>
        match s.dirVictim line with
        | some v => .wait (if s.recalls.any fun r => r.line = v.line then s else s.recall v.line v (s.otherHolders v) .all)
        | none =>
          let s := if own then s.closeFar line who else s
          State.lineReply ((s.putDir ⟨line, if own then .m else .e, some who, [], false, false⟩).dropLine line) line
      | some e =>
        let others := (s.otherHolders e).filter (· ≠ who)
        let add (s : State) (e : DirEntry) : Served :=
          match s.addReader e who with
          | some e => State.lineReply (s.putDir e) line
          | none => .wait (s.recall line e (s.otherHolders e) .all)
        if own then
          if others = [] then State.lineReply (((s.closeFar line who).putDir ⟨line, .m, some who, [], false, false⟩).dropLine line) line
          else .wait (s.recall line e others .all)
        else if e.owner = some who then State.lineReply (s.putDir e) line
        else if e.st = .s then add s e
        else if e.st = .o ∧ e.supplied then add s { e with supplied := false }
        else .wait (s.recall line e e.owner.toList .down)

/-- The end of a recall: every COHACK has come (R359). A line given up by all its holders is in I; an owner that has supplied
its data keeps a modified line in O, and is a reader of a clean one. -/
def State.recalled (s : State) (r : Recall) : State :=
  let s := { s with recalls := s.recalls.filter fun x => x.line ≠ r.line }
  match s.dir.find? fun e => e.line = r.line with
  | none => s
  | some e =>
    if r.kind ≠ .down then s.dropDir r.line
    else
      match e.st with
      | .m | .o => s.putDir { e with st := .o, supplied := true }
      | .e => s.putDir { e with st := .s, owner := none, readers := e.owner.toList ++ e.readers }
      | .s => s

/-- The owner of a line gives back what it holds: home memory becomes current, and the line is poisoned as the owner had it
(R120, R122, R359). -/
def State.takeLine (s : State) (p : Packet) : State :=
  let line := lineOf p.pa
  let s := s.lineWrite line p.payload
  if p.flags.getLsbD 6 then s.addPoison [line] else s.clearPoison [line]

/-- The owner's write-back: home memory becomes current, and it leaves the entry (R359). A recall that discards the data discards
a write-back's that crosses it too (R374). -/
def State.serveWriteback (s : State) (p : Packet) : Served :=
  let line := lineOf p.pa
  match s.dir.find? fun e => e.line = line with
  | none => .done s 0 []
  | some e =>
    if e.owner = some p.src.toNat then
      let s := if s.recalls.any fun r => r.line == line && r.kind == .drop then s else s.takeLine p
      if e.readers.isEmpty then .done (s.dropDir line) 0 []
      else .done (s.putDir { e with st := .s, owner := none }) 0 []
    else .done s 0 []

/-! ### Reads, writes and atomics (R353, R357) -/

/-- A host's read: the whole line, of which nothing is kept (R368). -/
def State.serveRead (s : State) (p : Packet) : Served :=
  s.homeLine p.context p.pa false fun s => if s.poisoned p.pa then .done s 3 [] else .done s 0 (s.homeBytes (lineOf p.pa) 128)

/-- Bytes a WR packet writes: OP 16 + n says n, any other its whole payload (log 18). -/
def writeLen (p : Packet) : Nat := if 16 ≤ p.op.toNat then p.op.toNat - 16 else p.payload.length

/-- The request comes from a bridge, for a host (R352). -/
def Packet.ofHost (p : Packet) : Bool := 0xC000 ≤ p.flow.toNat

/-- A store of another package or a host (R353). Poison is cleared by a plain write instruction of a group, or a copy, that
covers the line; a host's write clears none (R122). -/
def State.serveWrite (s : State) (p : Packet) : Served :=
  s.homeWritable p fun s =>
    let bs := p.payload.take (writeLen p)
    let line := lineOf p.pa
    let s := s.homeWrite none (cellsAt p.pa bs)
    if p.flags.getLsbD 6 then .done (s.addPoison [line]) 0 []
    else .done (if bs.length = 128 ∧ p.op ≠ 1#8 ∧ !Packet.ofHost p then s.clearPoison [line] else s) 0 []

/-- A home acts for a context: no group of this package does. -/
def State.atHome (s : State) (die : Nat) (ctx : BitVec 10) : State :=
  { s with t := { Team.blank with ctx := ctx, core := 48 * die }, g := Group.blank }

/-- The atomic operation of a code (log 18). -/
def atomOf (code : Nat) : AtomOp :=
  match code with
  | 0 => .add | 1 => .min | 2 => .max | 3 => .minU | 4 => .maxU | 5 => .and | 6 => .or | 7 => .xor | 8 => .swap
  | _ => .fadd

/-- A read-modify-write of `n` bytes: the old bytes are the reply (R111). -/
def State.serveRmw (s : State) (p : Packet) (n : Nat) (f : List Byte → Option (List Byte)) : Served :=
  s.homeWritable p fun s =>
    if s.poisoned p.pa then .done s 3 []
    else
      let old := s.homeBytes p.pa n
      match f old with
      | none => .done s 0 old
      | some new => .done (s.homeWrite none (cellsAt p.pa new)) 0 old

/-- The scope and the kind of a strong request (R352). -/
def Packet.scope (p : Packet) : Scope := (scopeOf (p.flags.toNat % 8)).getD .sys

def Packet.kind (p : Packet) : Kind :=
  match p.flags.toNat / 8 % 8 with
  | 2 => .acq | 3 => .rel | 4 => .ar | _ => .st

/-- ENQ at its header's home, with the rights of the requester's cell, its kind and its scope (R228, R361). -/
def State.serveEnq (s : State) (p : Packet) : Served :=
  s.homeWritable p fun s =>
    if s.poisoned p.pa then .done s 3 []
    else
      let tail := s.homeBytes (p.pa + 8) 8
      match (s.atHome (homeDie p.pa) p.context).enqHome p.cell p.pa (BitVec.ofNat 64 (p.field 0 8)) (p.field 8 8) (Packet.kind p)
          (Packet.scope p) (fun s _ => s) with
      | .done s => .done s.noFocus 0 tail
      | .wait s => .wait s.noFocus
      | .fail s code addr detail => .done s.noFocus 4 (failData addr.toNat detail.toNat code.toNat)

/-- An addition to a counter (R357). -/
def State.serveCounter (s : State) (p : Packet) : Served :=
  s.homeWritable p fun s =>
    if s.poisoned p.pa then .done s 3 []
    else .done (s.addHome p.pa (BitVec.ofNat 64 (p.field 0 8))) 0 (s.homeBytes p.pa 8)

/-- The lines of a tile whose request names the frames of its pages (R253; log 18). -/
def Packet.tileLines (p : Packet) (lines : Nat) : List Nat :=
  let first := (4096 - p.field 0 8 % 4096) / 128
  (List.range lines).map fun j =>
    if j < first then p.pa + 128 * j else p.field (24 + 8 * ((j - first) / 32)) 8 + 128 * ((j - first) % 32)

/-- ACCOPEN from another package (R253): the firewall admits its cell to every line homed here (R361). -/
def State.serveOpen (s : State) (p : Packet) : Served :=
  let fmt : TileFmt := match p.field 21 1 with | 0 => .f64 | 1 => .f32 | _ => .i32
  let bits := p.field 22 1
  let e : EAccOpen :=
    { guard := 0#7, la := 0#4, d := 0#7, a := 0#7, b := 0#7, c := 0#7, scope := (scopeOf (p.field 23 1)).getD .sys, fmt := fmt
      free := bits.testBit 0, z := bits.testBit 1, gsize := BitVec.ofNat 3 (p.field 20 1) }
  let fs := Packet.tileLines p (openSize e / 128)
  if fs.any fun l => s.here l && !s.mayWrite l p.cell then .done s 2 []
  else if fs.any fun l => s.here l && !s.homed l then .done s 4 []
  else
    match s.openStatus p.pa with
    | some x => .done s 0 (toBytes 8 x.toNat)
    | none =>
      match s.readyLines p.context (unitFlow (homeDie p.pa) (homeSlice p.pa)) fs with
      | .wait s => .wait s
      | .fail s st => .done s st []
      | .yes s =>
        .done (s.addTile e p.context (BitVec.ofNat 64 (p.field 0 8)) (BitVec.ofNat 64 (p.field 16 4)) (BitVec.ofNat 64 (p.field 8 8)) fs)
          0 (toBytes 8 0)

/-- The contribution whose last piece a packet is, with the elements that have come (R82, R248; log 18). -/
def packetContribution (p : Packet) (elems : List W64) : Contribution :=
  let fmt : MmaFmt := match p.field 11 1 with
    | 0 => .f64 | 1 => .f32 | 2 => .bf16 | 3 => .f16 | 4 => .f8e4 | 5 => .f8e5 | _ => .i8
  { id := 0, core := 192, ctx := p.context, team := 0, members := [], fmt := fmt, free := (p.field 12 1).testBit 0
    t := 0#64, tile := p.pa, tag := BitVec.ofNat 16 (p.field 8 2), rows := p.field 10 1, poison := (p.field 12 1).testBit 1
    elems := elems, refused := false, signalled := false }

/-- A piece of a contribution of an engine of another package: 4 says that it is kept, and the last is answered with 0, the
contribution taken, 3, refused, until the slice signals its engine, or 2, its tile expired, with the lowest missing tag (R82,
R84; log 18). -/
def State.serveContribution (s : State) (p : Packet) : Served :=
  let src := p.src.toNat
  let id := p.field 0 8
  let mine : Assembly → Bool := fun a => a.src == src && a.id == id
  let got := ((s.assembly.find? mine).map (·.elems)).getD [] ++
    (List.range (p.field 13 1)).map fun k => BitVec.ofNat 64 (p.field (16 + 8 * k) 8)
  let rest := s.assembly.filter fun a => !mine a
  if !(p.field 12 1).testBit 2 then .done { s with assembly := ⟨src, id, got⟩ :: rest } 0 (toBytes 8 4)
  else
    let s := { s with assembly := rest }
    match s.tiles.find? fun t => t.base = p.pa with
    | none =>
      match s.expired.find? fun x => x.base = p.pa with
      | some x => .done s 0 (toBytes 8 2 ++ toBytes 8 x.missing.toNat)
      | none => .done s 0 (toBytes 8 0)
    | some t =>
      let r := t.arrive (packetContribution p got)
      if r.2 then .done (s.putTile { r.1 with refusedFar := r.1.refusedFar ++ [(src, id)] }) 0 (toBytes 8 3)
      else .done (s.putTile r.1) 0 (toBytes 8 0)

/-- A slice signals the engine of a contribution that it has refused: the engine sends it again, once it knows of the refusal
(R82). -/
def State.serveSignal (s : State) (p : Packet) : Served :=
  let id := p.field 0 8
  .done (State.pushDue { s with
    transit := updWhere (fun c => c.id == id) (fun c => { c with signalled := true }) s.transit }
    (.engineResend id)) 0 []

/-- The room that the home of a new frame has for triggers (R346): 0, or 1 where it has not room for so many. -/
def State.serveRoom (s : State) (p : Packet) : Served :=
  let n := s.triggers.countP fun t => homeUnit t.addr == homeUnit p.pa
  .done s 0 (toBytes 8 (if n + p.field 0 8 ≤ 4096 then 0 else 1))

/-- An open tile here holds a line of a range of another package: 1, else 0 (R346). -/
def State.serveTiles (s : State) (p : Packet) : Served :=
  let lo := p.field 0 8
  let hi := lo + p.field 8 8
  .done s 0 (toBytes 8 (if s.tiles.any fun t => t.frames.any fun l => decide (lo ≤ l) && decide (l < hi) then 1 else 0))

/-- The trigger of a TLAUNCH of another package (R262): registered 0, fired at once 1, no room 2. -/
def State.serveTrigger (s : State) (p : Packet) : Served :=
  s.homeLine p.context p.pa false fun s =>
    if 4096 ≤ (s.triggers.filter fun t => homeUnit t.addr = homeUnit p.pa).length then .done s 0 (toBytes 8 2)
    else if s.ctrAt p.pa = 0#64 then .done s 0 (toBytes 8 1)
    else
      .done { s with triggers := s.triggers ++ [⟨p.pa, p.src.toNat, p.context, p.tag.toNat, Packet.scope p⟩] } 0 (toBytes 8 0)

/-- A trigger that has moved here with its counter (R346): it fires at the next update that leaves 0. -/
def State.serveMoved (s : State) (p : Packet) : Served :=
  .done { s with triggers := s.triggers ++ [⟨p.pa, p.field 8 8, p.context, p.field 0 8, .sys⟩] } 0 []

/-- A trigger has fired at the home of its counter for a grid held here. -/
def State.serveFired (s : State) (p : Packet) : Served :=
  match s.grids.find? fun g => g.gid = p.field 0 8 with
  | some g => if g.waiting then .done (s.fireGrid g.gid) 0 [] else .done s 0 []
  | none => if s.reqs.any fun r => r.tag.toNat = p.field 0 8 then .busy s else .done s 0 []

/-- The operation of an ATOM packet (log 18); an operation outside the codes does nothing. -/
def State.serveAtom (s : State) (p : Packet) : Served :=
  let code := p.op.toNat % 64
  let wide := p.op.getLsbD 6
  let n := if wide then 8 else 4
  if code < 10 then
    s.serveRmw p n fun old => some (toBytes n (atomApply (atomOf code) wide (ofBytes old) (ofBytes (p.payload.take n))))
  else
    match code with
    | 0x10 =>
      let n := p.payload.length / 2
      s.serveRmw p n fun old => if old = p.payload.take n then some ((p.payload.drop n).take n) else none
    | 0x11 => s.serveEnq p
    | 0x20 => s.serveCounter p
    | 0x30 => s.serveOpen p
    | 0x31 =>
      -- R361 checks ACCOPEN alone: the close of an open tile is not refused (R254)
      if s.frozen p.pa then .done s 1 []
      else
        let r := s.askClose p.pa
        .done r.2 0 (toBytes 8 r.1.toNat)
    | 0x32 => s.serveContribution p
    | 0x33 => s.serveTrigger p
    | 0x34 => s.serveMoved p
    | 0x35 => s.serveFired p
    | 0x36 => s.serveRoom p
    | 0x37 => s.serveSignal p
    | 0x38 => s.serveTiles p
    | _ => .done s 6 []

/-! ### Chain steps (R231, R233, R338) -/

/-- Passes a chain on to the home of another package, and notifies the issuing core (R233). -/
def State.passStep (s : State) (p : Packet) (k : Nat) (ptr : W64) (pa : Nat) : State :=
  let head := toBytes 8 k ++ toBytes 8 ptr.toNat
  let note : Packet :=
    { p with typ := 0x0B#8, age := 0#8, dst := p.src, src := BitVec.ofNat 24 s.pkg, srcCell := BitVec.ofNat 24 s.ownCell
             flags := 0#8, seq := 0#16, size := sizeCode 16, payload := head }
  (s.send note).send
    { p with age := 0#8, dst := BitVec.ofNat 24 (pkgOf pa), flags := p.flags &&& 0x7F#8, seq := 0#16, addr := BitVec.ofNat 64 pa
             payload := head ++ p.payload.drop 16 }

/-- The reads of a chain at this package, from read `k` at `pa` with pointer `ptr`. -/
def State.homeChain (p : Packet) (gops : List W64) : Nat → Nat → W64 → Nat → State → Served
  | 0, _, _, _, s => .done s 6 []
  | fuel + 1, k, ptr, pa, s =>
    if !s.here pa then .pass (s.passStep p k ptr pa)
    else
      let at_ (code : Nat) : List Byte := failData k ptr.toNat code
      match s.homeLine p.context pa false fun s => .done s 0 [] with
      | .done s 0 _ =>
        if s.poisoned pa then .done s 3 (at_ 0)
        else
          let bs := s.homeBytes pa (chainRead gops k ptr).2
          if chainSteps gops ≤ k then .done s 0 bs
          else
            let ptr' : W64 := BitVec.ofNat 64 (ofBytes bs) &&& chainMask gops k
            let r := chainRead gops (k + 1) ptr'
            let next (code : Nat) : List Byte := failData (k + 1) ptr'.toNat code
            if r.1.toNat % r.2 ≠ 0 then .done s 4 (next 4)
            else if !s.active p.context then .done s 4 (next 6)
            else
              match s.translateHome (homeDie pa) p.context r.1 .step with
              | .notPresent s => .done s 4 (next 6)
              | .permission s => .done s 4 (next 7)
              | .wait s _ => .wait s
              | .ok s pa' => State.homeChain p gops fuel (k + 1) ptr' pa' s
      | .done s st _ => .done s st (at_ 0)
      | x => x

/-- A STEP packet: the step, the pointer and the chain record (log 18). -/
def State.serveStep (s : State) (p : Packet) : Served :=
  let gops := (List.range 11).map fun k => BitVec.ofNat 64 (p.field (16 + 8 * k) 8)
  State.homeChain p gops 10 (p.field 0 8) (BitVec.ofNat 64 (p.field 8 8)) p.pa s

/-- The store of an STC packet; OP is its size. -/
def State.stcStore (s : State) (p : Packet) : State := s.homeWrite none (cellsAt p.pa ((p.payload.drop 8).take p.op.toNat))

/-- What the home of an STC's counter, in another package, has answered to its decrement, which that home performs with the
rights of the STC's own requester (R229, R361). -/
def State.stcReply (s : State) (p : Packet) (ctr : W64) (home st : Nat) : Served :=
  match st with
  | 0 => .done s 0 []
  | 1 => .wait (s.dropVa (48 * homeDie p.pa) p.context ctr)
  | 2 => .done s 2 (failData ctr.toNat home 8)
  | 3 => .done s 3 (failData ctr.toNat 0 0x0A)
  | 4 => .done s 4 (failData ctr.toNat 0 6)
  | _ => .done s 4 (failData ctr.toNat 0 0x0B)

/-- The decrement of an STC whose counter another package homes (R229). -/
def State.stcFar (s : State) (p : Packet) (pa : Nat) : State :=
  let q := s.mkPacket 0x03#8 0x20#8 pa p.context (unitFlow (homeDie p.pa) (homeSlice p.pa)) (strongFlags .rel (Packet.scope p))
    (toBytes 8 (0#64 - BitVec.ofNat 64 p.op.toNat).toNat)
  s.request { q with srcCell := p.srcCell } (.decrement p.src.toNat p.flow p.tag) true

/-- An STC packet (R229): the store, and then the decrement of the counter its first eight bytes name. The firewall admits its
cell to both: where a home refuses the counter here, nothing is done (R361). -/
def State.serveStc (s : State) (p : Packet) : Served :=
  let ctr : W64 := BitVec.ofNat 64 (p.field 0 8)
  let die := homeDie p.pa
  match s.reqs.find? fun r => r.purpose = .decrement p.src.toNat p.flow p.tag with
  | some r =>
    match r.reply with
    | none => .wait s
    | some (st, _) => State.stcReply { s with reqs := s.reqs.filter fun q => q.tag ≠ r.tag } p ctr r.pkt.dst.toNat st
  | none =>
    s.homeWritable p fun s =>
      match s.translateHome die p.context ctr .store with
      | .wait s _ => .wait s
      | .notPresent s => .done (s.stcStore p) 4 (failData ctr.toNat 0 6)
      | .permission s => .done (s.stcStore p) 4 (failData ctr.toNat 0 7)
      | .ok s pa =>
        if s.here pa then
          if !s.mayWrite pa p.cell then .done s 2 (failData ctr.toNat s.pkg 8)
          else
            match s.readyLine p.context 0#16 (lineOf pa) true with
            | .wait s => .wait s
            | .fail s st => .done s st []
            | .yes s =>
              if s.poisoned pa then .done (s.stcStore p) 3 (failData ctr.toNat 0 0x0A)
              else .done ((s.stcStore p).addHome pa (0#64 - BitVec.ofNat 64 p.op.toNat)) 0 []
        else if s.deadPkg (pkgOf pa) then .done (s.stcStore p) 4 (failData ctr.toNat 0 0x0B)
        else .wait ((s.stcStore p).stcFar p pa)

/-! ### Registers and launches for the host (R318, R368) -/

/-- A register read for the host (R299, R368): PACKAGE, CELL and CYCLE and the privileged registers are the package's own; a
selector that names a group's value, or CTXNUM, names no group here, and is a free value (log 26); any other is refused. -/
def State.hostRead (s : State) (sel : BitVec 8) : Nat × List Byte :=
  match sel.toNat with
  | 0x0D => (0, toBytes 8 s.pkg)
  | 0x0E => (0, toBytes 8 s.ownCell)
  | 0x0F => (0, toBytes 8 s.cycle.toNat)
  | 0x81 => (0, toBytes 8 ((s.freeW 3).toNat % 1024))
  | _ =>
    if privSel sel then (0, toBytes 8 (s.privRead 0#10 sel).toNat)
    else if scalarSel sel || vectorSel sel then (0, toBytes 8 (s.freeW 3).toNat)
    else (4, [])

/-- The selector may be written (R299). -/
def writable (sel : BitVec 8) : Bool := sel == 0x80#8 || sel == 0x82#8 || sel == 0x83#8

/-- A launch for the host (R318): the record's line is read, wherever its home is, and the grid is queued at nesting level 0. -/
def State.launchHost (s : State) (ctx : BitVec 10) (record : Nat) : Served :=
  if !s.active ctx then .done s 6 []
  else if record % 64 ≠ 0 ∨ (s.here record ∧ !s.homed record) then .done s 7 []
  else
    match s.readyLine ctx 0#16 (lineOf record) false with
    | .wait s => .wait s
    | .fail s st => if st = 1 then .wait s else .done s 7 []
    | .yes s =>
      if s.poisoned record then .done s 7 []
      else
        match parseLaunch (s.homeBytes record 64) with
        | none => .done s 5 []
        | some r => if s.gridLimit ctx then .done s 4 [] else .done (s.acceptGrid (s.newGrid r ctx 0 none none)) 0 []

/-- The command of R318 at an address: its status, with its TAG. -/
def State.launchCommand (s : State) (p : Packet) : Served :=
  s.homeLine p.context p.pa false fun s =>
    if s.poisoned p.pa then .done s 3 []
    else
      let bs := s.homeBytes p.pa 24
      match s.launchHost (BitVec.ofNat 10 (fieldAt bs 8 2)) (fieldAt bs 0 8 % 2 ^ 62) with
      | .done s st _ => .done s st ((bs.drop 16).take 8)
      | x => x

/-- A HOST packet for this package (R368): register read 1, register write 2, launch 3. -/
def State.serveHost (s : State) (p : Packet) : Served :=
  let sel := p.addr.extractLsb' 0 8
  let mine := bitsAt p.addr.toNat 20 21 == s.pkg
  match p.op.toNat with
  | 1 => if mine then .done s (s.hostRead sel).1 (s.hostRead sel).2 else .done s 4 []
  | 2 => if mine && writable sel then .done (s.privWrite sel (BitVec.ofNat 64 (p.field 0 8))) 0 [] else .done s 4 []
  | 3 => s.launchCommand p
  | _ => .done s 6 []

/-! ### Requests, reply records (R358, R366, R367) -/

/-- What the home of a request does with it. -/
def State.serve (s : State) (p : Packet) : Served :=
  match p.typ.toNat with
  | 0x01 =>
    if p.op = 1#8 then s.serveLine p true else if Packet.ofHost p then s.serveRead p else s.serveLine p false
  | 0x02 => if p.op = 2#8 then s.serveWriteback p else s.serveWrite p
  | 0x03 => s.serveAtom p
  | 0x04 => s.serveStep p
  | 0x05 => s.serveStc p
  | 0x0F => s.serveHost p
  | _ => .done s 6 []

/-- A packet from this package in answer to another. -/
def State.answerTo (s : State) (p : Packet) (typ op flags : BitVec 8) (data : List Byte) : Packet :=
  { p with
    typ := typ, age := 0#8, dst := p.src, src := BitVec.ofNat 24 s.pkg, srcCell := BitVec.ofNat 24 s.ownCell, flags := flags
    seq := 0#16, op := op, size := sizeCode data.length, payload := padPayload data }

/-- Answers a packet; nothing goes to a dead cell (R364). -/
def State.answer (s : State) (p : Packet) (typ op flags : BitVec 8) (data : List Byte) : State :=
  s.send (s.answerTo p typ op flags data)

/-- The answer to a request of a dead cell: status 5, the one thing it is sent (R364). -/
def State.answerDead (s : State) (p : Packet) (typ : BitVec 8) : State := s.emit (s.answerTo p typ 5#8 0#8 [])

/-- FLAGS of a reply that carries a line: [0] it is held in E, [6] it is poisoned (log 18). -/
def State.replyFlags (s : State) (p : Packet) : BitVec 8 :=
  if p.typ = 0x01#8 ∧ !Packet.ofHost p then
    (if s.dir.any fun e => e.line == lineOf p.pa && e.st == .e then 1#8 else 0#8) |||
      (if s.poisoned p.pa then 0x40#8 else 0#8)
  else 0#8

/-- A reply: RESP, or ABORTACK to a request whose ABORT has come (R367). Nothing is sent to a dead cell (R364). -/
def State.reply (s : State) (p : Packet) (aborted : Bool) (status : Nat) (data : List Byte) : State :=
  if s.dead.any fun c => c.toNat == p.cell then s
  else s.answer p (if aborted then 0x0D#8 else 0x08#8) (BitVec.ofNat 8 status) (s.replyFlags p) data

/-- RETRY with a delay the home chooses (R354; log 27). -/
def State.sendRetry (s : State) (p : Packet) : State := s.answer p 0x09#8 0#8 0#8 [BitVec.ofNat 8 ((s.freeW 1).toNat % 11)]

/-- The home whose records a request uses (R88, R358): the HOU for the operations that R112 places there, and else the slice;
HOUs are numbered 0-15, slices from 16. -/
def recordHome (p : Packet) : Nat :=
  let pa := p.pa
  let slice := 16 + 64 * homeDie pa + homeSlice pa
  match p.typ.toNat with
  | 0x03 => if 0x30 ≤ p.op.toNat ∧ p.op.toNat ≤ 0x32 then slice else homeUnit pa
  | 0x04 | 0x05 => homeUnit pa
  | _ => slice

/-- The record has the key of a packet (R358). -/
def sameKey (p : Packet) (r : ReplyRec) : Bool := r.src == p.src.toNat && r.flow == p.flow && r.tag == p.tag

/-- The record of a request at its home. A chain that comes back to a home that has passed it on comes as a later read, a request
of its own (R231, R358; log 72). -/
def isReply (p : Packet) (r : ReplyRec) : Bool :=
  sameKey p r && recordHome r.req == recordHome p && (p.typ != 0x04#8 || Packet.field r.req 0 8 == p.field 0 8)

/-- A strong request of the same flow to the same home came before, and is not done: requests of one flow are performed in
the order of their numbers (R351). -/
def State.behindFlow (s : State) (p : Packet) (before : Nat) : Bool :=
  p.flags.getLsbD 7 &&
    s.replies.any fun r =>
      r.reply.isNone && !r.passed && decide (r.at_ < before) && r.src == p.src.toNat && r.flow == p.flow &&
        r.req.flags.getLsbD 7 && recordHome r.req == recordHome p

/-- Takes a request at its home: a known one is answered from its record or absorbed, a new one is started. The flag: it was
not refused. -/
def State.accept (s : State) (p : Packet) : State × Bool :=
  match s.replies.find? (isReply p) with
  | some r =>
    match r.reply with
    | some x => (if r.aborted then s else s.reply p false x.1 x.2, true)
    | none => (s, true)
  | none =>
    if 4096 ≤ (s.replies.filter fun r => recordHome r.req = recordHome p).length then (s.sendRetry p, false)
    else
      let at_ := s.nextId
      let s := { s with nextId := s.nextId + 1 }
      let rec_ (x : Option (Nat × List Byte)) (passed : Bool) : ReplyRec := ⟨at_, p.src.toNat, p.flow, p.tag, p, x, false, passed⟩
      if s.behindFlow p at_ then ({ s with replies := s.replies ++ [rec_ none false] }, true)
      else
        match s.serve p with
        | .done s st d => (State.reply { s with replies := s.replies ++ [rec_ (some (st, d)) false] } p false st d, true)
        | .wait s => ({ s with replies := s.replies ++ [rec_ none false] }, true)
        | .busy s => (s.sendRetry p, false)
        | .pass s => ({ s with replies := s.replies ++ [rec_ none true] }, true)

/-- Tries a waiting request of a home again. What a dead cell's request has done stands, and its record goes (R365). -/
def State.retryReply (s : State) (r : ReplyRec) : State :=
  if s.behindFlow r.req r.at_ then s
  else
    match s.serve r.req with
    | .done s st d =>
      if s.dead.any fun c => c.toNat == r.req.cell then { s with replies := s.replies.filter fun x => !isReply r.req x }
      else
        State.reply { s with
          replies := updWhere (isReply r.req) (fun x => { x with reply := some (st, d) }) s.replies } r.req r.aborted st d
    | .wait s => s
    | .busy s => s
    | .pass s => { s with replies := updWhere (isReply r.req) (fun x => { x with passed := true }) s.replies }

end Sys2Proof.Machine
end

