-- ==== Sys2Proof/Machine/Priv.lean ====
section
/-! DEFINITION. Privileged registers and the commands of CTXCTL (13 R299, R300, R312). -/

namespace Sys2Proof.Machine

/-- PRIVILEGED_REGISTER_WRITE (R299). -/
def execPrivilegedRegisterWrite (sel : BitVec 8) (val : W64) (s : State) : Host.Outcome State Fault Refusal :=
  s.ev fun s => s.privWrite sel val

/-! ### CTXCTL (R300) -/

/-- A command of CTXCTL ends with a status, and the next one may run. -/
def State.ctxctlEnd (s : State) (status : W64) : State :=
  { s with ctxctlQueue := s.ctxctlQueue.tail, ctxctlStatus := status }

/-- Runs the command at the head of the queue, if it is `e`: `start` once, when the context's descriptor is read (R297), and
`done` until it says that the command is complete. -/
def State.ctxctlRun (s : State) (e : Instr) (start : State → State) (done : State → State × Bool) : State :=
  match s.ctxctlQueue with
  | [] => s
  | c :: r =>
    if ctxctlEvent c.word ≠ e then s
    else
      let d := done (if c.started then s else start (s.readDesc (c.word.extractLsb' 0 10)))
      if d.2 then d.1.ctxctlEnd 0#64 else { d.1 with ctxctlQueue := { c with started := true } :: r }

/-- Resident teams of a context are saved (R300, R328). -/
def State.suspendTeams (s : State) (ctx : BitVec 10) : State :=
  { s with
    teams := updWhere (fun t => t.ctx == ctx && t.saving.isNone && !t.header) (fun t => { t with saving := some .suspend })
      s.teams }

/-- CTXCTL_SUSPEND (R300). -/
def execCtxctlSuspend (ctx : BitVec 10) (s : State) : Host.Outcome State Fault Refusal :=
  s.ev fun s =>
    s.ctxctlRun (.ctxctlSuspend ctx) (fun s => (s.wrN (s.desc ctx + 10) 1 2).suspendTeams ctx)
      fun s => (s, !(s.teams.any fun t => t.ctx == ctx && t.saving.isSome))

/-- CTXCTL_RESUME (R300). -/
def execCtxctlResume (ctx : BitVec 10) (s : State) : Host.Outcome State Fault Refusal :=
  s.ev fun s => s.ctxctlRun (.ctxctlResume ctx) (fun s => s.wrN (s.desc ctx + 10) 1 1) fun s => (s, true)

/-- CTXCTL_TERMINATE (R312). -/
def execCtxctlTerminate (ctx : BitVec 10) (s : State) : Host.Outcome State Fault Refusal :=
  s.ev fun s => s.ctxctlRun (.ctxctlTerminate ctx) (fun s => s.terminate ctx) fun s => (s, true)

/-! ### The end of an invalidation (R342) -/

/-- An access of a context to another package that has not been answered. -/
def Req.pending (ctx : BitVec 10) (r : Req) : Bool :=
  r.pkt.context == ctx && r.reply.isNone &&
    (match r.purpose with
     | .lane .. | .counter .. | .launch _ | .host _ | .decrement .. => true
     | _ => false)

/-- The tile of a waiting MMA is translated afresh; false where it has no translation now. -/
def State.reTile (ctx : BitVec 10) (x : State × Bool) (m : MmaOp) : State × Bool :=
  match x.1.teams.find? fun t => t.tid = m.team ∧ t.ctx = ctx with
  | none => x
  | some t =>
    match x.1.translate t.core ctx m.t .store with
    | .ok s pa =>
      let put (y : MmaOp) : MmaOp := if y.op = m.op ∧ y.team = m.team ∧ y.group = m.group then { y with tile := pa } else y
      ({ s with
          mma := s.mma.map put
          engines := s.engines.map fun e => { e with places := e.places.map fun p => ⟨p.members.map put⟩ } }, x.2)
    | y => (y.state, false)

/-- Every access of a context that has used a translation has been performed or refused (R342): what is posted is performed
now, or waits for a new walk, the copies that stores have called in have come, the chains that a home here has passed on have
ended, and the MMAs that have not been latched take their tiles' new frames. -/
def State.landedAll (s : State) (ctx : BitVec 10) : State × Bool :=
  let s := (s.posted.filter fun e => e.ctx = ctx).foldl (fun s e => s.ackPosted e.id) s
  let d := (s.mma ++ s.engines.flatMap fun e => e.places.flatMap (·.members)).foldl (State.reTile ctx) (s, true)
  let s := d.1
  (s, d.2 && s.posted.all (fun e => e.ctx != ctx || e.moved) && s.acps.all (fun c => c.ctx != ctx) &&
    s.transit.all (fun c => c.ctx != ctx) && s.engines.all (fun e => e.latched.all fun c => c.ctx != ctx) &&
    s.recalls.isEmpty && !(s.replies.any fun r => r.passed && r.req.context == ctx) && !(s.reqs.any (Req.pending ctx)))

/-- CTXCTL_FLUSH (R300, R342). -/
def execCtxctlFlush (ctx : BitVec 10) (s : State) : Host.Outcome State Fault Refusal :=
  s.ev fun s => s.ctxctlRun (.ctxctlFlush ctx) (fun s => s.invalCtx ctx) fun s => s.landedAll ctx

/-- CTXCTL_INVALID_COMMAND (R300): not performed; the status reads 2. -/
def execCtxctlInvalidCommand (cmd : W64) (s : State) : Host.Outcome State Fault Refusal :=
  s.ev fun s =>
    match s.ctxctlQueue with
    | [] => s
    | c :: _ => if ctxctlEvent c.word = .ctxctlInvalidCommand cmd then s.ctxctlEnd 2#64 else s

end Sys2Proof.Machine
end

