-- ==== Sys2Proof/Machine/Bridge.lean ====
section
/-! DEFINITION. The host bridge: the requests of hosts, in the order of their flows (14 R318; 16 R368). -/

namespace Sys2Proof.Machine

/-- A host request was answered, or waits. -/
inductive HostTry where
  | done (s : State) (status : Nat) (data : List Byte)
  | wait (s : State)

/-- The package lies in the bridge's domain, which has at most 64 packages (R4; log 25). -/
def State.inDomain (s : State) (pkg : Nat) : Bool := pkg == s.pkg || (List.finRange 63).any fun k => Config.domain k == pkg

/-- The ports of a bridge's hosts (R368). -/
def bridgePorts : List Nat := [11, 23, 35, 47]

/-- The flow of a host's requests: kind 3, the host's flow number (R352, R368). -/
def hostFlow (flow : BitVec 12) : BitVec 16 := 0xC000#16 ||| (flow.zeroExtend 16 <<< 2)

/-- The status a host sees: that of R318 or R353, or, for one the requester has made itself, a dropped request (R366). -/
def hostStatus (st : Nat) : Nat := if 7 < st then 6 else st

/-- Performs a packet of the bridge at its home: here, or by a request (R368). A moved request waits and is sent anew. -/
def State.hostAsk (s : State) (flow : BitVec 12) (p : Packet) (f : State → Nat → List Byte → HostTry) : HostTry :=
  if p.dst.toNat = s.pkg then
    match s.serve p with
    | .done s st d => if st = 1 then .wait s else f s st d
    | .wait s => .wait s
    | .busy s => .wait s
    | .pass s => .wait s
  else
    match s.reqs.find? fun r => r.purpose = .host flow with
    | none => if s.deadPkg p.dst.toNat then f s 5 [] else .wait (s.request p (.host flow) true)
    | some r =>
      match r.reply with
      | none => .wait s
      | some (st, d) =>
        let s := { s with reqs := s.reqs.filter fun q => q.tag ≠ r.tag }
        if st = 1 then .wait s else f s (hostStatus st) d

/-- The physical address of a host access: given, or translated with this package's copy (R338, R368). -/
def State.hostAddr (s : State) (h : HostAccess) (a : Access) (f : State → Nat → HostTry) : HostTry :=
  let go (s : State) (pa : Nat) : HostTry := if s.inDomain (pkgOf pa) then f s pa else .done s 4 []
  if h.virt then
    match s.translateHome 0 h.ctx h.addr a with
    | .ok s pa => go s pa
    | .notPresent s => .done s 4 []
    | .permission s => .done s 4 []
    | .wait s _ => .wait s
  else go s (h.addr.toNat % 2 ^ 62)

/-- A packet of the bridge: strong, at system scope (R119, R368). -/
def State.hostPacket (s : State) (flow : BitVec 12) (typ op : BitVec 8) (pa : Nat) (ctx : BitVec 10) (data : List Byte) :
    Packet :=
  s.mkPacket typ op pa ctx (hostFlow flow) 0x8C#8 data

/-- The outcome of a host read. -/
def State.tryHostRead (s : State) (h : HostAccess) : HostTry :=
  s.hostAddr h .load fun s pa =>
    s.hostAsk h.flow (s.hostPacket h.flow 0x01#8 0#8 pa h.ctx []) fun s st d =>
      .done s st ((d.drop (pa % 128)).take h.len)

/-- The outcome of a host write. -/
def State.tryHostWrite (s : State) (h : HostAccess) : HostTry :=
  s.hostAddr h .store fun s pa =>
    s.hostAsk h.flow (s.hostPacket h.flow 0x02#8 (BitVec.ofNat 8 (16 + h.data.length)) pa h.ctx h.data) fun s st _ => .done s st []

/-- The code of a host's atomic, and the bytes of its answer (log 18). -/
def hostCode (h : HostAccess) : BitVec 8 × Nat :=
  match h.op with
  | .rmw op => (if h.len = 8 then atomCode op ||| 0x40#8 else atomCode op, h.len)
  | .casw => (0x10#8, h.data.length / 2)
  | .enq => (0x11#8, 8)
  | .counter => (0x20#8, 8)

/-- The outcome of a host atomic: an HOU operation at system scope (R353, R368). -/
def State.tryHostAtomic (s : State) (h : HostAccess) : HostTry :=
  s.hostAddr h .store fun s pa =>
    s.hostAsk h.flow (s.hostPacket h.flow 0x03#8 (hostCode h).1 pa h.ctx h.data) fun s st d => .done s st (d.take (hostCode h).2)

/-- The address of a register packet (R368). -/
def regAddr (h : HostReg) : Nat := h.pkg.toNat * 2 ^ 41 + h.pkg.toNat * 2 ^ 20 + h.sel.toNat

/-- The outcome of a register access. -/
def State.tryHostReg (s : State) (h : HostReg) (op : BitVec 8) (data : List Byte) : HostTry :=
  if s.inDomain h.pkg.toNat then
    s.hostAsk h.flow (s.hostPacket h.flow 0x0F#8 op (regAddr h) 0#10 data) fun s st d => .done s st (d.take 8)
  else .done s 4 []

/-- The outcome of a launch: the package of ADDR reads the command there, and queues the grid (R318, R368). -/
def State.tryHostLaunch (s : State) (h : HostLaunch) : HostTry :=
  let pa := h.addr.toNat % 2 ^ 62
  if s.inDomain (pkgOf pa) then
    s.hostAsk h.flow (s.hostPacket h.flow 0x0F#8 3#8 pa 0#10 []) fun s st d => .done s st (d.take 8)
  else .done s 4 []

/-- Tries a host request. -/
def State.tryHost (s : State) (j : HostJob) : HostTry :=
  match j with
  | .read h => s.tryHostRead h
  | .write h => s.tryHostWrite h
  | .atomic h => s.tryHostAtomic h
  | .regRead h => s.tryHostReg h 1#8 []
  | .regWrite h => s.tryHostReg h 2#8 (toBytes 8 h.val.toNat)
  | .launch h => s.tryHostLaunch h

/-- The TAG of a host's packet, which its reply carries (R352). -/
def HostJob.tag : HostJob → BitVec 32
  | .read h | .write h | .atomic h => h.tag
  | .regRead h | .regWrite h => h.tag
  | .launch h => h.tag

/-- The bridge's answer to a host. -/
def State.hostAnswer (s : State) (flow : BitVec 12) (j : HostJob) (status : Nat) (data : List Byte) : State :=
  { s with outbox := s.outbox ++ [.hostReply flow j.tag status data] }

/-- This package runs the host-bridge function (R358), and a port to its hosts is up (R368, R377). -/
def State.isBridge (s : State) : Bool := (s.rd (s.fcb + 12) 1).testBit 0 && bridgePorts.any fun p => !s.portsDown.contains p

/-- The request writes. -/
def HostJob.writes : HostJob → Bool
  | .write _ | .atomic _ | .regWrite _ => true
  | .read _ | .regRead _ | .launch _ => false

/-- A request goes behind an earlier one: any of its flow (R368), and, for a launch, every write (R318; log 43). -/
def HostJob.behind (j : HostJob) (flow : BitVec 12) (q : HostReq) : Bool :=
  q.flow == flow ||
    match j with
    | .launch _ => q.job.writes
    | _ => false

/-- A request of a host waits its turn. -/
def State.hostWait (s : State) (flow : BitVec 12) (j : HostJob) : State :=
  { s with hostq := s.hostq ++ [⟨s.nextId, flow, j⟩], nextId := s.nextId + 1 }

/-- A host request comes on a flow: it is tried when nothing waits that it goes behind, and else waits its turn (R318, R368). An
update by the host may have left a resume counter at 0 (R311). Nothing is accepted before the join (R377). -/
def State.hostArrive (s : State) (flow : BitVec 12) (j : HostJob) : State :=
  if !s.isBridge || (s.power == .running && !s.joined) then s
  else if s.hostq.any (j.behind flow) then s.hostWait flow j
  else
    match s.tryHost j with
    | .done s st d => (s.hostAnswer flow j st d).latchResume
    | .wait s => s.hostWait flow j

/-! ### What waits at a home, in the order of arrival (R357) -/

/-- Something that waits for a line of this package, or at its bridge: a request of another package, an addition to a
counter, a host's request, an operation of a group, a posted store. -/
inductive Waiter where
  | reply (r : ReplyRec)
  | add (a : Addition)
  | host (q : HostReq)
  | op (at_ : GroupRef) (id : Nat) (pend : Mask)
  | posted (id : Nat)

/-- Tries a waiter again; a host's request only when it goes behind no earlier one (R318, R368). -/
def State.tryWaiter (s : State) : Waiter → State
  | .reply r => s.retryReply r
  | .add a => s.retryAdd a
  | .host q =>
    if !(s.hostq.any fun x => x.at_ == q.at_) || (s.hostq.takeWhile fun x => x.at_ != q.at_).any (q.job.behind q.flow) then s
    else
      match s.tryHost q.job with
      | .done s st d => State.hostAnswer { s with hostq := s.hostq.filter fun x => x.at_ ≠ q.at_ } q.flow q.job st d
      | .wait s => s
  | .op r id pend => s.complete r id pend
  | .posted id => s.ackPosted id

/-- Puts a numbered waiter in its place. -/
def insertWaiter (x : Nat × Waiter) : List (Nat × Waiter) → List (Nat × Waiter)
  | [] => [x]
  | y :: r => if x.1 ≤ y.1 then x :: y :: r else y :: insertWaiter x r

/-- What waits, in the order in which it came; of the groups' own accesses, those that a line concerns: its posted stores, and
the lanes of the operations in flight. -/
def State.waiters (s : State) (line : Option Nat) : List (Nat × Waiter) :=
  let homes := ((s.replies.filter fun r => r.reply.isNone && !r.passed).map fun r => (r.at_, Waiter.reply r)) ++
    (s.adds.map fun a => (a.at_, Waiter.add a)) ++ s.hostq.map fun q => (q.at_, Waiter.host q)
  let own := match line with
    | none => []
    | some l =>
      ((s.posted.filter fun e => e.bytes.any fun c => lineOf c.1 == l).map fun e => (e.id, Waiter.posted e.id)) ++
        s.teams.flatMap fun t => t.groups.flatMap fun g =>
          (g.ops.filter fun o => o.isOpen && !o.failed && !o.instr.isLongFloat && !o.instr.isMma).map fun o =>
            (o.id, Waiter.op ⟨t.tid, g.id⟩ o.id o.pend)
  (homes ++ own).foldr insertWaiter []

/-- Requests that a full flow held leave, as far as it has room (R350); and everything that waits is tried, a line that has come
or is free again being used before it can be called away (R95, R108, R357); tiles whose lines are here close (R254), and an update
may have left a resume counter at 0 (R311). -/
def State.pumpLine (s : State) (line : Option Nat) : State :=
  let s := s.sendHeld
  let s := (s.waiters line).foldl (fun s w => s.tryWaiter w.2) s
  ((s.tiles.map (·.id)).foldl State.closeReady s).latchResume

/-- Tries everything that waits at a home or at the bridge. -/
def State.pump (s : State) : State := s.pumpLine none

/-- HOST_LAUNCH (R318). -/
def execHostLaunch (h : HostLaunch) (s : State) : Host.Outcome State Fault Refusal :=
  s.ev fun s => s.hostArrive h.flow (.launch h)

/-- HOST_READ (R368). -/
def execHostRead (h : HostAccess) (s : State) : Host.Outcome State Fault Refusal :=
  s.ev fun s => s.hostArrive h.flow (.read h)

/-- HOST_WRITE (R368). -/
def execHostWrite (h : HostAccess) (s : State) : Host.Outcome State Fault Refusal :=
  s.ev fun s => s.hostArrive h.flow (.write h)

/-- HOST_ATOMIC (R368). -/
def execHostAtomic (h : HostAccess) (s : State) : Host.Outcome State Fault Refusal :=
  s.ev fun s => s.hostArrive h.flow (.atomic h)

/-- HOST_REGISTER_READ (R368). -/
def execHostRegisterRead (h : HostReg) (s : State) : Host.Outcome State Fault Refusal :=
  s.ev fun s => s.hostArrive h.flow (.regRead h)

/-- HOST_REGISTER_WRITE (R368). -/
def execHostRegisterWrite (h : HostReg) (s : State) : Host.Outcome State Fault Refusal :=
  s.ev fun s => s.hostArrive h.flow (.regWrite h)

end Sys2Proof.Machine
end

