-- ==== Sys2Proof/Machine/Control.lean ====
section
/-! DEFINITION. The control instructions (06 R168-R178), with the exception entries of BPT and SVC (13 R301, R313-R315). -/

namespace Sys2Proof.Machine

/-- A control word acting in its active lanes, after which it advances the others (R168): `f` places the active lanes. -/
def State.flow (s : State) (i : Instr) (guard : BitVec 7) (f : Mask → Group → Group) :
    Host.Outcome State Fault Refusal :=
  s.issueWord i fun s =>
    let act := s.iss.mask &&& s.g.pred guard
    let bad := s.g.badLanes i act
    let s' := s.commit
    let s' := s'.setG (f (act &&& ~~~bad) (s'.g.advance (s.iss.mask &&& ~~~act)))
    if bad = 0#32 then s' else s'.registerFault (s.g.badReg i bad) bad act

/-- A new LPC relative to the branch (R169, R185). -/
def relTarget (lpc : W32) (off : W32) : W32 := lpc + off

/-- The active lanes at which the depth cannot change: 255 for a call, 0 for a return (R20). -/
def Group.depthEdge (g : Group) (m : Mask) (d : BitVec 8) : Mask := m &&& maskOf fun l => g.dep[l] == d

/-- A call of the active lanes (R171): link, depth, target. -/
def Group.callLanes (g : Group) (m : Mask) (d : BitVec 7) (target : Fin 32 → W32) : Group :=
  { (g.setV m (reg7 d) fun l => g.lpc[l] + 1#32) with
    dep := laneUpd g.dep m fun l => g.dep[l] + 1#8
    lpc := laneUpd g.lpc m target }

/-- A control word some of whose active lanes, `edge`, take the depth-overflow fault in a direction (R171, R172). Where other
active lanes read a bad register, R379 ranks neither fault: one record of code 0x09 reports both sets of lanes, and those
that overflow meet their own fault when they issue the word again (log 59). -/
def State.depthWord (s : State) (i : Instr) (guard : BitVec 7) (edge : BitVec 8) (dir : W64) (f : Mask → Group → Group) :
    Host.Outcome State Fault Refusal :=
  s.issueWord i fun s =>
    let act := s.iss.mask &&& s.g.pred guard
    let bad := s.g.badLanes i act
    let stuck := s.g.depthEdge (act &&& ~~~bad) edge
    let s' := s.commit
    let s' := s'.setG (f (act &&& ~~~bad &&& ~~~stuck) (s'.g.advance (s.iss.mask &&& ~~~act)))
    if bad ≠ 0#32 then s'.registerFault (s.g.badReg i bad) (bad ||| stuck) act
    else if stuck ≠ 0#32 then s'.laneFault 0x03#8 stuck act dir
    else s'

/-- NOP (R175). -/
def execNop (w : EGuard) (s : State) : Host.Outcome State Fault Refusal :=
  s.vec (.nop w) w.guard fun _ g => g

/-- BRA (R169). -/
def execBra (w : WBranch) (s : State) : Host.Outcome State Fault Refusal :=
  s.flow (.bra w) w.guard fun m g => g.jump m fun l => relTarget g.lpc[l] (w.imm.signExtend 32)

/-- BRX (R170). -/
def execBrx (w : WIndirect) (s : State) : Host.Outcome State Fault Refusal :=
  s.flow (.brx w) w.guard fun m g => g.jump m fun l => g.src w.a l

/-- CALL (R171). -/
def execCall (w : WCall) (s : State) : Host.Outcome State Fault Refusal :=
  s.depthWord (.call w) w.guard 255#8 0#64 fun m g =>
    g.callLanes m w.d fun l => relTarget g.lpc[l] (w.imm.signExtend 32)

/-- CALLX (R171): the target is read before the link is written. -/
def execCallx (w : WUn) (s : State) : Host.Outcome State Fault Refusal :=
  s.depthWord (.callx w) w.guard 255#8 0#64 fun m g => g.callLanes m w.d fun l => g.src w.a l

/-- RET (R172). -/
def execRet (w : WIndirect) (s : State) : Host.Outcome State Fault Refusal :=
  s.depthWord (.ret w) w.guard 0#8 1#64 fun m g =>
    { g with dep := laneUpd g.dep m fun l => g.dep[l] - 1#8, lpc := laneUpd g.lpc m fun l => g.src w.a l }

/-- EXIT (R28, R173). The LPC of a lane that exits moves past the EXIT with the other issuing lanes' (log 60). A group
whose lanes have all exited retires in an event of its own. -/
def execExit (w : EGuard) (s : State) : Host.Outcome State Fault Refusal :=
  s.issueWord (.exit w) fun s =>
    let act := s.iss.mask &&& s.g.pred w.guard
    let s := s.commit
    let s := s.setG ((s.g.advance s.iss.mask).setLane act .exited)
    if s.g.exited = BitVec.allOnes 32 then s.pushDue (.groupRetire s.me) else s

/-- YIELD (R22). -/
def execYield (w : EGuard) (s : State) : Host.Outcome State Fault Refusal :=
  s.vec (.yield w) w.guard fun m g => { g with yielded := g.yielded ||| m }

/-- BPT (R176): every issuing lane advances, and the group takes the breakpoint trap, POS 3, once every earlier instruction has
taken its full effect (R38, R146). -/
def execBpt (w : WBpt) (s : State) : Host.Outcome State Fault Refusal :=
  s.issueWord (.bpt w) fun s =>
    let act := s.iss.mask &&& s.g.pred w.guard
    let s := s.commit
    let s := s.setG (s.g.advance s.iss.mask)
    if act = 0#32 then s
    else
      s.stopFault
        { code := 0x0D#8, pos := 3#8, lpc := s.iss.key.lpc, lanes := act, active := act, waitm := s.iss.waitm
          addr := 0#64, detail := w.code.zeroExtend 64, cycle := s.cycle }

/-! ### Service calls (R313-R315) -/

/-- The argument block of a lane: v(a) to v(a + 15) (R177). -/
def Group.argBlock (g : Group) (a : BitVec 7) (l : Fin 32) : List Byte :=
  (List.range 16).flatMap fun k => toBytes 4 (g.vr (regUp a k) l).toNat

/-- The calling lanes reserve their slots and park (R34, R314). The slots are written at once, or, while writes before the call or
the slots of an earlier call are outstanding, in flight. -/
def State.serviceCall (s : State) (w : WSvc) (act : Mask) : State :=
  let ctx := s.t.ctx
  let count := s.ringTail ctx
  let o := s.newOp (.svc w) act act 0 0#32 (Vector.ofFn fun l => laneOpOf 0#64 0#64 (s.g.argBlock w.a l)) [BitVec.ofNat 64 count]
  let d := s.flushed .sys
  if s.gate o && s.reserved ctx == 0 && d.2 then
    (d.1.parkCall act).writeSlots w.d act s.iss.key.lpc (s.g.argBlock w.a) count
  else (d.1.parkCall act).launch o false

/-- The outcome of a call for its active lanes (R177, R314): parked with their slots, or an error status. -/
def State.callLanes (s : State) (w : WSvc) (act : Mask) : State :=
  if act = 0#32 then s
  else if s.ringBase s.t.ctx = 0 then s.setG (s.g.setV act (reg7 w.d) fun _ => 0xFFFF_FFF1#32)
  else if s.ringRoom s.t.ctx (lanesOf act).length then s.serviceCall w act
  else s.setG (s.g.setV act (reg7 w.d) fun _ => 0xFFFF_FFF0#32)

/-- SVC (R177, R314): every issuing lane advances. A ring whose lines are not here yet leaves the word where it is: it has
not issued (R31). -/
def execSvc (w : WSvc) (s : State) : Host.Outcome State Fault Refusal :=
  match s.ringReady (lanesOf (s.iss.mask &&& s.g.pred w.guard)).length with
  | .wait s' | .fail s' _ => if s.power = .off then .fault .moduleOff else .next s'
  | .yes s' => s'.vecThen (.svc w) w.guard fun act s => s.callLanes w act

end Sys2Proof.Machine
end

