-- ==== Sys2Proof/Machine/CrossLane.lean ====
section
/-! DEFINITION. The cross-lane and predicate instructions (07 R208-R215; 03 R79, R80). -/

namespace Sys2Proof.Machine

/-! ### Combinations (R79, R80, R131) -/

def onLow (f : W32 → W32 → W32) (a b : W64) : W64 × Flags :=
  ((f (a.extractLsb' 0 32) (b.extractLsb' 0 32)).zeroExtend 64, 0#5)

def onFloat (f : Nat → Nat → Nat × Flags) (a b : W64) : W64 × Flags :=
  let r := f a.toNat b.toNat
  (BitVec.ofNat 64 r.1, r.2)

/-- The two-operand form of an operation; `a` comes from the lower lane. -/
def redApply (op : RedOp) (mode : RMode) (a b : W64) : W64 × Flags :=
  match op with
  | .add => onLow (fun x y => x + y) a b
  | .min => onLow (fun x y => if x.slt y then x else y) a b
  | .max => onLow (fun x y => if x.slt y then y else x) a b
  | .minU => onLow (fun x y => if x.ult y then x else y) a b
  | .maxU => onLow (fun x y => if x.ult y then y else x) a b
  | .and => onLow (fun x y => x &&& y) a b
  | .or => onLow (fun x y => x ||| y) a b
  | .xor => onLow (fun x y => x ^^^ y) a b
  | .add64 => (a + b, 0#5)
  | .addF32 => onFloat (fAdd fmtF32 mode) a b
  | .minF32 => onFloat (fMinMax fmtF32 false) a b
  | .maxF32 => onFloat (fMinMax fmtF32 true) a b
  | .addF64 => onFloat (fAdd fmtF64 mode) a b
  | .minF64 => onFloat (fMinMax fmtF64 false) a b
  | .maxF64 => onFloat (fMinMax fmtF64 true) a b

/-- The identity of an operation (R80). -/
def redIdentity (op : RedOp) : W64 :=
  match op with
  | .add | .or | .xor | .maxU | .add64 | .addF32 | .addF64 => 0#64
  | .and | .minU => 0xFFFF_FFFF#64
  | .min => 0x7FFF_FFFF#64
  | .max => 0x8000_0000#64
  | .minF32 => 0x7F80_0000#64
  | .maxF32 => 0xFF80_0000#64
  | .minF64 => 0x7FF0_0000_0000_0000#64
  | .maxF64 => 0xFFF0_0000_0000_0000#64

/-- combine of R79: an empty node takes no part. -/
def combine (op : RedOp) (mode : RMode) (a b : Option W64) : Option W64 × Flags :=
  match a, b with
  | none, b => (b, 0#5)
  | a, none => (a, 0#5)
  | some a, some b =>
    let r := redApply op mode a b
    (some r.1, r.2)

/-- The tree of R79 over 2^k nodes. -/
def redTree (op : RedOp) (mode : RMode) : Nat → List (Option W64) → Option W64 × Flags
  | 0, xs => (xs.headD none, 0#5)
  | k + 1, xs =>
    let ys := List.zipWith (combine op mode) (xs.take (2 ^ k)) (xs.drop (2 ^ k))
    let r := redTree op mode k (ys.map (·.1))
    (r.1, ys.foldl (fun f y => f ||| y.2) r.2)

/-- The rounds of R80, at distances 1, 2, 4, ... -/
def scanRounds (op : RedOp) (mode : RMode) : Nat → Nat → List (Option W64) → List (Option W64) × Flags
  | 0, _, xs => (xs, 0#5)
  | k + 1, d, xs =>
    let ys := List.zipWith (combine op mode) xs (xs.drop d)
    let r := scanRounds op mode k (2 * d) (xs.take d ++ ys.map (·.1))
    (r.1, ys.foldl (fun f y => f ||| y.2) r.2)

/-- The contributions of the active lanes (R208). -/
def Group.contributions (g : Group) (m : Mask) (op : RedOp) (a : VSrc) : List (Option W64) :=
  lanes.map fun l =>
    if m.getLsbD l.val then some (if op.is64 then g.src64 a l else (g.src a l).zeroExtend 64) else none

/-! ### The instructions -/

/-- VOTE.ALL, VOTE.ANY: the scalar predicate, when some lane is active (R208, R210). -/
def State.vote (s : State) (i : Instr) (w : WVote) (f : Mask → Mask → Bool) : Host.Outcome State Fault Refusal :=
  s.cross i w.guard fun m g => if m = 0#32 then g else g.setQ w.q (f m (g.pred w.p &&& m))

/-- VOTE.ALL (R210). -/
def execVoteAll (w : WVote) (s : State) : Host.Outcome State Fault Refusal := s.vote (.voteAll w) w fun m x => x == m

/-- VOTE.ANY (R210). -/
def execVoteAny (w : WVote) (s : State) : Host.Outcome State Fault Refusal := s.vote (.voteAny w) w fun _ x => x != 0#32

/-- A scalar destination written when some lane is active (R208). -/
def Group.putOnce (g : Group) (m : Mask) (d : BitVec 9) (x : W64) : Group := if m = 0#32 then g else g.setS (reg9 d) x

/-- VOTE.BAL (R210). -/
def execVoteBal (w : WBallot) (s : State) : Host.Outcome State Fault Refusal :=
  s.cross (.voteBal w) w.guard fun m g => g.putOnce m w.s ((g.pred w.p &&& m).zeroExtend 64)

/-- PPOPC (R210). -/
def execPpopc (w : WBallot) (s : State) : Host.Outcome State Fault Refusal :=
  s.cross (.ppopc w) w.guard fun m g => g.putOnce m w.s (BitVec.ofNat 64 (popBits (g.pred w.p &&& m).toNat 32))

/-- FIRSTLANE (R210). -/
def execFirstlane (w : WFirst) (s : State) : Host.Outcome State Fault Refusal :=
  s.cross (.firstlane w) w.guard fun m g => g.putOnce m w.s (BitVec.ofNat 64 (lowLane m).val)

/-- The mask LANEMASK gives a lane (R211). -/
def laneMask (sel : MaskSel) (act run : Mask) (l : Fin 32) : Mask :=
  let eq : Mask := 1#32 <<< l.val
  let lt : Mask := eq - 1#32
  match sel with
  | .eq => eq
  | .lt => lt
  | .le => lt ||| eq
  | .gt => ~~~(lt ||| eq)
  | .ge => ~~~lt
  | .act => act
  | .run => run

/-- LANEMASK (R211). -/
def execLanemask (w : WMask) (s : State) : Host.Outcome State Fault Refusal :=
  s.cross (.lanemask w) w.guard fun m g => g.setV m (reg7 w.d) fun l => laneMask w.sel m g.runnable l

/-- The active lanes whose value is that of lane `l` (R212). -/
def equalTo {α : Type} [DecidableEq α] (m : Mask) (f : Fin 32 → α) (l : Fin 32) : Mask := m &&& maskOf fun j => decide (f j = f l)

/-- EQMASK (R212). -/
def execEqmask (w : WUn) (s : State) : Host.Outcome State Fault Refusal :=
  s.cross (.eqmask w) w.guard fun m g => g.setV m (reg7 w.d) fun l => equalTo m (g.src w.a) l

/-- EQMASK.64 (R212). -/
def execEqmask64 (w : WUn) (s : State) : Host.Outcome State Fault Refusal :=
  s.cross (.eqmask64 w) w.guard fun m g => g.setV m (reg7 w.d) fun l => equalTo m (g.src64 w.a) l

/-- Every active lane holds one value; a mask without lanes leaves the predicate alone (R212). -/
def Group.putUniform (g : Group) (m : Mask) (q : BitVec 4) (eq : Fin 32 → Mask) : Group :=
  if m = 0#32 then g else g.setQ q ((lanesOf m).all fun l => eq l == m)

/-- EQUNI (R212). -/
def execEquni (w : WUni) (s : State) : Host.Outcome State Fault Refusal :=
  s.cross (.equni w) w.guard fun m g => g.putUniform m w.q (equalTo m (g.src w.a))

/-- EQUNI.64 (R212). -/
def execEquni64 (w : WUni) (s : State) : Host.Outcome State Fault Refusal :=
  s.cross (.equni64 w) w.guard fun m g => g.putUniform m w.q (equalTo m (g.src64 w.a))

/-- REDUCE (R79, R213). -/
def execReduce (w : WReduce) (s : State) : Host.Outcome State Fault Refusal :=
  s.cross (.reduce w) w.guard fun m g =>
    let r := redTree w.op (rmOf g.fpctl) 5 (g.contributions m w.op w.a)
    match r.1 with
    | none => g
    | some x => (g.setS (reg9 w.s) x).raise r.2

/-- The highest active lane below a lane. -/
def laneBelow (m : Mask) (l : Fin 32) : Option (Fin 32) := ((lanesOf m).filter fun j => j < l).getLast?

/-- SCAN (R80, R214). -/
def State.scan (s : State) (i : Instr) (w : WScan) (exclusive : Bool) : Host.Outcome State Fault Refusal :=
  s.cross i w.guard fun m g =>
    let r := scanRounds w.op (rmOf g.fpctl) 5 1 (g.contributions m w.op w.a)
    let at_ : Fin 32 → W64 := fun l => ((r.1[l.val]?).join).getD 0#64
    let val : Fin 32 → W64 := fun l =>
      if exclusive then
        match laneBelow m l with
        | some j => at_ j
        | none => redIdentity w.op
      else at_ l
    (g.setWide w.op.is64 m w.d val).raise r.2

/-- SCAN.INC (R214). -/
def execScanInc (w : WScan) (s : State) : Host.Outcome State Fault Refusal := s.scan (.scanInc w) w false

/-- SCAN.EXC (R214). -/
def execScanExc (w : WScan) (s : State) : Host.Outcome State Fault Refusal := s.scan (.scanExc w) w true

/-- Predicate logic: the result, then its complement (R215). -/
def State.plogic (s : State) (i : Instr) (w : WPred) (f : Mask → Mask → Mask) : Host.Outcome State Fault Refusal :=
  s.cross i w.guard fun m g =>
    let t := f (g.pred w.pa) (g.pred w.pb)
    (g.setP m w.pd t).setP m w.pc (~~~t)

/-- PAND (R215). -/
def execPand (w : WPred) (s : State) : Host.Outcome State Fault Refusal := s.plogic (.pand w) w fun a b => a &&& b

/-- POR (R215). -/
def execPor (w : WPred) (s : State) : Host.Outcome State Fault Refusal := s.plogic (.por w) w fun a b => a ||| b

/-- PXOR (R215). -/
def execPxor (w : WPred) (s : State) : Host.Outcome State Fault Refusal := s.plogic (.pxor w) w fun a b => a ^^^ b

/-- PMOV (R215). -/
def execPmov (w : WPred1) (s : State) : Host.Outcome State Fault Refusal :=
  s.cross (.pmov w) w.guard fun m g => (g.setP m w.pd (g.pred w.pa)).setP m w.pc (~~~(g.pred w.pa))

end Sys2Proof.Machine
end

