-- ==== Sys2Proof/Machine/Fabric.lean ====
section
/-! DEFINITION. Packets as they arrive: sequencing, replies, retries, timers and aborts, coherence, and cells that die
(08 R233; 16 R350-R367). -/

namespace Sys2Proof.Machine

/-! ### What is discarded (R353, R364) -/

/-- The packet breaks R353: an unknown type, a reserved bit or size, or another destination. -/
def State.badPacket (s : State) (p : Packet) : Bool :=
  p.typ.toNat == 0 || decide (0x0F < p.typ.toNat) || bitsAt p.dst.toNat 21 3 != 0 || bitsAt p.src.toNat 21 3 != 0 ||
    bitsAt p.srcCell.toNat 21 3 != 0 || bitsAt p.ctx.toNat 10 6 != 0 || decide (5 < p.size.toNat) ||
    bitsAt p.addr.toNat 62 2 != 0 || p.dst.toNat != s.pkg

/-- Counts a discarded packet in DISCARDS (R353, R358). -/
def State.discard (s : State) : State := s.wrN (s.fcb + 64) 8 (s.rd (s.fcb + 64) 8 + 1)

/-- The package takes a packet in (R376, R377): once it has joined, any; in service mode, in which it never joins, only what its
domain's bridge sends for a host, and the bridge's ACK and ABORT. -/
def State.admits (s : State) (p : Packet) : Bool :=
  match s.power with
  | .running => s.joined
  | .service => p.src.toNat == s.policy.bridge && Packet.ofHost p && [0x01, 0x02, 0x03, 0x0A, 0x0C, 0x0F].contains p.typ.toNat
  | .off => false

/-- A packet of a type arrives: a bad one is discarded. -/
def State.gateway (s : State) (typ : BitVec 8) (p : Packet) (f : State → State) : State :=
  if p.typ ≠ typ ∨ s.badPacket p then s.discard
  else if !s.admits p then s
  else f s

/-- The packet comes from a cell declared dead. -/
def State.fromDead (s : State) (p : Packet) : Bool := s.dead.any fun c => c.toNat == p.cell

/-! ### Sequencing (R350, R351) -/

/-- The state of the flow a packet comes on. -/
def State.flowOf (s : State) (p : Packet) : FlowIn :=
  (s.flowsIn.find? fun f => f.src = p.src.toNat ∧ f.flow = p.flow).getD ⟨p.src.toNat, p.flow, 0#16, none, []⟩

def State.putFlow (s : State) (f : FlowIn) : State :=
  { s with flowsIn := f :: s.flowsIn.filter fun x => !(x.src == f.src && x.flow == f.flow) }

/-- Packets held early on a die's gateway. -/
def State.earlyOn (s : State) (flow : BitVec 16) : Nat :=
  ((s.flowsIn.filter fun f => f.flow.toNat % 4 = flow.toNat % 4).map fun f => f.early.length).sum

/-- Passes held packets on, as long as the next number is among them; an ABORT held in place of its request is passed over. -/
def State.passEarly (s : State) (src : Nat) (flow : BitVec 16) : Nat → State
  | 0 => s
  | fuel + 1 =>
    match s.flowsIn.find? fun f => f.src = src ∧ f.flow = flow with
    | none => s
    | some f =>
      match f.early.find? fun q => q.seq = f.expect with
      | none => s
      | some q =>
        let rest := f.early.filter fun x => x.seq ≠ q.seq
        if q.typ = 0x0C#8 then
          State.passEarly (s.putFlow { f with expect := f.expect + 1#16, early := rest }) src flow fuel
        else
          let r := s.accept q
          if r.2 then State.passEarly (r.1.putFlow { f with expect := f.expect + 1#16, early := rest }) src flow fuel
          else r.1.putFlow { f with refusing := some q.seq, early := rest }

/-- Two numbers of a flow: how far one lies past what is expected. -/
def FlowIn.ahead (f : FlowIn) (seq : BitVec 16) : Nat := (seq - f.expect).toNat

/-- The request refused first, when another is refused. -/
def FlowIn.refuse (f : FlowIn) (seq : BitVec 16) : FlowIn :=
  match f.refusing with
  | some r => if f.ahead seq < f.ahead r then { f with refusing := some seq } else f
  | none => { f with refusing := some seq }

/-- The request is no longer refused. -/
def FlowIn.took (f : FlowIn) (seq : BitVec 16) : FlowIn := if f.refusing = some seq then { f with refusing := none } else f

/-- A sequenced request at the destination gateway (R350, R351). One whose number has gone by is answered from its record, or
with RETRY: no request is dropped in silence (R356). -/
def State.sequence (s : State) (p : Packet) : State :=
  let f := s.flowOf p
  let d := f.ahead p.seq
  if 32768 ≤ d then (if s.replies.any (isReply p) then (s.accept p).1 else s.sendRetry p)
  else if f.refusing.any fun r => decide (f.ahead r < d) then s.sendRetry p
  else if d = 0 then
    let r := s.accept p
    if r.2 then State.passEarly (r.1.putFlow { (f.took p.seq) with expect := f.expect + 1#16 }) f.src f.flow (f.early.length + 1)
    else r.1.putFlow (f.refuse p.seq)
  else if f.early.any fun q => q.seq = p.seq then s
  else if 256 ≤ s.earlyOn p.flow then (s.putFlow (f.refuse p.seq)).sendRetry p
  else s.putFlow { (f.took p.seq) with early := f.early ++ [p] }

/-- A request arrives (R353). One of a dead cell is answered with status 5, and its write-backs are discarded (R364). -/
def State.arriveRequest (s : State) (typ : BitVec 8) (p : Packet) : State :=
  s.gateway typ p fun s =>
    if s.fromDead p then (if typ = 0x02#8 ∧ p.op = 2#8 then s else s.answerDead p 0x08#8)
    else if p.flags.getLsbD 7 then (s.sequence p).pump
    else (s.accept p).1.pump

/-- RD (R353). -/
def execRd (p : Packet) (s : State) : Host.Outcome State Fault Refusal := s.ev fun s => s.arriveRequest 0x01#8 p

/-- WR (R353). -/
def execWr (p : Packet) (s : State) : Host.Outcome State Fault Refusal := s.ev fun s => s.arriveRequest 0x02#8 p

/-- ATOM_PACKET (R357). -/
def execAtomPacket (p : Packet) (s : State) : Host.Outcome State Fault Refusal := s.ev fun s => s.arriveRequest 0x03#8 p

/-- STEP (R231). -/
def execStep (p : Packet) (s : State) : Host.Outcome State Fault Refusal := s.ev fun s => s.arriveRequest 0x04#8 p

/-- STC_PACKET (R229). -/
def execStcPacket (p : Packet) (s : State) : Host.Outcome State Fault Refusal := s.ev fun s => s.arriveRequest 0x05#8 p

/-- HOST_PACKET (R368). -/
def execHostPacket (p : Packet) (s : State) : Host.Outcome State Fault Refusal := s.ev fun s => s.arriveRequest 0x0F#8 p

/-! ### Coherence (R359) -/

/-- What the package has asked for of a line, and has not been answered, is older than the COH that calls the line in: the
answer is not used (R359). -/
def State.voidLine (s : State) (line : Nat) : State :=
  { s with
    reqs := s.reqs.map fun r =>
      match r.purpose with
      | .fill l | .own l | .prefetch l _ => if l = line ∧ r.reply.isNone then { r with void := true } else r
      | _ => r }

/-- A holder's answer to COH: it carries the line when it was held in M or O, or while its write-back is not answered. OP 2
asks for the data alone: a modified line stays in O, a clean one in S. A line that an open tile holds is given up too, with
unpredictable bytes, and FLAGS[5] says so; the tile takes it for writing again when it closes (R117, R253; log 66). -/
def State.answerCoh (s : State) (p : Packet) : State :=
  let line := lineOf p.pa
  let s := ((s.finishPairs line).latchLine line).voidLine line
  let st := s.llcState line
  let back := s.reqs.any fun r => r.purpose == .writeback line
  let data := if st = some .m ∨ st = some .o ∨ back then s.homeBytes line 128 else []
  let flags : BitVec 8 := (if s.poisoned line ∧ data ≠ [] then 0x40#8 else 0#8) ||| (if (s.tileAt line).isSome then 0x20#8 else 0#8)
  let s' : State :=
    if p.op = 2#8 then
      { s with llc := updWhere (fun l => l.line == line) (fun l => { l with st := if l.st = .m then .o else if l.st = .e then .s else l.st }) s.llc }
    else { s.dropLine line with llc := s.llc.filter fun l => l.line ≠ line }
  s'.send { s.answerTo p 0x07#8 p.op flags [] with size := sizeCode data.length, payload := data }

/-- COH (R359). -/
def execCoh (p : Packet) (s : State) : Host.Outcome State Fault Refusal :=
  s.ev fun s => s.gateway 0x06#8 p fun s => s.answerCoh p

/-- Takes a package off a recall, which may end it. -/
def State.unrecall (s : State) (r : Recall) (pkg : Nat) : State :=
  let r' := { r with wait := r.wait.filter (· ≠ pkg) }
  if r'.wait = [] then s.recalled r' else { s with recalls := updWhere (fun x => x.line == r.line) (fun _ => r') s.recalls }

/-- A COHACK: the data of a package that still owns the line makes home memory current, unless the recall discards it; the last
one ends the recall. One that is not awaited is discarded. -/
def State.takeCohack (s : State) (p : Packet) : State :=
  let line := lineOf p.pa
  let who := p.src.toNat
  match s.recalls.find? fun r => r.line = line ∧ r.wait.contains who with
  | none => s
  | some r =>
    let owns := s.dir.any fun e => e.line == line && e.owner == some who
    let dirty := decide (128 ≤ p.payload.length) && r.kind != .drop && owns
    let s := if dirty then s.takeLine p else s
    let s := if p.flags.getLsbD 5 then { s with openFar := (line, who) :: s.openFar.filter (· ≠ (line, who)) } else s
    -- an owner in E that sends data has written the line
    let s := { s with dir := updWhere (fun e => e.line == line && e.st == DirState.e && dirty) (fun e => { e with st := DirState.m }) s.dir }
    (s.unrecall r who).pumpLine (some line)

/-- COHACK (R359): one of a dead cell is discarded (R364). -/
def execCohack (p : Packet) (s : State) : Host.Outcome State Fault Refusal :=
  s.ev fun s => s.gateway 0x07#8 p fun s => if s.fromDead p then s else s.takeCohack p

/-! ### Replies (R353, R358) -/

/-- A line of another package arrives with its bytes (R97); a full slice gives up others (R87). One that is held in a modified
state keeps its bytes, which its home's are not newer than. -/
def State.install (s : State) (line : Nat) (st : LlcState) (data : List Byte) (poison : Bool) : State :=
  let old := s.llcState line
  let s := if old = some .m ∨ old = some .o then s
    else
      let s := s.lineWrite line data
      if poison then s.addPoison [line] else s.clearPoison [line]
  State.fitLlc { s with llc := ⟨line, st⟩ :: s.llc.filter fun l => l.line ≠ line } (homeDie line) (homeSlice line)

def State.dropReq (s : State) (r : Req) : State := { s with reqs := s.reqs.filter fun q => q.tag ≠ r.tag }

/-- Keeps a reply for the access that waits for it. -/
def State.keepReply (s : State) (r : Req) (st : Nat) (data : List Byte) : State :=
  { s with reqs := updWhere (fun q => q.tag == r.tag) (fun q => { q with reply := some (st, data), phase := .sent }) s.reqs }

/-- A counter addition's reply (R345, R380): moved, it is translated anew; refused, it is reported. -/
def State.counterReply (s : State) (r : Req) (ctx : BitVec 10) (va : W64) (st : Nat) : State :=
  let die := r.pkt.flow.toNat % 4
  match st with
  | 1 => ((s.dropVa (48 * die) ctx va).addVa die ctx (Packet.scope r.pkt) va (BitVec.ofNat 64 (r.pkt.field 0 8))).asRetry s
  | 2 => s.notMade 4 ctx va
  | 3 => s.notMade 1 ctx va
  | 4 => s.notMade 2 ctx va
  | _ => s

/-- The reply to a piece of a contribution (log 18): kept, taken whole, or refused, which stalls the engine until the slice
signals it, which it may have done already (R82); an expired tile, or a fault of the fabric, reaches the groups of its gang (R84,
R259). -/
def State.tileReply (s : State) (id st : Nat) (data : List Byte) : State :=
  match s.transit.find? fun c => c.id = id with
  | none => s
  | some c =>
    let gone : State := { s with transit := s.transit.filter fun x => x.id ≠ id }
    if st ≠ 0 then gone.tileFault c c.tag
    else
      match ofBytes (data.take 8) with
      | 0 => gone.pushDue (.enginePlaceFree c.core)
      | 2 => gone.tileFault c (BitVec.ofNat 16 (ofBytes ((data.drop 8).take 8)))
      | 3 =>
        let s : State := { s with transit := updWhere (fun x => x.id == id) (fun x => { x with refused := true }) s.transit }
        if c.signalled then s.pushDue (.engineResend id) else s
      | _ => s

/-- A request refused as moved that has no address to translate is sent anew, untimed (R345, R366). -/
def State.sendAnew (s : State) (r : Req) : State :=
  let t := s.dropReq r
  (t.request { r.pkt with tag := BitVec.ofNat 32 s.nextId } r.purpose true).asRetry t

/-- The answer to a request for a line is used: nothing has called the line in since, and, for a copy, the package holds none. -/
def State.takes (s : State) (r : Req) (line : Nat) (copy : Bool) : Bool := !r.void && (!copy || (s.llcState line).isNone)

/-- What an outstanding request's answer does. -/
def State.answered (s : State) (r : Req) (st : Nat) (data : List Byte) (flags : BitVec 8) : State :=
  match r.purpose with
  | .fill line =>
    if st ≠ 0 then s.keepReply r st data
    else if s.takes r line true then (s.dropReq r).install line (if flags.getLsbD 0 then .e else .s) data (flags.getLsbD 6)
    else s.dropReq r
  | .prefetch line core =>
    let ok := s.takes r line true
    let s := s.dropReq r
    -- a lane that meets poison is dropped without effect (R221)
    if st ≠ 0 || !ok || flags.getLsbD 6 then s
    else
      let s := s.install line (if flags.getLsbD 0 then .e else .s) data (flags.getLsbD 6)
      match core with
      | some c => s.fill c line
      | none => s
  | .own line =>
    if st ≠ 0 then s.keepReply r st data
    else if s.takes r line false then (s.dropReq r).install line .m data (flags.getLsbD 6)
    else s.dropReq r
  | .lane .. => s.keepReply r st data
  | .host _ => s.keepReply r st data
  | .launch _ => s.keepReply r st data
  | .counter ctx va => (s.dropReq r).counterReply r ctx va st
  | .writeback _ => s.dropReq r
  | .move _ => if st = 1 then s.sendAnew r else if st = 0 then s.dropReq r else s.keepReply r st data
  | .moveAsk => s.keepReply r st data
  | .moveTrigger => if st ≠ 0 then s.sendAnew r else s.dropReq r
  | .decrement .. => s.keepReply r st data
  | .tile id => (s.dropReq r).tileReply id st data
  | .notify => if st = 1 then s.sendAnew r else s.dropReq r

/-- The acknowledgement of a reply (R358). -/
def State.ackReply (s : State) (p : Packet) : State := s.answer p 0x0A#8 0#8 0#8 []

/-- A reply arrives; one that nothing awaits is discarded. The homes that have passed a chain on keep a record of it too, and
are told (R358; log 72). -/
def State.takeReply (s : State) (p : Packet) (aborting : Bool) : State :=
  let s := s.ackReply p
  match s.reqs.find? fun r => r.tag = p.tag ∧ r.pkt.flow = p.flow ∧ r.reply.isNone ∧ (!aborting ∨ r.phase = .aborting) with
  | none => s
  | some r =>
    let s := (r.passers.filter (· ≠ p.src.toNat)).foldl (fun s h => s.ackReply { p with src := BitVec.ofNat 24 h }) s
    (s.answered r p.op.toNat p.payload p.flags).pumpLine (some (lineOf r.pkt.pa))

/-- RESP (R353). -/
def execResp (p : Packet) (s : State) : Host.Outcome State Fault Refusal :=
  s.ev fun s => s.gateway 0x08#8 p fun s => s.takeReply p false

/-- ABORTACK (R366, R367): the access completes with the reply it carries. -/
def execAbortack (p : Packet) (s : State) : Host.Outcome State Fault Refusal :=
  s.ev fun s => s.gateway 0x0D#8 p fun s => s.takeReply p true

/-- ACK (R358): the home's record goes. One of a dead cell is discarded (R364). -/
def execAck (p : Packet) (s : State) : Host.Outcome State Fault Refusal :=
  s.ev fun s => s.gateway 0x0A#8 p fun s =>
    if s.fromDead p then s
    else { s with replies := s.replies.filter fun r => !(sameKey p r && (r.reply.isSome || r.passed)) }

/-- NOTICE (R233): the step and pointer a chain has reached. A chain that has ended is not awaited any more, and the home is
told at once (R358; log 72). -/
def execNotice (p : Packet) (s : State) : Host.Outcome State Fault Refusal :=
  s.ev fun s => s.gateway 0x0B#8 p fun s =>
    let mine (r : Req) : Bool := r.tag == p.tag && r.pkt.flow == p.flow
    if s.reqs.any mine then
      { s with
        reqs := updWhere mine
          (fun r => { r with
            notice := some (BitVec.ofNat 64 (p.field 0 8), BitVec.ofNat 64 (p.field 8 8))
            passers := insertNat p.src.toNat r.passers }) s.reqs }
    else s.ackReply p

/-! ### Retries and timers (R351, R354, R366) -/

/-- RETRY (R354). -/
def execRetry (p : Packet) (s : State) : Host.Outcome State Fault Refusal :=
  s.ev fun s => s.gateway 0x09#8 p fun s =>
    match s.reqs.find? fun r => r.tag = p.tag ∧ r.pkt.flow = p.flow ∧ r.reply.isNone ∧ r.phase ≠ .aborting with
    | none => s
    | some r =>
      { s with reqs := updWhere (fun q => q.tag == r.tag) (fun q => { q with phase := .backoff (p.field 0 1) }) s.reqs }

/-- Requests of one flow that are to be sent again, in the order of their numbers (R351). -/
def State.firstBackoff (s : State) (r : Req) : Bool :=
  !r.pkt.flags.getLsbD 7 ||
    ((s.reqs.find? fun q => q.pkt.flow = r.pkt.flow ∧ q.pkt.dst = r.pkt.dst ∧ q.pkt.flags.getLsbD 7 ∧
      q.phase ≠ .sent ∧ q.phase ≠ .aborting ∧ q.phase ≠ .held).map (·.tag)) == some r.tag

/-- RETRY_RESEND (R354): the same packet, with its TAG and SEQ. -/
def execRetryResend (tag : Nat) (s : State) : Host.Outcome State Fault Refusal :=
  s.ev fun s =>
    match s.reqs.find? fun r => r.tag.toNat = tag ∧ r.reply.isNone with
    | none => s
    | some r =>
      match r.phase with
      | .backoff _ =>
        if s.firstBackoff r then
          State.send { s with reqs := updWhere (fun q => q.tag == r.tag) (fun q => { q with phase := .sent }) s.reqs } r.pkt
        else s
      | _ => s

/-- REQUEST_TIMER_RESEND (R366): at a quarter, a half and three quarters of the timeout; a retry after a moved status has no
timer. -/
def execRequestTimerResend (tag : Nat) (s : State) : Host.Outcome State Fault Refusal :=
  s.ev fun s =>
    match s.reqs.find? fun r => r.tag.toNat = tag ∧ r.reply.isNone ∧ r.phase = .sent ∧ r.resends < 3 ∧ !r.retried with
    | none => s
    | some r =>
      State.send { s with reqs := updWhere (fun q => q.tag == r.tag) (fun q => { q with resends := q.resends + 1 }) s.reqs } r.pkt

/-- A read in the sense of R366: its timeout has no effect that anyone can see. -/
def Req.isRead (r : Req) : Bool := (r.pkt.typ == 0x01#8 && r.pkt.op != 1#8) || r.pkt.typ == 0x04#8

/-- The data of a timed-out chain: the last notice (R233). -/
def Req.noticeData (r : Req) : List Byte :=
  match r.notice with
  | some x => failData x.1.toNat x.2.toNat 0
  | none => []

/-- REQUEST_TIMEOUT (R366): a read faults at once, any other request sends ABORT. A request that has not left yet is not timed,
nor is a retry after a moved status. -/
def execRequestTimeout (tag : Nat) (s : State) : Host.Outcome State Fault Refusal :=
  s.ev fun s =>
    match s.reqs.find? fun r => r.tag.toNat = tag ∧ r.reply.isNone ∧ r.phase ≠ .aborting ∧ r.phase ≠ .held ∧ !r.retried with
    | none => s
    | some r =>
      if r.isRead then (s.answered r 258 r.noticeData 0#8).pump
      else
        State.send { s with reqs := updWhere (fun q => q.tag == r.tag) (fun q => { q with phase := .aborting }) s.reqs }
          { r.pkt with typ := 0x0C#8, size := 0#8, payload := [] }

/-- ABORT_TIMEOUT (R366): the outcome is unknown, and an event of cause 3 names the home's cell. -/
def execAbortTimeout (tag : Nat) (s : State) : Host.Outcome State Fault Refusal :=
  s.ev fun s =>
    match s.reqs.find? fun r => r.tag.toNat = tag ∧ r.reply.isNone ∧ r.phase = .aborting with
    | none => s
    | some r =>
      let home := r.pkt.dst.toNat
      let s := s.event 3 [(4, toBytes 4 ((s.cellOf home).getD 0)), (8, toBytes 4 home)]
      (s.answered r 257 [] 0#8).pump

/-! ### Aborts at the home (R366, R367) -/

/-- The number of an aborted request that has not come is passed over. -/
def State.skipSeq (s : State) (p : Packet) : State :=
  if !p.flags.getLsbD 7 then s
  else
    let f := s.flowOf p
    let d := f.ahead p.seq
    if 32768 ≤ d then s
    else
      State.passEarly (s.putFlow { (f.took p.seq) with early := p :: f.early.filter fun q => q.seq ≠ p.seq }) f.src f.flow
        (f.early.length + 2)

/-- An ABORT at its home. -/
def State.takeAbort (s : State) (p : Packet) : State :=
  match s.replies.find? (sameKey p) with
  | some r =>
    match r.reply with
    | some x => s.reply r.req true x.1 x.2
    | none => { s with replies := updWhere (sameKey p) (fun x => { x with aborted := true }) s.replies }
  | none =>
    let rec_ : ReplyRec := ⟨s.nextId, p.src.toNat, p.flow, p.tag, p, some (6, []), true, false⟩
    let s : State := { s with replies := s.replies ++ [rec_], nextId := s.nextId + 1 }
    (s.skipSeq p).reply p true 6 []

/-- ABORT (R366, R367). -/
def execAbort (p : Packet) (s : State) : Host.Outcome State Fault Refusal :=
  s.ev fun s => s.gateway 0x0C#8 p fun s => if s.fromDead p then s.answerDead p 0x0D#8 else (s.takeAbort p).pump

/-! ### Cells that die and live (R363-R365) -/

/-- The record of a cell is marked live 0 or dead 1, when the map holds one. -/
def State.markCell (s : State) (cell x : Nat) : State :=
  match s.cellRec cell with
  | none => s
  | some a => s.wrN (a + 4) 1 x

/-- A recall waits no longer on packages of a dead cell: its line is resolved first (R365). -/
def State.releaseRecall (s : State) (line : Nat) (ms : List Nat) : State :=
  ms.foldl (fun (s : State) m =>
    match s.recalls.find? fun r => r.line = line ∧ r.wait.contains m with
    | none => s
    | some r => (s.resolveDead line).unrecall r m) s

/-- A record of a dead cell that goes at once: a finished one, a read or a write that has not been performed, and an operation of
an HOU that has not started. One that has started completes (R365). -/
def State.ends (s : State) (cell : Nat) (r : ReplyRec) : Bool :=
  r.req.cell == cell && (r.reply.isSome || r.passed || r.req.typ == 0x01#8 || r.req.typ == 0x02#8 || s.behindFlow r.req r.at_)

/-- Declares a cell dead (R363-R365): its packages hold nothing back any more, its records and early packets go, and lines of
its packages held here are poisoned. -/
def State.declareDead (s : State) (cell cause pkg : Nat) : State :=
  let c : BitVec 21 := BitVec.ofNat 21 cell
  if cell = s.ownCell ∨ s.dead.contains c then s
  else
    let ms := s.members cell
    let s := State.markCell { s with dead := c :: s.dead, recovering := c :: s.recovering } cell 1
    let s := s.event cause [(4, toBytes 4 cell), (8, toBytes 4 pkg)]
    let s : State := { s with
      replies := s.replies.filter fun r => !s.ends cell r
      flowsIn := s.flowsIn.map fun f => { f with early := f.early.filter fun q => q.cell ≠ cell } }
    let s := s.addPoison ((s.llc.map (·.line)).filter fun l => ms.contains (pkgOf l))
    let s := s.recalls.foldl (fun s r => s.releaseRecall r.line ms) s
    s.pump

/-- The value of CELLCMD (R358). -/
def State.cellCmd (s : State) : Nat := s.rd (s.fcb + 56) 8

/-- The event a value of CELLCMD calls for (R363). -/
def State.cellEvent (s : State) (v : Nat) : Instr :=
  if 2 ^ 26 ≤ v ∨ bitsAt v 21 3 ≠ 0 ∨ v % 2 ^ 21 = s.ownCell then .cellInvalidCommand
  else
    match v / 2 ^ 24 with
    | 1 => .cellDeadCommand
    | 2 => .cellLiveCommand
    | _ => .cellInvalidCommand

/-- The command in CELLCMD has been acted on. -/
def State.cellDone (s : State) : State := { s with cellTaken := true }

/-- CELL_DEAD_COMMAND (R363): CELLCMD reads with bit 63 set until the recovery ends. -/
def execCellDeadCommand (s : State) : Host.Outcome State Fault Refusal :=
  s.ev fun s =>
    let v := s.cellCmd
    let c : BitVec 21 := BitVec.ofNat 21 v
    if s.cellTaken ∨ s.cellEvent v ≠ .cellDeadCommand then s
    else if s.dead.contains c ∧ !s.recovering.contains c then s.cellDone
    else State.declareDead (s.wrN (s.fcb + 56) 8 (v + 2 ^ 63)).cellDone (v % 2 ^ 21) 1 0

/-- CELL_LIVE_COMMAND (R363): a live cell holds nothing here, and its packages' flows begin anew. -/
def execCellLiveCommand (s : State) : Host.Outcome State Fault Refusal :=
  s.ev fun s =>
    let v := s.cellCmd
    if s.cellTaken ∨ s.cellEvent v ≠ .cellLiveCommand then s
    else if !s.dead.contains (BitVec.ofNat 21 v) then s.cellDone
    else
      let ms := s.members (v % 2 ^ 21)
      let s := (s.dir.map (·.line)).foldl State.resolveDead s
      let s := { s with
        replies := s.replies.filter fun r => !ms.contains r.src
        flowsIn := s.flowsIn.filter fun f => !ms.contains f.src
        flowsOut := s.flowsOut.filter fun f => !ms.contains f.dst }
      State.cellDone (State.markCell { s with
        dead := s.dead.filter (· ≠ BitVec.ofNat 21 v), recovering := s.recovering.filter (· ≠ BitVec.ofNat 21 v) } (v % 2 ^ 21) 0)

/-- CELL_INVALID_COMMAND (R363): ignored. -/
def execCellInvalidCommand (s : State) : Host.Outcome State Fault Refusal := s.ev State.cellDone

/-- RECALL_TIMEOUT (R363): a package that has not answered COH within DEADTO takes its cell with it. -/
def execRecallTimeout (pkg : BitVec 21) (line : Nat) (s : State) : Host.Outcome State Fault Refusal :=
  s.ev fun s =>
    if s.recalls.any fun r => r.line == line && r.wait.contains pkg.toNat then
      match s.cellOf pkg.toNat with
      | none => s
      | some c => s.declareDead c 2 pkg.toNat
    else s

/-- RECOVERY_COMPLETE (R365): every directory entry that names the cell has been walked. CELLCMD reads with bit 63 clear again; a
command written since stands (R363). -/
def execRecoveryComplete (cell : BitVec 21) (s : State) : Host.Outcome State Fault Refusal :=
  s.ev fun s =>
    if s.recovering.contains cell then
      let s := (s.dir.map (·.line)).foldl State.resolveDead s
      let s := { s with recovering := s.recovering.filter (· ≠ cell) }
      let s := if s.cellCmd % 2 ^ 21 = cell.toNat ∧ 2 ^ 63 ≤ s.cellCmd then (s.wrN (s.fcb + 56) 8 (s.cellCmd % 2 ^ 63)).cellDone else s
      s.pump
    else s

/-- MGMT (R353, R363): OP 0 writes CELLCMD, which the package then reads (log 18). -/
def execMgmt (p : Packet) (s : State) : Host.Outcome State Fault Refusal :=
  s.ev fun s => s.gateway 0x0E#8 p fun s =>
    if p.op = 0#8 then
      let v := p.field 0 8
      (s.wrN (s.fcb + 56) 8 v).pushDue (s.cellEvent v)
    else s

end Sys2Proof.Machine
end

