-- ==== Sys2Proof/Machine/Integer.lean ====
section
/-! DEFINITION. The vector integer instructions (06 R153-R167). -/

namespace Sys2Proof.Machine

/-! ### Values (R155-R166) -/

/-- Arithmetic shift right of R159: copies of the sign when the amount is the width or more. -/
def sar32 (a : W32) (n : Nat) : W32 := a.sshiftRight n

/-- Bits [7:0] of an amount register (R159). -/
def amount8 (b : W32) : Nat := b.toNat % 256

def clz32 (a : W32) : W32 :=
  match (List.range 32).find? fun k => a.getLsbD (31 - k) with
  | some k => BitVec.ofNat 32 k
  | none => 32#32

def brev32 (a : W32) : W32 := BitVec.ofFnLE fun k : Fin 32 => a.getLsbD (31 - k.val)

/-- BFX (R164). -/
def bfxU (a b : W32) : W32 :=
  let pos := b.toNat % 256
  let w := min (b.toNat / 256 % 256) 32
  BitVec.ofNat 32 (a.toNat / 2 ^ pos % 2 ^ w)

/-- BFX.S (R164). -/
def bfxSigned (a b : W32) : W32 :=
  let pos := b.toNat % 256
  let w := min (b.toNat / 256 % 256) 32
  (BitVec.ofNat w (a.sshiftRight pos).toNat).signExtend 32

/-- BFI (R164). -/
def bfi32 (a b c : W32) : W32 :=
  let pos := b.toNat % 256
  let w := min (b.toNat / 256 % 256) 32
  let m := BitVec.ofNat 32 ((2 ^ w - 1) * 2 ^ pos)
  (c &&& ~~~m) ||| (BitVec.ofNat 32 (a.toNat * 2 ^ pos) &&& m)

/-- One byte of BPERM (R165): selector nibble `k` of `b`. -/
def bpermByte (a b c : W32) (k : Nat) : Byte :=
  let sel := b.toNat / 16 ^ k % 16
  let y : Byte := (c ++ a).extractLsb' (8 * (sel % 8)) 8
  if sel < 8 then y else if y.getLsbD 7 then 0xFF#8 else 0x00#8

def bperm32 (a b c : W32) : W32 := bpermByte a b c 3 ++ bpermByte a b c 2 ++ bpermByte a b c 1 ++ bpermByte a b c 0

/-- LGC3 (R162). -/
def lgc3 (tt : BitVec 8) (a b c : W32) : W32 :=
  BitVec.ofFnLE fun k : Fin 32 =>
    tt.getLsbD ((if c.getLsbD k.val then 4 else 0) + (if b.getLsbD k.val then 2 else 0) + (if a.getLsbD k.val then 1 else 0))

def popc32 (a : W32) : W32 := BitVec.ofNat 32 (popBits a.toNat 32)

/-- The high half of a product (R157). -/
def mulHiS (a b : W32) : W32 := (a.signExtend 64 * b.signExtend 64).extractLsb' 32 32
def mulHiU (a b : W32) : W32 := (a.zeroExtend 64 * b.zeroExtend 64).extractLsb' 32 32

/-- DSHL, DSHR (R160). -/
def dshl32 (a b c : W32) : W32 := ((a ++ b) <<< (c.toNat % 64)).extractLsb' 32 32
def dshr32 (a b c : W32) : W32 := ((a ++ b) >>> (c.toNat % 64)).extractLsb' 0 32

/-! ### Shapes -/

/-- A word with two 32-bit sources and a 32-bit destination. -/
def State.bin (s : State) (i : Instr) (w : WBin) (f : W32 → W32 → W32) : Host.Outcome State Fault Refusal :=
  s.vec i w.guard fun m g => g.setV m (reg7 w.d) fun l => f (g.src w.a l) (g.src w.b l)

/-- A word with one 32-bit source. -/
def State.un (s : State) (i : Instr) (w : WUn) (f : W32 → W32) : Host.Outcome State Fault Refusal :=
  s.vec i w.guard fun m g => g.setV m (reg7 w.d) fun l => f (g.src w.a l)

/-- A word with a 32-bit source and an immediate. -/
def State.imm (s : State) (i : Instr) (w : WImm) (f : W32 → W32) : Host.Outcome State Fault Refusal :=
  s.vec i w.guard fun m g => g.setV m (reg7 w.d) fun l => f (g.src w.a l)

/-- A word with three 32-bit sources. -/
def State.tri (s : State) (i : Instr) (w : WTri) (f : W32 → W32 → W32 → W32) : Host.Outcome State Fault Refusal :=
  s.vec i w.guard fun m g => g.setV m (reg7 w.d) fun l => f (g.src w.a l) (g.src w.b l) (g.src w.c l)

/-- A word with two 64-bit sources and a pair destination. -/
def State.bin64 (s : State) (i : Instr) (w : WBin) (f : W64 → W64 → W64) : Host.Outcome State Fault Refusal :=
  s.vec i w.guard fun m g => g.setPair m w.d fun l => f (g.src64 w.a l) (g.src64 w.b l)

/-- A shift of a pair by a 32-bit amount. -/
def State.shift64 (s : State) (i : Instr) (w : WBin) (f : W64 → Nat → W64) : Host.Outcome State Fault Refusal :=
  s.vec i w.guard fun m g => g.setPair m w.d fun l => f (g.src64 w.a l) (amount8 (g.src w.b l))

/-- A compare: the first result, then its complement (R167). -/
def Group.setCompare (g : Group) (m : Mask) (w : WCmp) (t : Mask) : Group :=
  (g.setP m w.pd t).setP m w.pc (~~~t)

/-- A compare of 32-bit sources. -/
def State.cmp (s : State) (i : Instr) (w : WCmp) (f : W32 → W32 → Bool) : Host.Outcome State Fault Refusal :=
  s.vec i w.guard fun m g => g.setCompare m w (maskOf fun l => f (g.src w.a l) (g.src w.b l))

/-! ### The instructions -/

/-- IADD (R155). -/
def execIadd (w : WBin) (s : State) : Host.Outcome State Fault Refusal :=
  s.bin (.iadd w) w fun a b => a + b

/-- ISUB (R155). -/
def execIsub (w : WBin) (s : State) : Host.Outcome State Fault Refusal :=
  s.bin (.isub w) w fun a b => a - b

/-- IMUL.LO (R157). -/
def execImulLo (w : WBin) (s : State) : Host.Outcome State Fault Refusal :=
  s.bin (.imulLo w) w fun a b => a * b

/-- IMUL.HI (R157). -/
def execImulHi (w : WBin) (s : State) : Host.Outcome State Fault Refusal :=
  s.bin (.imulHi w) w fun a b => mulHiS a b

/-- IMUL.HI.U (R157). -/
def execImulHiU (w : WBin) (s : State) : Host.Outcome State Fault Refusal :=
  s.bin (.imulHiU w) w fun a b => mulHiU a b

/-- IMIN (R155). -/
def execImin (w : WBin) (s : State) : Host.Outcome State Fault Refusal :=
  s.bin (.imin w) w fun a b => if a.slt b then a else b

/-- IMIN.U (R155). -/
def execIminU (w : WBin) (s : State) : Host.Outcome State Fault Refusal :=
  s.bin (.iminU w) w fun a b => if a.ult b then a else b

/-- IMAX (R155). -/
def execImax (w : WBin) (s : State) : Host.Outcome State Fault Refusal :=
  s.bin (.imax w) w fun a b => if a.slt b then b else a

/-- IMAX.U (R155). -/
def execImaxU (w : WBin) (s : State) : Host.Outcome State Fault Refusal :=
  s.bin (.imaxU w) w fun a b => if a.ult b then b else a

/-- SHL (R159). -/
def execShl (w : WBin) (s : State) : Host.Outcome State Fault Refusal :=
  s.bin (.shl w) w fun a b => a <<< amount8 b

/-- SHR (R159). -/
def execShr (w : WBin) (s : State) : Host.Outcome State Fault Refusal :=
  s.bin (.shr w) w fun a b => a >>> amount8 b

/-- SAR (R159). -/
def execSar (w : WBin) (s : State) : Host.Outcome State Fault Refusal :=
  s.bin (.sar w) w fun a b => sar32 a (amount8 b)

/-- ROL (R159). -/
def execRol (w : WBin) (s : State) : Host.Outcome State Fault Refusal :=
  s.bin (.rol w) w fun a b => a.rotateLeft (amount8 b % 32)

/-- AND (R161). -/
def execAnd (w : WBin) (s : State) : Host.Outcome State Fault Refusal :=
  s.bin (.and w) w fun a b => a &&& b

/-- OR (R161). -/
def execOr (w : WBin) (s : State) : Host.Outcome State Fault Refusal :=
  s.bin (.or w) w fun a b => a ||| b

/-- XOR (R161). -/
def execXor (w : WBin) (s : State) : Host.Outcome State Fault Refusal :=
  s.bin (.xor w) w fun a b => a ^^^ b

/-- ANDN (R161). -/
def execAndn (w : WBin) (s : State) : Host.Outcome State Fault Refusal :=
  s.bin (.andn w) w fun a b => a &&& ~~~b

/-- BFX (R164). -/
def execBfx (w : WBin) (s : State) : Host.Outcome State Fault Refusal :=
  s.bin (.bfx w) w fun a b => bfxU a b

/-- BFX.S (R164). -/
def execBfxS (w : WBin) (s : State) : Host.Outcome State Fault Refusal :=
  s.bin (.bfxS w) w fun a b => bfxSigned a b

/-- IADD is (R155). -/
def execIaddIs (w : WImm) (s : State) : Host.Outcome State Fault Refusal :=
  s.imm (.iaddIs w) w fun a => a + w.imm.signExtend 32

/-- SHL iu (R159). -/
def execShlIu (w : WImm) (s : State) : Host.Outcome State Fault Refusal :=
  s.imm (.shlIu w) w fun a => a <<< (w.imm.toNat % 32)

/-- SHR iu (R159). -/
def execShrIu (w : WImm) (s : State) : Host.Outcome State Fault Refusal :=
  s.imm (.shrIu w) w fun a => a >>> (w.imm.toNat % 32)

/-- SAR iu (R159). -/
def execSarIu (w : WImm) (s : State) : Host.Outcome State Fault Refusal :=
  s.imm (.sarIu w) w fun a => sar32 a (w.imm.toNat % 32)

/-- ROL iu (R159). -/
def execRolIu (w : WImm) (s : State) : Host.Outcome State Fault Refusal :=
  s.imm (.rolIu w) w fun a => a.rotateLeft (w.imm.toNat % 32)

/-- AND iu (R161). -/
def execAndIu (w : WImm) (s : State) : Host.Outcome State Fault Refusal :=
  s.imm (.andIu w) w fun a => a &&& w.imm.zeroExtend 32

/-- OR iu (R161). -/
def execOrIu (w : WImm) (s : State) : Host.Outcome State Fault Refusal :=
  s.imm (.orIu w) w fun a => a ||| w.imm.zeroExtend 32

/-- XOR iu (R161). -/
def execXorIu (w : WImm) (s : State) : Host.Outcome State Fault Refusal :=
  s.imm (.xorIu w) w fun a => a ^^^ w.imm.zeroExtend 32

/-- MOVHI (R166). -/
def execMovhi (w : WImm) (s : State) : Host.Outcome State Fault Refusal :=
  s.imm (.movhi w) w fun a => w.imm.extractLsb' 0 16 ++ a.extractLsb' 0 16

/-- IABS (R155). -/
def execIabs (w : WUn) (s : State) : Host.Outcome State Fault Refusal :=
  s.un (.iabs w) w fun a => if a.msb then 0#32 - a else a

/-- INEG (R155). -/
def execIneg (w : WUn) (s : State) : Host.Outcome State Fault Refusal :=
  s.un (.ineg w) w fun a => 0#32 - a

/-- POPC (R163). -/
def execPopc (w : WUn) (s : State) : Host.Outcome State Fault Refusal :=
  s.un (.popc w) w fun a => popc32 a

/-- CLZ (R163). -/
def execClz (w : WUn) (s : State) : Host.Outcome State Fault Refusal :=
  s.un (.clz w) w fun a => clz32 a

/-- BREV (R163). -/
def execBrev (w : WUn) (s : State) : Host.Outcome State Fault Refusal :=
  s.un (.brev w) w fun a => brev32 a

/-- MOV (R166). -/
def execMov (w : WUn) (s : State) : Host.Outcome State Fault Refusal :=
  s.un (.mov w) w fun a => a

/-- IMAD (R157). -/
def execImad (w : WTri) (s : State) : Host.Outcome State Fault Refusal :=
  s.tri (.imad w) w fun a b c => a * b + c

/-- DSHL (R160). -/
def execDshl (w : WTri) (s : State) : Host.Outcome State Fault Refusal :=
  s.tri (.dshl w) w fun a b c => dshl32 a b c

/-- DSHR (R160). -/
def execDshr (w : WTri) (s : State) : Host.Outcome State Fault Refusal :=
  s.tri (.dshr w) w fun a b c => dshr32 a b c

/-- BFI (R164). -/
def execBfi (w : WTri) (s : State) : Host.Outcome State Fault Refusal :=
  s.tri (.bfi w) w fun a b c => bfi32 a b c

/-- BPERM (R165). -/
def execBperm (w : WTri) (s : State) : Host.Outcome State Fault Refusal :=
  s.tri (.bperm w) w fun a b c => bperm32 a b c

/-- IMADW (R157). -/
def execImadw (w : WTri) (s : State) : Host.Outcome State Fault Refusal :=
  s.vec (.imadw w) w.guard fun m g => g.setPair m w.d fun l =>
    (g.src w.a l).signExtend 64 * (g.src w.b l).signExtend 64 + g.src64 w.c l

/-- IMADW.U (R157). -/
def execImadwU (w : WTri) (s : State) : Host.Outcome State Fault Refusal :=
  s.vec (.imadwU w) w.guard fun m g => g.setPair m w.d fun l =>
    (g.src w.a l).zeroExtend 64 * (g.src w.b l).zeroExtend 64 + g.src64 w.c l

/-- LEA (R158). -/
def execLea (w : WTri) (s : State) : Host.Outcome State Fault Refusal :=
  s.vec (.lea w) w.guard fun m g => g.setPair m w.d fun l =>
    g.src64 w.a l + ((g.src w.b l).signExtend 64 <<< ((g.src w.c l).toNat % 8))

/-- IADD.64 (R158). -/
def execIadd64 (w : WBin) (s : State) : Host.Outcome State Fault Refusal :=
  s.bin64 (.iadd64 w) w fun a b => a + b

/-- ISUB.64 (R158). -/
def execIsub64 (w : WBin) (s : State) : Host.Outcome State Fault Refusal :=
  s.bin64 (.isub64 w) w fun a b => a - b

/-- SHL.64 (R158). -/
def execShl64 (w : WBin) (s : State) : Host.Outcome State Fault Refusal :=
  s.shift64 (.shl64 w) w fun a n => a <<< n

/-- SHR.64 (R158). -/
def execShr64 (w : WBin) (s : State) : Host.Outcome State Fault Refusal :=
  s.shift64 (.shr64 w) w fun a n => a >>> n

/-- SAR.64 (R158). -/
def execSar64 (w : WBin) (s : State) : Host.Outcome State Fault Refusal :=
  s.shift64 (.sar64 w) w fun a n => a.sshiftRight n

/-- ICMP.EQ (R167). -/
def execIcmpEq (w : WCmp) (s : State) : Host.Outcome State Fault Refusal :=
  s.cmp (.icmpEq w) w fun a b => a == b

/-- ICMP.LT (R167). -/
def execIcmpLt (w : WCmp) (s : State) : Host.Outcome State Fault Refusal :=
  s.cmp (.icmpLt w) w fun a b => a.slt b

/-- ICMP.LE (R167). -/
def execIcmpLe (w : WCmp) (s : State) : Host.Outcome State Fault Refusal :=
  s.cmp (.icmpLe w) w fun a b => a.sle b

/-- ICMP.LT.U (R167). -/
def execIcmpLtU (w : WCmp) (s : State) : Host.Outcome State Fault Refusal :=
  s.cmp (.icmpLtU w) w fun a b => a.ult b

/-- ICMP.LE.U (R167). -/
def execIcmpLeU (w : WCmp) (s : State) : Host.Outcome State Fault Refusal :=
  s.cmp (.icmpLeU w) w fun a b => a.ule b

/-- LGC3 (R162). -/
def execLgc3 (w : WLgc) (s : State) : Host.Outcome State Fault Refusal :=
  s.vec (.lgc3 w) w.guard fun m g => g.setV m (reg7 w.d) fun l =>
    lgc3 w.tt (g.src w.a l) (g.vr (reg7 w.b) l) (g.vr (reg7 w.c) l)

/-- MOVI (R166). -/
def execMovi (w : WConst) (s : State) : Host.Outcome State Fault Refusal :=
  s.vec (.movi w) w.guard fun m g => g.setV m (reg7 w.d) fun _ => w.imm.signExtend 32

/-- SEL (R166). -/
def execSel (w : WBinP) (s : State) : Host.Outcome State Fault Refusal :=
  s.vec (.sel w) w.guard fun m g => g.setV m (reg7 w.d) fun l =>
    if (g.pred w.p).getLsbD l.val then g.src w.a l else g.src w.b l

/-- IADDC (R156): the carry in is read before the carry out is written. -/
def execIaddc (w : WBinP) (s : State) : Host.Outcome State Fault Refusal :=
  s.vec (.iaddc w) w.guard fun m g =>
    let t : Fin 32 → Nat := fun l =>
      (g.src w.a l).toNat + (g.src w.b l).toNat + (if (g.pred w.p).getLsbD l.val then 1 else 0)
    (g.setV m (reg7 w.d) fun l => BitVec.ofNat 32 (t l)).setP m w.p (maskOf fun l => decide (2 ^ 32 ≤ t l))

end Sys2Proof.Machine
end

