-- ==== Sys2Proof/Machine/Sha3.lean ====
section
/-! DEFINITION. The digest that every hash of the part is (R6, R375): SHA3-256, as the standard the spec names defines it
(log 11). -/

namespace Sys2Proof.Machine

/-- Rotation offsets, lane (x, y) at place x + 5y. -/
def keccakOffsets : List Nat :=
  [0, 1, 62, 28, 27, 36, 44, 6, 55, 20, 3, 10, 43, 25, 39, 41, 45, 15, 21, 8, 18, 2, 61, 56, 14]

/-- The constants of the 24 rounds. -/
def keccakRounds : List W64 :=
  [0x0000000000000001#64, 0x0000000000008082#64, 0x800000000000808A#64, 0x8000000080008000#64,
   0x000000000000808B#64, 0x0000000080000001#64, 0x8000000080008081#64, 0x8000000000008009#64] ++
  [0x000000000000008A#64, 0x0000000000000088#64, 0x0000000080008009#64, 0x000000008000000A#64,
   0x000000008000808B#64, 0x800000000000008B#64, 0x8000000000008089#64, 0x8000000000008003#64] ++
  [0x8000000000008002#64, 0x8000000000000080#64, 0x000000000000800A#64, 0x800000008000000A#64,
   0x8000000080008081#64, 0x8000000000008080#64, 0x0000000080000001#64, 0x8000000080008008#64]

/-- A lane of the state, which is 25 words. -/
def keccakLane (a : List W64) (x y : Nat) : W64 := a.getD (x % 5 + 5 * (y % 5)) 0#64

/-- A state by its lanes. -/
def keccakOf (f : Nat → Nat → W64) : List W64 := (List.range 25).map fun i => f (i % 5) (i / 5)

/-- One round: theta, rho and pi, chi, iota. -/
def keccakRound (a : List W64) (rc : W64) : List W64 :=
  let c := (List.range 5).map fun x => (List.range 5).foldl (fun r y => r ^^^ keccakLane a x y) 0#64
  let at_ (x : Nat) : W64 := c.getD (x % 5) 0#64
  let t := keccakOf fun x y => keccakLane a x y ^^^ at_ (x + 4) ^^^ (at_ (x + 1)).rotateLeft 1
  let b := keccakOf fun x y => (keccakLane t (x + 3 * y) x).rotateLeft (keccakOffsets.getD ((x + 3 * y) % 5 + 5 * x) 0)
  let h := keccakOf fun x y => keccakLane b x y ^^^ (~~~keccakLane b (x + 1) y &&& keccakLane b (x + 2) y)
  h.set 0 (h.getD 0 0#64 ^^^ rc)

/-- The permutation: 24 rounds. -/
def keccakF (a : List W64) : List W64 := keccakRounds.foldl keccakRound a

/-- A block is absorbed. -/
def keccakAbsorb (a : List W64) (block : List Byte) : List W64 :=
  keccakF (a.mapIdx fun i w => w ^^^ BitVec.ofNat 64 (ofBytes ((block.drop (8 * i)).take 8)))

/-- The message padded to blocks of `rate` bytes: a byte `d`, zeros, and 80 in the last byte of a block. -/
def keccakPad (rate : Nat) (d : Byte) (m : List Byte) : List Byte :=
  let k := rate - m.length % rate
  m ++ (if k = 1 then [d ||| 0x80#8] else [d] ++ List.replicate (k - 2) 0#8 ++ [0x80#8])

/-- Blocks of output. -/
def keccakSqueeze (rate : Nat) : Nat → List W64 → List Byte
  | 0, _ => []
  | n + 1, a => (a.flatMap fun w => toBytes 8 w.toNat).take rate ++ keccakSqueeze rate n (keccakF a)

/-- `n` bytes of the sponge of a message. -/
def keccakSponge (rate : Nat) (d : Byte) (m : List Byte) (n : Nat) : List Byte :=
  let p := keccakPad rate d m
  let a := ((List.range (p.length / rate)).map fun k => (p.drop (rate * k)).take rate).foldl keccakAbsorb (List.replicate 25 0#64)
  (keccakSqueeze rate ((n + rate - 1) / rate) a).take n

/-- The SHA3-256 digest: 32 bytes. -/
def sha3 (m : List Byte) : List Byte := keccakSponge 136 0x06#8 m 32

/-- SHAKE128 and SHAKE256, `n` bytes, which ML-DSA-44 uses. -/
def shake128 (m : List Byte) (n : Nat) : List Byte := keccakSponge 168 0x1F#8 m n

def shake256 (m : List Byte) (n : Nat) : List Byte := keccakSponge 136 0x1F#8 m n

end Sys2Proof.Machine
end

