-- ==== Sys2Proof/Machine/MlDsa.lean ====
section
/-! DEFINITION. The signatures of the part (R6, R375): ML-DSA-44, as the standard the spec names defines it (log 11). A polynomial
is the list of its 256 coefficients modulo q. -/

namespace Sys2Proof.Machine

abbrev Poly := List Nat

/-- The modulus q. -/
def dsaQ : Nat := 8380417

/-! ### Polynomials -/

def polyAdd (a b : Poly) : Poly := List.zipWith (fun x y => (x + y) % dsaQ) a b

def polySub (a b : Poly) : Poly := List.zipWith (fun x y => (x + dsaQ - y) % dsaQ) a b

/-- The product of two transformed polynomials. -/
def polyMul (a b : Poly) : Poly := List.zipWith (fun x y => x * y % dsaQ) a b

/-- The eight bits of a number, reversed. -/
def rev8 (n : Nat) : Nat := (List.range 8).foldl (fun r k => 2 * r + bitsAt n k 1) 0

/-- The point at which place `j` of a transform evaluates: an odd power of the root 1753 of order 512. -/
def dsaPoint (j : Nat) : Nat := 1753 ^ (2 * rev8 j + 1) % dsaQ

/-- The transform: the polynomial's values at the 256 points. -/
def ntt (w : Poly) : Poly := (List.range 256).map fun j =>
  let r := dsaPoint j
  w.foldr (fun x a => (x + a * r) % dsaQ) 0

/-- Sums of pairs' first numbers, each multiplied by its second from one sum to the next. -/
def powerSums : Nat → List (Nat × Nat) → Poly
  | 0, _ => []
  | n + 1, v => (v.foldl (fun a x => a + x.1) 0) % dsaQ :: powerSums n (v.map fun x => (x.1 * x.2 % dsaQ, x.2))

/-- The inverse transform; 8347681 is the inverse of 256. -/
def nttInv (w : Poly) : Poly :=
  powerSums 256 (w.mapIdx fun j x => (8347681 * x % dsaQ, dsaPoint j ^ 511 % dsaQ))

/-- A matrix of transformed polynomials times a vector of them. -/
def dsaMul (a : List (List Poly)) (v : List Poly) : List Poly :=
  a.map fun row => (List.zipWith polyMul row v).foldl polyAdd (List.replicate 256 0)

/-- A coefficient as the nearest number to 0 modulo q. -/
def centred (x : Nat) : Int := if 2 * x < dsaQ then x else (x : Int) - dsaQ

/-- An integer modulo q. -/
def modQ (x : Int) : Nat := (x % dsaQ).toNat

/-- Every coefficient stays below a bound in magnitude. -/
def allBelow (b : Nat) (v : List Poly) : Bool := v.all fun p => p.all fun x => decide ((centred x).natAbs < b)

/-! ### Packing -/

/-- Numbers of `b` bits each, the first lowest. -/
def packBits (b : Nat) (xs : List Nat) : List Byte := toBytes (b * xs.length / 8) (xs.foldr (fun x a => x + 2 ^ b * a) 0)

def unpackBits (b : Nat) (bs : List Byte) : List Nat :=
  let n := ofBytes bs
  (List.range 256).map fun i => bitsAt n (b * i) b

/-- The `k`-th piece of `n` bytes from a place. -/
def piece (bs : List Byte) (start n k : Nat) : List Byte := (bs.drop (start + n * k)).take n

/-! ### Sampling -/

/-- A uniform polynomial, already transformed: the first 256 numbers of 23 bits below q. -/
def dsaUniform (seed : List Byte) : Poly :=
  let bs := shake128 seed 1176
  let xs := (List.range 392).map fun k => ofBytes (piece bs 0 3 k) % 2 ^ 23
  ((xs.filter fun x => decide (x < dsaQ)) ++ List.replicate 256 0).take 256

/-- The matrix of a seed. -/
def dsaMatrix (rho : List Byte) : List (List Poly) :=
  (List.range 4).map fun r => (List.range 4).map fun c => dsaUniform (rho ++ toBytes 1 c ++ toBytes 1 r)

/-- A polynomial with coefficients from -2 to 2: the first 256 half bytes below 15. -/
def dsaSmall (seed : List Byte) (n : Nat) : Poly :=
  let hs := (shake256 (seed ++ toBytes 2 n) 544).flatMap fun b => [b.toNat % 16, b.toNat / 16]
  ((hs.filter fun h => decide (h < 15)) ++ List.replicate 256 0).take 256 |>.map fun h => modQ (2 - (h % 5 : Nat))

/-- A masking polynomial, with coefficients above -2^17 and at most 2^17. -/
def dsaMask (seed : List Byte) (n : Nat) : Poly :=
  (unpackBits 18 (shake256 (seed ++ toBytes 2 n) 576)).map fun x => modQ (131072 - (x : Int))

/-- Places 217 to 255 of the challenge: each takes the value of a place drawn at or below it, which takes 1 or -1. -/
def dsaPlaces (signs : Nat) : Nat → List Byte → Poly → Poly
  | _, [], c => c
  | i, b :: bs, c =>
    if 255 < i then c
    else if i < b.toNat then dsaPlaces signs i bs c
    else
      dsaPlaces signs (i + 1) bs
        ((c.set i (c.getD b.toNat 0)).set b.toNat (if signs.testBit (i - 217) then dsaQ - 1 else 1))

/-- The challenge: 39 coefficients of 1 or -1. -/
def dsaChallenge (seed : List Byte) : Poly :=
  let bs := shake256 seed 272
  dsaPlaces (ofBytes (bs.take 8)) 217 (bs.drop 8) (List.replicate 256 0)

/-! ### Rounding and hints -/

/-- High and low part for the divisor 190464 = 2 × 95232. -/
def dsaSplit (x : Nat) : Nat × Int :=
  let r := x % 190464
  let low : Int := if 95232 < r then (r : Int) - 190464 else r
  if (x : Int) - low = dsaQ - 1 then (0, low - 1) else (((x : Int) - low).toNat / 190464, low)

/-- The high part with a hint. -/
def dsaUseHint (h : Bool) (x : Nat) : Nat :=
  let y := dsaSplit x
  if !h then y.1 else if 0 < y.2 then (y.1 + 1) % 44 else (y.1 + 43) % 44

/-- t × 2^-13, rounded, and the rest. -/
def dsaPower (x : Nat) : Nat × Int :=
  let r := x % 8192
  let low : Int := if 4096 < r then (r : Int) - 8192 else r
  (((x : Int) - low).toNat / 8192, low)

/-- The commitment's bytes. -/
def dsaCommit (w : List Poly) : List Byte := w.flatMap (packBits 6)

/-- The hints' bytes: the places of the ones, and after each polynomial how many there are so far. -/
def dsaPackHints (h : List (List Bool)) : List Byte :=
  let at_ (p : List Bool) : List Nat := (List.range 256).filter fun i => p.getD i false
  let ones := h.flatMap at_
  ((ones ++ List.replicate 80 0).take 80 ++
    (List.range 4).map fun k => ((h.take (k + 1)).map fun p => (at_ p).length).sum).map (BitVec.ofNat 8)

/-- The hints of a signature, where the bytes are those that `dsaPackHints` writes. -/
def dsaHints (bs : List Byte) : Option (List (List Bool)) :=
  let upTo (k : Nat) : Nat := if k = 0 then 0 else (bs.getD (79 + k) 0#8).toNat
  let ones (k : Nat) : List Nat := (((bs.take (upTo (k + 1))).drop (upTo k)).map (·.toNat))
  let h := (List.range 4).map fun k => (List.range 256).map fun i => (ones k).contains i
  if upTo 4 ≤ 80 ∧ dsaPackHints h = bs then some h else none

/-! ### Keys, signatures, verification -/

/-- A key pair: the public seed, the signing secret, and the secret polynomials. -/
structure DsaKey where
  rho : List Byte
  secret : List Byte
  s1 : List Poly
  s2 : List Poly
  t : List (List (Nat × Int))
deriving DecidableEq, Repr

/-- The key pair of 32 random bytes. -/
def dsaKeyOf (xi : List Byte) : DsaKey :=
  let h := shake256 (xi ++ [4#8, 4#8]) 128
  let rho := h.take 32
  let seed := (h.drop 32).take 64
  let s1 := (List.range 4).map fun r => dsaSmall seed r
  let s2 := (List.range 4).map fun r => dsaSmall seed (4 + r)
  let t := List.zipWith polyAdd ((dsaMul (dsaMatrix rho) (s1.map ntt)).map nttInv) s2
  ⟨rho, h.drop 96, s1, s2, t.map fun p => p.map dsaPower⟩

/-- The public key: 1,312 bytes. -/
def DsaKey.pub (k : DsaKey) : List Byte := k.rho ++ k.t.flatMap fun p => packBits 10 (p.map (·.1))

/-- What is signed for a message with an empty context: a zero, the context's length, and the message. -/
def dsaMessage (pub m : List Byte) : List Byte := shake256 (shake256 pub 64 ++ [0#8, 0#8] ++ m) 64

/-- One attempt at a signature with the masks of a number. -/
def DsaKey.attempt (k : DsaKey) (mu masks : List Byte) (n : Nat) : Option (List Byte) :=
  let y := (List.range 4).map fun r => dsaMask masks (n + r)
  let w := (dsaMul (dsaMatrix k.rho) (y.map ntt)).map nttInv
  let ct := shake256 (mu ++ dsaCommit (w.map fun p => p.map fun x => (dsaSplit x).1)) 32
  let c := ntt (dsaChallenge ct)
  let times (p : Poly) : Poly := nttInv (polyMul c (ntt p))
  let z := List.zipWith polyAdd y (k.s1.map times)
  let r := List.zipWith polySub w (k.s2.map times)
  let t0 := k.t.map fun p => times (p.map fun x => modQ x.2)
  let v := List.zipWith polyAdd r t0
  let h := List.zipWith (fun a b => List.zipWith (fun x y => (dsaSplit x).1 != (dsaSplit y).1) a b) v r
  if !allBelow 130994 z || !(r.all fun p => p.all fun x => decide ((dsaSplit x).2.natAbs < 95154)) then none
  else if !allBelow 95232 t0 || decide (80 < (h.map fun p => p.countP id).sum) then none
  else some (ct ++ (z.flatMap fun p => packBits 18 (p.map fun x => (131072 - centred x).toNat)) ++ dsaPackHints h)

/-- The first attempt that succeeds, of at most `fuel`. -/
def DsaKey.attempts (k : DsaKey) (mu masks : List Byte) : Nat → Nat → List Byte
  | 0, _ => []
  | fuel + 1, n =>
    match k.attempt mu masks n with
    | some x => x
    | none => k.attempts mu masks fuel (n + 4)

/-- The signature of a message, with 32 random bytes: 2,420 bytes. The standard lets the search end after 814 attempts. -/
def DsaKey.sign (k : DsaKey) (rnd m : List Byte) : List Byte :=
  let mu := dsaMessage k.pub m
  (k.attempts mu (shake256 (k.secret ++ rnd ++ mu) 64) 814 0 ++ List.replicate 2420 0#8).take 2420

/-- A signature of a message holds under a public key. -/
def dsaVerify (pub m sig : List Byte) : Bool :=
  let ct := sig.take 32
  let z := (List.range 4).map fun k => (unpackBits 18 (piece sig 32 576 k)).map fun x => modQ (131072 - (x : Int))
  let t := (List.range 4).map fun k => (unpackBits 10 (piece pub 32 320 k)).map (8192 * ·)
  match dsaHints (sig.drop 2336) with
  | none => false
  | some h =>
    let c := ntt (dsaChallenge ct)
    let w := (List.zipWith polySub (dsaMul (dsaMatrix (pub.take 32)) (z.map ntt)) (t.map fun p => polyMul c (ntt p))).map nttInv
    let w1 := List.zipWith (fun a b => List.zipWith dsaUseHint a b) h w
    pub.length == 1312 && sig.length == 2420 && allBelow 130994 z && ct == shake256 (dsaMessage pub m ++ dsaCommit w1) 32

end Sys2Proof.Machine
end

