-- ==== Sys2Proof/Machine/Tcq.lean ====
section
/-! DEFINITION. The translation command queue: invalidation, resolution of faults, the move of a page's home, carve-out
size, and the retry of what a home has refused as moved (15 R341-R347). -/

namespace Sys2Proof.Machine

/-! ### The queue (R342) -/

/-- The queue's header. -/
def State.tcqBase (s : State) : Nat := s.ctxtab.toNat + 0x4_0000

/-- The slot at the head. -/
def State.tcqSlot (s : State) : Nat := s.tcqBase + 64 + 64 * (s.rd (s.tcqBase + 8) 8 % 256)

/-- The command that runs: as read when it was started, else as its slot holds it; none when the head has reached the tail
that the package has read. -/
def State.tcqHead (s : State) : Option (List Byte) :=
  match s.tcq with
  | some r => some r.bytes
  | none => if s.rd (s.tcqBase + 8) 8 = s.tcqTail.toNat then none else some (s.hwBytes s.tcqSlot 64)

/-- A length: a power of two from 4 KiB to 4 GiB, to which an address is aligned. -/
def rangeOk (len va : Nat) : Bool := (List.range 21).any fun k => len == 2 ^ (12 + k) && va % len == 0

/-- Fields of a command. -/
def tcqCtx (bs : List Byte) : BitVec 10 := BitVec.ofNat 10 (fieldAt bs 2 2)
def tcqVa (bs : List Byte) : Nat := fieldAt bs 8 8
def tcqLen (bs : List Byte) : Nat := fieldAt bs 16 8
def tcqNew (bs : List Byte) : Nat := fieldAt bs 24 8

/-- Which command a slot holds. A MOVE is for a range homed here (log 28). -/
def State.tcqEvent (s : State) (bs : List Byte) : Instr :=
  let ok (b : Bool) (e : Instr) : Instr := if b then e else .tcqInvalidCommand
  let ctxOk := decide (fieldAt bs 2 2 < 1024)
  let lenOk := rangeOk (tcqLen bs) (tcqVa bs)
  if fieldAt bs 4 4 ≠ 0 ∨ fieldAt bs 32 32 ≠ 0 then .tcqInvalidCommand
  else
    match fieldAt bs 0 1 with
    | 1 => ok (ctxOk && lenOk) .inval
    | 2 => ok ctxOk .resolve
    | 3 => ok ctxOk .finalCmd
    | 4 => ok (lenOk && tcqNew bs % tcqLen bs == 0 && s.here (tcqVa bs)) .moveCmd
    | 5 => ok lenOk .thaw
    | 6 => ok (decide (fieldAt bs 2 2 ≤ 3) && decide (tcqLen bs ≤ 16)) .carve
    | _ => .tcqInvalidCommand

/-- A command ends: STATUS, then the head. -/
def State.tcqEnd (s : State) (status : Nat) : State :=
  let s := s.wrN (s.tcqSlot + 1) 1 status
  State.pump { s.wrN (s.tcqBase + 8) 8 (s.rd (s.tcqBase + 8) 8 + 1) with tcq := none, move := none }

/-- The lines of the queue's header and of the slot at the head, taken from every holder (R95, R342). -/
def State.tcqReady (s : State) : Ready :=
  match s.readyLines 0#10 (unitFlow 0 0) [lineOf s.tcqBase] with
  | .yes s => s.readyLines 0#10 (unitFlow 0 0) [lineOf s.tcqSlot]
  | x => x

/-- Runs the command at the head if it is `e`: `first` when it starts, and then `run` each time. -/
def State.tcqRun (s : State) (e : Instr) (first run : State → List Byte → State) : State :=
  match s.tcqReady with
  | .wait s | .fail s _ => s
  | .yes s =>
    match s.tcqHead with
    | none => s
    | some bs =>
      if s.tcqEvent bs ≠ e then s
      else
        match s.tcq with
        | some _ => run s bs
        | none =>
          let s' := first { s with tcq := some ⟨bs, []⟩ } bs
          if s'.tcq.isNone then s' else run s' bs

/-- TCQ_TAIL_ADVANCE (R342): the package reads the tail, wherever it is held. -/
def execTcqTailAdvance (s : State) : Host.Outcome State Fault Refusal :=
  s.ev fun s =>
    match s.readyLine 0#10 (unitFlow 0 0) (lineOf s.tcqBase) false with
    | .wait s | .fail s _ => s
    | .yes s => { s with tcqTail := BitVec.ofNat 64 (s.rd s.tcqBase 8) }

/-- TCQ_INVALID_COMMAND (R342). -/
def execTcqInvalidCommand (s : State) : Host.Outcome State Fault Refusal :=
  s.ev fun s => s.tcqRun .tcqInvalidCommand (fun s _ => s.tcqEnd 1) fun s _ => s

/-- Once every access that used a removed translation has landed, the command goes on. -/
def State.onceLanded (s : State) (ctx : BitVec 10) (f : State → State) : State :=
  let d := s.landedAll ctx
  if d.2 then f d.1 else d.1

/-- INVAL (R342). VA is taken modulo 2^57, the width of a translated address, here and in RESOLVE and FINAL (log 85: a design
choice). Every table pointer of the context goes (log 86: a design choice). -/
def execInval (s : State) : Host.Outcome State Fault Refusal :=
  s.ev fun s =>
    s.tcqRun .inval (fun s bs => s.invalRange (tcqCtx bs) (tcqVa bs % 2 ^ 57) (tcqLen bs))
      fun s bs => s.onceLanded (tcqCtx bs) fun s => s.tcqEnd 0

/-! ### RESOLVE and FINAL (R344) -/

/-- The entries of a key, on every die. -/
def entryOfKey (ctx : BitVec 10) (page : Nat) (m : MergeEntry) : Bool := m.ctx == ctx && m.page == page

/-- Frees the entries of a key and notes their groups. -/
def State.freeEntries (s : State) (ctx : BitVec 10) (page : Nat) (bs : List Byte) : State :=
  let hit := s.merge.filter (entryOfKey ctx page)
  { s with merge := s.merge.filter (fun m => !entryOfKey ctx page m), tcq := some ⟨bs, hit.flatMap (·.waiters)⟩ }

/-- A released group resumes in place; one whose record is not written yet does so once it is. -/
def State.releaseGroup (s : State) (r : GroupRef) : State :=
  s.withGroup r fun s =>
    match s.g.status with
    | .merged _ => s.resumeInPlace
    | .queueWait f .entered => s.setStatus (.queueWait f .resolved)
    | _ => s

/-- The fault of a group is final: its second record is due, after its first where that is not written yet (R310). -/
def State.markFinal (s : State) (r : GroupRef) : State :=
  s.withGroup r fun s =>
    match s.g.status with
    | .merged f => s.setStatus (.queueWait f .finaled)
    | .queueWait f .entered => s.setStatus (.queueWait f .both)
    | _ => s

/-- A group whose fault is final writes its second record, and its disposition applies (R310). -/
def State.finalGroup (s : State) (r : GroupRef) : State :=
  s.withGroup r fun s =>
    match s.g.status with
    | .queueWait f .finaled => s.writeWaiting f .finaled
    | .queueWait f .both => s.writeWaiting f .both
    | _ => s

/-- The groups that the running command releases. -/
def State.tcqWaiters (s : State) : List GroupRef := (s.tcq.map (·.waiters)).getD []

/-- RESOLVE (R342, R344). -/
def execResolve (s : State) : Host.Outcome State Fault Refusal :=
  s.ev fun s =>
    s.tcqRun .resolve
      (fun s bs =>
        let page := tcqVa bs % 2 ^ 57 / 4096
        (s.invalRange (tcqCtx bs) (4096 * page) 4096).freeEntries (tcqCtx bs) page bs)
      fun s bs => s.onceLanded (tcqCtx bs) fun s => (s.tcqWaiters.foldl State.releaseGroup s).tcqEnd 0

/-- FINAL (R342, R344): every group of the list writes its record before a disposition ends the context. -/
def execFinalCmd (s : State) : Host.Outcome State Fault Refusal :=
  s.ev fun s =>
    s.tcqRun .finalCmd (fun s bs => s.freeEntries (tcqCtx bs) (tcqVa bs % 2 ^ 57 / 4096) bs)
      fun s _ => (s.tcqWaiters.foldl State.finalGroup (s.tcqWaiters.foldl State.markFinal s)).tcqEnd 0

/-! ### MOVE, THAW (R345, R346) -/

/-- The address lies in a range. -/
def inRange (base len a : Nat) : Bool := decide (base ≤ a) && decide (a < base + len)

/-- Recalls every line of a range that other packages hold, and drops the cores' words of it (R346, R347). A line on its way
back is left to its recall. -/
def State.recallRange (s : State) (base len : Nat) (kind : RecallKind) : State :=
  let s := { s with l1 := s.l1.filter fun w => !inRange base len (4 * w.word) }
  ((s.dir.map (·.line)).filter (inRange base len)).foldl (fun s l =>
    let s := s.resolveDead l
    match s.dir.find? fun e => e.line = l with
    | none => s
    | some e =>
      if s.recalls.any fun r => r.line = l then s
      else if s.otherHolders e = [] then s.dropDir l
      else s.recall l e (s.otherHolders e) kind) s

/-- No other package holds a line of a range. -/
def State.rangeFree (s : State) (base len : Nat) : Bool :=
  s.dir.all (fun e => !inRange base len e.line) && s.recalls.all fun r => !inRange base len r.line

/-- The freeze of a range begins (R345): what a core has posted there, and what an engine has yet to copy, is refused, and
walks again. -/
def State.freeze (s : State) (base len : Nat) : State :=
  State.invalFrames { s with
    freezes := s.freezes ++ [⟨base, len⟩]
    posted := updWhere (fun e => e.bytes.any fun c => inRange base len c.1) (fun e => { e with moved := true, again := true }) s.posted
    acps := s.acps.map fun c =>
      { c with moves := c.moves.map fun m => { m with pa := m.pa.filter fun a => !inRange base len a } } } base len

/-- An open tile of this package holds a line of a range. -/
def State.tileIn (s : State) (base len : Nat) : Bool := s.tiles.any fun t => t.frames.any (inRange base len)

/-- The packages that own lines of a range, or whose open tile has given one up: a slice there may hold an open tile in it (R253,
R346). -/
def State.rangeOwners (s : State) (base len : Nat) : List Nat :=
  ((s.dir.filter fun e => inRange base len e.line).filterMap (·.owner) ++
    (s.openFar.filter fun x => inRange base len x.1).map (·.2)).dedup.filter (· ≠ s.pkg)

/-- Asks every such package whether a tile of its holds a line of the range (log 18). -/
def State.askTiles (s : State) (base len : Nat) : State :=
  (s.rangeOwners base len).foldl (fun s h =>
    let p := s.mkPacket 0x03#8 0x38#8 base 0#10 (unitFlow (homeDie base) (homeSlice base)) 0x0C#8 (toBytes 8 base ++ toBytes 8 len)
    s.request { p with dst := BitVec.ofNat 24 h } .moveAsk true) s

/-- The new addresses of the triggers of a range. -/
def State.newTriggers (s : State) (base len dst : Nat) : List Nat :=
  (s.triggers.filter fun t => inRange base len t.addr).map fun t => dst + (t.addr - base)

/-- Asks the homes of NEW in another package whether they have room for the triggers (log 18). -/
def State.askRoom (s : State) (base len dst : Nat) : State :=
  let as := s.newTriggers base len dst
  if s.here dst then s
  else
    (as.map homeUnit).dedup.foldl (fun s u =>
      match as.find? fun a => homeUnit a = u with
      | none => s
      | some a =>
        s.request (s.mkPacket 0x03#8 0x36#8 a 0#10 (unitFlow (homeDie base) (homeSlice base)) 0x0C#8
          (toBytes 8 (as.countP fun a => homeUnit a == u))) .moveAsk true) s

/-- The homes of NEW in this package have room for the triggers of a range (R346). -/
def State.roomForTriggers (s : State) (base len dst : Nat) : Bool :=
  let as := s.newTriggers base len dst
  !s.here dst || as.all fun a =>
    decide ((s.triggers.countP fun x => !inRange base len x.addr && homeUnit x.addr == homeUnit a) +
      (as.countP fun b => homeUnit b == homeUnit a) ≤ 4096)

/-- The questions of a command that have been answered, by their code in the packet. -/
def State.asks (s : State) : List Req := s.reqs.filter fun r => r.purpose == .moveAsk

/-- A question of the code has an answer that is not a plain 0: yes, or none that could be had (log 76). -/
def State.askedYes (s : State) (code : BitVec 8) : Bool :=
  s.asks.any fun r => r.pkt.op == code &&
    (match r.reply with
     | some (0, d) => ofBytes (d.take 8) != 0
     | _ => true)

/-- The answers have been read. -/
def State.asksDone (s : State) : State := { s with reqs := s.reqs.filter fun r => r.purpose != .moveAsk }

/-- Questions asked, or none to ask: the command waits for the answers, and then its checks are made (R346, R347). -/
def State.onceAsked (s : State) (f : State → State) : State := if s.asks.any fun r => r.reply.isNone then s else f s

/-- The first checks of a MOVE (R346): those that this package can make itself, and the questions to others. VA and NEW are taken
modulo 2^62, the width of a fabric physical address, as is VA of a THAW; R342 does not say what becomes of higher bits (log 85: a
design choice). -/
def State.startMove (s : State) (bs : List Byte) : State :=
  let base := tcqVa bs % 2 ^ 62
  let len := tcqLen bs
  let dst := tcqNew bs % 2 ^ 62
  if s.tileIn base len then s.tcqEnd 3
  else ({ s with move := some ⟨.asking, base, len, dst, 0⟩ }.askTiles base len).askRoom base len dst

/-- The checks of a MOVE, in their order, and its freeze (R346). -/
def State.checkMove (s : State) (m : MoveState) : State :=
  let tile := s.tileIn m.base m.len || s.askedYes 0x38#8
  let room := s.roomForTriggers m.base m.len m.dst && !s.askedYes 0x36#8
  let s := s.asksDone
  if tile then s.tcqEnd 3
  else if !room then s.tcqEnd 5
  else if 64 ≤ s.freezes.length then s.tcqEnd 2
  else State.freeze { s with move := some { m with phase := .copying } } m.base m.len

/-- Copies lines within the package, as far as it goes: the poison of a line goes with it. -/
def State.copyLines (base dst : Nat) : Nat → Nat → State → State × Nat
  | 0, k, s => (s, k)
  | fuel + 1, k, s =>
    match s.readyLine 0#10 0#16 (lineOf (dst + k)) true with
    | .wait s => (s, k)
    | .fail s _ => (s, k)
    | .yes s =>
      let bad := s.poisoned (base + k)
      let s := s.homeWrite none (cellsAt (dst + k) (s.homeBytes (base + k) 128))
      State.copyLines base dst fuel (k + 128)
        (if bad then s.addPoison [lineOf (dst + k)] else s.clearPoison [lineOf (dst + k)])

/-- Sends the lines of a range to another package, as many as its flows take (R350). -/
def State.sendLines (base dst : Nat) : Nat → Nat → State → State × Nat
  | 0, k, s => (s, k)
  | fuel + 1, k, s =>
    let flow := unitFlow (homeDie (base + k)) (homeSlice (base + k))
    if s.flowFull flow (pkgOf dst) then (s, k)
    else
      let flags : BitVec 8 := 0x0C#8 ||| (if s.poisoned (base + k) then 0x40#8 else 0#8)
      State.sendLines base dst fuel (k + 128)
        (s.request (s.mkPacket 0x02#8 0#8 (dst + k) 0#10 flow flags (s.homeBytes (base + k) 128)) (.move (dst + k)) true)

/-- A write of the copy has not been acknowledged. -/
def State.copyOpen (s : State) (m : MoveState) : Bool :=
  s.reqs.any fun r =>
    match r.purpose with
    | .move l => inRange m.dst m.len l
    | _ => false

/-- Moves the triggers of a range with their counters (R346). -/
def State.moveTriggers (s : State) (m : MoveState) : State :=
  let ts := s.triggers.filter fun t => inRange m.base m.len t.addr
  let s := { s with
    triggers := s.triggers.filter fun t => !inRange m.base m.len t.addr
    move := some { m with phase := .triggers } }
  ts.foldl (fun s t =>
    let a := m.dst + (t.addr - m.base)
    if s.here a then { s with triggers := s.triggers ++ [{ t with addr := a }] }
    else
      s.request (s.mkPacket 0x03#8 0x34#8 a t.ctx (unitFlow (homeDie t.addr) (homeSlice t.addr)) 0x0C#8
        (toBytes 8 t.grid ++ toBytes 8 t.pkg)) .moveTrigger true) s

/-- A copy ends without every acknowledgement (R346): status 4; the range stays frozen, and the bytes at NEW are
unpredictable. -/
def State.failMove (s : State) (m : MoveState) : State :=
  let s := if s.here m.dst then s.haze ((List.range (m.len / 4096)).map fun k => m.dst / 4096 + k) else s
  State.tcqEnd { s with
    reqs := s.reqs.filter fun r =>
      match r.purpose with
      | .move l => !inRange m.dst m.len l
      | _ => true } 4

/-- A MOVE's copy goes on once the range is recalled (R346). A home in a dead cell acknowledges nothing. -/
def State.goCopy (s : State) (m : MoveState) : State :=
  let s := s.recallRange m.base m.len .all
  if !s.rangeFree m.base m.len then s
  else if m.copied < m.len then
    if s.deadPkg (pkgOf m.dst) then s.failMove m
    else
      let r := if s.here m.dst then State.copyLines m.base m.dst ((m.len - m.copied) / 128) m.copied s
        else State.sendLines m.base m.dst ((m.len - m.copied) / 128) m.copied s
      { r.1 with move := some { m with copied := r.2 } }
  else if s.copyOpen m then s
  else s.moveTriggers m

/-- The phases of a MOVE, each begun as soon as the one before it has ended (R346): it is done when every trigger has arrived. -/
def State.goMove (s : State) : State :=
  let s : State := match s.move with
    | some (m : MoveState) => if m.phase = .asking then s.onceAsked fun s => s.checkMove m else s
    | none => s
  let s : State := match s.move with
    | some m => if m.phase = .copying then (s.goCopy m) else s
    | none => s
  -- the last lines copied may have been acknowledged at once
  let s : State := match s.move with
    | some m => if m.phase = .copying ∧ m.len ≤ m.copied then s.goCopy m else s
    | none => s
  match s.move with
  | some m => if m.phase = .triggers ∧ !(s.reqs.any fun r => r.purpose == .moveTrigger) then s.tcqEnd 0 else s
  | none => s

/-- MOVE (R346). -/
def execMoveCmd (s : State) : Host.Outcome State Fault Refusal :=
  s.ev fun s => s.tcqRun .moveCmd State.startMove fun s _ => s.goMove

/-- MOVE_COPY_TIMEOUT (R346). -/
def execMoveCopyTimeout (s : State) : Host.Outcome State Fault Refusal :=
  s.ev fun s =>
    match s.move with
    | none => s
    | some m => if m.phase = .copying ∧ (m.copied < m.len ∨ s.copyOpen m) then s.failMove m else s

/-- THAW (R342): the freeze of a range ends. -/
def execThaw (s : State) : Host.Outcome State Fault Refusal :=
  s.ev fun s =>
    s.tcqRun .thaw
      (fun s bs => State.tcqEnd { s with freezes := s.freezes.filter (· ≠ ⟨tcqVa bs % 2 ^ 62, tcqLen bs⟩) } 0)
      fun s _ => s

/-! ### CARVE (R347) -/

/-- The carve-out window of a die. -/
def State.window (s : State) (die : Nat) : Nat := s.pkg * 2 ^ 41 + 2 ^ 40 + die * 2 ^ 27

/-- The first checks of a CARVE, and the questions to packages that own lines of the window. -/
def State.startCarve (s : State) (die : Nat) : State :=
  let w := s.window die
  if s.tileIn w (2 ^ 27) then s.tcqEnd 3
  else { s with move := some ⟨.asking, w, 2 ^ 27, 0, 0⟩ }.askTiles w (2 ^ 27)

/-- The checks of a CARVE, in their order, and its freeze. -/
def State.checkCarve (s : State) (m : MoveState) : State :=
  let tile := s.tileIn m.base m.len || s.askedYes 0x38#8
  let s := s.asksDone
  if tile then s.tcqEnd 3
  else if s.triggers.any fun t => inRange m.base m.len t.addr then s.tcqEnd 5
  else if 64 ≤ s.freezes.length then s.tcqEnd 2
  else State.freeze { s with move := some { m with phase := .copying } } m.base m.len

/-- The window's new size: every byte is unpredictable, and none is poisoned; the slices hold what is left (R1). -/
def State.endCarve (s : State) (die units : Nat) : State :=
  let w := s.window die
  let s : State := { s with
    carve := s.carve.set (die % 4) units (Nat.mod_lt _ (by decide))
    keyGen := assocPut s.keyGen (1024 + die) (s.genOf (1024 + die) + 1)
    poison := s.poison.filter fun l => !inRange w (2 ^ 27) l
    freezes := s.freezes.filter (· ≠ ⟨w, 2 ^ 27⟩) }
  ((List.range 64).foldl (fun s k => s.fitLlc die k) s).tcqEnd 0

/-- A CARVE goes on: its checks, the recall of every line of the window with nothing written back, and the new size. -/
def State.goCarve (s : State) (die units : Nat) : State :=
  let s : State := match s.move with
    | some (m : MoveState) => if m.phase = .asking then s.onceAsked fun s => s.checkCarve m else s
    | none => s
  match s.move with
  | some m =>
    if m.phase = .copying then
      let s := s.recallRange m.base m.len .drop
      if s.rangeFree m.base m.len then s.endCarve die units else s
    else s
  | none => s

/-- CARVE (R347). -/
def execCarve (s : State) : Host.Outcome State Fault Refusal :=
  s.ev fun s =>
    s.tcqRun .carve (fun s bs => s.startCarve (fieldAt bs 2 2)) fun s bs => s.goCarve (fieldAt bs 2 2) (tcqLen bs)

/-! ### Retries of what was moved (R345) -/

/-- Bytes at a new place, in the same order. -/
def rebase (pa : Nat) (cs : List Host.Cell) : List Host.Cell := (cs.zipIdx).map fun c => (pa + c.2, c.1.2)

/-- The lane of a posted store whose walk faults (R345). -/
def State.postedFault (s : State) (e : Posted) (code : BitVec 8) : State :=
  State.withGroup { s with posted := s.posted.filter fun f => f.id ≠ e.id } ⟨e.team, e.group⟩ fun s =>
    match s.g.opOf e.part.1 with
    | none => s
    | some o => s.putOp (o.failLanes (if o.instr.isOnce then o.pend else o.pend &&& oneLane e.part.2) code e.va 0#64)

/-- A posted store that its home has refused as moved: the translation is dropped and walked again; a frame that is not frozen
takes the store (R345). -/
def State.repost (s : State) (e : Posted) : State :=
  match e.bytes with
  | [] => s
  | c :: _ =>
    if !e.moved then s
    else
      match (s.dropVa e.core e.ctx e.va).translate e.core e.ctx e.va .store with
      | .notPresent s => s.postedFault e 0x06#8
      | .permission s => s.postedFault e 0x07#8
      | .wait s _ => s
      | .ok s pa =>
        if s.frozen pa then s
        else
          { s with
            posted := updWhere (fun f => f.id == e.id)
              (fun f => { f with
                bytes := rebase pa f.bytes, whole := f.whole.map fun l => if l = lineOf c.1 then lineOf pa else l, moved := false })
              s.posted }

/-- The address that a lane of an operation accesses next: of a chain, its read's (R231). -/
def Op.nextAddr (o : Op) (l : Fin 32) : W64 :=
  let x := o.lanes[l]
  match o.instr with
  | .chld _ => (chainRead o.gops x.aux.toNat x.addr).1
  | _ => x.addr

/-- The operations of a group that have been refused as moved walk again and are attempted again (R345). They count as refused
until they are performed: the group's later strong accesses of the line stay behind them. -/
def State.reOps (s : State) : State :=
  s.g.ops.foldl (fun s o =>
    match s.g.opOf o.id with
    | none => s
    | some o =>
      if !o.moved || o.pend = 0#32 || o.instr.isMma then s
      else
        ((lanesOf o.pend).foldl (fun s l => s.dropVa s.t.core s.t.ctx (o.nextAddr l)) s).progress o o.pend) s

/-- MOVED_RETRY (R345): what a group has in flight, posted or accepted is translated again where it was refused. -/
def execMovedRetry (at_ : GroupRef) (s : State) : Host.Outcome State Fault Refusal :=
  s.ev fun s =>
    let s := (s.posted.filter fun e => e.team = at_.team ∧ e.group = at_.group).foldl State.repost s
    let s := (s.acps.filter fun c => c.team = at_.team ∧ c.group = at_.group).foldl State.goAcp s
    s.withGroup at_ State.reOps

end Sys2Proof.Machine
end

