-- ==== Sys2Proof/Machine/Reliab.lean ====
section
/-! DEFINITION. Reliability, security, reset and power: the key mailbox, links, scrub and spares, attestation, reset and
thermal events (16 R348, R349; 17 R369-R378). -/

namespace Sys2Proof.Machine

/-! ### The key mailbox (R373, R374) -/

def State.keyBox (s : State) : Nat := s.ctxtab.toNat + 0x6_0000

/-- A command is pending: its OP and key id. -/
def State.keyCmd (s : State) : Option (Nat × Nat) :=
  if s.rd (s.keyBox + 15) 1 = 1 then some (s.rd s.keyBox 1, s.rd (s.keyBox + 2) 2 % 1024) else none

/-- The command is done: STATUS, and then GO. -/
def State.keyEnd (s : State) (status : Nat) : State := (s.wrN (s.keyBox + 1) 1 status).wrN (s.keyBox + 15) 1 0

/-- A key id stands for a new key, or for none: what was written under the old one reads as unpredictable bits. -/
def State.renewKey (s : State) (key : Nat) : State := { s with keyGen := assocPut s.keyGen key (s.genOf key + 1) }

/-- GENKEY (R373). -/
def execGenkey (s : State) : Host.Outcome State Fault Refusal :=
  s.ev fun s =>
    match s.keyCmd with
    | some (1, key) => (s.renewKey key).keyEnd 0
    | _ => s

/-- A descriptor in use names a key id (R374). -/
def State.keyInUse (s : State) (key : Nat) : Bool :=
  (List.range 1024).any fun n =>
    let d := s.desc (BitVec.ofNat 10 n)
    s.rd (d + 8) 2 % 1024 == key && (s.rd (d + 10) 1 == 1 || s.rd (d + 10) 1 == 2)

/-- The line stands under a key id: as it was last written, or, where nothing has written it, by the key map (R373, R374). -/
def State.underKey (s : State) (key line : Nat) : Bool :=
  s.here line &&
    (match s.tags.find? fun t => t.1 = line with
     | some t => t.2.1 == key
     | none => s.keyOf line == some key)

/-- A directory holding is called in with its data discarded (R374). -/
def State.discardHolding (s : State) (e : DirEntry) : State :=
  let others := s.otherHolders e
  if s.recalls.any fun r => r.line = e.line then
    { s with recalls := updWhere (fun r => r.line == e.line) (fun r => { r with kind := .drop }) s.recalls }
  else if others = [] then s.dropDir e.line
  else s.recall e.line e others .drop

/-- A virtual address stands under a key id, by a leaf at hand. -/
def State.vaUnderKey (s : State) (key : Nat) (ctx : BitVec 10) (va : W64) : Bool :=
  s.tlb.any fun t =>
    leafCovers ctx (vaNum va) t.2 && (leafPa t.2.entry.toNat t.2.companion.toNat (vaNum va)).any fun pa => s.underKey key (lineOf pa)

/-- Bytes of an access under way to a line of a retired key: unpredictable ones, by a number of the access (R374). -/
def State.lostBytes (s : State) (n : Nat) (bs : List Byte) : List Byte :=
  bs.mapIdx fun k _ => (s.freeW (4000000 + 128 * n + k)).extractLsb' 0 8

/-- A captured operation whose lanes act under a retired key: their data is unpredictable (R374). -/
def State.lostOp (s : State) (key : Nat) (ctx : BitVec 10) (o : Op) : Op :=
  { o with
    lanes := Vector.ofFn fun l =>
      let x := o.lanes[l]
      if o.pend.getLsbD l.val && s.vaUnderKey key ctx x.addr then
        { x with data := Vector.ofFn fun k => (s.freeW (6000000 + 512 * o.id + 16 * l.val + k.val)).truncate 32 }
      else x }

/-- A packet here whose request is to act under a retired key. -/
def State.lostPacket (s : State) (key : Nat) (p : Packet) : Packet :=
  if (p.typ = 2#8 ∨ p.typ = 3#8) ∧ s.underKey key (lineOf p.addr.toNat) then { p with payload := s.lostBytes p.tag.toNat p.payload } else p

/-- A bridge request that is to act under a retired key. -/
def State.lostJob (s : State) (key n : Nat) (j : HostJob) : HostJob :=
  let hit (h : HostAccess) : Bool := if h.virt then s.vaUnderKey key h.ctx h.addr else s.underKey key (lineOf (h.addr.toNat % 2 ^ 62))
  match j with
  | .write h => .write (if hit h then { h with data := s.lostBytes n h.data } else h)
  | .atomic h => .atomic (if hit h then { h with data := s.lostBytes n h.data } else h)
  | j => j

/-- What is under way to the lines of a key that is being retired reaches memory under the new key, with unpredictable bytes
(R374): posted stores, captured operations, the engines' commands, packets that wait here, and bridge requests. -/
def State.lostAccesses (s : State) (key : Nat) : State :=
  let free (c : Host.Cell) : Host.Cell :=
    if s.underKey key (lineOf c.1) then (c.1, (s.freeW (4000000 + c.1)).extractLsb' 0 8) else c
  { s with
    posted := s.posted.map fun e => { e with bytes := e.bytes.map free }
    teams := s.teams.map fun t => { t with groups := t.groups.map fun g => { g with ops := g.ops.map (s.lostOp key t.ctx) } }
    copies := s.copies.map fun c => { c with lost := insertNat key c.lost }
    acps := s.acps.map fun c => { c with lost := insertNat key c.lost }
    replies := s.replies.map fun r => if r.reply.isNone then { r with req := s.lostPacket key r.req } else r
    flowsIn := s.flowsIn.map fun f => { f with early := f.early.map (s.lostPacket key) }
    hostq := s.hostq.map fun h => { h with job := s.lostJob key h.at_ h.job } }

/-- Discards the lines held under a key, here and elsewhere, and destroys the key (R374). -/
def State.retireKey (s : State) (key : Nat) : State :=
  let s := s.lostAccesses key
  let s : State := { s with l1 := s.l1.filter fun w => !s.underKey key (lineOf (4 * w.word)) }
  ((s.dir.filter fun e => s.underKey key e.line).foldl State.discardHolding s).renewKey key

/-- RETIRE (R374): refused for a key id of a context in use. -/
def execRetire (s : State) : Host.Outcome State Fault Refusal :=
  s.ev fun s =>
    match s.keyCmd with
    | some (2, key) => if s.keyInUse key then s.keyEnd 2 else ((s.retireKey key).keyEnd 0).pump
    | _ => s

/-- KEY_INVALID_COMMAND (R373). -/
def execKeyInvalidCommand (s : State) : Host.Outcome State Fault Refusal :=
  s.ev fun s =>
    match s.keyCmd with
    | some (op, _) => if op = 1 ∨ op = 2 then s else s.keyEnd 1
    | none => s

/-! ### Links (R348, R349, R372-R374) -/

/-- FLIT_CRC_REPLAY (R348): the link replays the flit, and software sees no loss. -/
def execFlitCrcReplay (_pair : Nat) (s : State) : Host.Outcome State Fault Refusal := s.ev fun s => s

/-- The wear section is rewritten and signed anew (R376). -/
def State.wear (s : State) (f : Spares → Spares) : State := { s with spares := { f s.spares with valid := true } }

/-- UCIE_MODULE_RETIRE (R349): one of the sixteen modules of one of the six die pairs goes out of service, and is recorded. -/
def execUcieModuleRetire (pair : Nat) (s : State) : Host.Outcome State Fault Refusal :=
  s.ev fun s =>
    if 6 ≤ pair then s
    else s.wear fun w => { w with ucie := assocPut w.ucie pair (min 16 (lookupD w.ucie pair 0 + 1)) }

/-- UCIe lane repair within a module of a die pair (R348, R372): a spare lane comes into use, and is recorded. -/
def State.ucieRepair (s : State) (pair : Nat) : State :=
  if 6 ≤ pair then s else s.wear fun w => { w with ucieLanes := assocPut w.ucieLanes pair (lookupD w.ucieLanes pair 0 + 1) }

/-- The pair has no module in service: all sixteen are retired, or its links did not train (R349, R377). -/
def State.pairOut (s : State) (pair : Nat) : Bool := s.pairsDown.contains pair || decide (16 ≤ lookupD s.spares.ucie pair 0)

/-- The die pair of two dies, numbered 0-5 in the order 01, 02, 03, 12, 13, 23. -/
def pairOf (a b : Nat) : Nat := ([(0, 1), (0, 2), (0, 3), (1, 2), (1, 3), (2, 3)] : List (Nat × Nat)).idxOf (min a b, max a b)

/-- The die that relays the traffic between two dies, none where their own pair carries it (R349). The model has no latencies
for it to lengthen (log 10). -/
def State.relay (s : State) (a b : Nat) : Option Nat :=
  if a ≠ b ∧ s.pairOut (pairOf a b) then (List.range 4).find? fun d => d ≠ a ∧ d ≠ b else none

/-- The die of a fabric port: ports 12d to 12d + 11 stand on die d (R3). -/
def dieOfPort (port : Nat) : Nat := port / 12

/-- The port exists (R1, R3). -/
def isPort (port : Nat) : Bool := dieOfPort port < 4

/-- FABRIC_LANE_SPARE (R372): a failed lane of a port's four and its spare: the first is replaced by the spare, a second leaves
three lanes. -/
def execFabricLaneSpare (port : Nat) (s : State) : Host.Outcome State Fault Refusal :=
  s.ev fun s =>
    if !isPort port || decide (5 ≤ s.spares.fabricLanes.count port) then s
    else s.wear fun w => { w with fabricLanes := w.fabricLanes ++ [port] }

/-- Core cycles in 1 ms (R52). -/
def cyclesPerMs : Nat := 2_700_000

/-- LINK_AUTH_FAILURE (R374): the flit is replayed; the eighth failure of a port within 1 ms retrains it, and they count
anew. -/
def execLinkAuthFailure (port : Nat) (s : State) : Host.Outcome State Fault Refusal :=
  s.ev fun s =>
    if !isPort port then s
    else
      let recent := (port, s.cycle) :: s.authFails.filter fun f => (s.cycle - f.2).toNat < cyclesPerMs
      { s with authFails := if 8 ≤ recent.countP (fun f => f.1 == port) then recent.filter fun f => f.1 ≠ port else recent }

/-! ### Scrub and spares (R369-R372) -/

/-- An event whose further bytes the spec does not give (R364; log 19). -/
def State.sparesEvent (s : State) (cause : Nat) : State :=
  s.event cause [(1, toBytes 8 (s.freeW 4).toNat), (9, toBytes 7 (s.freeW 5).toNat), (24, toBytes 8 (s.freeW 6).toNat)]

/-- The scrub state of a row. -/
def State.rowOf (s : State) (r : RowRef) : RowState := (s.rowStates.find? fun x => x.row = r).getD ⟨r, 0, none, none⟩

def State.putRow (s : State) (x : RowState) : State := { s with rowStates := x :: s.rowStates.filter fun y => y.row ≠ x.row }

/-- Spare rows of a bank in use. -/
def State.rowSpares (s : State) (r : RowRef) : Nat := s.spares.rows.countP fun x => x == (r.stack, r.bank)

/-- A row at the threshold is copied to a spare of its bank, or an event says that there is none (R371). -/
def State.spareRow (s : State) (x : RowState) : State :=
  if x.count < 8 ∨ x.copying.isSome then s.putRow x
  else if s.rowSpares x.row < 8 then
    State.putRow (s.wear fun w => { w with rows := (x.row.stack, x.row.bank) :: w.rows })
      { x with copying := some (s.rowSpares x.row) }
  else (s.putRow x).sparesEvent 5

/-- SCRUB_ROW_PASS (R370): the counter leaks, corrected errors add, and an uncorrectable one poisons its line (R369). -/
def execScrubRowPass (row : RowRef) (corrected : Nat) (uncorrectable : Option Nat) (s : State) :
    Host.Outcome State Fault Refusal :=
  s.ev fun s =>
    if 8 ≤ row.stack then s
    else
      let x := s.rowOf row
      let s := s.spareRow { x with count := min 8 (x.count - 1 + corrected) }
      match uncorrectable with
      | none => s
      | some line => (s.addPoison [lineOf line]).errorEvent

/-- A demand access has found a corrected error in a row (R370). -/
def State.correctedRow (s : State) (row : RowRef) : State :=
  if 8 ≤ row.stack then s
  else
    let x := s.rowOf row
    s.spareRow { x with count := min 8 (x.count + 1) }

/-- ROW_REMAP_SWITCH (R371): the copy has ended, and every later access reaches the spare. The row's counter starts at 0: the
spec gives no value for it after the switch (log 87, DESIGN CHOICE). -/
def execRowRemapSwitch (row : RowRef) (s : State) : Host.Outcome State Fault Refusal :=
  s.ev fun s =>
    let x := s.rowOf row
    match x.copying with
    | none => s
    | some k => s.putRow ⟨row, 0, none, some k⟩

/-- A spare takes a core's number: its teams are saved, and nothing of the old core's L1, rows or blocks remains. -/
def State.swapCore (s : State) (core : Nat) : State :=
  { s.wear fun w => { w with cores := core :: w.cores } with
    teams := updWhere (fun t => t.core == core && t.saving.isNone && !t.header) (fun t => { t with saving := some .preempt })
      s.teams
    l1 := s.l1.filter fun w => w.core ≠ core
    rowOwner := s.rowOwner.filter fun o => o.1 ≠ core
    blockOwner := s.blockOwner.filter fun o => o.1 ≠ core }

/-- CORE_SPARE_SWAP (R372): a die that has used its four spares keeps the worn core, and an event says so. -/
def execCoreSpareSwap (core : Nat) (s : State) : Host.Outcome State Fault Refusal :=
  s.ev fun s =>
    if 192 ≤ core then s
    else if (s.spares.cores.countP fun c => dieOfCore c == dieOfCore core) < 4 then s.swapCore core
    else (s.wear fun w => { w with worn := insertNat core w.worn }).sparesEvent 6

/-- A core can run no longer: it is fenced off (R372). -/
def State.fenceCore (s : State) (core : Nat) : State :=
  if 192 ≤ core then s else s.wear fun w => { w with fenced := insertNat core w.fenced }

/-- The lines of a slice leave it: each is written back, or, as a free value has it, poisoned (R372; log 77). -/
def State.emptySlice (s : State) (die slice : Nat) : State :=
  let held := ((s.llc.map (·.line)) ++ s.tags.map (·.1)).dedup.filter (inSlice die slice)
  let s := s.addPoison (held.filter fun l => (s.freeW (5000000 + l)).getLsbD 0)
  ((s.llc.map (·.line)).filter (inSlice die slice)).foldl State.evictLine s

/-- SLICE_SPARE_SWAP (R372): the spare takes the slice's number. Where the die has none left, the worn slice stays in service:
the spec does not say (log 88, DESIGN CHOICE). -/
def execSliceSpareSwap (die slice : Nat) (s : State) : Host.Outcome State Fault Refusal :=
  s.ev fun s =>
    if 4 ≤ die ∨ 64 ≤ slice then s
    else if (s.spares.slices.countP fun x => x.1 == die) < 4 then
      (s.emptySlice die slice).wear fun w => { w with slices := (die, slice) :: w.slices }
    else s

/-- SRAM_ROW_SPARE (R372): a spare row of the slice takes a row's place. Where the slice has none left, the worn row stays in
service: the spec does not say (log 88, DESIGN CHOICE). -/
def execSramRowSpare (die slice row : Nat) (s : State) : Host.Outcome State Fault Refusal :=
  s.ev fun s =>
    if 4 ≤ die ∨ 64 ≤ slice then s
    else if (s.spares.sramRows.countP fun x => x.1 == die && x.2.1 == slice) < 16 then
      s.wear fun w => { w with sramRows := (die, slice, row) :: w.sramRows }
    else s

/-! ### Attestation (R375) -/

/-- A list as bytes: its length, and its numbers. -/
def numBytes (xs : List Nat) : List Byte := toBytes 4 xs.length ++ xs.flatMap (toBytes 8)

/-- The wear section as bytes: every spare brought in, every retirement, every cause of a shutdown (R376, R378; log 29). -/
def Spares.bytes (w : Spares) : List Byte :=
  [w.cores, w.worn, w.fenced, w.slices.flatMap fun x => [x.1, x.2], w.sramRows.flatMap fun x => [x.1, x.2.1, x.2.2],
    w.rows.flatMap fun x => [x.1, x.2], w.fabricLanes, w.ucie.flatMap fun x => [x.1, x.2],
    w.ucieLanes.flatMap fun x => [x.1, x.2], w.shutdowns].flatMap numBytes

/-- The configuration record as bytes: the policy section and the wear section (R376; log 29). -/
def State.configBytes (s : State) : List Byte :=
  toBytes 4 s.policy.versionFloor ++ toBytes 2 s.policy.scrubHours ++ s.policy.carve.toList.flatMap (toBytes 1) ++
    toBytes 8 s.policy.saveBytes ++ toBytes 3 s.policy.bridge ++ toBytes 3 s.policy.pkg ++ s.spares.bytes

/-- The spares in use of each kind (R372, R375): of UCIe, the lanes repaired; a port has one spare lane. -/
def Spares.counts (w : Spares) : List Nat :=
  [w.cores.length, w.slices.length, w.sramRows.length, w.rows.length, w.fabricLanes.dedup.length, (w.ucieLanes.map (·.2)).sum]

/-- A firmware image carries a valid signature by Veluth's key, whose hash the root of trust holds (R375; log 11). -/
def imageSigned (image : List Byte) : Bool :=
  sha3 (Config.imageKey image) == Config.firmwareKeyHash &&
    dsaVerify (Config.imageKey image) (Config.imageBody image) (Config.imageSignature image)

/-- The root of trust accepts a firmware image: signed, and of a version that the floor admits (R375). -/
def accepts (floor : Nat) (image : List Byte) : Bool := imageSigned image && decide (floor ≤ Config.imageVersion image)

/-- The images that are loaded. -/
def State.loaded (s : State) : List (List Byte) := s.firmware.filter (accepts s.policy.versionFloor)

/-- The report's body: nonce, firmware hashes, hash of the configuration record, package, cell, spares in use. -/
def State.reportBody (s : State) (nonce : List Byte) : List Byte :=
  nonce ++ s.loaded.flatMap sha3 ++ sha3 s.configBytes ++ toBytes 3 s.pkg ++ toBytes 3 s.ownCell ++
    s.spares.counts.flatMap (toBytes 4)

/-- The identity key pair, made anew at each reset; its public key is the device's identity (R375; log 11). -/
def State.identity (s : State) : DsaKey := dsaKeyOf ((List.finRange 32).map (Config.identitySeed s.resets))

/-- A signature by the identity key: 2,420 bytes (R6, R375). -/
def State.signature (s : State) (body : List Byte) : List Byte :=
  s.identity.sign ((List.finRange 32).map (Config.signRandom s.fresh)) body

/-- ATTESTATION_REQUEST (R375): the report for a nonce of 32 bytes, signed by the identity key of this reset, goes to the
requester. -/
def execAttestationRequest (nonce : List Byte) (s : State) : Host.Outcome State Fault Refusal :=
  s.ev fun s =>
    let body := s.reportBody ((List.range 32).map fun k => nonce.getD k 0#8)
    { s with outbox := s.outbox ++ [.report (body ++ s.signature body)] }

/-! ### Reset and power (R377, R378) -/

/-- Bring-up number `n` comes to service mode: a section of the record or a firmware image is refused, a stack fails, or a core
is fenced off (R372, R376, R377). -/
def State.service (s : State) (n : Nat) : Bool :=
  !s.policy.valid || !s.spares.valid || !s.spares.fenced.isEmpty || s.firmware.any (fun i => !accepts s.policy.versionFloor i) ||
    (List.finRange 8).any fun k => !Config.stackOk n k

/-- The package announces its cell, and accepts traffic (R377; log 2). -/
def State.join (s : State) : State :=
  let p := s.mkPacket 0x0E#8 1#8 0 0#10 0#16 0#8 (toBytes 8 s.ownCell)
  State.send { s with joined := true, nextId := s.nextId + 1 } { p with dst := BitVec.ofNat 24 s.policy.bridge, addr := 0#64 }

/-- What stays across a reset: the configuration record in flash with its remap tables and spares, HBM's cells and their
poison, the images in flash, what has been sent, and the model's own counters; every key is gone, and so is the carve-out
(R58, R347, R375-R377). A section of the record whose signature fails is ignored; what stands in its place the spec does not
say, and the model takes the defaults of R376, package id and bridge 0 (log 89, DESIGN CHOICE). A stack and a port that fail
are reported; a die pair whose links do not train is as one retired, and the lanes it repairs are recorded (R349, R377). -/
def State.booted (s : State) : State :=
  let n := s.resets + 1
  let policy := if s.policy.valid then s.policy else { Policy.default with valid := false }
  let spares := if s.spares.valid then s.spares else { Spares.none with valid := false }
  let repaired := (List.finRange 6).foldl (fun w p => if Config.laneRepairs n p = 0 then w
    else assocPut w p.val (lookupD w p.val 0 + Config.laneRepairs n p)) spares.ucieLanes
  { State.reset with
    power := if !Config.romOk n then .off else if s.service n then .service else .running
    joined := false, portsDown := ((List.finRange 48).filter fun p => !Config.portOk n p).map (·.val)
    pairsDown := ((List.finRange 6).filter fun p => !Config.pairOk n p).map (·.val)
    stacksDown := ((List.finRange 8).filter fun k => !Config.stackOk n k).map (·.val)
    resets := n, pkg := policy.pkg, policy := policy, carve := policy.carve
    mem := s.mem, poison := s.poison.filter isHbm
    tags := s.tags, keyGen := (List.range 1028).map fun k => (k, s.genOf k + 1)
    rowStates := s.rowStates, spares := { spares with ucieLanes := repaired }, firmware := s.firmware, outbox := s.outbox, nextId := s.nextId
    fresh := s.fresh, turns := s.turns }

/-- The package after a reset: a package in service mode joins no cell (R376), and one whose join fails accepts no traffic. -/
def State.afterReset (s : State) : State :=
  let s := s.booted
  if s.power = .running ∧ Config.joinOk s.resets then s.join else s

/-- PACKAGE_RESET (R377): CYCLE starts at 0, and no context exists. -/
def execPackageReset (s : State) : Host.Outcome State Fault Refusal := s.ev State.afterReset

/-- THERMAL_THROTTLE (R378): the clock steps down; latencies in cycles are unchanged. -/
def execThermalThrottle (s : State) : Host.Outcome State Fault Refusal := s.ev fun s => { s with throttled := true }

/-- THERMAL_SHUTDOWN (R378): the module shuts down at 115 degrees, and records the cause in the wear
section. -/
def execThermalShutdown (s : State) : Host.Outcome State Fault Refusal :=
  s.ev fun s => { s.wear fun w => { w with shutdowns := w.shutdowns ++ [115] } with power := .off, shutdownCause := some 115 }

end Sys2Proof.Machine
end

