-- ==== Sys2Proof/Machine/Dispatch.lean ====
section
/-! DEFINITION. The dispatch of every constructor of `Instr` to its meaning, one arm per constructor. -/

namespace Sys2Proof.Machine

/-- The meaning of an instruction or event. -/
def exec (i : Instr) (s : State) : Host.Outcome State Fault Refusal :=
  match i with
  | .iadd w => Sys2Proof.Machine.execIadd w s
  | .iaddIs w => Sys2Proof.Machine.execIaddIs w s
  | .isub w => Sys2Proof.Machine.execIsub w s
  | .iaddc w => Sys2Proof.Machine.execIaddc w s
  | .imulLo w => Sys2Proof.Machine.execImulLo w s
  | .imulHi w => Sys2Proof.Machine.execImulHi w s
  | .imulHiU w => Sys2Proof.Machine.execImulHiU w s
  | .imad w => Sys2Proof.Machine.execImad w s
  | .imadw w => Sys2Proof.Machine.execImadw w s
  | .imadwU w => Sys2Proof.Machine.execImadwU w s
  | .imin w => Sys2Proof.Machine.execImin w s
  | .iminU w => Sys2Proof.Machine.execIminU w s
  | .imax w => Sys2Proof.Machine.execImax w s
  | .imaxU w => Sys2Proof.Machine.execImaxU w s
  | .iabs w => Sys2Proof.Machine.execIabs w s
  | .ineg w => Sys2Proof.Machine.execIneg w s
  | .shl w => Sys2Proof.Machine.execShl w s
  | .shlIu w => Sys2Proof.Machine.execShlIu w s
  | .shr w => Sys2Proof.Machine.execShr w s
  | .shrIu w => Sys2Proof.Machine.execShrIu w s
  | .sar w => Sys2Proof.Machine.execSar w s
  | .sarIu w => Sys2Proof.Machine.execSarIu w s
  | .rol w => Sys2Proof.Machine.execRol w s
  | .rolIu w => Sys2Proof.Machine.execRolIu w s
  | .dshl w => Sys2Proof.Machine.execDshl w s
  | .dshr w => Sys2Proof.Machine.execDshr w s
  | .and w => Sys2Proof.Machine.execAnd w s
  | .andIu w => Sys2Proof.Machine.execAndIu w s
  | .or w => Sys2Proof.Machine.execOr w s
  | .orIu w => Sys2Proof.Machine.execOrIu w s
  | .xor w => Sys2Proof.Machine.execXor w s
  | .xorIu w => Sys2Proof.Machine.execXorIu w s
  | .andn w => Sys2Proof.Machine.execAndn w s
  | .lgc3 w => Sys2Proof.Machine.execLgc3 w s
  | .popc w => Sys2Proof.Machine.execPopc w s
  | .clz w => Sys2Proof.Machine.execClz w s
  | .brev w => Sys2Proof.Machine.execBrev w s
  | .bfx w => Sys2Proof.Machine.execBfx w s
  | .bfxS w => Sys2Proof.Machine.execBfxS w s
  | .bfi w => Sys2Proof.Machine.execBfi w s
  | .bperm w => Sys2Proof.Machine.execBperm w s
  | .sel w => Sys2Proof.Machine.execSel w s
  | .mov w => Sys2Proof.Machine.execMov w s
  | .movi w => Sys2Proof.Machine.execMovi w s
  | .movhi w => Sys2Proof.Machine.execMovhi w s
  | .icmpEq w => Sys2Proof.Machine.execIcmpEq w s
  | .icmpLt w => Sys2Proof.Machine.execIcmpLt w s
  | .icmpLe w => Sys2Proof.Machine.execIcmpLe w s
  | .icmpLtU w => Sys2Proof.Machine.execIcmpLtU w s
  | .icmpLeU w => Sys2Proof.Machine.execIcmpLeU w s
  | .iadd64 w => Sys2Proof.Machine.execIadd64 w s
  | .isub64 w => Sys2Proof.Machine.execIsub64 w s
  | .shl64 w => Sys2Proof.Machine.execShl64 w s
  | .shr64 w => Sys2Proof.Machine.execShr64 w s
  | .sar64 w => Sys2Proof.Machine.execSar64 w s
  | .lea w => Sys2Proof.Machine.execLea w s
  | .faddF64 w => Sys2Proof.Machine.execFaddF64 w s
  | .faddF32 w => Sys2Proof.Machine.execFaddF32 w s
  | .faddF16x2 w => Sys2Proof.Machine.execFaddF16x2 w s
  | .faddBf16x2 w => Sys2Proof.Machine.execFaddBf16x2 w s
  | .fsubF64 w => Sys2Proof.Machine.execFsubF64 w s
  | .fsubF32 w => Sys2Proof.Machine.execFsubF32 w s
  | .fsubF16x2 w => Sys2Proof.Machine.execFsubF16x2 w s
  | .fsubBf16x2 w => Sys2Proof.Machine.execFsubBf16x2 w s
  | .fmulF64 w => Sys2Proof.Machine.execFmulF64 w s
  | .fmulF32 w => Sys2Proof.Machine.execFmulF32 w s
  | .fmulF16x2 w => Sys2Proof.Machine.execFmulF16x2 w s
  | .fmulBf16x2 w => Sys2Proof.Machine.execFmulBf16x2 w s
  | .ffmaF64 w => Sys2Proof.Machine.execFfmaF64 w s
  | .ffmaF32 w => Sys2Proof.Machine.execFfmaF32 w s
  | .ffmaF16x2 w => Sys2Proof.Machine.execFfmaF16x2 w s
  | .ffmaBf16x2 w => Sys2Proof.Machine.execFfmaBf16x2 w s
  | .fminF64 w => Sys2Proof.Machine.execFminF64 w s
  | .fminF32 w => Sys2Proof.Machine.execFminF32 w s
  | .fminF16x2 w => Sys2Proof.Machine.execFminF16x2 w s
  | .fminBf16x2 w => Sys2Proof.Machine.execFminBf16x2 w s
  | .fmaxF64 w => Sys2Proof.Machine.execFmaxF64 w s
  | .fmaxF32 w => Sys2Proof.Machine.execFmaxF32 w s
  | .fmaxF16x2 w => Sys2Proof.Machine.execFmaxF16x2 w s
  | .fmaxBf16x2 w => Sys2Proof.Machine.execFmaxBf16x2 w s
  | .fabsF64 w => Sys2Proof.Machine.execFabsF64 w s
  | .fabsF32 w => Sys2Proof.Machine.execFabsF32 w s
  | .fabsX2 w => Sys2Proof.Machine.execFabsX2 w s
  | .fnegF64 w => Sys2Proof.Machine.execFnegF64 w s
  | .fnegF32 w => Sys2Proof.Machine.execFnegF32 w s
  | .fnegX2 w => Sys2Proof.Machine.execFnegX2 w s
  | .fcmpEqF64 w => Sys2Proof.Machine.execFcmpEqF64 w s
  | .fcmpLtF64 w => Sys2Proof.Machine.execFcmpLtF64 w s
  | .fcmpLeF64 w => Sys2Proof.Machine.execFcmpLeF64 w s
  | .fcmpEqF32 w => Sys2Proof.Machine.execFcmpEqF32 w s
  | .fcmpLtF32 w => Sys2Proof.Machine.execFcmpLtF32 w s
  | .fcmpLeF32 w => Sys2Proof.Machine.execFcmpLeF32 w s
  | .fclassF64 w => Sys2Proof.Machine.execFclassF64 w s
  | .fclassF32 w => Sys2Proof.Machine.execFclassF32 w s
  | .fdivF64 w la => Sys2Proof.Machine.execFdivF64 w la s
  | .fsqrtF64 w la => Sys2Proof.Machine.execFsqrtF64 w la s
  | .fdivF32 w la => Sys2Proof.Machine.execFdivF32 w la s
  | .fsqrtF32 w la => Sys2Proof.Machine.execFsqrtF32 w la s
  | .frcp w la => Sys2Proof.Machine.execFrcp w la s
  | .frsq w la => Sys2Proof.Machine.execFrsq w la s
  | .fexp2 w la => Sys2Proof.Machine.execFexp2 w la s
  | .flog2 w la => Sys2Proof.Machine.execFlog2 w la s
  | .fsin w la => Sys2Proof.Machine.execFsin w la s
  | .fcos w la => Sys2Proof.Machine.execFcos w la s
  | .fcvt w => Sys2Proof.Machine.execFcvt w s
  | .fcvtSeed w => Sys2Proof.Machine.execFcvtSeed w s
  | .i2f w => Sys2Proof.Machine.execI2f w s
  | .f2i w => Sys2Proof.Machine.execF2i w s
  | .frnd w => Sys2Proof.Machine.execFrnd w s
  | .fscale w => Sys2Proof.Machine.execFscale w s
  | .fpack w => Sys2Proof.Machine.execFpack w s
  | .fdot2F16x2 w => Sys2Proof.Machine.execFdot2F16x2 w s
  | .fdot2Bf16x2 w => Sys2Proof.Machine.execFdot2Bf16x2 w s
  | .voteAll w => Sys2Proof.Machine.execVoteAll w s
  | .voteAny w => Sys2Proof.Machine.execVoteAny w s
  | .voteBal w => Sys2Proof.Machine.execVoteBal w s
  | .eqmask w => Sys2Proof.Machine.execEqmask w s
  | .equni w => Sys2Proof.Machine.execEquni w s
  | .eqmask64 w => Sys2Proof.Machine.execEqmask64 w s
  | .equni64 w => Sys2Proof.Machine.execEquni64 w s
  | .reduce w => Sys2Proof.Machine.execReduce w s
  | .scanInc w => Sys2Proof.Machine.execScanInc w s
  | .scanExc w => Sys2Proof.Machine.execScanExc w s
  | .lanemask w => Sys2Proof.Machine.execLanemask w s
  | .ppopc w => Sys2Proof.Machine.execPpopc w s
  | .pand w => Sys2Proof.Machine.execPand w s
  | .por w => Sys2Proof.Machine.execPor w s
  | .pxor w => Sys2Proof.Machine.execPxor w s
  | .pmov w => Sys2Proof.Machine.execPmov w s
  | .firstlane w => Sys2Proof.Machine.execFirstlane w s
  | .ldv m => Sys2Proof.Machine.execLdv m s
  | .stv m => Sys2Proof.Machine.execStv m s
  | .lds m => Sys2Proof.Machine.execLds m s
  | .sts m => Sys2Proof.Machine.execSts m s
  | .prefetch m => Sys2Proof.Machine.execPrefetch m s
  | .atom m => Sys2Proof.Machine.execAtom m s
  | .red m => Sys2Proof.Machine.execRed m s
  | .atoms m => Sys2Proof.Machine.execAtoms m s
  | .casw m => Sys2Proof.Machine.execCasw m s
  | .enq m => Sys2Proof.Machine.execEnq m s
  | .chld m => Sys2Proof.Machine.execChld m s
  | .stc m => Sys2Proof.Machine.execStc m s
  | .fence g => Sys2Proof.Machine.execFence g s
  | .acp m => Sys2Proof.Machine.execAcp m s
  | .cinc g => Sys2Proof.Machine.execCinc g s
  | .cdec g => Sys2Proof.Machine.execCdec g s
  | .cwait g => Sys2Proof.Machine.execCwait g s
  | .cread g => Sys2Proof.Machine.execCread g s
  | .binit g => Sys2Proof.Machine.execBinit g s
  | .barrive g => Sys2Proof.Machine.execBarrive g s
  | .bwait g => Sys2Proof.Machine.execBwait g s
  | .grow g => Sys2Proof.Machine.execGrow g s
  | .shrink g => Sys2Proof.Machine.execShrink g s
  | .gang e => Sys2Proof.Machine.execGang e s
  | .mrdy e => Sys2Proof.Machine.execMrdy e s
  | .mma e => Sys2Proof.Machine.execMma e s
  | .mwait e => Sys2Proof.Machine.execMwait e s
  | .accopen e => Sys2Proof.Machine.execAccopen e s
  | .accclose e => Sys2Proof.Machine.execAccclose e s
  | .tcopy e => Sys2Proof.Machine.execTcopy e s
  | .glaunch e => Sys2Proof.Machine.execGlaunch e s
  | .tlaunch e => Sys2Proof.Machine.execTlaunch e s
  | .cresv e => Sys2Proof.Machine.execCresv e s
  | .crel e => Sys2Proof.Machine.execCrel e s
  | .nop w => Sys2Proof.Machine.execNop w s
  | .bra w => Sys2Proof.Machine.execBra w s
  | .brx w => Sys2Proof.Machine.execBrx w s
  | .call w => Sys2Proof.Machine.execCall w s
  | .callx w => Sys2Proof.Machine.execCallx w s
  | .ret w => Sys2Proof.Machine.execRet w s
  | .exit w => Sys2Proof.Machine.execExit w s
  | .yield w => Sys2Proof.Machine.execYield w s
  | .bpt w => Sys2Proof.Machine.execBpt w s
  | .svc w => Sys2Proof.Machine.execSvc w s
  | .hWord slot0 slot1 => Sys2Proof.Machine.execHWord slot0 slot1 s
  | .sadd u => Sys2Proof.Machine.execSadd u s
  | .saddIs u => Sys2Proof.Machine.execSaddIs u s
  | .ssub u => Sys2Proof.Machine.execSsub u s
  | .smul u => Sys2Proof.Machine.execSmul u s
  | .smad u => Sys2Proof.Machine.execSmad u s
  | .sand u => Sys2Proof.Machine.execSand u s
  | .sandIu u => Sys2Proof.Machine.execSandIu u s
  | .sor u => Sys2Proof.Machine.execSor u s
  | .sorIu u => Sys2Proof.Machine.execSorIu u s
  | .sxor u => Sys2Proof.Machine.execSxor u s
  | .sxorIu u => Sys2Proof.Machine.execSxorIu u s
  | .sshl u => Sys2Proof.Machine.execSshl u s
  | .sshlIu u => Sys2Proof.Machine.execSshlIu u s
  | .sshr u => Sys2Proof.Machine.execSshr u s
  | .sshrIu u => Sys2Proof.Machine.execSshrIu u s
  | .ssar u => Sys2Proof.Machine.execSsar u s
  | .ssarIu u => Sys2Proof.Machine.execSsarIu u s
  | .smovi u => Sys2Proof.Machine.execSmovi u s
  | .smovhi u => Sys2Proof.Machine.execSmovhi u s
  | .scmpEq u => Sys2Proof.Machine.execScmpEq u s
  | .scmpLt u => Sys2Proof.Machine.execScmpLt u s
  | .scmpLe u => Sys2Proof.Machine.execScmpLe u s
  | .scmpLtU u => Sys2Proof.Machine.execScmpLtU u s
  | .scmpLeU u => Sys2Proof.Machine.execScmpLeU u s
  | .ssel u => Sys2Proof.Machine.execSsel u s
  | .sbra u => Sys2Proof.Machine.execSbra u s
  | .sld u => Sys2Proof.Machine.execSld u s
  | .sst u => Sys2Proof.Machine.execSst u s
  | .sread u => Sys2Proof.Machine.execSread u s
  | .sreadW u => Sys2Proof.Machine.execSreadW u s
  | .speer u => Sys2Proof.Machine.execSpeer u s
  | .ctxctlSuspend ctx => Sys2Proof.Machine.execCtxctlSuspend ctx s
  | .ctxctlResume ctx => Sys2Proof.Machine.execCtxctlResume ctx s
  | .ctxctlTerminate ctx => Sys2Proof.Machine.execCtxctlTerminate ctx s
  | .ctxctlFlush ctx => Sys2Proof.Machine.execCtxctlFlush ctx s
  | .ctxctlInvalidCommand cmd => Sys2Proof.Machine.execCtxctlInvalidCommand cmd s
  | .splitDataReturn at_ op lanes => Sys2Proof.Machine.execSplitDataReturn at_ op lanes s
  | .longLatencyComplete at_ op lanes => Sys2Proof.Machine.execLongLatencyComplete at_ op lanes s
  | .faultTaken at_ => Sys2Proof.Machine.execFaultTaken at_ s
  | .faultQueueRoom at_ => Sys2Proof.Machine.execFaultQueueRoom at_ s
  | .faultMergeEntry at_ => Sys2Proof.Machine.execFaultMergeEntry at_ s
  | .heldFaultDelivery at_ => Sys2Proof.Machine.execHeldFaultDelivery at_ s
  | .operandLogReplay at_ => Sys2Proof.Machine.execOperandLogReplay at_ s
  | .starvationTrap at_ => Sys2Proof.Machine.execStarvationTrap at_ s
  | .groupRetire at_ => Sys2Proof.Machine.execGroupRetire at_ s
  | .registrationAck id => Sys2Proof.Machine.execRegistrationAck id s
  | .fenceComplete at_ => Sys2Proof.Machine.execFenceComplete at_ s
  | .cwaitWake at_ => Sys2Proof.Machine.execCwaitWake at_ s
  | .bwaitWake at_ => Sys2Proof.Machine.execBwaitWake at_ s
  | .growGrant core => Sys2Proof.Machine.execGrowGrant core s
  | .growDeadlockFail core => Sys2Proof.Machine.execGrowDeadlockFail core s
  | .shrinkRelease at_ => Sys2Proof.Machine.execShrinkRelease at_ s
  | .enginePlaceFree core => Sys2Proof.Machine.execEnginePlaceFree core s
  | .mmaLatchEvent core => Sys2Proof.Machine.execMmaLatchEvent core s
  | .mmaContributionSend core => Sys2Proof.Machine.execMmaContributionSend core s
  | .tileContributionArrival id => Sys2Proof.Machine.execTileContributionArrival id s
  | .engineResend id => Sys2Proof.Machine.execEngineResend id s
  | .tileTimeout tile => Sys2Proof.Machine.execTileTimeout tile s
  | .tcopyStart core elements => Sys2Proof.Machine.execTcopyStart core elements s
  | .tcopyComplete core cmd => Sys2Proof.Machine.execTcopyComplete core cmd s
  | .tcopyWalkFault core cmd => Sys2Proof.Machine.execTcopyWalkFault core cmd s
  | .acpComplete id => Sys2Proof.Machine.execAcpComplete id s
  | .stcLanding id => Sys2Proof.Machine.execStcLanding id s
  | .teamPlacement level => Sys2Proof.Machine.execTeamPlacement level s
  | .preemption level => Sys2Proof.Machine.execPreemption level s
  | .teamSave team => Sys2Proof.Machine.execTeamSave team s
  | .teamResume team => Sys2Proof.Machine.execTeamResume team s
  | .movedRetry at_ => Sys2Proof.Machine.execMovedRetry at_ s
  | .recoveryComplete cell => Sys2Proof.Machine.execRecoveryComplete cell s
  | .privilegedRegisterWrite sel val => Sys2Proof.Machine.execPrivilegedRegisterWrite sel val s
  | .hostLaunch h => Sys2Proof.Machine.execHostLaunch h s
  | .hostRead h => Sys2Proof.Machine.execHostRead h s
  | .hostWrite h => Sys2Proof.Machine.execHostWrite h s
  | .hostAtomic h => Sys2Proof.Machine.execHostAtomic h s
  | .hostRegisterRead h => Sys2Proof.Machine.execHostRegisterRead h s
  | .hostRegisterWrite h => Sys2Proof.Machine.execHostRegisterWrite h s
  | .tcqTailAdvance => Sys2Proof.Machine.execTcqTailAdvance s
  | .inval => Sys2Proof.Machine.execInval s
  | .resolve => Sys2Proof.Machine.execResolve s
  | .finalCmd => Sys2Proof.Machine.execFinalCmd s
  | .moveCmd => Sys2Proof.Machine.execMoveCmd s
  | .moveCopyTimeout => Sys2Proof.Machine.execMoveCopyTimeout s
  | .thaw => Sys2Proof.Machine.execThaw s
  | .carve => Sys2Proof.Machine.execCarve s
  | .tcqInvalidCommand => Sys2Proof.Machine.execTcqInvalidCommand s
  | .genkey => Sys2Proof.Machine.execGenkey s
  | .retire => Sys2Proof.Machine.execRetire s
  | .keyInvalidCommand => Sys2Proof.Machine.execKeyInvalidCommand s
  | .cellDeadCommand => Sys2Proof.Machine.execCellDeadCommand s
  | .cellLiveCommand => Sys2Proof.Machine.execCellLiveCommand s
  | .cellInvalidCommand => Sys2Proof.Machine.execCellInvalidCommand s
  | .recallTimeout pkg line => Sys2Proof.Machine.execRecallTimeout pkg line s
  | .rd p => Sys2Proof.Machine.execRd p s
  | .wr p => Sys2Proof.Machine.execWr p s
  | .atomPacket p => Sys2Proof.Machine.execAtomPacket p s
  | .step p => Sys2Proof.Machine.execStep p s
  | .stcPacket p => Sys2Proof.Machine.execStcPacket p s
  | .coh p => Sys2Proof.Machine.execCoh p s
  | .cohack p => Sys2Proof.Machine.execCohack p s
  | .resp p => Sys2Proof.Machine.execResp p s
  | .retry p => Sys2Proof.Machine.execRetry p s
  | .retryResend tag => Sys2Proof.Machine.execRetryResend tag s
  | .ack p => Sys2Proof.Machine.execAck p s
  | .notice p => Sys2Proof.Machine.execNotice p s
  | .abort p => Sys2Proof.Machine.execAbort p s
  | .abortack p => Sys2Proof.Machine.execAbortack p s
  | .mgmt p => Sys2Proof.Machine.execMgmt p s
  | .hostPacket p => Sys2Proof.Machine.execHostPacket p s
  | .requestTimerResend tag => Sys2Proof.Machine.execRequestTimerResend tag s
  | .requestTimeout tag => Sys2Proof.Machine.execRequestTimeout tag s
  | .abortTimeout tag => Sys2Proof.Machine.execAbortTimeout tag s
  | .ucieModuleRetire pair => Sys2Proof.Machine.execUcieModuleRetire pair s
  | .fabricLaneSpare port => Sys2Proof.Machine.execFabricLaneSpare port s
  | .linkAuthFailure port => Sys2Proof.Machine.execLinkAuthFailure port s
  | .scrubRowPass row corrected uncorrectable => Sys2Proof.Machine.execScrubRowPass row corrected uncorrectable s
  | .rowRemapSwitch row => Sys2Proof.Machine.execRowRemapSwitch row s
  | .coreSpareSwap core => Sys2Proof.Machine.execCoreSpareSwap core s
  | .sliceSpareSwap die slice => Sys2Proof.Machine.execSliceSpareSwap die slice s
  | .sramRowSpare die slice row => Sys2Proof.Machine.execSramRowSpare die slice row s
  | .attestationRequest nonce => Sys2Proof.Machine.execAttestationRequest nonce s
  | .packageReset => Sys2Proof.Machine.execPackageReset s
  | .thermalThrottle => Sys2Proof.Machine.execThermalThrottle s
  | .thermalShutdown => Sys2Proof.Machine.execThermalShutdown s
  | .flitCrcReplay pair => Sys2Proof.Machine.execFlitCrcReplay pair s

end Sys2Proof.Machine
end

