-- ==== Sys2Proof/Machine/Turns.lean ====
section
/-! DEFINITION. Which agent moves next when nothing says so: the model's own choice (log 6). -/

namespace Sys2Proof.Machine

/-! ### Which agent moves when the turns do not say (log 6) -/

/-- The quadrants that hold groups, on cores that are not fenced off. -/
def State.busyQuads (s : State) : List (Nat × Nat) :=
  ((s.teams.filter fun t => !s.spares.fenced.contains t.core).flatMap fun t => t.groups.map fun g => (t.core, g.quad)).dedup

/-- The events an operation in flight waits for. -/
def opEvent (r : GroupRef) (o : Op) : List Instr :=
  if o.failed then [.faultTaken r]
  else if o.instr.isMma then []
  else if o.pend = 0#32 then [.longLatencyComplete r o.id (BitVec.allOnes 32)]
  else if o.parked ≠ 0#32 then [.splitDataReturn r o.id o.pend] else [.longLatencyComplete r o.id (BitVec.allOnes 32)]

/-- The events a group's condition waits for. -/
def statusEvent (r : GroupRef) (core : Nat) : GroupStatus → List Instr
  | .cwait .. => [.cwaitWake r]
  | .bwait .. => [.bwaitWake r]
  | .grow .. => [.growGrant core, .growDeadlockFail core]
  | .queueWait .. | .condemned => [.faultQueueRoom r]
  | .mergeFull _ => [.faultMergeEntry r]
  | .drain _ => [.faultTaken r]
  | _ => []

/-- An event that a condition brings about. -/
def whenever (b : Bool) (e : Instr) : List Instr := if b then [e] else []

/-- The events of one group that may come about. -/
def groupEvents (t : Team) (g : Group) (starving : Bool) : List Instr :=
  let r : GroupRef := ⟨t.tid, g.id⟩
  List.flatten
    [g.ops.flatMap (opEvent r), whenever g.fence.isSome (.fenceComplete r), whenever g.shrinkTo.isSome (.shrinkRelease r), statusEvent r t.core g.status,
     whenever g.replay (.operandLogReplay r), whenever (g.log.isNone && (!g.held.isEmpty || g.stop.isSome)) (.heldFaultDelivery r),
     whenever starving (.starvationTrap r),
     whenever (!g.retired && g.exited == BitVec.allOnes 32) (.groupRetire r)]

/-- The event a copy command waits for. -/
def copyEvent (c : CopyCmd) : Instr :=
  if !c.started then .tcopyStart c.core 0
  else if c.stuck.isSome then .tcopyWalkFault c.core c.id else .tcopyComplete c.core c.id

/-- The events of an engine. -/
def engineEvents (e : Engine) : List Instr :=
  [.enginePlaceFree e.core, .mmaLatchEvent e.core, .mmaContributionSend e.core]

/-- A contribution under way: it arrives, or is sent again. -/
def transitEvent (c : Contribution) : Instr := if c.refused then .engineResend c.id else .tileContributionArrival c.id

/-- The event of a key mailbox command. -/
def keyEvent (op : Nat) : Instr :=
  match op with
  | 1 => .genkey
  | 2 => .retire
  | _ => .keyInvalidCommand

/-- A write of a MOVE's copy has been refused: nothing acknowledges it (R346). -/
def State.moveStuck (s : State) : Bool :=
  s.reqs.any fun r => r.reply.isSome && (match r.purpose with
    | .move _ => true
    | _ => false)

/-- An access of a group waits for a new walk (R345). -/
def State.wasMoved (s : State) (tid : Nat) (g : Group) : Bool :=
  g.ops.any (·.moved) || s.posted.any (fun e => e.moved && e.team == tid && e.group == g.id) ||
    s.acps.any fun c => c.team == tid && c.group == g.id && c.moves.any (·.pa.isNone)

/-- The events of the translation queue, the key mailbox, cell commands and recovery, and the retries of what was moved. -/
def State.serviceEvents (s : State) : List Instr :=
  List.flatten
    [whenever (s.rd s.tcqBase 8 != s.tcqTail.toNat || s.dir.any fun e => e.line == lineOf s.tcqBase) .tcqTailAdvance, (s.tcqHead.map s.tcqEvent).toList,
     (s.keyCmd.map fun c => keyEvent c.1).toList,
     whenever (!s.cellTaken && s.cellCmd != 0) (s.cellEvent s.cellCmd), s.recovering.map .recoveryComplete,
     whenever s.moveStuck .moveCopyTimeout, s.teams.flatMap fun t => (t.groups.filter (s.wasMoved t.tid)).map fun g => .movedRetry ⟨t.tid, g.id⟩]

/-- The events that may come about of themselves. -/
def State.events (s : State) : List Instr :=
  List.flatten
    [s.teams.flatMap fun t => t.groups.flatMap fun g =>
       groupEvents t g (decide ((s.threshold t.ctx).toNat ≤ g.starve.toNat)),
     s.posted.map fun e => .registrationAck e.id, s.engines.flatMap engineEvents,
     s.mma.map fun m => .enginePlaceFree (s.coreOf m.team), s.transit.map transitEvent,
     s.copies.map copyEvent, s.acps.map fun c => .acpComplete c.id, s.stcs.map fun c => .stcLanding c.id,
     (s.teams.filter fun t => t.saving.isSome).map fun t => .teamSave t.tid,
     (s.saved.filter fun v => v.zeroed && !v.eligible).map fun v => .teamResume v.tid,
     (s.teams.filter fun t => t.header && t.zeroed).map fun t => .teamResume t.tid,
     ((List.range 4).filter fun k => (s.queues[k]?).any fun q => !q.isEmpty).map fun k => .teamPlacement k,
     ((List.range 4).filter fun k => (s.queues[k]?).any fun q => !q.isEmpty).map fun k => .preemption k,
     (s.ctxctlQueue.head?.map fun c => ctxctlEvent c.word).toList, s.serviceEvents]

/-- The choice of the model where `turns` names none: what follows of itself first; then, in turn, an event and an issue
(log 6). -/
def State.chooseTurn (s : State) : Turn :=
  let quads := s.busyQuads
  let ready := (quads.rotateLeft (s.fresh / 2)).find? fun q => (s.chooseGroup q.1 q.2).isSome
  let evs := s.events
  if s.fresh % 2 = 1 ∧ evs ≠ [] then .occur (evs[s.fresh / 2 % evs.length]?.getD .thermalThrottle)
  else
    match ready with
    | some q => .issue q.1 q.2
    | none => if evs = [] then .idle else .occur (evs[s.fresh / 2 % evs.length]?.getD .thermalThrottle)

end Sys2Proof.Machine
end

