-- ==== Sys2Proof/Machine/Step.lean ====
section
/-! DEFINITION. One step of the package: the next turn is taken (log 6), and the state that stands ready to fetch a given
word (log 14). -/

namespace Sys2Proof.Machine

/-- The working copies go back where they belong. -/
def State.settle (s : State) : State := s.storeFocus.noFocus

/-- The end of an instruction's meaning. -/
def finish : Host.Outcome State Fault Refusal → Host.Outcome State Fault Refusal
  | .next s => .next s.settle
  | o => o

/-- What the chosen group of a quadrant does. -/
def runPrep (s : State) : Prep → Host.Outcome State Fault Refusal
  | .none => .next s
  | .run i s => finish (exec i s)
  | .illegal s => .next s.illegal.settle
  | .fetchFault s code va => .next (s.fetchTrap code va).settle
  | .stall s => .next s.settle

/-- A quadrant issues a word of the group it chooses (R32); a core that is fenced off runs none (R372). -/
def State.issue (s : State) (core quad : Nat) : Host.Outcome State Fault Refusal :=
  if s.spares.fenced.contains core then .next s
  else
    match s.chooseGroup core quad with
    | none => .next s
    | some c => runPrep s c.prep

/-- Takes one turn. -/
def State.take (s : State) : Turn → Host.Outcome State Fault Refusal
  | .issue core quad => s.issue core quad
  | .occur e => if e.isWord then .next s else finish (exec e s)
  | .evictL1 core word => .next { s with l1 := s.l1.filter fun w => !(w.core == core && w.word == word) }
  | .evictLlc line => .next (s.evictLine line)
  | .evictTlb k => .next { s with tlb := s.tlb.eraseIdx k }
  | .evictPtr k => .next { s with ptrs := s.ptrs.eraseIdx k }
  | .walkAhead cmd ahead => .next (s.walkAhead cmd ahead).settle
  | .badVector r reg lane => .next (s.spoil r fun g => { g with vbad := (reg, lane) :: g.vbad }).settle
  | .badScalar r reg half => .next (s.spoil r fun g => { g with sbad := (reg, half) :: g.sbad }).settle
  | .badScratch team word =>
    .next (State.errorEvent { s with
      teams := updWhere (fun t => t.tid == team) (fun t => { t with scrPoison := insertNat word t.scrPoison }) s.teams })
  | .badLine line => .next (s.addPoison [lineOf line]).errorEvent
  | .badL1 core word => .next (s.spoilL1 core word)
  | .corrected row => .next (s.correctedRow row)
  | .fenceCore core => .next (s.fenceCore core)
  | .ucieRepair pair => .next (s.ucieRepair pair)
  | .join => .next (if s.power = .running ∧ !s.joined then s.join else s)
  | .fillL1 core pa => .next (s.spareFill core pa)
  | .keepScratch r word => .next (s.withGroup r fun s => s.keepWord word)
  | .idle => .next s

/-- The turn of a state: the first that `turns` names, else the first event that is due, else the model's choice. -/
def State.nextTurn (s : State) : Turn × State :=
  match s.turns with
  | t :: r => (t, { s with turns := r })
  | [] =>
    match s.due with
    | e :: r => (.occur e, { s with due := r })
    | [] => (s.chooseTurn, s)

/-- One step. A module that is off does nothing (R377, R378). -/
def step (s : State) : Host.Outcome State Fault Refusal :=
  if s.power = .off then .fault .moduleOff
  else s.nextTurn.2.tick.take s.nextTurn.1

/-! ### The state that runs a given word next -/

/-- Where the word stands: the first bytes of the carve-out window of die 0 of package 0 (R57). -/
def fetchPa (s : State) : Nat := s.pkg * 2 ^ 41 + 2 ^ 40

/-- A leaf that maps virtual address 0 to the carve-out window of die 0, writable and executable, 2 MiB (R336). -/
def fetchLeaf (s : State) : Leaf :=
  { ctx := 0#10, va := 0, sz := 21, entry := BitVec.ofNat 64 (fetchPa s + 9 * 128 + 12 + 1), companion := 0#64 }

/-- A launch record of one team of one group, code at virtual address 0 (R260). -/
def fetchRecord : LaunchRec :=
  { codeBase := 0#64, entry := 0#32, ex := 1, ey := 1, ez := 1, groups := 1, regs := 128, rows := 0, dataSeg := 0#64
    arg0 := 0#64, arg1 := 0#64, ctr := 0#64, scope := .dev, prio := 0, order := 0, tile := 0, dies := 0#4 }

/-- The grid of the word's group. -/
def fetchGrid : Grid :=
  { gid := 1, ctx := 0#10, record := fetchRecord, level := 0, dies := 0xF#4, nest := 0, parent := none, waiting := false
    trigScope := none, dealt := 0, placed := 1, placedAll := true, live := 1, children := 0, lastCore := some 0, completing := false }

/-- The word's group, as placed: every lane runnable at LPC 0, registers zero (log 14). -/
def fetchGroup : Group :=
  { Group.blank with n := 128, blocks := List.range 8, sr := Vector.ofFn fun i => BitVec.ofNat 32 i.val + 1#32 }

/-- The word's team. -/
def fetchTeam : Team := { Team.blank with tid := 1, grid := 1, groups := [fetchGroup] }

/-- The state with an instruction of `nbits` bits stored where the next step fetches: its eight bytes at the carve-out
window of die 0, mapped at virtual address 0, and a placed team whose only group stands at LPC 0 (log 14). -/
def State.withFetchWord (s : State) (nbits w : Nat) : State :=
  { s with
    carve := s.carve.set 0 1
    mem := s.mem.putList (fetchPa s) (toBytes 8 (w % 2 ^ nbits))
    tags := s.tags.filter fun t => t.1 ≠ lineOf (fetchPa s)
    tlb := (.core 0, fetchLeaf s) :: s.tlb
    grids := [fetchGrid]
    teams := [fetchTeam]
    turns := [.issue 0 0]
    nextId := 2 }

end Sys2Proof.Machine
end

