-- ==== Sys2Proof/Safety.lean ====
section
/-! DEFINITION. The terms that claims use: a safe step and a safe run, the invariant of memory, when a word executes, and
what it changes and leaves alone. -/

namespace Sys2Proof.Machine

/-! ### Safe runs -/

/-- A step is safe: the machine goes on. The one stop is a module without power (R377, R378). -/
def SafeStep (s : State) : Prop := ∃ t, step s = .next t

/-- `n` steps from `s` are safe. -/
def SafeFor : Nat → State → Prop
  | 0, _ => True
  | n + 1, s => ∃ t, step s = .next t ∧ SafeFor n t

/-- Memory is in its canonical form. -/
def Canonical (s : State) : Prop := s.mem.wf = true

/-- What a state's memory reads as, byte by byte. -/
def SameMemory (s t : State) : Prop := ∀ a, t.mem.get a = s.mem.get a

/-! ### When a word executes -/

/-- The lanes in which a vector word acts: the issuing lanes whose guard is true (R17, R24). -/
def State.actLanes (s : State) (guard : BitVec 7) : Mask := s.iss.mask &&& s.g.pred guard

/-- The word has its own effect: the module is on, the word's registers lie in the allocation (R41), and no lane of `m` reads
a register that holds an uncorrectable error (R369). -/
structure Executes (s : State) (i : Instr) (m : Mask) : Prop where
  on : s.power ≠ .off
  alloc : s.g.inAlloc i = true
  sound : s.g.badLanes i m = 0#32

/-- A vector word has its own effect. -/
abbrev Runs (s : State) (i : Instr) (guard : BitVec 7) : Prop := Executes s i (s.actLanes guard)

/-- A scalar-unit word has its own effect: its guard, after negation, is true (R138). -/
structure RunsU (s : State) (i : Instr) (q : BitVec 4) (neg : Bool) : Prop where
  exec : Executes s i s.iss.mask
  guard : s.g.qp q ≠ neg

/-! ### Effects -/

/-- Every lane of `m` has in register `d` a value that `P` admits; every other lane and register is as it was. -/
def LaneResult (s t : State) (m : Mask) (d : BitVec 7) (P : Fin 32 → W32 → Prop) : Prop :=
  ∀ (r : Fin 128) (l : Fin 32),
    if r = reg7 d ∧ m.getLsbD l.val = true then P l (t.g.vr r l) else t.g.vr r l = s.g.vr r l

/-- Every lane of `m` has in the pair `d` a value that `P` admits; every other lane and register is as it was. -/
def PairResult (s t : State) (m : Mask) (d : BitVec 7) (P : Fin 32 → W64 → Prop) : Prop :=
  (∀ l : Fin 32, m.getLsbD l.val = true → P l (t.g.vpair d l)) ∧
    ∀ (r : Fin 128) (l : Fin 32), ¬ ((r = reg7 d ∨ r = regUp d 1) ∧ m.getLsbD l.val = true) → t.g.vr r l = s.g.vr r l

/-- Every lane of `m` has `f` in predicate `pd` and its complement in `pc`, which is written after it; p0 stays true, and
every other lane and predicate is as it was (R44, R167). -/
def TestResult (s t : State) (m : Mask) (pd pc : BitVec 7) (f : Fin 32 → Bool) : Prop :=
  ∀ (r : BitVec 7) (l : Fin 32), (t.g.pred r).getLsbD l.val =
    if r ≠ 0#7 ∧ m.getLsbD l.val = true ∧ r = pc then !f l
    else if r ≠ 0#7 ∧ m.getLsbD l.val = true ∧ r = pd then f l
    else (s.g.pred r).getLsbD l.val

/-- Scalar register `d` holds `x`; every other is as it was. -/
def ScalarResult (s t : State) (d : BitVec 9) (x : W64) : Prop :=
  ∀ r : Fin 512, t.g.sr64 r = if r = reg9 d then x else s.g.sr64 r

/-- Every issuing lane advances its LPC by 1, and no other moves (R17). -/
def Advances (s t : State) : Prop :=
  ∀ l : Fin 32, t.g.lpc[l] = if s.iss.mask.getLsbD l.val = true then s.g.lpc[l] + 1#32 else s.g.lpc[l]

/-- The sticky flags gain those that some lane of `m` raises, and no other bit of FPCTL changes (R46, R188). -/
def RaisesFlags (s t : State) (m : Mask) (f : Fin 32 → Flags) : Prop :=
  ∀ k : Nat, t.g.fpctl.getLsbD k = true ↔
    s.g.fpctl.getLsbD k = true ∨ ∃ l : Fin 32, m.getLsbD l.val = true ∧ (f l).getLsbD k = true

/-! ### Frames: what an issue leaves alone. `s.commit` is the bookkeeping of every issue (R17, R25, R29, R32) -/

/-- Beside that bookkeeping, only vector registers and LPCs may differ. -/
def FrameVector (s t : State) : Prop :=
  t = { s.commit with g := { s.commit.g with v := t.g.v, lpc := t.g.lpc, watch := t.g.watch, vbad := t.g.vbad } } ∧
    SameMemory s t

/-- Beside that bookkeeping, only vector registers, FPCTL, the stochastic-rounding states and LPCs may differ. -/
def FrameFloat (s t : State) : Prop :=
  t = { s.commit with
        g := { s.commit.g with
          v := t.g.v, lpc := t.g.lpc, watch := t.g.watch, vbad := t.g.vbad, fpctl := t.g.fpctl, sr := t.g.sr } } ∧
    SameMemory s t

/-- Beside that bookkeeping, only predicates, FPCTL and LPCs may differ. -/
def FramePredicate (s t : State) : Prop :=
  t = { s.commit with g := { s.commit.g with p := t.g.p, lpc := t.g.lpc, fpctl := t.g.fpctl } } ∧ SameMemory s t

/-- Beside that bookkeeping, only scalar registers, scalar predicates, FPCTL and LPCs may differ. -/
def FrameScalar (s t : State) : Prop :=
  t = { s.commit with
        g := { s.commit.g with s := t.g.s, sbad := t.g.sbad, q := t.g.q, lpc := t.g.lpc, fpctl := t.g.fpctl } } ∧
    SameMemory s t

/-- Beside that bookkeeping, only LPCs, depths and the link register may differ. -/
def FrameFlow (s t : State) : Prop :=
  t = { s.commit with
        g := { s.commit.g with
          v := t.g.v, lpc := t.g.lpc, dep := t.g.dep, watch := t.g.watch, vbad := t.g.vbad } } ∧ SameMemory s t

end Sys2Proof.Machine
end

