-- ==== Sys2Proof/Certificates/Slice0/Obligations.lean ====
section
/-! DEFINITION. The statements for the provers, each a proposition of its own, from the numbered rules of the spec. The
terms they use stand in Safety.lean. -/

open Sys2Proof Sys2Proof.Machine

namespace Sys2Proof.Claims

/-! ### Results of the integer words, from 06 R155-R167, as integers (reduced modulo the width where they are written) -/

/-- The unsigned value of a source, and its signed value. -/
def un (a : W32) : Int := (a.toNat : Int)
def sg (a : W32) : Int := a.toInt

/-- Two 32-bit sources (R155, R157, R159, R161, R164). -/
def twoSource (w : WBin) : List (Instr × (W32 → W32 → Int)) :=
  [(.iadd w, fun a b => un a + un b),
   (.isub w, fun a b => un a - un b),
   (.imulLo w, fun a b => un a * un b),
   (.imulHi w, fun a b => (sg a * sg b) / 2 ^ 32),
   (.imulHiU w, fun a b => (un a * un b) / 2 ^ 32),
   (.imin w, fun a b => min (sg a) (sg b)),
   (.iminU w, fun a b => min (un a) (un b)),
   (.imax w, fun a b => max (sg a) (sg b)),
   (.imaxU w, fun a b => max (un a) (un b)),
   (.shl w, fun a b => un a * 2 ^ (b.toNat % 256)),
   (.shr w, fun a b => un a / 2 ^ (b.toNat % 256)),
   (.sar w, fun a b => sg a / 2 ^ (b.toNat % 256)),
   (.rol w, fun a b => un a * 2 ^ (b.toNat % 32) + un a / 2 ^ (32 - b.toNat % 32)),
   (.and w, fun a b => ((a.toNat &&& b.toNat : Nat) : Int)),
   (.or w, fun a b => ((a.toNat ||| b.toNat : Nat) : Int)),
   (.xor w, fun a b => ((a.toNat ^^^ b.toNat : Nat) : Int)),
   (.andn w, fun a b => ((a.toNat &&& (2 ^ 32 - 1 - b.toNat) : Nat) : Int)),
   (.bfx w, fun a b => (un a / 2 ^ (b.toNat % 256)) % 2 ^ (min (b.toNat / 256 % 256) 32)),
   (.bfxS w, fun a b =>
      let n := min (b.toNat / 256 % 256) 32
      let e := (sg a / 2 ^ (b.toNat % 256)) % 2 ^ n
      if n = 0 then 0 else if 2 ^ (n - 1) ≤ e then e - 2 ^ n else e)]

/-- A 32-bit source and an immediate (R155, R159, R161, R166). -/
def immediate (w : WImm) : List (Instr × (W32 → Int)) :=
  [(.iaddIs w, fun a => un a + w.imm.toInt),
   (.shlIu w, fun a => un a * 2 ^ (w.imm.toNat % 32)),
   (.shrIu w, fun a => un a / 2 ^ (w.imm.toNat % 32)),
   (.sarIu w, fun a => sg a / 2 ^ (w.imm.toNat % 32)),
   (.rolIu w, fun a => un a * 2 ^ (w.imm.toNat % 32) + un a / 2 ^ (32 - w.imm.toNat % 32)),
   (.andIu w, fun a => ((a.toNat &&& w.imm.toNat : Nat) : Int)),
   (.orIu w, fun a => ((a.toNat ||| w.imm.toNat : Nat) : Int)),
   (.xorIu w, fun a => ((a.toNat ^^^ w.imm.toNat : Nat) : Int)),
   (.movhi w, fun a => (w.imm.toNat % 2 ^ 16 : Nat) * 2 ^ 16 + un a % 2 ^ 16)]

/-- One 32-bit source (R155, R163, R166): the relation of the source and the result. -/
def oneSource (w : WUn) : List (Instr × (W32 → W32 → Prop)) :=
  [(.iabs w, fun a r => un r = |sg a| ),
   (.ineg w, fun a r => un r = (-(un a)) % 2 ^ 32),
   (.popc w, fun a r => r.toNat = ((List.range 32).filter fun k => a.getLsbD k).length),
   (.clz w, fun a r => r.toNat = if a = 0#32 then 32 else 31 - Nat.log2 a.toNat),
   (.brev w, fun a r => ∀ k, k < 32 → r.getLsbD k = a.getLsbD (31 - k)),
   (.mov w, fun a r => r = a)]

/-- Three 32-bit sources (R157, R160, R164, R165): the relation of the sources and the result. -/
def threeSource (w : WTri) : List (Instr × (W32 → W32 → W32 → W32 → Prop)) :=
  [(.imad w, fun a b c r => un r = (un a * un b + un c) % 2 ^ 32),
   (.dshl w, fun a b c r => un r = ((un a * 2 ^ 32 + un b) * 2 ^ (c.toNat % 64) % 2 ^ 64) / 2 ^ 32),
   (.dshr w, fun a b c r => un r = ((un a * 2 ^ 32 + un b) / 2 ^ (c.toNat % 64)) % 2 ^ 32),
   (.bfi w, fun a b c r =>
      let pos := b.toNat % 256
      let n := min (b.toNat / 256 % 256) 32
      ∀ k, k < 32 → r.getLsbD k = if pos ≤ k ∧ k < pos + n then a.getLsbD (k - pos) else c.getLsbD k),
   (.bperm w, fun a b c r =>
      ∀ k, k < 4 →
        let sel := b.toNat / 16 ^ k % 16
        let y : Byte := if sel % 8 < 4 then a.extractLsb' (8 * (sel % 8)) 8 else c.extractLsb' (8 * (sel % 8 - 4)) 8
        r.extractLsb' (8 * k) 8 = if sel < 8 then y else if y.msb then 0xFF#8 else 0x00#8)]

/-- Pair destinations (R157, R158): the result of a lane, from the group's registers. -/
def pairWords3 (w : WTri) : List (Instr × (Group → Fin 32 → Int)) :=
  [(.imadw w, fun g l => sg (g.src w.a l) * sg (g.src w.b l) + (g.src64 w.c l).toNat),
   (.imadwU w, fun g l => un (g.src w.a l) * un (g.src w.b l) + (g.src64 w.c l).toNat),
   (.lea w, fun g l => (g.src64 w.a l).toNat + sg (g.src w.b l) * 2 ^ ((g.src w.c l).toNat % 8))]

def pairWords2 (w : WBin) : List (Instr × (Group → Fin 32 → Int)) :=
  [(.iadd64 w, fun g l => (g.src64 w.a l).toNat + (g.src64 w.b l).toNat),
   (.isub64 w, fun g l => (g.src64 w.a l).toNat - (g.src64 w.b l).toNat),
   (.shl64 w, fun g l => (g.src64 w.a l).toNat * 2 ^ ((g.src w.b l).toNat % 256)),
   (.shr64 w, fun g l => ((g.src64 w.a l).toNat : Int) / 2 ^ ((g.src w.b l).toNat % 256)),
   (.sar64 w, fun g l => (g.src64 w.a l).toInt / 2 ^ ((g.src w.b l).toNat % 256))]

/-- Compares (R167). -/
def compares (w : WCmp) : List (Instr × (W32 → W32 → Bool)) :=
  [(.icmpEq w, fun a b => decide (sg a = sg b)),
   (.icmpLt w, fun a b => decide (sg a < sg b)),
   (.icmpLe w, fun a b => decide (sg a ≤ sg b)),
   (.icmpLtU w, fun a b => decide (un a < un b)),
   (.icmpLeU w, fun a b => decide (un a ≤ un b))]

/-! ### Results of the scalar words, from 06 R180-R183 -/

def sUn (a : W64) : Int := (a.toNat : Int)
def sSg (a : W64) : Int := a.toInt

def scalarTwo (u : UBin) : List (Instr × (W64 → W64 → W64 → Int)) :=
  [(.sadd u, fun _ a b => sUn a + sUn b),
   (.ssub u, fun _ a b => sUn a - sUn b),
   (.smul u, fun _ a b => sUn a * sUn b),
   (.smad u, fun d a b => sUn d + sUn a * sUn b),
   (.sand u, fun _ a b => ((a.toNat &&& b.toNat : Nat) : Int)),
   (.sor u, fun _ a b => ((a.toNat ||| b.toNat : Nat) : Int)),
   (.sxor u, fun _ a b => ((a.toNat ^^^ b.toNat : Nat) : Int)),
   (.sshl u, fun _ a b => sUn a * 2 ^ (b.toNat % 256)),
   (.sshr u, fun _ a b => sUn a / 2 ^ (b.toNat % 256)),
   (.ssar u, fun _ a b => sSg a / 2 ^ (b.toNat % 256))]

def scalarImmediate (u : UImm) : List (Instr × (W64 → Int)) :=
  [(.saddIs u, fun a => sUn a + u.imm.toInt),
   (.sandIu u, fun a => ((a.toNat &&& u.imm.toNat : Nat) : Int)),
   (.sorIu u, fun a => ((a.toNat ||| u.imm.toNat : Nat) : Int)),
   (.sxorIu u, fun a => ((a.toNat ^^^ u.imm.toNat : Nat) : Int)),
   (.sshlIu u, fun a => sUn a * 2 ^ (u.imm.toNat % 64)),
   (.sshrIu u, fun a => sUn a / 2 ^ (u.imm.toNat % 64)),
   (.ssarIu u, fun a => sSg a / 2 ^ (u.imm.toNat % 64)),
   (.smovhi u, fun a => ((a.toNat * 2 ^ 20 % 2 ^ 64 ||| u.imm.toNat : Nat) : Int))]

def scalarCompares (u : UCmp) : List (Instr × (W64 → W64 → Bool)) :=
  [(.scmpEq u, fun a b => decide (sSg a = sSg b)),
   (.scmpLt u, fun a b => decide (sSg a < sSg b)),
   (.scmpLe u, fun a b => decide (sSg a ≤ sSg b)),
   (.scmpLtU u, fun a b => decide (sUn a < sUn b)),
   (.scmpLeU u, fun a b => decide (sUn a ≤ sUn b))]

end Sys2Proof.Claims

open Sys2Proof.Claims

/-! ### Vector integer words (06 R153-R167) -/

/-- IADD, ISUB, IMUL.LO, IMUL.HI, IMUL.HI.U, IMIN, IMIN.U, IMAX, IMAX.U, SHL, SHR, SAR, ROL, AND, OR, XOR, ANDN, BFX and
BFX.S: the result of every active lane, and the frame. -/
def Obligations.IntegerTwoSource : Prop :=
  ∀ (s : State) (w : WBin) (r : Instr × (W32 → W32 → Int)), r ∈ twoSource w → Runs s r.1 w.guard →
    ∃ t, exec r.1 s = .next t ∧
      LaneResult s t (s.actLanes w.guard) w.d
        (fun l x => x = BitVec.ofInt 32 (r.2 (s.g.src w.a l) (s.g.src w.b l))) ∧
      Advances s t ∧ FrameVector s t

/-- IADD, SHL, SHR, SAR, ROL, AND, OR, XOR with an immediate, and MOVHI. -/
def Sys2Proof.Claims.IntegerImmediate : Prop :=
  ∀ (s : State) (w : WImm) (r : Instr × (W32 → Int)), r ∈ immediate w → Runs s r.1 w.guard →
    ∃ t, exec r.1 s = .next t ∧
      LaneResult s t (s.actLanes w.guard) w.d (fun l x => x = BitVec.ofInt 32 (r.2 (s.g.src w.a l))) ∧
      Advances s t ∧ FrameVector s t

/-- IABS, INEG, POPC, CLZ, BREV and MOV. -/
def Sys2Proof.Claims.IntegerOneSource : Prop :=
  ∀ (s : State) (w : WUn) (r : Instr × (W32 → W32 → Prop)), r ∈ oneSource w → Runs s r.1 w.guard →
    ∃ t, exec r.1 s = .next t ∧
      LaneResult s t (s.actLanes w.guard) w.d (fun l x => r.2 (s.g.src w.a l) x) ∧
      Advances s t ∧ FrameVector s t

/-- The immediate forms of the integer words and MOVHI, and the words of one source (R155, R159, R161, R163, R166). -/
def Obligations.IntegerImmediateAndUnary : Prop :=
  Claims.IntegerImmediate ∧ Claims.IntegerOneSource

/-- IMAD, DSHL, DSHR, BFI and BPERM. -/
def Sys2Proof.Claims.IntegerThreeSource : Prop :=
  ∀ (s : State) (w : WTri) (r : Instr × (W32 → W32 → W32 → W32 → Prop)), r ∈ threeSource w → Runs s r.1 w.guard →
    ∃ t, exec r.1 s = .next t ∧
      LaneResult s t (s.actLanes w.guard) w.d
        (fun l x => r.2 (s.g.src w.a l) (s.g.src w.b l) (s.g.src w.c l) x) ∧
      Advances s t ∧ FrameVector s t

/-- IMADW, IMADW.U, LEA, IADD.64, ISUB.64, SHL.64, SHR.64 and SAR.64: the 64-bit result of every active lane. -/
def Sys2Proof.Claims.IntegerPairs : Prop :=
  (∀ (s : State) (w : WTri) (r : Instr × (Group → Fin 32 → Int)), r ∈ pairWords3 w → Runs s r.1 w.guard →
    ∃ t, exec r.1 s = .next t ∧
      PairResult s t (s.actLanes w.guard) w.d (fun l x => x = BitVec.ofInt 64 (r.2 s.g l)) ∧
      Advances s t ∧ FrameVector s t) ∧
  (∀ (s : State) (w : WBin) (r : Instr × (Group → Fin 32 → Int)), r ∈ pairWords2 w → Runs s r.1 w.guard →
    ∃ t, exec r.1 s = .next t ∧
      PairResult s t (s.actLanes w.guard) w.d (fun l x => x = BitVec.ofInt 64 (r.2 s.g l)) ∧
      Advances s t ∧ FrameVector s t)

/-- LGC3: every bit of the result is the entry of the function table that the three source bits select, `c` the most
significant (R162). -/
def Obligations.Lgc3Result : Prop :=
  (∀ (s : State) (w : WLgc), Runs s (.lgc3 w) w.guard →
    ∃ t, exec (.lgc3 w) s = .next t ∧
      LaneResult s t (s.actLanes w.guard) w.d (fun l x => ∀ k, k < 32 →
        x.getLsbD k = w.tt.getLsbD
          (4 * ((s.g.vr (reg7 w.c) l).getLsbD k).toNat + 2 * ((s.g.vr (reg7 w.b) l).getLsbD k).toNat +
            ((s.g.src w.a l).getLsbD k).toNat)) ∧
      Advances s t ∧ FrameVector s t) ∧
  decode 0x210000410003092C#64 = some (.lgc3 ⟨0#7, 1#7, ⟨2#7, .own⟩, 3#7, 4#7, 0x96#8⟩) ∧
  ∀ w : BitVec 64, w.toNat / 2 ^ 56 = 0x21 → w.getLsbD 0 = true → decode w = none

/-- IADDC, SEL and MOVI: IADDC reads its carry before it writes it, and p0 gives a carry of 1 and keeps none (R156, R166). -/
def Sys2Proof.Claims.CarrySelectMove : Prop :=
  (∀ (s : State) (w : WBinP), Runs s (.iaddc w) w.guard →
    ∃ t, exec (.iaddc w) s = .next t ∧
      (let sum : Fin 32 → Nat := fun l =>
         (s.g.src w.a l).toNat + (s.g.src w.b l).toNat + ((s.g.pred w.p).getLsbD l.val).toNat
       LaneResult s t (s.actLanes w.guard) w.d (fun l x => x.toNat = sum l % 2 ^ 32) ∧
       ∀ (r : BitVec 7) (l : Fin 32), (t.g.pred r).getLsbD l.val =
         if r ≠ 0#7 ∧ r = w.p ∧ (s.actLanes w.guard).getLsbD l.val = true then decide (2 ^ 32 ≤ sum l)
         else (s.g.pred r).getLsbD l.val) ∧
      Advances s t ∧
      t = { s.commit with
            g := { s.commit.g with v := t.g.v, lpc := t.g.lpc, watch := t.g.watch, vbad := t.g.vbad, p := t.g.p } } ∧
      SameMemory s t) ∧
  (∀ (s : State) (w : WBinP), Runs s (.sel w) w.guard →
    ∃ t, exec (.sel w) s = .next t ∧
      LaneResult s t (s.actLanes w.guard) w.d
        (fun l x => x = if (s.g.pred w.p).getLsbD l.val = true then s.g.src w.a l else s.g.src w.b l) ∧
      Advances s t ∧ FrameVector s t) ∧
  (∀ (s : State) (w : WConst), Runs s (.movi w) w.guard →
    ∃ t, exec (.movi w) s = .next t ∧
      LaneResult s t (s.actLanes w.guard) w.d (fun _ x => x = BitVec.ofInt 32 w.imm.toInt) ∧
      Advances s t ∧ FrameVector s t)

/-- The integer words of three sources, those on 64-bit pairs, IADDC, SEL and MOVI (R156-R160, R164-R166). -/
def Obligations.IntegerThreePairsCarrySelect : Prop :=
  Claims.IntegerThreeSource ∧ Claims.IntegerPairs ∧ Claims.CarrySelectMove

/-- ICMP.EQ, ICMP.LT, ICMP.LE, ICMP.LT.U and ICMP.LE.U: the result and its complement. -/
def Sys2Proof.Claims.IntegerCompare : Prop :=
  ∀ (s : State) (w : WCmp) (r : Instr × (W32 → W32 → Bool)), r ∈ compares w → Runs s r.1 w.guard →
    ∃ t, exec r.1 s = .next t ∧
      TestResult s t (s.actLanes w.guard) w.pd w.pc (fun l => r.2 (s.g.src w.a l) (s.g.src w.b l)) ∧
      t.g.fpctl = s.g.fpctl ∧ Advances s t ∧ FramePredicate s t

/-! ### Floating-point words (07 R188-R207) -/

namespace Sys2Proof.Claims

/-- Element `e` of a source of lane `l`: the whole operand, or one half of a packed one (R65, R188). -/
def elem (g : Group) (k : FKind) (x : VSrc) (l : Fin 32) (e : Nat) : Nat :=
  match k with
  | .f64 => (g.src64 x l).toNat
  | .f32 => (g.src x l).toNat
  | _ => (g.src x l).toNat / 2 ^ (16 * e) % 2 ^ 16

/-- The elements `val` gives stand in the destination of every lane of `m`, their flags are raised, and nothing else
changes but for the bookkeeping of the issue (R188). -/
def FloatEffect (s t : State) (k : FKind) (m : Mask) (d : BitVec 7) (val : Fin 32 → Nat → Nat × Flags) : Prop :=
  (match k with
   | .f64 => PairResult s t m d (fun l x => x = BitVec.ofNat 64 (val l 0).1)
   | .f32 => LaneResult s t m d (fun l x => x = BitVec.ofNat 32 (val l 0).1)
   | _ => LaneResult s t m d (fun l x => ∀ e, e < 2 → x.extractLsb' (16 * e) 16 = BitVec.ofNat 16 (val l e).1)) ∧
  RaisesFlags s t m (fun l => if k = .f64 ∨ k = .f32 then (val l 0).2 else (val l 0).2 ||| (val l 1).2) ∧
  t.g.sr = s.g.sr ∧ Advances s t ∧ FrameFloat s t

def floatTwo (w : WRnd) : List (Instr × FKind × (Fmt → RMode → Nat → Nat → Nat × Flags)) :=
  [(.faddF64 w, .f64, fAdd), (.faddF32 w, .f32, fAdd), (.faddF16x2 w, .f16x2, fAdd), (.faddBf16x2 w, .bf16x2, fAdd),
   (.fsubF64 w, .f64, fSub), (.fsubF32 w, .f32, fSub), (.fsubF16x2 w, .f16x2, fSub), (.fsubBf16x2 w, .bf16x2, fSub),
   (.fmulF64 w, .f64, fMul), (.fmulF32 w, .f32, fMul), (.fmulF16x2 w, .f16x2, fMul), (.fmulBf16x2 w, .bf16x2, fMul)]

def floatThree (w : WTri) : List (Instr × FKind) :=
  [(.ffmaF64 w, .f64), (.ffmaF32 w, .f32), (.ffmaF16x2 w, .f16x2), (.ffmaBf16x2 w, .bf16x2)]

def floatMinMax (w : WBin) : List (Instr × FKind × Bool) :=
  [(.fminF64 w, .f64, false), (.fminF32 w, .f32, false), (.fminF16x2 w, .f16x2, false), (.fminBf16x2 w, .bf16x2, false),
   (.fmaxF64 w, .f64, true), (.fmaxF32 w, .f32, true), (.fmaxF16x2 w, .f16x2, true), (.fmaxBf16x2 w, .bf16x2, true)]

def floatSign (w : WUn) : List (Instr × FKind × Bool) :=
  [(.fabsF64 w, .f64, false), (.fabsF32 w, .f32, false), (.fnegF64 w, .f64, true), (.fnegF32 w, .f32, true)]

def floatCompare (w : WCmp) : List (Instr × FKind × FCond) :=
  [(.fcmpEqF64 w, .f64, .eq), (.fcmpLtF64 w, .f64, .lt), (.fcmpLeF64 w, .f64, .le),
   (.fcmpEqF32 w, .f32, .eq), (.fcmpLtF32 w, .f32, .lt), (.fcmpLeF32 w, .f32, .le)]

/-- The long-latency words with one source: the result of a lane, with the rounding mode in force (R197-R199). -/
def longOne (w : WUn) (la : BitVec 4) : List (Instr × FKind × (RMode → Group → Fin 32 → Nat × Flags)) :=
  [(.fsqrtF64 w la, .f64, fun m g l => fSqrt fmtF64 m (g.src64 w.a l).toNat),
   (.fsqrtF32 w la, .f32, fun m g l => fSqrt fmtF32 m (g.src w.a l).toNat),
   (.frcp w la, .f32, fun _ g l => fRcp (g.src w.a l)),
   (.frsq w la, .f32, fun _ g l => fRsq (g.src w.a l)),
   (.fexp2 w la, .f32, fun _ g l => fExp2 (g.src w.a l)),
   (.flog2 w la, .f32, fun _ g l => fLog2 (g.src w.a l)),
   (.fsin w la, .f32, fun _ g l => fSin (g.src w.a l)),
   (.fcos w la, .f32, fun _ g l => fCos (g.src w.a l))]

/-- FDIV (R197). -/
def longTwo (w : WBin) (la : BitVec 4) : List (Instr × FKind × (RMode → Group → Fin 32 → Nat × Flags)) :=
  [(.fdivF64 w la, .f64, fun m g l => fDiv fmtF64 m (g.src64 w.a l).toNat (g.src64 w.b l).toNat),
   (.fdivF32 w la, .f32, fun m g l => fDiv fmtF32 m (g.src w.a l).toNat (g.src w.b l).toNat)]

/-- A window is opened: the issue leaves every register as it was and takes up one operation that holds the lanes, the
results and their flags until it completes (R143, R144). With no active lane nothing is held. -/
def OpensWindow (s t : State) (i : Instr) (m : Mask) (la : BitVec 4) (val : Fin 32 → Nat × Flags) : Prop :=
  t.g.v = s.g.v ∧ t.g.fpctl = s.g.fpctl ∧ Advances s t ∧ SameMemory s t ∧
    t = { s.commit with nextId := t.nextId, g := { s.commit.g with lpc := t.g.lpc, ops := t.g.ops } } ∧
    if m = 0#32 then t.g.ops = s.commit.g.ops
    else ∃ o : Op, t.g.ops = s.commit.g.ops ++ [o] ∧ o.instr = i ∧ o.pend = m ∧ o.win = la.toNat ∧ o.fails = [] ∧
      o.parked = 0#32 ∧ o.late = [] ∧
      ∀ l : Fin 32, (o.lanes[l]).data[1] ++ (o.lanes[l]).data[0] = BitVec.ofNat 64 (val l).1

/-- The element a conversion reads: the low bits of its source (R201). -/
def cvtIn (g : Group) (src : FType) (x : VSrc) (l : Fin 32) (e : Nat) : Nat :=
  if cvtPacked src then (g.src x l).toNat / 2 ^ (16 * e) % 2 ^ 16
  else (if src.is64 then (g.src64 x l).toNat else (g.src x l).toNat) % 2 ^ (cvtFmt src).width

/-- The lanes of `m` receive `val`, zero-extended to the register or pair of type `tgt`, or both halves of a packed one;
their flags are raised (R188, R201). -/
def ConvertEffect (s t : State) (tgt : FType) (m : Mask) (d : BitVec 7) (val : Fin 32 → Nat → Nat × Flags) : Prop :=
  (if cvtPacked tgt then
     LaneResult s t m d (fun l x => ∀ e, e < 2 → x.extractLsb' (16 * e) 16 = BitVec.ofNat 16 (val l e).1)
   else if tgt.is64 then PairResult s t m d (fun l x => x = BitVec.ofNat 64 (val l 0).1)
   else LaneResult s t m d (fun l x => x = BitVec.ofNat 32 (val l 0).1)) ∧
  RaisesFlags s t m (fun l => if cvtPacked tgt then (val l 0).2 ||| (val l 1).2 else (val l 0).2) ∧
  Advances s t ∧ FrameFloat s t

/-- The stochastic-rounding state after `n` advances (R73). -/
def drawn (x : W32) : Nat → W32
  | 0 => x
  | n + 1 => srAdvance (drawn x n)

end Sys2Proof.Claims

/-- FADD, FSUB and FMUL in every format: each element is the exact result rounded once, in the mode of the suffix or, with
none, of FPCTL.RM; the flags of the active lanes and elements are united. -/
def Sys2Proof.Claims.FloatArithmetic : Prop :=
  ∀ (s : State) (w : WRnd) (r : Instr × FKind × (Fmt → RMode → Nat → Nat → Nat × Flags)), r ∈ floatTwo w →
    Runs s r.1 w.guard →
    ∃ t, exec r.1 s = .next t ∧
      FloatEffect s t r.2.1 (s.actLanes w.guard) w.d (fun l e =>
        r.2.2 r.2.1.fmt (rndMode w.rnd s.g.fpctl) (elem s.g r.2.1 w.a l e) (elem s.g r.2.1 w.b l e))

/-- FFMA in every format: one rounding, in FPCTL.RM. -/
def Sys2Proof.Claims.FloatFused : Prop :=
  ∀ (s : State) (w : WTri) (r : Instr × FKind), r ∈ floatThree w → Runs s r.1 w.guard →
    ∃ t, exec r.1 s = .next t ∧
      FloatEffect s t r.2 (s.actLanes w.guard) w.d (fun l e =>
        fFma r.2.fmt (rmOf s.g.fpctl) (elem s.g r.2 w.a l e) (elem s.g r.2 w.b l e) (elem s.g r.2 w.c l e))

/-- FADD, FSUB, FMUL and FFMA in every format: one rounding of the exact result, and its flags (R46, R68, R75, R190, R191). -/
def Obligations.FloatArithmeticAndFused : Prop :=
  Claims.FloatArithmetic ∧ Claims.FloatFused

/-- FMIN and FMAX in every format, and FABS and FNEG of the scalar formats. -/
def Sys2Proof.Claims.FloatSelect : Prop :=
  (∀ (s : State) (w : WBin) (r : Instr × FKind × Bool), r ∈ floatMinMax w → Runs s r.1 w.guard →
    ∃ t, exec r.1 s = .next t ∧
      FloatEffect s t r.2.1 (s.actLanes w.guard) w.d (fun l e =>
        fMinMax r.2.1.fmt r.2.2 (elem s.g r.2.1 w.a l e) (elem s.g r.2.1 w.b l e))) ∧
  (∀ (s : State) (w : WUn) (r : Instr × FKind × Bool), r ∈ floatSign w → Runs s r.1 w.guard →
    ∃ t, exec r.1 s = .next t ∧
      FloatEffect s t r.2.1 (s.actLanes w.guard) w.d (fun l e =>
        fSign r.2.1.fmt r.2.2 (elem s.g r.2.1 w.a l e)))

/-- FABS.x2 and FNEG.x2 clear or invert bits 15 and 31, leave every other bit, and set no flag (R193). -/
def Sys2Proof.Claims.PackedSignBits : Prop :=
  ∀ (s : State) (w : WUn),
    (Runs s (.fabsX2 w) w.guard →
      ∃ t, exec (.fabsX2 w) s = .next t ∧
        LaneResult s t (s.actLanes w.guard) w.d (fun l x => ∀ k, k < 32 →
          x.getLsbD k = (decide (k ≠ 15 ∧ k ≠ 31) && (s.g.src w.a l).getLsbD k)) ∧ Advances s t ∧ FrameVector s t) ∧
    (Runs s (.fnegX2 w) w.guard →
      ∃ t, exec (.fnegX2 w) s = .next t ∧
        LaneResult s t (s.actLanes w.guard) w.d (fun l x => ∀ k, k < 32 →
          x.getLsbD k = (decide (k = 15 ∨ k = 31) != (s.g.src w.a l).getLsbD k)) ∧ Advances s t ∧ FrameVector s t)

/-- FMIN, FMAX, FABS and FNEG in every format (R192, R193). -/
def Obligations.FloatSelectAndSign : Prop :=
  Claims.FloatSelect ∧ Claims.PackedSignBits

/-- FCMP and FCLASS: the result, its complement, and the flags, none for FCLASS. -/
def Obligations.FloatCompare : Prop :=
  (∀ (s : State) (w : WCmp) (r : Instr × FKind × FCond), r ∈ floatCompare w → Runs s r.1 w.guard →
    ∃ t, exec r.1 s = .next t ∧
      TestResult s t (s.actLanes w.guard) w.pd w.pc (fun l =>
        (fCmp r.2.1.fmt r.2.2 (elem s.g r.2.1 w.a l 0) (elem s.g r.2.1 w.b l 0)).1) ∧
      RaisesFlags s t (s.actLanes w.guard) (fun l =>
        (fCmp r.2.1.fmt r.2.2 (elem s.g r.2.1 w.a l 0) (elem s.g r.2.1 w.b l 0)).2) ∧
      Advances s t ∧ FramePredicate s t) ∧
  (∀ (s : State) (w : WCmp) (i : Instr) (k : FKind), (i = .fclassF64 w ∧ k = .f64 ∨ i = .fclassF32 w ∧ k = .f32) →
    Runs s i w.guard →
    ∃ t, exec i s = .next t ∧
      TestResult s t (s.actLanes w.guard) w.pd w.pc (fun l =>
        (s.g.src w.b l).getLsbD (fClass k.fmt (elem s.g k w.a l 0))) ∧
      t.g.fpctl = s.g.fpctl ∧ Advances s t ∧ FramePredicate s t)

/-- FDIV, FSQRT, FRCP, FRSQ, FEXP2, FLOG2, FSIN and FCOS: without lookahead the result and flags are there at once; with
it the word opens a window. What the special functions give outside their exact cases is free (log 9), and the statement
holds whatever it is. -/
def Obligations.LongLatencyFloat : Prop :=
  ∀ (s : State) (g d : BitVec 7) (la : BitVec 4) (r : Instr × FKind × (RMode → Group → Fin 32 → Nat × Flags)),
    (∃ w : WUn, w.guard = g ∧ w.d = d ∧ r ∈ longOne w la) ∨ (∃ w : WBin, w.guard = g ∧ w.d = d ∧ r ∈ longTwo w la) →
    Runs s r.1 g →
    ∃ t, exec r.1 s = .next t ∧
      if la = 0#4 then FloatEffect s t r.2.1 (s.actLanes g) d (fun l _ => r.2.2 (rmOf s.g.fpctl) s.g l)
      else OpensWindow s t r.1 (s.actLanes g) la (r.2.2 (rmOf s.g.fpctl) s.g)

/-- FCVT, FPACK and FCVT.SEED: under `.sr` each conversion draws its lane's state, twice for two elements, and only active
lanes draw; with another mode the states do not change. -/
def Sys2Proof.Claims.FloatConvert : Prop :=
  (∀ (s : State) (w : WCvt) (m : RndSel), w.mode = .sel m → Runs s (.fcvt w) w.guard → Instr.wf (.fcvt w) = true →
    ∃ t, exec (.fcvt w) s = .next t ∧ t.g.sr = s.g.sr ∧
      ConvertEffect s t w.tgt (s.actLanes w.guard) w.d (fun l e =>
        fCvt (cvtFmt w.src) (cvtFmt w.tgt) (rndMode m s.g.fpctl) (cvtIn s.g w.src w.a l e))) ∧
  (∀ (s : State) (w : WCvt), w.mode = .sr → Runs s (.fcvt w) w.guard → Instr.wf (.fcvt w) = true →
    ∃ t, exec (.fcvt w) s = .next t ∧
      (∀ l : Fin 32, t.g.sr[l] = if (s.actLanes w.guard).getLsbD l.val = true
        then drawn s.g.sr[l] (if cvtPacked w.src then 2 else 1) else s.g.sr[l]) ∧
      ConvertEffect s t w.tgt (s.actLanes w.guard) w.d (fun l e =>
        fCvtSr (cvtFmt w.src) (cvtFmt w.tgt) (drawn s.g.sr[l] (e + 1)) (cvtIn s.g w.src w.a l e))) ∧
  (∀ (s : State) (w : WSeed), Runs s (.fcvtSeed w) w.guard →
    ∃ t, exec (.fcvtSeed w) s = .next t ∧
      (∀ l : Fin 32, t.g.sr[l] = if (s.actLanes w.guard).getLsbD l.val = true
        then (if s.g.src w.a l = 0#32 then BitVec.ofNat 32 (l.val + 1) else s.g.src w.a l) else s.g.sr[l]) ∧
      t.g.v = s.g.v ∧ t.g.fpctl = s.g.fpctl ∧ Advances s t ∧ FrameFloat s t)

/-- FPACK: two conversions into one register; an 8-bit target moves the old low half up (R207). -/
def Sys2Proof.Claims.FloatPack : Prop :=
  ∀ (s : State) (w : WCvt2), Runs s (.fpack w) w.guard →
    ∃ t, exec (.fpack w) s = .next t ∧
      (let b : Fin 32 → Nat := fun l =>
         (if w.src.is64 then (s.g.vpair w.b l).toNat else (s.g.vr (reg7 w.b) l).toNat) % 2 ^ (cvtFmt w.src).width
       let one : Fin 32 → Nat → Nat → Nat × Flags := fun l e a =>
         match w.mode with
         | .sr => fCvtSr (cvtFmt w.src) (cvtFmt w.tgt) (drawn s.g.sr[l] (e + 1)) a
         | .sel m => fCvt (cvtFmt w.src) (cvtFmt w.tgt) (rndMode m s.g.fpctl) a
       let lo : Fin 32 → Nat × Flags := fun l =>
         one l 0 ((if w.src.is64 then (s.g.src64 w.a l).toNat else (s.g.src w.a l).toNat) % 2 ^ (cvtFmt w.src).width)
       let hi : Fin 32 → Nat × Flags := fun l => one l 1 (b l)
       LaneResult s t (s.actLanes w.guard) w.d (fun l x => x = BitVec.ofNat 32
         (if cvtPacked w.tgt then (hi l).1 * 2 ^ 16 + (lo l).1
          else (s.g.vr (reg7 w.d) l).toNat * 2 ^ 16 + (hi l).1 * 2 ^ 8 + (lo l).1)) ∧
       RaisesFlags s t (s.actLanes w.guard) (fun l => (lo l).2 ||| (hi l).2)) ∧
      (∀ l : Fin 32, t.g.sr[l] = if w.mode = .sr ∧ (s.actLanes w.guard).getLsbD l.val = true
        then drawn s.g.sr[l] 2 else s.g.sr[l]) ∧
      Advances s t ∧ FrameFloat s t

/-- I2F, F2I, FRND, FSCALE, FDOT2.F16x2 and FDOT2.BF16x2. -/
def Sys2Proof.Claims.FloatInteger : Prop :=
  (∀ (s : State) (w : WCvt), Runs s (.i2f w) w.guard →
    ∃ t, exec (.i2f w) s = .next t ∧
      (if w.tgt.is64 then PairResult s t (s.actLanes w.guard) w.d (fun l x => x = BitVec.ofNat 64
          (fOfInt (cvtFmt w.tgt) (cvtMode w.mode s.g.fpctl) (intVal w.src (s.g.tsrc w.src w.a l))).1)
       else LaneResult s t (s.actLanes w.guard) w.d (fun l x => x = BitVec.ofNat 32
          (fOfInt (cvtFmt w.tgt) (cvtMode w.mode s.g.fpctl) (intVal w.src (s.g.tsrc w.src w.a l))).1)) ∧
      RaisesFlags s t (s.actLanes w.guard) (fun l =>
        (fOfInt (cvtFmt w.tgt) (cvtMode w.mode s.g.fpctl) (intVal w.src (s.g.tsrc w.src w.a l))).2) ∧
      Advances s t ∧ FrameFloat s t) ∧
  (∀ (s : State) (w : WCvt), cvtPacked w.src = false → Runs s (.f2i w) w.guard →
    ∃ t, exec (.f2i w) s = .next t ∧
      (let val : Fin 32 → Int × Flags := fun l =>
         fToInt (cvtFmt w.src) (cvtMode w.mode s.g.fpctl) (intLo w.tgt) (intHi w.tgt) (cvtIn s.g w.src w.a l 0)
       (if w.tgt.is64 then PairResult s t (s.actLanes w.guard) w.d (fun l x => x = BitVec.ofInt 64 (val l).1)
        else LaneResult s t (s.actLanes w.guard) w.d (fun l x => x = BitVec.ofInt 32 (val l).1)) ∧
       RaisesFlags s t (s.actLanes w.guard) (fun l => (val l).2)) ∧
      Advances s t ∧ FrameFloat s t) ∧
  (∀ (s : State) (w : WCvt), Runs s (.frnd w) w.guard → Instr.wf (.frnd w) = true →
    ∃ t, exec (.frnd w) s = .next t ∧
      ConvertEffect s t w.tgt (s.actLanes w.guard) w.d (fun l e =>
        fRnd (cvtFmt w.src) (cvtMode w.mode s.g.fpctl) (cvtIn s.g w.src w.a l e))) ∧
  (∀ (s : State) (w : WCvt2), Runs s (.fscale w) w.guard → Instr.wf (.fscale w) = true →
    ∃ t, exec (.fscale w) s = .next t ∧
      ConvertEffect s t w.tgt (s.actLanes w.guard) w.d (fun l _ =>
        fScale (cvtFmt w.src) (cvtMode w.mode s.g.fpctl) (cvtIn s.g w.src w.a l 0) (s.g.vr (reg7 w.b) l).toInt)) ∧
  (∀ (s : State) (w : WTri) (i : Instr) (f : Fmt),
    (i = .fdot2F16x2 w ∧ f = fmtF16 ∨ i = .fdot2Bf16x2 w ∧ f = fmtBf16) → Runs s i w.guard →
    ∃ t, exec i s = .next t ∧
      FloatEffect s t .f32 (s.actLanes w.guard) w.d (fun l _ =>
        fDot2 f (rmOf s.g.fpctl) (s.g.src w.a l).toNat (s.g.src w.b l).toNat (s.g.src w.c l).toNat))

/-- FCVT, FCVT.SEED, FPACK, I2F, F2I, FRND, FSCALE and FDOT2: one rounding each, flags, and the draws of stochastic rounding (R194, R201-R207). -/
def Obligations.FloatConversions : Prop :=
  Claims.FloatConvert ∧ Claims.FloatPack ∧ Claims.FloatInteger

namespace Sys2Proof.Claims

/-- The W-form word of two sources that a half-opcode is named after (R140). -/
def halfTwo (w : WBin) : HOp → Option Instr
  | .iadd | .iaddI => some (.iadd w)
  | .isub | .isubI => some (.isub w)
  | .imin => some (.imin w)
  | .iminU => some (.iminU w)
  | .imax => some (.imax w)
  | .imaxU => some (.imaxU w)
  | .and | .andI => some (.and w)
  | .or | .orI => some (.or w)
  | .xor | .xorI => some (.xor w)
  | .andn => some (.andn w)
  | .shl | .shlI => some (.shl w)
  | .shr | .shrI => some (.shr w)
  | .sar | .sarI => some (.sar w)
  | .rol => some (.rol w)
  | .imulLo => some (.imulLo w)
  | _ => none

/-- The half-opcodes whose B field is an immediate (R140), and those that shift by it. -/
def halfImm (op : HOp) : Prop := op ∈ [.iaddI, .isubI, .shlI, .shrI, .sarI, .andI, .orI, .xorI, .movi]

def halfShift (op : HOp) : Prop := op ∈ [.shlI, .shrI, .sarI]

/-- The rounding word a half-opcode is named after. -/
def halfRound (w : WRnd) : HOp → Option Instr
  | .faddF32 => some (.faddF32 w)
  | .fsubF32 => some (.fsubF32 w)
  | .fmulF32 => some (.fmulF32 w)
  | .faddF16x2 => some (.faddF16x2 w)
  | .fmulF16x2 => some (.fmulF16x2 w)
  | .faddBf16x2 => some (.faddBf16x2 w)
  | .fmulBf16x2 => some (.fmulBf16x2 w)
  | _ => none

/-- Element `e` of a register, and the elements of a kind. -/
def elemOf (k : FKind) (x : W32) (e : Nat) : Nat := if k = .f32 then x.toNat else x.toNat / 2 ^ (16 * e) % 2 ^ 16

/-- A register and flags that hold what `val` gives for each element (R65, R188). -/
def ElemsAre (k : FKind) (r : W32 × Flags) (val : Nat → Nat × Flags) : Prop :=
  if k = .f32 then r = (BitVec.ofNat 32 (val 0).1, (val 0).2)
  else (∀ e < 2, r.1.extractLsb' (16 * e) 16 = BitVec.ofNat 16 (val e).1) ∧ r.2 = (val 0).2 ||| (val 1).2

end Sys2Proof.Claims

/-- What a slot of an H-word gives is what the W-form word of its name gives, with A the slot's d and B its B field: the
functions are those of the statements about the W-form words. An immediate is the zero-extended field (R140). -/
def Sys2Proof.Claims.HalfIsWForm : Prop :=
  (∀ (h : Half) (w : WBin) (r : Instr × (W32 → W32 → Int)) (fp d b : W32), r ∈ twoSource w → halfTwo w h.op = some r.1 →
    (halfShift h.op → h.b.reg.toNat < 32) →
    ∀ y : W32, (halfImm h.op → y = h.b.reg.zeroExtend 32) → (¬ halfImm h.op → y = b) →
      halfValue h fp d b = (BitVec.ofInt 32 (r.2 d y), 0#5)) ∧
  (∀ (h : Half) (fp d b : W32), (h.op = .mov → halfValue h fp d b = (b, 0#5)) ∧
    (h.op = .movi → halfValue h fp d b = (h.b.reg.zeroExtend 32, 0#5))) ∧
  (∀ (h : Half) (w : WRnd) (r : Instr × FKind × (Fmt → RMode → Nat → Nat → Nat × Flags)) (fp d b : W32), r ∈ floatTwo w →
    halfRound w h.op = some r.1 →
    ElemsAre r.2.1 (halfValue h fp d b) fun e => r.2.2 r.2.1.fmt (rmOf fp) (elemOf r.2.1 d e) (elemOf r.2.1 b e)) ∧
  ∀ (h : Half) (fp d b : W32) (neg : Bool),
    (h.op = (if neg then .fmaxF32 else .fminF32) →
      ElemsAre .f32 (halfValue h fp d b) fun _ => fMinMax fmtF32 neg d.toNat b.toNat) ∧
    (h.op = (if neg then .fnegF32 else .fabsF32) →
      ElemsAre .f32 (halfValue h fp d b) fun _ => fSign fmtF32 neg b.toNat)

/-- An H-word: both slots read before either writes, each under its own guard among p0 to p7 (R139-R141). -/
def Sys2Proof.Claims.HWordEffect : Prop :=
  ∀ (s : State) (x y : Half),
    s.power ≠ .off → s.g.inAlloc (.hWord x y) = true → Instr.wf (.hWord x y) = true →
    s.g.halfBad x (s.actLanes (x.guard.zeroExtend 7)) = 0#32 →
    s.g.halfBad y (s.actLanes (y.guard.zeroExtend 7)) = 0#32 →
    ∃ t, exec (.hWord x y) s = .next t ∧
      (let val : Half → Fin 32 → W32 × Flags := fun h l =>
         halfValue h s.g.fpctl (s.g.vr (reg7 h.d) l) (s.g.src h.b l)
       let writes : Half → Fin 128 → Fin 32 → Prop := fun h r l =>
         h.op ≠ .nop ∧ r = reg7 h.d ∧ (s.actLanes (h.guard.zeroExtend 7)).getLsbD l.val = true
       (∀ (h : Half), h = x ∨ h = y → ∀ (r : Fin 128) (l : Fin 32), writes h r l → t.g.vr r l = (val h l).1) ∧
       (∀ (r : Fin 128) (l : Fin 32), ¬ writes x r l → ¬ writes y r l → t.g.vr r l = s.g.vr r l) ∧
       ∀ k : Nat, t.g.fpctl.getLsbD k = true ↔ s.g.fpctl.getLsbD k = true ∨
         ∃ h : Half, (h = x ∨ h = y) ∧ h.op ≠ .nop ∧ ∃ l : Fin 32,
           (s.actLanes (h.guard.zeroExtend 7)).getLsbD l.val = true ∧ ((val h l).2).getLsbD k = true) ∧
      t.g.sr = s.g.sr ∧ Advances s t ∧ FrameFloat s t

/-- H-words: each slot gives the result of the W-form word of its name, both read before either writes, and each acts under its own guard (R139-R141). -/
def Obligations.HWordResult : Prop :=
  Claims.HalfIsWForm ∧ Claims.HWordEffect

/-! ### Number formats (03 R62-R72) -/

/-- Every finite value of every format is returned by the one rounding as the pattern it came from, with no flag, in every
mode: rounding is exact on representable values. -/
def Sys2Proof.Claims.RoundingIsExactOnValues : Prop :=
  ∀ f ∈ [fmtF64, fmtF32, fmtF16, fmtBf16, fmtE5m2, fmtE4m3], ∀ (mode : RMode) (x : Nat) (neg : Bool) (m : Nat) (e : Int),
    x < 2 ^ f.width → f.decode x = .num neg m e → f.roundNum mode neg m e = (x, 0#5)

/-- FADD and FMUL commute, in the result and in the flags, for every operand and mode. -/
def Sys2Proof.Claims.FloatCommutes : Prop :=
  ∀ (f : Fmt) (mode : RMode) (a b : Nat), fAdd f mode a b = fAdd f mode b a ∧ fMul f mode a b = fMul f mode b a

/-- Every NaN that an operation returns is the canonical NaN of its result format, whatever gave rise to it. A NaN operand, the
third of FFMA among them, gives it, with NV exactly where an operand is signalling; the invalid operations give it with NV:
a sum of infinities of opposite sign, infinity times zero, zero by zero, infinity by infinity, the root of a value below −0
(R64, R68, R76). -/
def Sys2Proof.Claims.NanIsCanonical : Prop :=
  (∀ f ∈ [fmtF64, fmtF32, fmtF16, fmtBf16], ∀ (mode : RMode) (a b c : Nat),
    (∀ r ∈ [fAdd f mode a b, fSub f mode a b, fMul f mode a b, fFma f mode a b c, fDiv f mode a b, fSqrt f mode a,
        fMinMax f false a b, fMinMax f true a b, fSign f false a, fSign f true a, fRnd f mode a, fScale f mode a 0],
      (f.decode r.1).isNan = true → r.1 = f.cnan) ∧
    (let nan (xs : List Nat) : Prop := ∃ x ∈ xs, (f.decode x).isNan = true
     let fl (xs : List Nat) : Flags := if xs.any fun x => (f.decode x).isSnan then flagNV else 0#5
     (nan [a, b] → ∀ r ∈ [fAdd f mode a b, fSub f mode a b, fMul f mode a b, fDiv f mode a b], r = (f.cnan, fl [a, b])) ∧
     (nan [a, b, c] → fFma f mode a b c = (f.cnan, fl [a, b, c])) ∧
     (nan [a] → ∀ r ∈ [fSqrt f mode a, fSign f false a, fSign f true a], r = (f.cnan, fl [a]))) ∧
    (let inf (x : Nat) (n : Bool) : Prop := f.decode x = .inf n
     let zero (x : Nat) : Prop := (f.decode x).isZero = true
     let bad : Nat × Flags := (f.cnan, flagNV)
     (∀ n : Bool, inf a n →
       (inf b (!n) → fAdd f mode a b = bad) ∧ (inf b n → fSub f mode a b = bad) ∧
       (∀ k : Bool, inf b k → fDiv f mode a b = bad ∧ (inf c (n == k) → fFma f mode a b c = bad)) ∧
       (zero b → fMul f mode a b = bad ∧ fMul f mode b a = bad ∧
         ((f.decode c).isNan = false → fFma f mode a b c = bad ∧ fFma f mode b a c = bad)) ∧
       ∀ (k : Bool) (m : Nat) (e : Int), f.decode b = .num k m e → m ≠ 0 → inf c (n == k) → fFma f mode a b c = bad) ∧
     (zero a → zero b → fDiv f mode a b = bad) ∧
     (inf a true → fSqrt f mode a = bad) ∧
     ∀ (m : Nat) (e : Int), f.decode a = .num true m e → m ≠ 0 → fSqrt f mode a = bad)) ∧
  (∀ (i o : Fmt) (mode : RMode) (st : W32) (a : Nat), i ∈ [fmtF64, fmtF32, fmtF16, fmtBf16, fmtE5m2, fmtE4m3] →
    o ∈ [fmtF64, fmtF32, fmtF16, fmtBf16, fmtE5m2, fmtE4m3] → ∀ r ∈ [fCvt i o mode a, fCvtSr i o st a],
    ((o.decode r.1).isNan = true → r.1 = o.cnan) ∧
      ((i.decode a).isNan = true → r = (o.cnan, if (i.decode a).isSnan then flagNV else 0#5))) ∧
  ∀ i ∈ [fmtF16, fmtBf16], ∀ (mode : RMode) (a b c : Nat),
    (fmtF32.decode (fDot2 i mode a b c).1).isNan = true → (fDot2 i mode a b c).1 = fmtF32.cnan

namespace Sys2Proof.Claims

/-- The magnitude of bit pattern `n`, sign apart, read as a finite number (R63): for the pattern after the largest finite one,
the number that would come next. -/
def Mag (f : Fmt) (n : Nat) (y : ℝ) : Prop :=
  y = if n / 2 ^ f.mbits = 0 then (n : ℝ) * (2 : ℝ) ^ f.qmin
    else ((n % 2 ^ f.mbits + 2 ^ f.mbits : Nat) : ℝ) * (2 : ℝ) ^ (f.qmin + ((n / 2 ^ f.mbits : Nat) : Int) - 1)

/-- The finite number a bit pattern stands for. -/
def FinVal (f : Fmt) (x : Nat) (v : ℝ) : Prop :=
  ∃ (neg : Bool) (m : Nat) (e : Int), f.decode x = .num neg m e ∧ v = (if neg then -1 else 1) * (m : ℝ) * (2 : ℝ) ^ e

/-- What an overflow returns: the table of R66. -/
def overflowBits (f : Fmt) (mode : RMode) (neg : Bool) : Nat :=
  (if neg then 2 ^ (f.width - 1) else 0) +
    if f.e4m3 || mode == .rtz || (mode == .rdn && !neg) || (mode == .rup && neg) then f.maxBits else f.infBits

/-- A nonzero number rounds up in magnitude from the lower of its two neighbours `a` and `b` (R66). -/
def RoundsUp (mode : RMode) (neg odd : Bool) (a y b : ℝ) : Prop :=
  match mode with
  | .rne => b - y < y - a ∨ (b - y = y - a ∧ odd = true)
  | .rtz => False
  | .rdn => neg = true ∧ y ≠ a
  | .rup => neg = false ∧ y ≠ a

/-- `r` is the number `v` rounded once to a format, with the flags of R68: between the neighbours `a` and `b` of its magnitude,
the patterns `lo` and `lo + 1`, the mode chooses; an overflow returns what R66's table says; a result that differs raises NX,
and UF too where the number, rounded with unbounded exponent, stays below the smallest normal value 2^emin. -/
def Rounded (f : Fmt) (mode : RMode) (v : ℝ) (r : Nat × Flags) : Prop :=
  ∀ neg : Bool, (neg = true ↔ v < 0) →
    (∀ b : ℝ, Mag f (f.maxBits + 1) b → b ≤ |v| → r = (overflowBits f mode neg, flagOF ||| flagNX)) ∧
    ∀ (lo : Nat) (a b : ℝ), lo ≤ f.maxBits → Mag f lo a → Mag f (lo + 1) b → a ≤ |v| → |v| < b →
      ∃ up nx tiny : Bool, (up = true ↔ RoundsUp mode neg (lo % 2 == 1) a |v| b) ∧ (nx = true ↔ |v| ≠ a) ∧
        (tiny = true ↔ |v| < (2 : ℝ) ^ f.emin ∧
          ¬ ((2 : ℝ) ^ f.emin - (2 : ℝ) ^ (f.emin - 1 - (f.mbits : Int)) < |v| ∧
            RoundsUp mode neg true ((2 : ℝ) ^ f.emin - (2 : ℝ) ^ (f.emin - 1 - (f.mbits : Int))) |v| ((2 : ℝ) ^ f.emin))) ∧
        let n := if up then lo + 1 else lo
        if f.maxBits < n then r = (overflowBits f mode neg, flagOF ||| flagNX)
        else r = (n + (if neg then 2 ^ (f.width - 1) else 0),
          (if nx then flagNX else 0#5) ||| (if nx && tiny then flagUF else 0#5))

/-- A number rounded to an integer (R66). -/
def IntRounded (mode : RMode) (x : ℝ) (z : Int) : Prop :=
  match mode with
  | .rne => |x - z| ≤ 1 / 2 ∧ (|x - z| = 1 / 2 → z % 2 = 0)
  | .rtz => z = if 0 ≤ x then ⌊x⌋ else ⌈x⌉
  | .rdn => z = ⌊x⌋
  | .rup => z = ⌈x⌉

end Sys2Proof.Claims

/-- FADD, FSUB, FMUL, FFMA, FDIV, FSQRT and FDOT2 of finite values return the exact result rounded once (R66, R68, R75, R190,
R191, R197); an exact zero sum takes its sign by rule 6 of R76. -/
def Sys2Proof.Claims.ArithmeticRoundsOnce : Prop :=
  (∀ f ∈ [fmtF64, fmtF32, fmtF16, fmtBf16], ∀ (mode : RMode) (a b c : Nat) (x y z : ℝ),
    FinVal f a x → FinVal f b y → FinVal f c z →
    (x + y ≠ 0 → Rounded f mode (x + y) (fAdd f mode a b)) ∧ (x - y ≠ 0 → Rounded f mode (x - y) (fSub f mode a b)) ∧
    (x * y ≠ 0 → Rounded f mode (x * y) (fMul f mode a b)) ∧
    (x * y + z ≠ 0 → Rounded f mode (x * y + z) (fFma f mode a b c)) ∧
    (x ≠ 0 → y ≠ 0 → Rounded f mode (x / y) (fDiv f mode a b)) ∧ (0 < x → Rounded f mode (√x) (fSqrt f mode a))) ∧
  (∀ f ∈ [fmtF64, fmtF32, fmtF16, fmtBf16], ∀ (mode : RMode) (a b c : Nat) (na nb nc : Bool) (ma mb mc : Nat)
      (ea eb ec : Int) (x y z : ℝ),
    f.decode a = .num na ma ea → f.decode b = .num nb mb eb → f.decode c = .num nc mc ec →
    FinVal f a x → FinVal f b y → FinVal f c z →
    (let sign (n k : Bool) (zeros : Prop) (r : Nat × Flags) : Prop :=
       r.2 = 0#5 ∧ (zeros → n = k → r.1 = f.signed n 0) ∧ (¬ (zeros ∧ n = k) → r.1 = f.signed (mode == .rdn) 0)
     (x + y = 0 → sign na nb (ma = 0 ∧ mb = 0) (fAdd f mode a b)) ∧
     (x - y = 0 → sign na (!nb) (ma = 0 ∧ mb = 0) (fSub f mode a b)) ∧
     (x * y = 0 → fMul f mode a b = (f.signed (na != nb) 0, 0#5)) ∧
     (x * y + z = 0 → sign (na != nb) nc (ma * mb = 0 ∧ mc = 0) (fFma f mode a b c)))) ∧
  (∀ i ∈ [fmtF16, fmtBf16], ∀ (mode : RMode) (a b c : Nat) (x0 x1 y0 y1 z : ℝ),
    FinVal i (a % 65536) x0 → FinVal i (a / 65536) x1 → FinVal i (b % 65536) y0 → FinVal i (b / 65536) y1 →
    FinVal fmtF32 c z → x0 * y0 + x1 * y1 + z ≠ 0 →
    Rounded fmtF32 mode (x0 * y0 + x1 * y1 + z) (fDot2 i mode a b c)) ∧
  ([fmtF64, fmtF32, fmtF16, fmtBf16, fmtE5m2, fmtE4m3].map fun f => (f.maxBits, f.cnan)) =
    [(0x7FEFFFFFFFFFFFFF, 0x7FF8000000000000), (0x7F7FFFFF, 0x7FC00000), (0x7BFF, 0x7E00), (0x7F7F, 0x7FC0),
      (0x7B, 0x7E), (0x7E, 0x7F)]

/-- Conversions of finite values: to a floating format the value rounded once, stochastically with the spacing of R74 as the
measure; FSCALE by a power of two, I2F of an integer; to an integer the rounded value, or the nearer end of the range with NV
(R69-R74, R205, R206). -/
def Sys2Proof.Claims.ConversionsRoundOnce : Prop :=
  (∀ i ∈ [fmtF64, fmtF32, fmtF16, fmtBf16, fmtE5m2, fmtE4m3], ∀ (mode : RMode) (a : Nat) (x : ℝ), FinVal i a x →
    (∀ o ∈ [fmtF64, fmtF32, fmtF16, fmtBf16, fmtE5m2, fmtE4m3], x ≠ 0 → Rounded o mode x (fCvt i o mode a)) ∧
    (∀ n : Int, x ≠ 0 → Rounded i mode (x * (2 : ℝ) ^ n) (fScale i mode a n)) ∧
    ∀ z : Int, IntRounded mode x z →
      (i ≠ fmtE5m2 → i ≠ fmtE4m3 → FinVal i (fRnd i mode a).1 z ∧ (fRnd i mode a).2 = 0#5) ∧
      ∀ (lo hi : Int) (nx : Bool), lo ≤ hi → (nx = true ↔ x ≠ z) →
        fToInt i mode lo hi a =
          if z < lo then (lo, flagNV) else if hi < z then (hi, flagNV) else (z, if nx then flagNX else 0#5)) ∧
  (∀ o ∈ [fmtF64, fmtF32, fmtF16, fmtBf16, fmtE5m2, fmtE4m3], ∀ (mode : RMode) (z : Int), z ≠ 0 →
    Rounded o mode z (fOfInt o mode z)) ∧
  ∀ i ∈ [fmtF64, fmtF32, fmtF16, fmtBf16], ∀ o ∈ [fmtF16, fmtBf16, fmtE5m2, fmtE4m3], ∀ (st : W32) (src : Nat) (x : ℝ)
      (neg : Bool), FinVal i src x → x ≠ 0 → (neg = true ↔ x < 0) →
    (∀ b : ℝ, Mag o (o.maxBits + 1) b → b ≤ |x| →
      fCvtSr i o st src = (overflowBits o .rne neg, flagOF ||| flagNX)) ∧
    ∀ (lo : Nat) (a b : ℝ), lo ≤ o.maxBits → Mag o lo a → Mag o (lo + 1) b → a ≤ |x| → |x| < b →
      ∃ up nx : Bool, (up = true ↔ (st.toNat : Int) < ⌊(|x| - a) / (b - a) * 2 ^ 32⌋) ∧ (nx = true ↔ |x| ≠ a) ∧
        let n := if up then lo + 1 else lo
        if o.maxBits < n then fCvtSr i o st src = (overflowBits o .rne neg, flagOF ||| flagNX)
        else fCvtSr i o st src = (n + (if neg then 2 ^ (o.width - 1) else 0),
          (if nx then flagNX else 0#5) ||| (if nx && decide (n < 2 ^ o.mbits) then flagUF else 0#5))

/-- Laws of the number formats: representable values round to themselves, FADD and FMUL commute, every NaN returned is the canonical one, and every result is the exact one rounded once, with the flags of overflow, underflow and inexactness (R62-R64, R66, R68-R76). -/
def Obligations.FloatLaws : Prop :=
  Claims.RoundingIsExactOnValues ∧ Claims.FloatCommutes ∧ Claims.NanIsCanonical ∧ Claims.ArithmeticRoundsOnce ∧ Claims.ConversionsRoundOnce

/-! ### Cross-lane words (07 R208-R215) -/

namespace Sys2Proof.Claims

/-- Scalar predicate `q` holds `b`; q0 stays true, and every other is as it was (R44). -/
def ScalarTest (s t : State) (q : BitVec 4) (b : Bool) : Prop :=
  ∀ r : BitVec 4, t.g.qp r = if r = q ∧ r ≠ 0#4 then b else s.g.qp r

/-- No scalar register or predicate has changed. -/
def ScalarsKept (s t : State) : Prop := t.g.s = s.g.s ∧ t.g.q = s.g.q

/-- The value an active lane contributes (R208). -/
def contribution (g : Group) (op : RedOp) (a : VSrc) (l : Fin 32) : W64 :=
  if op.is64 then g.src64 a l else (g.src a l).zeroExtend 64

/-- The two-operand form of the integer operations (R131, R213). -/
def intOp : RedOp → Option (W64 → W64 → W64)
  | .add => some fun a b => BitVec.ofNat 64 ((a.toNat + b.toNat) % 2 ^ 32)
  | .min => some fun a b => if (a.setWidth 32).toInt ≤ (b.setWidth 32).toInt then a else b
  | .max => some fun a b => if (a.setWidth 32).toInt ≤ (b.setWidth 32).toInt then b else a
  | .minU => some fun a b => if a.toNat ≤ b.toNat then a else b
  | .maxU => some fun a b => if a.toNat ≤ b.toNat then b else a
  | .and => some fun a b => a &&& b
  | .or => some fun a b => a ||| b
  | .xor => some fun a b => a ^^^ b
  | .add64 => some fun a b => a + b
  | _ => none

/-- A list of values combined from the first to the last; none for an empty list. -/
def foldUp (f : W64 → W64 → W64) : List W64 → Option W64
  | [] => none
  | a :: r => some (r.foldl f a)

end Sys2Proof.Claims

/-- VOTE.ALL, VOTE.ANY, EQUNI and EQUNI.64 write a scalar predicate once when some lane is active, and nothing otherwise
(R208, R210, R212). -/
def Sys2Proof.Claims.VoteToPredicate : Prop :=
  (∀ (s : State) (w : WVote) (i : Instr) (all : Bool), (i = .voteAll w ∧ all = true ∨ i = .voteAny w ∧ all = false) →
    Runs s i w.guard →
    ∃ t, exec i s = .next t ∧ t.g.s = s.g.s ∧ t.g.fpctl = s.g.fpctl ∧ Advances s t ∧ FrameScalar s t ∧
      (s.actLanes w.guard = 0#32 → t.g.q = s.g.q) ∧
      ∀ b : Bool, s.actLanes w.guard ≠ 0#32 →
        (b = true ↔
          if all then ∀ l : Fin 32, (s.actLanes w.guard).getLsbD l.val = true → (s.g.pred w.p).getLsbD l.val = true
          else ∃ l : Fin 32, (s.actLanes w.guard).getLsbD l.val = true ∧ (s.g.pred w.p).getLsbD l.val = true) →
        ScalarTest s t w.q b) ∧
  (∀ (s : State) (w : WUni) (i : Instr) (wide : Bool), (i = .equni w ∧ wide = false ∨ i = .equni64 w ∧ wide = true) →
    Runs s i w.guard →
    ∃ t, exec i s = .next t ∧ t.g.s = s.g.s ∧ t.g.fpctl = s.g.fpctl ∧ Advances s t ∧ FrameScalar s t ∧
      (s.actLanes w.guard = 0#32 → t.g.q = s.g.q) ∧
      ∀ b : Bool, s.actLanes w.guard ≠ 0#32 →
        (b = true ↔ ∀ l k : Fin 32, (s.actLanes w.guard).getLsbD l.val = true → (s.actLanes w.guard).getLsbD k.val = true →
          if wide then s.g.src64 w.a l = s.g.src64 w.a k else s.g.src w.a l = s.g.src w.a k) →
        ScalarTest s t w.q b)

/-- VOTE.BAL, PPOPC, FIRSTLANE: the mask, the count and the lowest active lane, written once when some lane is active
(R208, R210). -/
def Sys2Proof.Claims.VoteToScalar : Prop :=
  ∀ (s : State) (i : Instr) (guard : BitVec 7) (d : BitVec 9) (p : BitVec 7),
    i = .voteBal ⟨guard, d, p⟩ ∨ i = .ppopc ⟨guard, d, p⟩ ∨ i = .firstlane ⟨guard, d⟩ → Runs s i guard →
    ∃ t, exec i s = .next t ∧ t.g.q = s.g.q ∧ t.g.fpctl = s.g.fpctl ∧ Advances s t ∧ FrameScalar s t ∧
      (s.actLanes guard = 0#32 → t.g.s = s.g.s) ∧
      (s.actLanes guard ≠ 0#32 → ∃ x : W64, ScalarResult s t d x ∧
        (i = .voteBal ⟨guard, d, p⟩ → ∀ k : Nat, x.getLsbD k = true ↔
          ∃ l : Fin 32, l.val = k ∧ (s.actLanes guard).getLsbD k = true ∧ (s.g.pred p).getLsbD k = true) ∧
        (i = .ppopc ⟨guard, d, p⟩ → x.toNat = ((List.finRange 32).filter fun l =>
          (s.actLanes guard).getLsbD l.val && (s.g.pred p).getLsbD l.val).length) ∧
        (i = .firstlane ⟨guard, d⟩ → ∃ l : Fin 32, x.toNat = l.val ∧ (s.actLanes guard).getLsbD l.val = true ∧
          ∀ k : Fin 32, (s.actLanes guard).getLsbD k.val = true → l.val ≤ k.val))

/-- LANEMASK, EQMASK and EQMASK.64: bit `k` of what active lane `l` receives (R211, R212). -/
def Sys2Proof.Claims.LaneMasks : Prop :=
  (∀ (s : State) (w : WMask), Runs s (.lanemask w) w.guard →
    ∃ t, exec (.lanemask w) s = .next t ∧
      LaneResult s t (s.actLanes w.guard) w.d (fun l x => ∀ k : Fin 32, x.getLsbD k.val =
        match w.sel with
        | .eq => decide (k = l)
        | .lt => decide (k < l)
        | .le => decide (k ≤ l)
        | .gt => decide (l < k)
        | .ge => decide (l ≤ k)
        | .act => (s.actLanes w.guard).getLsbD k.val
        | .run => s.g.lane[k] == .runnable) ∧
      Advances s t ∧ FrameVector s t) ∧
  (∀ (s : State) (w : WUn) (i : Instr) (wide : Bool), (i = .eqmask w ∧ wide = false ∨ i = .eqmask64 w ∧ wide = true) →
    Runs s i w.guard →
    ∃ t, exec i s = .next t ∧
      LaneResult s t (s.actLanes w.guard) w.d (fun l x => ∀ k : Fin 32, x.getLsbD k.val = true ↔
        (s.actLanes w.guard).getLsbD k.val = true ∧
          if wide then s.g.src64 w.a k = s.g.src64 w.a l else s.g.src w.a k = s.g.src w.a l) ∧
      Advances s t ∧ FrameVector s t)

/-- REDUCE: the tree of R79 over the active lanes' values, its flags, and nothing without an active lane. -/
def Sys2Proof.Claims.ReduceResult : Prop :=
  ∀ (s : State) (w : WReduce), Runs s (.reduce w) w.guard →
    ∃ t, exec (.reduce w) s = .next t ∧ t.g.q = s.g.q ∧ Advances s t ∧ FrameScalar s t ∧
      (s.actLanes w.guard = 0#32 → t.g.s = s.g.s ∧ t.g.fpctl = s.g.fpctl) ∧
      (s.actLanes w.guard ≠ 0#32 → ∃ x fl,
        redTree w.op (rmOf s.g.fpctl) 5 ((List.finRange 32).map fun l =>
          if (s.actLanes w.guard).getLsbD l.val then some (contribution s.g w.op w.a l) else none) = (some x, fl) ∧
        ScalarResult s t w.s x ∧ ∀ k, t.g.fpctl.getLsbD k = (s.g.fpctl.getLsbD k || fl.getLsbD k))

/-- The integer operations of REDUCE do not depend on the tree: the result is the lanes' values combined in ascending
order, and no flag is raised (R79, R213). -/
def Sys2Proof.Claims.IntegerReduceIsFold : Prop :=
  ∀ (op : RedOp) (mode : RMode) (f : W64 → W64 → W64) (g : Group) (m : Mask) (a : VSrc), intOp op = some f →
    redTree op mode 5 (g.contributions m op a) =
      (foldUp f (((List.finRange 32).filter fun l => m.getLsbD l.val).map (contribution g op a)), 0#5)

/-- SCAN.INC and SCAN.EXC by the integer operations: every active lane receives the values of the active lanes up to
itself, or below itself with the identity where there is none, combined in ascending order (R80, R214). -/
def Sys2Proof.Claims.IntegerScanIsPrefix : Prop :=
  ∀ (s : State) (w : WScan) (i : Instr) (exclusive : Bool) (f : W64 → W64 → W64),
    (i = .scanInc w ∧ exclusive = false ∨ i = .scanExc w ∧ exclusive = true) → intOp w.op = some f → Runs s i w.guard →
    ∃ t, exec i s = .next t ∧
      (let val : Fin 32 → W64 := fun l =>
         (foldUp f (((List.finRange 32).filter fun j => (s.actLanes w.guard).getLsbD j.val &&
           (if exclusive then decide (j < l) else decide (j ≤ l))).map (contribution s.g w.op w.a))).getD (redIdentity w.op)
       if w.op.is64 then PairResult s t (s.actLanes w.guard) w.d (fun l x => x = val l)
       else LaneResult s t (s.actLanes w.guard) w.d (fun l x => x = (val l).setWidth 32)) ∧
      t.g.fpctl = s.g.fpctl ∧ t.g.sr = s.g.sr ∧ Advances s t ∧ FrameFloat s t

/-- SCAN by every operation completes: the active lanes receive the grouping of R80, an exclusive scan one active lane
down, and its lowest active lane the identity. -/
def Sys2Proof.Claims.ScanCompletes : Prop :=
  ∀ (s : State) (w : WScan) (i : Instr) (exclusive : Bool),
    (i = .scanInc w ∧ exclusive = false ∨ i = .scanExc w ∧ exclusive = true) → Runs s i w.guard →
    ∃ t, exec i s = .next t ∧
      (let m := s.actLanes w.guard
       let r := scanRounds w.op (rmOf s.g.fpctl) 5 1 ((List.finRange 32).map fun l =>
         if m.getLsbD l.val then some (contribution s.g w.op w.a l) else none)
       let P : Fin 32 → W64 → Prop := fun l x =>
         if exclusive then
           (∃ j : Fin 32, j < l ∧ m.getLsbD j.val = true ∧ (∀ k : Fin 32, j < k → k < l → m.getLsbD k.val = false) ∧
             r.1[j.val]? = some (some x)) ∨
           ((∀ k : Fin 32, k < l → m.getLsbD k.val = false) ∧ x = redIdentity w.op)
         else r.1[l.val]? = some (some x)
       (if w.op.is64 then PairResult s t m w.d P
        else LaneResult s t m w.d (fun l y => ∃ x : W64, P l x ∧ y = x.setWidth 32)) ∧
       ∀ k, t.g.fpctl.getLsbD k = (s.g.fpctl.getLsbD k || r.2.getLsbD k)) ∧
      t.g.sr = s.g.sr ∧ Advances s t ∧ FrameFloat s t

/-- The votes, ballots and lane masks; REDUCE and SCAN: what they write, that the integer operations fold the active lanes in ascending order, and the identity of an exclusive scan (R79, R80, R208, R210-R214). -/
def Obligations.VotesReductionsAndScans : Prop :=
  Claims.VoteToPredicate ∧ Claims.VoteToScalar ∧ Claims.LaneMasks ∧ Claims.ReduceResult ∧ Claims.ScanCompletes ∧ Claims.IntegerReduceIsFold ∧ Claims.IntegerScanIsPrefix

/-- PAND, POR, PXOR and PMOV (R215). -/
def Sys2Proof.Claims.PredicateLogic : Prop :=
  (∀ (s : State) (w : WPred) (i : Instr) (f : Bool → Bool → Bool),
    (i = .pand w ∧ f = and ∨ i = .por w ∧ f = or ∨ i = .pxor w ∧ f = xor) → Runs s i w.guard →
    ∃ t, exec i s = .next t ∧
      TestResult s t (s.actLanes w.guard) w.pd w.pc (fun l =>
        f ((s.g.pred w.pa).getLsbD l.val) ((s.g.pred w.pb).getLsbD l.val)) ∧
      t.g.fpctl = s.g.fpctl ∧ Advances s t ∧ FramePredicate s t) ∧
  (∀ (s : State) (w : WPred1), Runs s (.pmov w) w.guard →
    ∃ t, exec (.pmov w) s = .next t ∧
      TestResult s t (s.actLanes w.guard) w.pd w.pc (fun l => (s.g.pred w.pa).getLsbD l.val) ∧
      t.g.fpctl = s.g.fpctl ∧ Advances s t ∧ FramePredicate s t)

/-- ICMP, PAND, POR, PXOR and PMOV: the result, and then its complement; p0 stays true (R44, R130, R167, R215). -/
def Obligations.PredicateResults : Prop :=
  Claims.IntegerCompare ∧ Claims.PredicateLogic

/-! ### Control words (06 R168-R177; 01 R16-R29) -/

namespace Sys2Proof.Claims

/-- The LPC of every active lane is `target`, of every other issuing lane one more, and no other moves (R168). -/
def Branches (s t : State) (m : Mask) (target : Fin 32 → W32) : Prop :=
  ∀ l : Fin 32, t.g.lpc[l] =
    if m.getLsbD l.val = true then target l
    else if s.iss.mask.getLsbD l.val = true then s.g.lpc[l] + 1#32 else s.g.lpc[l]

end Sys2Proof.Claims

/-- NOP advances every issuing lane by 1 and does nothing else but clear the yield bits of the issuing lanes and count the
issue (R17, R25, R29, R175). -/
def Obligations.NopOnlyAdvances : Prop :=
  (∀ (s : State) (w : EGuard), s.power ≠ .off → s.g.inAlloc (.nop w) = true →
    ∃ t, exec (.nop w) s = .next t ∧ Advances s t ∧ SameMemory s t ∧
      t.g.yielded = s.g.yielded &&& ~~~s.iss.mask ∧
      t.g.starve = (if s.g.runnable &&& ~~~s.iss.mask = 0#32 then 0#64 else s.g.starve + 1#64) ∧
      t.g.v = s.g.v ∧ t.g.p = s.g.p ∧ t.g.s = s.g.s ∧ t.g.q = s.g.q ∧ t.g.fpctl = s.g.fpctl ∧ t.g.dep = s.g.dep ∧
      t.g.lane = s.g.lane ∧ t = { s.commit with g := { s.commit.g with lpc := t.g.lpc } }) ∧
  (∀ g : BitVec 7, decode (0xC0#8 ++ g ++ 0#49) = some (.nop ⟨g⟩)) ∧ decode 0xC000000000000000#64 = some (.nop ⟨0#7⟩)

/-- YIELD sets the yield bit of its active lanes, clears it in its other issuing lanes, and leaves it elsewhere (R22,
R174). -/
def Sys2Proof.Claims.YieldMarksLanes : Prop :=
  ∀ (s : State) (w : EGuard), s.power ≠ .off → s.g.inAlloc (.yield w) = true →
    ∃ t, exec (.yield w) s = .next t ∧ Advances s t ∧ SameMemory s t ∧
      (∀ l : Fin 32, t.g.yielded.getLsbD l.val =
        if (s.actLanes w.guard).getLsbD l.val then true
        else if s.iss.mask.getLsbD l.val then false else s.g.yielded.getLsbD l.val) ∧
      t = { s.commit with g := { s.commit.g with lpc := t.g.lpc, yielded := t.g.yielded } }

/-- BRA, BRX, SBRA: where the active lanes go; SBRA moves every issuing lane together (R169, R170, R185). -/
def Sys2Proof.Claims.BranchTargets : Prop :=
  (∀ (s : State) (w : WBranch), Runs s (.bra w) w.guard →
    ∃ t, exec (.bra w) s = .next t ∧
      Branches s t (s.actLanes w.guard)
        (fun l => BitVec.ofInt 32 ((s.g.lpc[l]).toNat + w.imm.toInt)) ∧
      t.g.dep = s.g.dep ∧ t.g.v = s.g.v ∧ FrameFlow s t) ∧
  (∀ (s : State) (w : WIndirect), Runs s (.brx w) w.guard →
    ∃ t, exec (.brx w) s = .next t ∧
      Branches s t (s.actLanes w.guard) (fun l => s.g.src w.a l) ∧ t.g.dep = s.g.dep ∧ t.g.v = s.g.v ∧ FrameFlow s t) ∧
  (∀ (s : State) (u : UBranch), RunsU s (.sbra u) u.q u.neg →
    ∃ t, exec (.sbra u) s = .next t ∧
      Branches s t s.iss.mask (fun l => BitVec.ofInt 32 ((s.g.lpc[l]).toNat + u.imm.toInt)) ∧
      t.g.dep = s.g.dep ∧ t.g.v = s.g.v ∧ FrameFlow s t)

/-- CALL, CALLX and RET where no active lane is at the edge of its depth: link, depth and target; CALLX reads its target
before it writes the link (R171, R172). -/
def Sys2Proof.Claims.CallAndReturn : Prop :=
  (∀ (s : State) (i : Instr) (guard d : BitVec 7) (target : Fin 32 → W32),
    ((∃ w : WCall, i = .call w ∧ guard = w.guard ∧ d = w.d ∧
        target = fun l => BitVec.ofInt 32 ((s.g.lpc[l]).toNat + w.imm.toInt)) ∨
      (∃ w : WUn, i = .callx w ∧ guard = w.guard ∧ d = w.d ∧ target = s.g.src w.a)) →
    Runs s i guard → (∀ l : Fin 32, (s.actLanes guard).getLsbD l.val = true → s.g.dep[l] ≠ 255#8) →
    ∃ t, exec i s = .next t ∧ Branches s t (s.actLanes guard) target ∧
      LaneResult s t (s.actLanes guard) d (fun l x => x = s.g.lpc[l] + 1#32) ∧
      (∀ l : Fin 32, t.g.dep[l] = if (s.actLanes guard).getLsbD l.val = true then s.g.dep[l] + 1#8 else s.g.dep[l]) ∧
      FrameFlow s t) ∧
  (∀ (s : State) (w : WIndirect), Runs s (.ret w) w.guard →
    (∀ l : Fin 32, (s.actLanes w.guard).getLsbD l.val = true → s.g.dep[l] ≠ 0#8) →
    ∃ t, exec (.ret w) s = .next t ∧ Branches s t (s.actLanes w.guard) (fun l => s.g.src w.a l) ∧ t.g.v = s.g.v ∧
      (∀ l : Fin 32, t.g.dep[l] = if (s.actLanes w.guard).getLsbD l.val = true then s.g.dep[l] - 1#8 else s.g.dep[l]) ∧
      FrameFlow s t)

/-- CALL and CALLX in a lane of DEP 255, RET in one of DEP 0: such lanes keep LPC, DEP and link register and take the
depth-overflow fault, code 0x03, POS 0, DETAIL 0 for an increment and 1 for a decrement; the other active lanes take their full
effect (R20, R171, R172, R305). -/
def Sys2Proof.Claims.DepthOverflow : Prop :=
  ∀ (s : State) (i : Instr) (guard : BitVec 7) (link : Option (BitVec 7)) (edge by_ : BitVec 8) (dir : W64)
      (target : Fin 32 → W32) (stuck : Mask),
    ((∃ w : WCall, i = .call w ∧ guard = w.guard ∧ link = some w.d ∧ edge = 255#8 ∧ by_ = 1#8 ∧ dir = 0#64 ∧
        target = fun l => BitVec.ofInt 32 ((s.g.lpc[l]).toNat + w.imm.toInt)) ∨
      (∃ w : WUn, i = .callx w ∧ guard = w.guard ∧ link = some w.d ∧ edge = 255#8 ∧ by_ = 1#8 ∧ dir = 0#64 ∧
        target = s.g.src w.a) ∨
      (∃ w : WIndirect, i = .ret w ∧ guard = w.guard ∧ link = none ∧ edge = 0#8 ∧ by_ = 255#8 ∧ dir = 1#64 ∧
        target = s.g.src w.a)) →
    Runs s i guard → stuck ≠ 0#32 →
    (∀ l : Fin 32, stuck.getLsbD l.val = true ↔ (s.actLanes guard).getLsbD l.val = true ∧ s.g.dep[l] = edge) →
    ∃ u : State,
      exec i s = .next (u.stopFault
        ⟨0x03#8, 0#8, s.iss.key.lpc, stuck, s.actLanes guard, s.iss.waitm, 0#64, dir, s.cycle⟩) ∧
      (let m : Mask := s.actLanes guard &&& ~~~stuck
       (∀ l : Fin 32, stuck.getLsbD l.val = true → u.g.lpc[l] = s.g.lpc[l]) ∧
       (∀ l : Fin 32, stuck.getLsbD l.val = false → u.g.lpc[l] =
         if m.getLsbD l.val = true then target l
         else if s.iss.mask.getLsbD l.val = true then s.g.lpc[l] + 1#32 else s.g.lpc[l]) ∧
       (∀ l : Fin 32, u.g.dep[l] = if m.getLsbD l.val = true then s.g.dep[l] + by_ else s.g.dep[l]) ∧
       (match link with
        | some d => LaneResult s u m d (fun l x => x = s.g.lpc[l] + 1#32)
        | none => u.g.v = s.g.v)) ∧
      FrameFlow s u

/-- BRA, BRX, SBRA, CALL, CALLX and RET: where the lanes go, their depth and the link, and the depth-overflow fault at the edge (R20, R169-R172, R185, R305). -/
def Obligations.BranchesAndCalls : Prop :=
  Claims.BranchTargets ∧ Claims.CallAndReturn ∧ Claims.DepthOverflow

/-- EXIT moves its active lanes to the exited state and every issuing lane past the word (R28, R173). That the lanes which exit
move past it too is read from R173 by inference (log 60). -/
def Sys2Proof.Claims.ExitLeaves : Prop :=
  ∀ (s : State) (w : EGuard), s.power ≠ .off → s.g.inAlloc (.exit w) = true →
    ∃ t, exec (.exit w) s = .next t ∧ Advances s t ∧ SameMemory s t ∧
      (∀ l : Fin 32, t.g.lane[l] = if (s.actLanes w.guard).getLsbD l.val = true then .exited else s.g.lane[l]) ∧
      t = { s.commit with due := t.due, g := { s.commit.g with lpc := t.g.lpc, lane := t.g.lane } } ∧
      t.due = if (∀ l : Fin 32, t.g.lane[l] = .exited) then s.due ++ [.groupRetire ⟨s.t.tid, s.g.id⟩] else s.due

/-- YIELD and EXIT (R22, R28, R173, R174); that lanes which exit move past the EXIT is read by inference (log 60, DEDUCED). -/
def Obligations.YieldAndExit : Prop :=
  Claims.YieldMarksLanes ∧ Claims.ExitLeaves

/-! ### Scalar-unit words (06 R179-R187) -/

/-- A scalar word whose guard, after negation, is false only advances its issuing lanes (R138). -/
def Sys2Proof.Claims.ScalarGuardFalse : Prop :=
  ∀ (s : State) (i : Instr) (q : BitVec 4) (neg : Bool),
    ((∃ u : UBin, u.q = q ∧ u.neg = neg ∧ ∃ r ∈ scalarTwo u, i = r.1) ∨
      (∃ u : UImm, u.q = q ∧ u.neg = neg ∧ ∃ r ∈ scalarImmediate u, i = r.1) ∨
      (∃ u : UCmp, u.q = q ∧ u.neg = neg ∧ ∃ r ∈ scalarCompares u, i = r.1) ∨
      (∃ u : UConst, u.q = q ∧ u.neg = neg ∧ i = .smovi u) ∨ (∃ u : USel, u.q = q ∧ u.neg = neg ∧ i = .ssel u) ∨
      (∃ u : UBranch, u.q = q ∧ u.neg = neg ∧ i = .sbra u) ∨ (∃ u : UPeer, u.q = q ∧ u.neg = neg ∧ i = .speer u) ∨
      (∃ u : ULoad, u.q = q ∧ u.neg = neg ∧ i = .sld u) ∨ (∃ u : UStore, u.q = q ∧ u.neg = neg ∧ i = .sst u)) →
    s.power ≠ .off → s.g.inAlloc i = true → s.g.qp q = neg →
    ∃ t, exec i s = .next t ∧ Advances s t ∧ SameMemory s t ∧ t.g.s = s.g.s ∧ t.g.q = s.g.q ∧ t.g.v = s.g.v ∧
      t = { s.commit with g := { s.commit.g with lpc := t.g.lpc } }

/-- SADD, SSUB, SMUL, SMAD, SAND, SOR, SXOR, SSHL, SSHR, SSAR, their immediate forms, SMOVHI and SMOVI (R180-R182). -/
def Sys2Proof.Claims.ScalarArithmetic : Prop :=
  (∀ (s : State) (u : UBin) (r : Instr × (W64 → W64 → W64 → Int)), r ∈ scalarTwo u → RunsU s r.1 u.q u.neg →
    ∃ t, exec r.1 s = .next t ∧
      ScalarResult s t u.d (BitVec.ofInt 64
        (r.2 (s.g.sr64 (reg9 u.d)) (s.g.sr64 (reg9 u.a)) (s.g.sr64 (reg9 u.b)))) ∧
      t.g.q = s.g.q ∧ t.g.fpctl = s.g.fpctl ∧ Advances s t ∧ FrameScalar s t) ∧
  (∀ (s : State) (u : UImm) (r : Instr × (W64 → Int)), r ∈ scalarImmediate u → RunsU s r.1 u.q u.neg →
    ∃ t, exec r.1 s = .next t ∧
      ScalarResult s t u.d (BitVec.ofInt 64 (r.2 (s.g.sr64 (reg9 u.a)))) ∧
      t.g.q = s.g.q ∧ t.g.fpctl = s.g.fpctl ∧ Advances s t ∧ FrameScalar s t) ∧
  (∀ (s : State) (u : UConst), RunsU s (.smovi u) u.q u.neg →
    ∃ t, exec (.smovi u) s = .next t ∧ ScalarResult s t u.d (BitVec.ofInt 64 u.imm.toInt) ∧
      t.g.q = s.g.q ∧ t.g.fpctl = s.g.fpctl ∧ Advances s t ∧ FrameScalar s t)

/-- SCMP writes the result to one scalar predicate and then the complement to another; SSEL selects by one (R183, R184). -/
def Sys2Proof.Claims.ScalarCompareSelect : Prop :=
  (∀ (s : State) (u : UCmp) (r : Instr × (W64 → W64 → Bool)), r ∈ scalarCompares u → RunsU s r.1 u.q u.neg →
    ∃ t, exec r.1 s = .next t ∧
      (let b := r.2 (s.g.sr64 (reg9 u.a)) (s.g.sr64 (reg9 u.b))
       ∀ q : BitVec 4, t.g.qp q =
         if q = 0#4 then true else if q = u.qc then !b else if q = u.qd then b else s.g.qp q) ∧
      t.g.s = s.g.s ∧ t.g.fpctl = s.g.fpctl ∧ Advances s t ∧ FrameScalar s t) ∧
  (∀ (s : State) (u : USel), RunsU s (.ssel u) u.q u.neg →
    ∃ t, exec (.ssel u) s = .next t ∧
      ScalarResult s t u.d (if s.g.qp u.qc = true then s.g.sr64 (reg9 u.a) else s.g.sr64 (reg9 u.b)) ∧
      t.g.q = s.g.q ∧ t.g.fpctl = s.g.fpctl ∧ Advances s t ∧ FrameScalar s t)

/-- SPEER: the peer of rank (rank + k) mod n, or 0 where n is 0 (R186). -/
def Sys2Proof.Claims.PeerAddress : Prop :=
  ∀ (s : State) (u : UPeer), u.b.toNat < 511 → RunsU s (.speer u) u.q u.neg →
    ∃ t, exec (.speer u) s = .next t ∧
      (∃ idx : Nat,
        (let w := (s.g.sr64 (reg9 (u.b + 1#9))).toNat
         let n := w / 2 ^ 32
         if n = 0 then idx = 0 else idx < n ∧ ((idx : Int) - ((w % 2 ^ 32 : Nat) + u.imm.toInt)) % (n : Int) = 0) ∧
        ScalarResult s t u.d (BitVec.ofNat 64
          ((s.g.sr64 (reg9 u.a)).toNat + (s.g.sr64 (reg9 u.b)).toNat * idx))) ∧
      t.g.q = s.g.q ∧ t.g.fpctl = s.g.fpctl ∧ Advances s t ∧ FrameScalar s t

/-- The scalar unit: a false guard only advances; arithmetic, immediates, compares, SSEL and SPEER (R138, R179-R184, R186). -/
def Obligations.ScalarUnit : Prop :=
  Claims.ScalarGuardFalse ∧ Claims.ScalarArithmetic ∧ Claims.ScalarCompareSelect ∧ Claims.PeerAddress

/-! ### Memory words (04 R90-R122; 08 R216-R239) -/

namespace Sys2Proof.Claims

/-- The core holds the translation of `va` for an access of this kind: looking it up gives `pa` and changes nothing (R336,
R340). -/
def Held (s : State) (va : W64) (a : Access) (pa : Nat) : Prop :=
  canonical va = true ∧ ∃ l : Leaf,
    s.tlbFind [.core s.t.core, .die (dieOfCore s.t.core)] s.t.ctx (vaNum va) = some l ∧
    (∀ x ∈ [TlbSite.core s.t.core, TlbSite.die (dieOfCore s.t.core)], s.tlb.contains (x, l) = true) ∧
    s.useLeaf l (vaNum va) a = .ok s pa

/-- The `n` bytes at `pa` lie in one line that is homed here, that nothing holds back or has changed hands, and that stands
under its current key: no freeze, recall, directory entry, poison, unpredictable byte, open tile or pending store of the core
concerns it. Memory is in its canonical form. -/
structure Settled (s : State) (pa n : Nat) : Prop where
  canonical : Canonical s
  line : ∀ k, k < n → lineOf (pa + k) = lineOf pa
  here : ∀ k, k < n → s.here (pa + k) = true
  hereLine : s.here (lineOf pa) = true
  thawed : s.frozen (lineOf pa) = false
  quiet : ∀ r ∈ s.recalls, r.line ≠ lineOf pa
  mine : ∀ e ∈ s.dir, e.line ≠ lineOf pa
  sound : s.poison.contains (lineOf pa) = false
  known : ∀ k, k < n → s.hazeByte (pa + k) = none
  plain : ∀ t ∈ s.tiles, lineOf pa ∉ t.frames
  landed : ∀ e ∈ s.posted, e.core ≠ s.t.core
  keyed : ∀ a, lineOf a = lineOf pa → ∀ k, s.keyOf a = some k →
    ((s.tags.find? fun t => t.1 = lineOf a).map fun t => (t.2.1, t.2.2)).getD (k, 0) = (k, s.genOf k)

/-- The `n` bytes at `a`, least significant first, as a number. -/
def numAt (s : State) (a n : Nat) : Nat := ofBytes ((List.range n).map fun k => s.mem.get (a + k))

/-- The register values of a load of `x` (R219): sign-extended on request, upper bits zero, wider data in ascending
registers. -/
def loadedWord (size : Size) (sx : Bool) (x k : Nat) : W32 :=
  match size with
  | .b1 => if sx then BitVec.signExtend 32 (BitVec.ofNat 8 x) else BitVec.ofNat 32 x
  | .b2 => if sx then BitVec.signExtend 32 (BitVec.ofNat 16 x) else BitVec.ofNat 32 x
  | _ => BitVec.ofNat 32 (x / 2 ^ (32 * k))

/-- Lane `l` alone receives `count` registers from `d` on. -/
def LaneRegisters (s t : State) (l : Fin 32) (d : BitVec 7) (count : Nat) (val : Nat → W32) : Prop :=
  (∀ k, k < count → t.g.vr (regUp d k) l = val k) ∧
    ∀ (r : Fin 128) (j : Fin 32), ¬ (j = l ∧ ∃ k, k < count ∧ r = regUp d k) → t.g.vr r j = s.g.vr r j

/-- No vector, predicate or scalar register, scalar predicate or FPCTL has changed. -/
def RegistersKept (s t : State) : Prop :=
  t.g.v = s.g.v ∧ t.g.p = s.g.p ∧ t.g.s = s.g.s ∧ t.g.q = s.g.q ∧ t.g.fpctl = s.g.fpctl

/-- Memory holds the `n` low bytes of `x` at `a`, and reads as before everywhere else. -/
def Stored (s t : State) (a n x : Nat) : Prop :=
  (∀ k, k < n → t.mem.get (a + k) = BitVec.ofNat 8 (x / 256 ^ k)) ∧
    ∀ b, ¬ (a ≤ b ∧ b < a + n) → t.mem.get b = s.mem.get b

/-- The team's scratchpad holds the `n` low bytes of `x` at `a`, and reads as before everywhere else. -/
def ScratchStored (s t : State) (a n x : Nat) : Prop :=
  (∀ k, k < n → t.scrByte (a + k) = BitVec.ofNat 8 (x / 256 ^ k)) ∧
    ∀ b, ¬ (a ≤ b ∧ b < a + n) → t.scrByte b = s.scrByte b

/-- Nothing of the operation is left in flight: the group's operations are those of before, each window one shorter
(R143). -/
def NothingLeft (s t : State) : Prop :=
  t.g.ops = s.commit.g.ops.filter Op.isOpen

/-- Writing `n` bytes at `pa` cannot change the key map entry of `pb`, nor where the map stands (R358, R373). -/
def KeyMapApart (s : State) (pa n pb : Nat) : Prop :=
  ∀ k, k < n → ¬ (s.fcb + 72 ≤ pa + k ∧ pa + k < s.fcb + 80) ∧
    ∀ j, j < 128 → ¬ (s.rdRaw (s.fcb + 72) 8 + 2 * bitsAt (localOf (lineOf pb + j)) 16 23 ≤ pa + k ∧
      pa + k < s.rdRaw (s.fcb + 72) 8 + 2 * bitsAt (localOf (lineOf pb + j)) 16 23 + 2)

/-- The posted stores with these numbers are performed, one REGISTRATION_ACK each (R95, R96). -/
def Performed : State → List Nat → State → Prop
  | s, [], u => s = u
  | s, id :: r, u => ∃ v, exec (.registrationAck id) s = .next v ∧ Performed v r u

/-- Nothing that the group has issued holds back a new access: every operation in flight has bound or entered the L1, none is
numbered above the next number, no fault waits to be taken, and no posted store waits for a new walk (R98-R107, R345). -/
structure Idle (s : State) : Prop where
  fresh : ∀ o ∈ s.g.ops, o.id < s.nextId
  bound : ∀ o ∈ s.g.ops, o.unbound = false
  undrained : s.g.draining = false
  unmoved : ∀ e ∈ s.posted, e.moved = false

/-- One lane acts, at address `va`, on `n` bytes homed here. -/
structure OneLane (s : State) (i : Instr) (guard : BitVec 7) (l : Fin 32) (va : W64) (n : Nat) : Prop where
  runs : Runs s i guard
  one : s.actLanes guard = oneLane l
  aligned : va.toNat % n = 0
  idle : Idle s

/-- The same, on the scratchpad of the team: inside its bounds, without poison (R54, R120). -/
structure OneScratch (s : State) (i : Instr) (guard : BitVec 7) (l : Fin 32) (va : W64) (n : Nat) : Prop
    extends OneLane s i guard l va n where
  inside : va.toNat + n ≤ 1536 * s.t.rows ∧ va.toNat < 2 ^ 21
  clean : s.scrPoisoned va.toNat n = false

end Sys2Proof.Claims

namespace Sys2Proof.Claims

/-- The older scratchpad values that weak reads of the group may return (log 21) are some of those of before, for some of the
lanes. -/
def OldKept (s t : State) : Prop :=
  ∀ w ∈ t.g.old, ∃ x ∈ s.g.old, w.word = x.word ∧ w.val = x.val ∧ w.lanes &&& ~~~x.lanes = 0#32

/-- What a load may change beside the bookkeeping of its issue: its destination registers, LPCs, the operations in flight and
the L1. -/
def FrameLoad (s t : State) : Prop :=
  t = { s.commit with
        l1 := t.l1, nextId := t.nextId
        g := { s.commit.g with
          v := t.g.v, watch := t.g.watch, vbad := t.g.vbad, s := t.g.s, sbad := t.g.sbad, lpc := t.g.lpc, ops := t.g.ops
          old := t.g.old } } ∧
    t.g.p = s.g.p ∧ t.g.q = s.g.q ∧ t.g.fpctl = s.g.fpctl ∧ SameMemory s t ∧ OldKept s t

/-- What a read-modify-write or a store at the home may change beside that: memory, its key tags, the bytes that are no longer
unpredictable, the bytes open tiles count as touched, and that CELLCMD holds a new command. -/
def FrameStore (s t : State) : Prop :=
  t = { s.commit with
        mem := t.mem, tags := t.tags, hazes := t.hazes, cellTaken := t.cellTaken, tiles := t.tiles, l1 := t.l1
        nextId := t.nextId
        g := { s.commit.g with
          v := t.g.v, watch := t.g.watch, vbad := t.g.vbad, lpc := t.g.lpc, ops := t.g.ops, old := t.g.old } } ∧
    OldKept s t

/-- What a scratchpad word may change: the team's scratchpad and its poison, what waiting MMAs note of it, destination
registers, LPCs, operations in flight and, by an acquire, the L1. -/
def FrameScratch (s t : State) : Prop :=
  t = { s.commit with
        l1 := t.l1, nextId := t.nextId, mma := t.mma, engines := t.engines
        t := { s.t with scr := t.t.scr, scrPoison := t.t.scrPoison }
        g := { s.commit.g with
          v := t.g.v, watch := t.g.watch, vbad := t.g.vbad, s := t.g.s, sbad := t.g.sbad, lpc := t.g.lpc, ops := t.g.ops
          old := t.g.old } } ∧
    SameMemory s t ∧ OldKept s t

/-- The number a load reads: a weak or team-scope load sees the core's own view, a wider one the home (R95, R98). -/
def seen (s : State) (acc : Acc) (pa n : Nat) : Nat :=
  match acc with
  | .strong _ sc =>
    if dieUp sc then numAt s pa n else ofBytes ((List.range n).map fun k => s.coreByte s.t.core (pa + k))
  | .wk => ofBytes ((List.range n).map fun k => s.coreByte s.t.core (pa + k))

/-- The data of a store: `count` registers from `d` on, the first in the low bits (R219). -/
def regNum (g : Group) (l : Fin 32) (d : BitVec 7) : Nat → Nat
  | 0 => 0
  | k + 1 => regNum g l d k + (g.vr (regUp d k) l).toNat * 2 ^ (32 * k)

/-- A number of `w` bits, signed. -/
def signedOf (w x : Nat) : Int := if x < 2 ^ (w - 1) then (x : Int) else (x : Int) - 2 ^ w

/-- The function of an atomic on values of `w` bits (R225). -/
def atomSpec (op : AtomOp) (w old v : Nat) : Nat :=
  match op with
  | .add => (old + v) % 2 ^ w
  | .min => if signedOf w old ≤ signedOf w v then old else v
  | .max => if signedOf w old ≤ signedOf w v then v else old
  | .minU => min old v
  | .maxU => max old v
  | .and => old &&& v
  | .or => old ||| v
  | .xor => old ^^^ v
  | .swap => v
  | .fadd => (fAdd (if w = 64 then fmtF64 else fmtF32) .rne old v).1

/-- The number of `n` bytes of the team's scratchpad. -/
def scrNum (s : State) (a n : Nat) : Nat := ofBytes (s.scrBytes a n)

/-- The number a lane's scratchpad load reads: a weak one may find an older byte that its group keeps for every lane that reads
the word with it, for the word is read once (R56, R91, R273; log 21); every other byte is the scratchpad's. `readers` gives the
lanes of the load that read a word. -/
def scrSeen (s : State) (acc : Acc) (readers : Nat → Mask) (a n : Nat) : Nat :=
  match acc with
  | .strong _ _ => scrNum s a n
  | .wk => ofBytes ((List.range n).map fun k =>
      match s.g.old.find? fun w => w.word == (a + k) / 4 && readers ((a + k) / 4) &&& ~~~w.lanes == 0#32 with
      | some w => BitVec.ofNat 8 (w.val.toNat / 256 ^ ((a + k) % 4))
      | none => s.scrByte (a + k))

/-- A strong access of 16 bytes has made its half `h`: the operation stands, with its lane, that half's number in AUX and the
eight bytes it has read, as a number (R92). -/
def HalfHeld (s t : State) (i : Instr) (l : Fin 32) (h x : Nat) : Prop :=
  ∃ o : Op, t.g.ops = s.commit.g.ops.filter Op.isOpen ++ [o] ∧ o.instr = i ∧ o.pend = oneLane l ∧ o.fails = [] ∧
    (o.lanes[l]).aux.toNat = h + 1 ∧ ofBytes ((LaneOp.bytes (o.lanes[l])).take 8) = x

/-- Several lanes act, each at its own aligned address. -/
structure Lanes (s : State) (i : Instr) (guard : BitVec 7) (va : Fin 32 → W64) (n : Nat) : Prop where
  runs : Runs s i guard
  some_ : s.actLanes guard ≠ 0#32
  aligned : ∀ l : Fin 32, (s.actLanes guard).getLsbD l.val = true → (va l).toNat % n = 0
  idle : Idle s

/-- Each active lane's `n` bytes stand at a home here that nothing holds back, and no lane's write can change the key of
another's bytes, nor does the save region hold any (R330, R373). -/
structure LanesHeld (s : State) (m : Mask) (va : Fin 32 → W64) (a : Access) (pa : Fin 32 → Nat) (n : Nat) : Prop where
  held : ∀ l : Fin 32, m.getLsbD l.val = true → Held s (va l) a (pa l) ∧ Settled s (pa l) n
  outside : ∀ l : Fin 32, m.getLsbD l.val = true → ∀ k, k < n → s.inRegion (pa l + k) = false
  apart : ∀ l j : Fin 32, m.getLsbD l.val = true → m.getLsbD j.val = true → KeyMapApart s (pa l) n (pa j)

/-- Each active lane receives `count` registers from `d` on; every other register and lane is as it was. -/
def LanesRegisters (s t : State) (m : Mask) (d : BitVec 7) (count : Nat) (val : Fin 32 → Nat → W32) : Prop :=
  (∀ l : Fin 32, m.getLsbD l.val = true → ∀ k, k < count → t.g.vr (regUp d k) l = val l k) ∧
    ∀ (r : Fin 128) (j : Fin 32), ¬ (m.getLsbD j.val = true ∧ ∃ k, k < count ∧ r = regUp d k) → t.g.vr r j = s.g.vr r j

/-- What byte `b` holds after stores of `n` bytes at `at_`, one after another: the last that covers it wins. -/
def lastWrite (n : Nat) (at_ val : Fin 32 → Nat) (old : Byte) (b : Nat) : List (Fin 32) → Byte
  | [] => old
  | l :: r => lastWrite n at_ val (if at_ l ≤ b ∧ b < at_ l + n then BitVec.ofNat 8 (val l / 256 ^ (b - at_ l)) else old) b r

/-- Read-modify-writes of `n` bytes one after another (R111): the bytes afterwards, and what each has read. -/
def rmwFold (n : Nat) (f : Fin 32 → Nat → Nat) (at_ : Fin 32 → Nat) : List (Fin 32) → (Nat → Byte) →
    (Nat → Byte) × List (Fin 32 × Nat)
  | [], mem => (mem, [])
  | l :: r, mem =>
    let old := ofBytes ((List.range n).map fun k => mem (at_ l + k))
    let x := rmwFold n f at_ r fun b =>
      if at_ l ≤ b ∧ b < at_ l + n then BitVec.ofNat 8 (f l old / 256 ^ (b - at_ l)) else mem b
    (x.1, (l, old) :: x.2)

/-- A scalar-unit or group-level word acts once, on `n` aligned bytes at `va`. -/
structure OneForGroup (s : State) (i : Instr) (m : Mask) (va : W64) (n : Nat) : Prop where
  runs : Executes s i m
  some_ : m ≠ 0#32
  aligned : va.toNat % n = 0
  idle : Idle s

/-- A range of the team's scratchpad that the word may use. -/
structure ScratchRange (s : State) (va : W64) (n : Nat) : Prop where
  inside : va.toNat + n ≤ 1536 * s.t.rows ∧ va.toNat < 2 ^ 21
  clean : s.scrPoisoned va.toNat n = false

end Sys2Proof.Claims

/-- LDV, LDS and SLD without lookahead, one lane acting: the destination receives the bytes at the address, extended as the
word says, and the word leaves nothing in flight. A `.split` load whose bytes are in the L1 acts alike (R220, R222). A strong
load of 16 bytes is two accesses in no fixed order: the word makes one and holds its eight bytes (R92). -/
def Sys2Proof.Claims.LoadOneLane : Prop :=
  (∀ (s : State) (m : MLoad) (l : Fin 32) (pa : Nat), m.la = 0#4 →
    OneLane s (.ldv m) m.guard l (s.g.ea m.addr l) m.size.bytes → Held s (s.g.ea m.addr l) .load pa →
    Settled s pa m.size.bytes → s.corePoison s.t.core pa m.size.bytes = false →
    (m.split = true → s.inL1 s.t.core pa m.size.bytes (dieUp m.acc.scope) = true ∧ m.acc.isAcq = false) →
    ∃ t, exec (.ldv m) s = .next t ∧
      (if isHalved m.size.bytes m.acc then
         t.g.v = s.g.v ∧ ∃ h < 2, HalfHeld s t (.ldv m) l h (seen s m.acc (pa + 8 * h) 8)
       else
         LaneRegisters s t l m.d m.size.regs (loadedWord m.size m.sx (seen s m.acc pa m.size.bytes)) ∧ NothingLeft s t) ∧
      t.g.s = s.g.s ∧ Advances s t ∧ FrameLoad s t) ∧
  (∀ (s : State) (m : MLoad) (l : Fin 32), m.la = 0#4 →
    OneScratch s (.lds m) m.guard l (s.g.ea m.addr l) m.size.bytes →
    ∃ t, exec (.lds m) s = .next t ∧
      (if isHalved m.size.bytes m.acc then
         t.g.v = s.g.v ∧ ∃ h < 2, HalfHeld s t (.lds m) l h (scrNum s ((s.g.ea m.addr l).toNat + 8 * h) 8)
       else
         LaneRegisters s t l m.d m.size.regs
           (loadedWord m.size m.sx (scrSeen s m.acc (fun _ => oneLane l) (s.g.ea m.addr l).toNat m.size.bytes)) ∧ NothingLeft s t) ∧
      t.g.s = s.g.s ∧ Advances s t ∧ FrameLoad s t) ∧
  (∀ (s : State) (u : ULoad) (x : Nat), u.la = 0#4 → RunsU s (.sld u) u.q u.neg →
    (let va : W64 := s.g.sr64 (reg9 u.a) + u.disp.signExtend 64
     OneForGroup s (.sld u) s.iss.mask va u.size.bytes ∧
     if u.sp then ScratchRange s va u.size.bytes ∧ x = scrNum s va.toNat u.size.bytes
     else ∃ pa, Held s va .load pa ∧ Settled s pa u.size.bytes ∧ s.corePoison s.t.core pa u.size.bytes = false ∧
       x = seen s u.acc pa u.size.bytes) →
    ∃ t, exec (.sld u) s = .next t ∧
      ScalarResult s t u.d (if u.sx then (BitVec.ofNat (8 * u.size.bytes) x).signExtend 64 else BitVec.ofNat 64 x) ∧
      t.g.v = s.g.v ∧ NothingLeft s t ∧ Advances s t ∧ FrameLoad s t)

/-- LDV and LDS without lookahead in several lanes: every active lane receives the bytes at its own address, and a word of
scratchpad that several lanes name is read once for them all (R12, R56, R98, R220). -/
def Sys2Proof.Claims.LoadEachLane : Prop :=
  (∀ (s : State) (m : MLoad) (pa : Fin 32 → Nat), m.la = 0#4 → m.split = false → isHalved m.size.bytes m.acc = false →
    Lanes s (.ldv m) m.guard (s.g.ea m.addr) m.size.bytes →
    LanesHeld s (s.actLanes m.guard) (s.g.ea m.addr) .load pa m.size.bytes →
    (∀ l : Fin 32, (s.actLanes m.guard).getLsbD l.val = true → s.corePoison s.t.core (pa l) m.size.bytes = false ∧
      seen s m.acc (pa l) m.size.bytes = numAt s (pa l) m.size.bytes) →
    ∃ t, exec (.ldv m) s = .next t ∧
      LanesRegisters s t (s.actLanes m.guard) m.d m.size.regs
        (fun l => loadedWord m.size m.sx (numAt s (pa l) m.size.bytes)) ∧
      NothingLeft s t ∧ t.g.s = s.g.s ∧ Advances s t ∧ FrameLoad s t) ∧
  (∀ (s : State) (m : MLoad) (readers : Nat → Mask), m.la = 0#4 → isHalved m.size.bytes m.acc = false →
    Lanes s (.lds m) m.guard (s.g.ea m.addr) m.size.bytes →
    (∀ (w : Nat) (l : Fin 32), (readers w).getLsbD l.val = true ↔ (s.actLanes m.guard).getLsbD l.val = true ∧
      ∃ k, k < m.size.bytes ∧ ((s.g.ea m.addr l).toNat + k) / 4 = w) →
    (∀ l : Fin 32, (s.actLanes m.guard).getLsbD l.val = true → ScratchRange s (s.g.ea m.addr l) m.size.bytes) →
    ∃ t, exec (.lds m) s = .next t ∧
      LanesRegisters s t (s.actLanes m.guard) m.d m.size.regs
        (fun l => loadedWord m.size m.sx (scrSeen s m.acc readers (s.g.ea m.addr l).toNat m.size.bytes)) ∧
      NothingLeft s t ∧ t.g.s = s.g.s ∧ Advances s t ∧ FrameLoad s t)

/-- LDV, LDS and SLD, in one lane and in several (R12, R56, R92, R98, R219, R220, R222, R224). -/
def Obligations.LoadCompletes : Prop :=
  Claims.LoadOneLane ∧ Claims.LoadEachLane

/-- STV and a global SST post their bytes: one entry of the core for up to 8 bytes, two for 16, that cover exactly the store's
bytes; memory reads as before until REGISTRATION_ACK performs them, and then holds them (R92, R95, R96, R220, R222). -/
def Sys2Proof.Claims.StorePosts : Prop :=
  ∀ (s : State) (i : Instr) (va : W64) (pa n x : Nat) (release : Bool),
    ((∃ (m : MStore) (l : Fin 32), i = .stv m ∧ va = s.g.ea m.addr l ∧ n = m.size.bytes ∧
        OneLane s i m.guard l va n ∧ x = regNum s.g l m.d m.size.regs ∧ release = m.acc.isRelease) ∨
      (∃ u : UStore, i = .sst u ∧ u.sp = false ∧ Instr.wf i = true ∧ va = s.g.sr64 (reg9 u.a) + u.disp.signExtend 64 ∧
        n = u.size.bytes ∧ RunsU s i u.q u.neg ∧ OneForGroup s i s.iss.mask va n ∧ x = (s.g.sr64 (reg9 u.d)).toNat ∧
        release = u.acc.isRelease)) →
    Held s va .store pa →
    ∃ t ps, exec i s = .next t ∧ t.posted = s.posted ++ ps ∧
      (ps.flatMap fun e => e.bytes) = (List.range n).map (fun k => (pa + k, BitVec.ofNat 8 (x / 256 ^ k))) ∧
      (∀ e ∈ ps, e.core = s.t.core ∧ e.release = release ∧ e.bytes.length ≤ 8 ∧ s.nextId < e.id) ∧
      ps.length = (if n = 16 then 2 else 1) ∧
      RegistersKept s t ∧ Advances s t ∧ SameMemory s t ∧
      t = { s.commit with posted := t.posted, nextId := t.nextId, g := { s.commit.g with lpc := t.g.lpc, ops := t.g.ops } } ∧
      ∃ o : Op, t.g.ops = s.commit.g.ops.filter Op.isOpen ++ [o] ∧ o.instr = i ∧ o.sent = o.pend ∧
        (∀ e ∈ ps, e.part.1 = o.id) ∧
        (Settled s pa n → s.recalls = [] → KeyMapApart s pa n pa → (∀ e ∈ s.posted, e.id < s.nextId) →
          ∃ u, Performed t (ps.map fun e => e.id) u ∧ Stored s u pa n x)

/-- STV and STS in several lanes: the bytes of STV are posted in ascending lane order, so that, performed in their order, the
highest active lane's stand where lanes meet; STS writes so at once (R12, R98, R220). -/
def Sys2Proof.Claims.StoreLanesAscend : Prop :=
  (∀ (s : State) (m : MStore) (pa : Fin 32 → Nat),
    (let n := m.size.bytes
     let ls := lanesOf (s.actLanes m.guard)
     let x : Fin 32 → Nat := fun l => regNum s.g l m.d m.size.regs
     Lanes s (.stv m) m.guard (s.g.ea m.addr) n → LanesHeld s (s.actLanes m.guard) (s.g.ea m.addr) .store pa n →
     s.recalls = [] → (∀ e ∈ s.posted, e.id < s.nextId) →
     ∃ t ps, exec (.stv m) s = .next t ∧ t.posted = s.posted ++ ps ∧
       (ps.flatMap fun e => e.bytes) =
         (ls.flatMap fun l => (List.range n).map fun k => (pa l + k, BitVec.ofNat 8 (x l / 256 ^ k))) ∧
       ps.length = (if n = 16 then 2 else 1) * ls.length ∧ RegistersKept s t ∧ Advances s t ∧ SameMemory s t ∧
       ∃ u, Performed t (ps.map fun e => e.id) u ∧ ∀ b, u.mem.get b = lastWrite n pa x (s.mem.get b) b ls)) ∧
  (∀ (s : State) (m : MStore),
    (let n := m.size.bytes
     let ls := lanesOf (s.actLanes m.guard)
     Lanes s (.sts m) m.guard (s.g.ea m.addr) n → isHalved n m.acc = false → (∀ e ∈ s.posted, e.core ≠ s.t.core) →
     (m.acc.isRelease = true → cellUp m.acc.scope = true → s.recalls = []) →
     (∀ l : Fin 32, (s.actLanes m.guard).getLsbD l.val = true → (s.g.ea m.addr l).toNat + n ≤ 1536 * s.t.rows ∧
       (s.g.ea m.addr l).toNat < 2 ^ 21) →
     ∃ t, exec (.sts m) s = .next t ∧
       (∀ b, t.scrByte b = lastWrite n (fun l => (s.g.ea m.addr l).toNat) (fun l => regNum s.g l m.d m.size.regs)
         (s.scrByte b) b ls) ∧
       RegistersKept s t ∧ NothingLeft s t ∧ Advances s t ∧ FrameScratch s t))

/-- STS and a scratchpad SST write their bytes at once, and clear the poison of the words they cover whole; a release at die
scope or wider has first performed the core's writes, and one at cell or system scope has waited for every recall (R54, R95,
R103, R118, R122). A strong STS of 16 bytes is two accesses in no fixed order: the word makes one (R92). A lane's weak reads find
nothing older there any more (R99). -/
def Sys2Proof.Claims.ScratchStore : Prop :=
  ∀ (s : State) (i : Instr) (va : W64) (n x : Nat),
    (∀ e ∈ s.posted, e.core ≠ s.t.core) →
    ((∃ (m : MStore) (l : Fin 32), i = .sts m ∧ va = s.g.ea m.addr l ∧ n = m.size.bytes ∧
        OneLane s i m.guard l va n ∧ x = regNum s.g l m.d m.size.regs ∧
        (m.acc.isRelease = true → cellUp m.acc.scope = true → s.recalls = [])) ∨
      (∃ u : UStore, i = .sst u ∧ u.sp = true ∧ (u.acc.isRelease = true → cellUp u.acc.scope = true → s.recalls = []) ∧
        Instr.wf i = true ∧ va = s.g.sr64 (reg9 u.a) + u.disp.signExtend 64 ∧ n = u.size.bytes ∧ RunsU s i u.q u.neg ∧ OneForGroup s i s.iss.mask va n ∧ x = (s.g.sr64 (reg9 u.d)).toNat)) →
    va.toNat + n ≤ 1536 * s.t.rows ∧ va.toNat < 2 ^ 21 →
    ∃ t, exec i s = .next t ∧
      (let wrote (a k y : Nat) : Prop := ScratchStored s t a k y ∧
         ∀ w, w ∈ t.t.scrPoison ↔ w ∈ s.t.scrPoison ∧ ¬ (a ≤ 4 * w ∧ 4 * w + 4 ≤ a + k)
       let halved : Prop := ∃ m : MStore, i = .sts m ∧ isHalved n m.acc = true
       (halved →
         ∃ h < 2, wrote (va.toNat + 8 * h) 8 (x / 2 ^ (64 * h)) ∧
           ∃ o : Op, t.g.ops = s.commit.g.ops.filter Op.isOpen ++ [o] ∧ o.instr = i ∧ o.pend = o.active ∧ o.fails = [] ∧
             (o.lanes[lowLane o.pend]).aux.toNat = h + 1) ∧
       (¬ halved → wrote va.toNat n x ∧ NothingLeft s t)) ∧
      (∀ w ∈ t.g.old, va.toNat < 4 * w.word + 4 → 4 * w.word < va.toNat + n →
        (∀ u : UStore, i = .sst u → w.lanes = 0#32) ∧
        ∀ (m : MStore) (l : Fin 32), i = .sts m → s.actLanes m.guard = oneLane l → w.lanes.getLsbD l.val = false) ∧
      RegistersKept s t ∧ Advances s t ∧ FrameScratch s t

/-- Stores to memory, posted, and to scratchpad, at once, in ascending lane order (R12, R92, R95, R96, R98, R118, R122, R220, R222). -/
def Obligations.StoresComplete : Prop :=
  Claims.StorePosts ∧ Claims.StoreLanesAscend ∧ Claims.ScratchStore

/-- ATOM, RED and CASW by one lane on bytes homed here: memory holds the new value at the address and is unchanged elsewhere;
ATOM and CASW return the old one (R111, R225, R227). -/
def Sys2Proof.Claims.AtomicCompletes : Prop :=
  ∀ (s : State) (i : Instr) (guard d : BitVec 7) (l : Fin 32) (va : W64) (pa n new : Nat) (returns : Bool),
    ((∃ m : MAtom, (i = .atom m ∧ returns = true ∧ m.la = 0#4 ∨ i = .red m ∧ returns = false) ∧ guard = m.guard ∧ d = m.d ∧
        va = s.g.ea m.addr l ∧ n = (if m.wide8 then 8 else 4) ∧
        new = atomSpec m.op (8 * n) (numAt s pa n) (regNum s.g l m.e (n / 4)) % 2 ^ (8 * n)) ∨
      (∃ m : MCasw, i = .casw m ∧ returns = true ∧ m.la = 0#4 ∧ guard = m.guard ∧ d = m.d ∧ va = s.g.ea m.addr l ∧
        n = (if m.wide32 then 32 else 16) ∧
        new = if numAt s pa n = regNum s.g l m.e (n / 4) then regNum s.g l m.e (n / 2) / 2 ^ (8 * n) else numAt s pa n)) →
    OneLane s i guard l va n → Held s va .store pa → Settled s pa n → s.recalls = [] →
    ∃ t, exec i s = .next t ∧ Stored s t pa n new ∧
      (if returns then LaneRegisters s t l d (n / 4) (fun k => BitVec.ofNat 32 (numAt s pa n / 2 ^ (32 * k)))
       else t.g.v = s.g.v) ∧
      t.g.p = s.g.p ∧ t.g.s = s.g.s ∧ t.g.q = s.g.q ∧ NothingLeft s t ∧ Advances s t ∧ FrameStore s t

/-- ATOMS by one lane: the scratchpad holds the new value, and the old one is returned (R225, R226). -/
def Sys2Proof.Claims.ScratchAtomicCompletes : Prop :=
  ∀ (s : State) (m : MAtom) (l : Fin 32), m.la = 0#4 → (∀ e ∈ s.posted, e.core ≠ s.t.core) →
    (m.kind.releases = true → cellUp m.scope = true → s.recalls = []) →
    (let n := if m.wide8 then 8 else 4
     let a := (s.g.ea m.addr l).toNat
     OneScratch s (.atoms m) m.guard l (s.g.ea m.addr l) n →
     ∃ t, exec (.atoms m) s = .next t ∧
       ScratchStored s t a n (atomSpec m.op (8 * n) (scrNum s a n) (regNum s.g l m.e (n / 4))) ∧
       LaneRegisters s t l m.d (n / 4) (fun k => BitVec.ofNat 32 (scrNum s a n / 2 ^ (32 * k))) ∧
       t.g.p = s.g.p ∧ t.g.s = s.g.s ∧ t.g.q = s.g.q ∧ NothingLeft s t ∧ Advances s t ∧ FrameScratch s t)

/-- ATOM, RED and ATOMS in several lanes: the lanes act in ascending order, so that a lane reads what the lanes below it have
written to its bytes (R12, R111, R225). -/
def Sys2Proof.Claims.AtomicLanesFold : Prop :=
  (∀ (s : State) (m : MAtom) (i : Instr) (pa : Fin 32 → Nat),
    (i = .atom m ∧ m.la = 0#4 ∨ i = .red m) →
    (let n := if m.wide8 then 8 else 4
     let r := rmwFold n (fun l old => atomSpec m.op (8 * n) old (regNum s.g l m.e (n / 4))) pa
       (lanesOf (s.actLanes m.guard)) s.mem.get
     Lanes s i m.guard (s.g.ea m.addr) n → LanesHeld s (s.actLanes m.guard) (s.g.ea m.addr) .store pa n → s.recalls = [] →
     ∃ t, exec i s = .next t ∧ (∀ b, t.mem.get b = r.1 b) ∧
       (if i = .atom m then
          (∀ x ∈ r.2, ∀ k, k < n / 4 → t.g.vr (regUp m.d k) x.1 = BitVec.ofNat 32 (x.2 / 2 ^ (32 * k))) ∧
          ∀ (q : Fin 128) (j : Fin 32), ¬ ((s.actLanes m.guard).getLsbD j.val = true ∧ ∃ k, k < n / 4 ∧ q = regUp m.d k) →
            t.g.vr q j = s.g.vr q j
        else t.g.v = s.g.v) ∧
       t.g.p = s.g.p ∧ t.g.s = s.g.s ∧ t.g.q = s.g.q ∧ NothingLeft s t ∧ Advances s t ∧ FrameStore s t)) ∧
  (∀ (s : State) (m : MAtom), m.la = 0#4 → (∀ e ∈ s.posted, e.core ≠ s.t.core) →
    (m.kind.releases = true → cellUp m.scope = true → s.recalls = []) →
    (let n := if m.wide8 then 8 else 4
     let r := rmwFold n (fun l old => atomSpec m.op (8 * n) old (regNum s.g l m.e (n / 4))) (fun l => (s.g.ea m.addr l).toNat)
       (lanesOf (s.actLanes m.guard)) s.scrByte
     Lanes s (.atoms m) m.guard (s.g.ea m.addr) n →
     (∀ l : Fin 32, (s.actLanes m.guard).getLsbD l.val = true → ScratchRange s (s.g.ea m.addr l) n) →
     ∃ t, exec (.atoms m) s = .next t ∧ (∀ b, t.scrByte b = r.1 b) ∧
       (∀ x ∈ r.2, ∀ k, k < n / 4 → t.g.vr (regUp m.d k) x.1 = BitVec.ofNat 32 (x.2 / 2 ^ (32 * k))) ∧
       (∀ (q : Fin 128) (j : Fin 32), ¬ ((s.actLanes m.guard).getLsbD j.val = true ∧ ∃ k, k < n / 4 ∧ q = regUp m.d k) →
         t.g.vr q j = s.g.vr q j) ∧
       t.g.p = s.g.p ∧ t.g.s = s.g.s ∧ t.g.q = s.g.q ∧ NothingLeft s t ∧ Advances s t ∧ FrameScratch s t))

/-- ATOM, RED and CASW at a home of this package, and ATOMS in scratchpad, the lanes in ascending order (R12, R111, R225-R227). -/
def Obligations.AtomicsComplete : Prop :=
  Claims.AtomicCompletes ∧ Claims.ScratchAtomicCompletes ∧ Claims.AtomicLanesFold

namespace Sys2Proof.Claims

/-- Die `die` holds the translation of `va` in a context for an access of this kind: looking it up gives `pb` (R338, R340). -/
def HeldAtDie (s : State) (die : Nat) (ctx : BitVec 10) (va : W64) (a : Access) (pb : Nat) : Prop :=
  canonical va = true ∧ ∃ l : Leaf, s.tlbFind [.die die] ctx (vaNum va) = some l ∧ s.useLeaf l (vaNum va) a = .ok s pb

/-- The home die of `pa` holds the translation of `va` for an access of this kind. -/
def HeldAtHome (s : State) (pa : Nat) (va : W64) (a : Access) (pb : Nat) : Prop := HeldAtDie s (homeDie pa) s.t.ctx va a pb

/-- The rest of a chain with `left` further steps, from pointer `p` read at die `die` (read 0 at the core): every read is
aligned, translated and served where it stands, each step takes the masked word as the next pointer, and the last read
gives `x` (R230, R231). -/
def ChainPath (s : State) (rec_ : List W64) : Nat → W64 → Option Nat → Nat → Prop
  | 0, p, at_, x =>
    let a := p + chainFinalOffset rec_
    let n := (chainSize rec_).bytes
    ∃ pa, (match at_ with
        | none => Held s a .load pa
        | some prev => HeldAtHome s prev a .step pa) ∧
      a.toNat % n = 0 ∧ Settled s pa n ∧ x = numAt s pa n
  | left + 1, p, at_, x =>
    let k := chainSteps rec_ - (left + 1)
    let a := p + chainOffset rec_ k
    ∃ pa, (match at_ with
        | none => Held s a .load pa
        | some prev => HeldAtHome s prev a .step pa) ∧
      a.toNat % 8 = 0 ∧ Settled s pa 8 ∧
      ChainPath s rec_ left (BitVec.ofNat 64 (numAt s pa 8) &&& chainMask rec_ k) (some pa) x

end Sys2Proof.Claims

/-- ENQ by one lane at a header homed here: the old tail is returned; a null node changes nothing; an empty queue takes the
node as head and tail; otherwise the tail becomes the node, and the old tail's link, where its home holds the translation,
points to it (R228). -/
def Sys2Proof.Claims.EnqueueCompletes : Prop :=
  ∀ (s : State) (m : MEnq) (l : Fin 32) (pa : Nat), m.la = 0#4 → OneLane s (.enq m) m.guard l (s.g.ea m.addr l) 16 →
    Held s (s.g.ea m.addr l) .store pa → Settled s pa 16 → s.recalls = [] →
    (let node := s.g.vpair m.e l
     let old := numAt s (pa + 8) 8
     let link := BitVec.ofNat 64 old + BitVec.ofNat 64 (8 * m.link.toNat)
     (node.toNat + 8 * m.link.toNat) % 8 = 0 →
     (node ≠ 0#64 → old ≠ 0 → link.toNat % 8 = 0 ∧ ∃ lpa, HeldAtHome s pa link .store lpa ∧ Settled s lpa 8 ∧
       KeyMapApart s (pa + 8) 8 lpa ∧ (lpa + 8 ≤ pa ∨ pa + 16 ≤ lpa)) →
     ∃ t, exec (.enq m) s = .next t ∧
       LaneRegisters s t l m.d 2 (fun k => BitVec.ofNat 32 (old / 2 ^ (32 * k))) ∧
       (if node = 0#64 then SameMemory s t
        else if old = 0 then Stored s t pa 16 (node.toNat + 2 ^ 64 * node.toNat)
        else ∀ lpa, HeldAtHome s pa link .store lpa →
          (∀ k, k < 8 → t.mem.get (pa + 8 + k) = BitVec.ofNat 8 (node.toNat / 256 ^ k) ∧
            t.mem.get (lpa + k) = BitVec.ofNat 8 (node.toNat / 256 ^ k)) ∧
          ∀ b, ¬ (pa + 8 ≤ b ∧ b < pa + 16) → ¬ (lpa ≤ b ∧ b < lpa + 8) → t.mem.get b = s.mem.get b) ∧
       t.g.p = s.g.p ∧ t.g.s = s.g.s ∧ t.g.q = s.g.q ∧ NothingLeft s t ∧ Advances s t ∧ FrameStore s t)

/-- CHLD by one lane: the pointers are followed from read to read, and the destination receives the last datum; nothing in
memory changes (R230, R231). -/
def Sys2Proof.Claims.ChainCompletes : Prop :=
  ∀ (s : State) (m : MChld) (l : Fin 32) (x : Nat), m.la = 0#4 → OneLane s (.chld m) m.guard l 0#64 1 →
    chainOk (s.g.sr64 (sreg7 m.e)) m.d s.g.n = true → s.g.badChain m.e = none →
    (s.g.sbad.any fun b => b.1 == m.e.toNat) = false →
    (let rec_ := s.g.chainRecord m.e
     ChainPath s rec_ (chainSteps rec_) (s.g.ea m.addr l) none x →
     ∃ t, exec (.chld m) s = .next t ∧
       LaneRegisters s t l m.d (chainSize rec_).regs (loadedWord (chainSize rec_) false x) ∧
       t.g.s = s.g.s ∧ NothingLeft s t ∧ Advances s t ∧ FrameLoad s t)

/-- ENQ and CHLD: the queue's links and the followed pointers (R228, R230, R231). -/
def Obligations.QueueAndChain : Prop :=
  Claims.EnqueueCompletes ∧ Claims.ChainCompletes

/-- PREFETCH changes no register and no byte of memory; FENCE changes none either and holds the group's later memory words
until every write it awaits is performed (R109, R221, R236). -/
def Obligations.PrefetchAndFence : Prop :=
  (∀ (s : State) (m : MPrefetch), Runs s (.prefetch m) m.guard →
    ∃ t, exec (.prefetch m) s = .next t ∧ RegistersKept s t ∧ SameMemory s t ∧ Advances s t ∧ t.posted = s.posted ∧
      t.t = s.t ∧ t.teams = s.teams) ∧
  (∀ (s : State) (g : GFence), Runs s (.fence g) g.guard →
    ∃ t, exec (.fence g) s = .next t ∧ RegistersKept s t ∧ SameMemory s t ∧ Advances s t ∧
      (s.actLanes g.guard = 0#32 → t.g.fence = s.g.fence ∧ t.due = s.due) ∧
      (s.actLanes g.guard ≠ 0#32 →
        t.g.fence = some (g.scope, (s.posted.filter fun e => e.core == s.t.core).map fun e => e.id) ∧
        t.due = s.due ++ [.fenceComplete ⟨s.t.tid, s.g.id⟩] ∧
        t.memoryReady = false ∧ ∀ i, Instr.isMemory i = true → t.wordReady i = false) ∧
      t = { s.commit with due := t.due, g := { s.commit.g with lpc := t.g.lpc, fence := t.g.fence } })

/-- STC and ACP by one lane: STC posts its bytes and one decrement that goes after every write the core has pending; ACP is
accepted as one command whose counter addition is the bytes copied; no register and no byte of memory changes yet (R113,
R229, R238). -/
def Obligations.CountedTransfers : Prop :=
  (∀ (s : State) (m : MStc) (l : Fin 32) (pa cpa : Nat), OneLane s (.stc m) m.guard l (s.g.ea m.addr l) m.size.bytes →
    Held s (s.g.ea m.addr l) .store pa → (s.g.sr64 (sreg7 m.e)).toNat % 8 = 0 →
    Held s (s.g.sr64 (sreg7 m.e)) .store cpa →
    ∃ t ps c, exec (.stc m) s = .next t ∧ t.posted = s.posted ++ ps ∧ t.stcs = s.stcs ++ [c] ∧
      (ps.flatMap fun e => e.bytes) = (List.range m.size.bytes).map
        (fun k => (pa + k, BitVec.ofNat 8 (regNum s.g l m.d m.size.regs / 256 ^ k))) ∧
      c.amount = m.size.bytes ∧ c.ctr = s.g.sr64 (sreg7 m.e) ∧ c.ctx = s.t.ctx ∧ c.lane = l.val ∧
      (∀ e ∈ t.posted, e.core = s.t.core → e.id ∈ c.after) ∧
      RegistersKept s t ∧ SameMemory s t ∧ Advances s t) ∧
  (∀ (s : State) (m : MAcp) (l : Fin 32) (pa cpa : Nat), OneLane s (.acp m) m.guard l (s.g.ea m.addr l) m.size.bytes →
    Held s (s.g.ea m.addr l) (if m.toGlobal then .store else .load) pa →
    (let a := (s.g.vr (reg7 m.d) l).toNat
     let ctr := s.g.sr64 (sreg7 m.e)
     a % m.size.bytes = 0 → a + m.size.bytes ≤ 1536 * s.t.rows → a < 2 ^ 21 → ctr.toNat % 8 = 0 →
     (if m.sp then ctr.toNat + 8 ≤ 1536 * s.t.rows ∧ ctr.toNat < 2 ^ 21 else Held s ctr .store cpa) →
     ∃ t c, exec (.acp m) s = .next t ∧ t.acps = s.acps ++ [c] ∧ c.moves = [⟨l, some pa, a⟩] ∧ c.toGlobal = m.toGlobal ∧
       c.total = m.size.bytes ∧ c.ctr = ctr ∧ c.ctrSp = m.sp ∧ c.scope = m.scope ∧ c.behind = [] ∧ c.clear = false ∧
       c.after = (s.posted.filter fun e => e.core == s.t.core).map (fun e => e.id) ∧
       RegistersKept s t ∧ SameMemory s t ∧ Advances s t ∧
       NothingLeft s t ∧
       t = { s.commit with
             acps := t.acps, nextId := t.nextId, g := { s.commit.g with lpc := t.g.lpc, ops := t.g.ops } }))

/-- CINC, CDEC and CREAD of a counter homed here or in scratchpad: one addition or one read for the group, however many lanes
are active (R235, R237). -/
def Sys2Proof.Claims.CounterWords : Prop :=
  (∀ (s : State) (g : GCtr) (i : Instr) (delta : Int),
    (i = .cinc g ∧ delta = ((s.g.sr64 (sreg7 g.e)).toNat : Int) ∨ i = .cdec g ∧ delta = -((s.g.sr64 (sreg7 g.e)).toNat : Int)) →
    OneForGroup s i (s.actLanes g.guard) (s.g.sr64 (sreg7 g.a)) 8 → (∀ e ∈ s.posted, e.core ≠ s.t.core) →
    (let va := s.g.sr64 (sreg7 g.a)
     (g.sp = true → ScratchRange s va 8 → (g.kind.releases = true → cellUp g.scope = true → s.recalls = []) →
       ∃ t, exec i s = .next t ∧
         ScratchStored s t va.toNat 8 (((scrNum s va.toNat 8 : Int) + delta) % 2 ^ 64).toNat ∧
         RegistersKept s t ∧ NothingLeft s t ∧ Advances s t ∧ FrameScratch s t) ∧
     (∀ pa, g.sp = false → Held s va .store pa → Settled s pa 8 → s.recalls = [] → (∀ x ∈ s.triggers, x.addr ≠ pa) →
       ∃ t, exec i s = .next t ∧ Stored s t pa 8 (((numAt s pa 8 : Int) + delta) % 2 ^ 64).toNat ∧
         RegistersKept s t ∧ NothingLeft s t ∧ Advances s t ∧ FrameStore s t))) ∧
  (∀ (s : State) (g : GRead) (x : Nat), g.la = 0#4 →
    OneForGroup s (.cread g) (s.actLanes g.guard) (s.g.sr64 (sreg7 g.a)) 8 →
    (let va := s.g.sr64 (sreg7 g.a)
     if g.sp then ScratchRange s va 8 ∧ x = scrNum s va.toNat 8
     else ∃ pa, Held s va .load pa ∧ Settled s pa 8 ∧ s.corePoison s.t.core pa 8 = false ∧
       x = seen s (.strong g.kind g.scope) pa 8) →
    ∃ t, exec (.cread g) s = .next t ∧
      (∀ r : Fin 512, t.g.sr64 r = if r = sreg7 g.d then BitVec.ofNat 64 x else s.g.sr64 r) ∧
      t.g.v = s.g.v ∧ NothingLeft s t ∧ Advances s t ∧ FrameLoad s t)

/-- CWAIT: a counter at or above the operand lets the issuing lanes advance and acquires at its scope; below it the group waits
at the word, and no lane moves (R237). -/
def Sys2Proof.Claims.CounterWait : Prop :=
  ∀ (s : State) (g : GCtr) (x : Nat), OneForGroup s (.cwait g) (s.actLanes g.guard) (s.g.sr64 (sreg7 g.a)) 8 →
    (let va := s.g.sr64 (sreg7 g.a)
     let goal := s.g.sr64 (sreg7 g.e)
     (if g.sp then ScratchRange s va 8 ∧ x = scrNum s va.toNat 8
      else ∃ pa, Held s va .load pa ∧ Settled s pa 8 ∧ s.corePoison s.t.core pa 8 = false ∧
        x = seen s (.strong .st g.scope) pa 8) →
     ∃ t, exec (.cwait g) s = .next t ∧ RegistersKept s t ∧ SameMemory s t ∧
       if goal.toNat ≤ x then
         t.g.status = .running ∧ Advances s t ∧ (dieUp g.scope = true → ∀ w ∈ t.l1, w.core = s.t.core → w.reg = true)
       else t.g.status = .cwait (.cwait g) s.iss.mask va goal ∧ t.g.lpc = s.g.lpc)

/-- BINIT, BARRIVE and BWAIT of a barrier in the team's scratchpad: BINIT writes arrivals 0, the two halves of its operand and
generation part 0, as two accesses of 8 bytes in no fixed order, of which the word makes one and holds the other (R92); BARRIVE
returns the generation, counts one arrival and, at the expected number, starts the next generation; BWAIT passes when its target
is at most 2^31 - 1 behind the generation (R239). -/
def Obligations.BarrierWords : Prop :=
  (∀ (s : State) (g : GBar), OneForGroup s (.binit g) (s.actLanes g.guard) (s.g.sr64 (sreg7 g.a)) 16 →
    (let va := s.g.sr64 (sreg7 g.a)
     va.toNat + 16 ≤ 1536 * s.t.rows → va.toNat < 2 ^ 21 →
     let x := 2 ^ 32 * (s.g.sr64 (sreg7 g.e)).toNat
     ∃ t, ∃ h < 2, exec (.binit g) s = .next t ∧ ScratchStored s t (va.toNat + 8 * h) 8 (x / 2 ^ (64 * h)) ∧
       (∀ w, w ∈ t.t.scrPoison ↔ w ∈ s.t.scrPoison ∧ ¬ (va.toNat + 8 * h ≤ 4 * w ∧ 4 * w + 4 ≤ va.toNat + 8 * h + 8)) ∧
       (∃ o : Op, t.g.ops = s.commit.g.ops.filter Op.isOpen ++ [o] ∧ o.instr = .binit g ∧ o.pend = s.actLanes g.guard ∧
         o.fails = [] ∧ (o.lanes[lowLane o.pend]).addr = va ∧ (o.lanes[lowLane o.pend]).aux.toNat = h + 1 ∧
         ofBytes (LaneOp.bytes (o.lanes[lowLane o.pend])) = x) ∧
       RegistersKept s t ∧ Advances s t ∧ FrameScratch s t)) ∧
  (∀ (s : State) (g : GArrive), OneForGroup s (.barrive g) (s.actLanes g.guard) (s.g.sr64 (sreg7 g.a)) 16 →
    ScratchRange s (s.g.sr64 (sreg7 g.a)) 16 →
    (let a := (s.g.sr64 (sreg7 g.a)).toNat
     let arrived := (scrNum s a 4 + 1) % 2 ^ 32
     let expected := scrNum s (a + 4) 4
     let gen := scrNum s (a + 8) 4
     ∃ t, exec (.barrive g) s = .next t ∧
       (∀ r : Fin 512, t.g.sr64 r = if r = sreg7 g.d then BitVec.ofNat 64 gen else s.g.sr64 r) ∧
       (if expected ≤ arrived then
          ScratchStored s t a 12 (2 ^ 32 * expected + 2 ^ 64 * ((gen + 1) % 2 ^ 32))
        else ScratchStored s t a 4 arrived) ∧
       t.g.v = s.g.v ∧ t.g.p = s.g.p ∧ t.g.q = s.g.q ∧ NothingLeft s t ∧ Advances s t ∧ FrameScratch s t)) ∧
  (∀ (s : State) (g : GBar), OneForGroup s (.bwait g) (s.actLanes g.guard) (s.g.sr64 (sreg7 g.a)) 16 →
    ScratchRange s (s.g.sr64 (sreg7 g.a)) 16 →
    (let a := (s.g.sr64 (sreg7 g.a)).toNat
     let goal := (s.g.sr64 (sreg7 g.e)).toNat % 2 ^ 32
     let gen := scrNum s (a + 8) 4
     ∃ t, exec (.bwait g) s = .next t ∧ RegistersKept s t ∧ SameMemory s t ∧
       if (gen + 2 ^ 32 - goal) % 2 ^ 32 < 2 ^ 31 then t.g.status = .running ∧ Advances s t
       else t.g.status = .bwait (.bwait g) s.iss.mask (s.g.sr64 (sreg7 g.a)) (BitVec.ofNat 32 goal) ∧ t.g.lpc = s.g.lpc))

/-- GROW and SHRINK: a GROW to no more than the group has, or to what the core's 256 blocks allow while none waits, succeeds at
once, keeps every register below the old count, and sets its predicate; what new registers hold is free (log 8). Any other
GROW waits at the word. A SHRINK releases registers at once where no write in flight targets them, and otherwise waits for
that (R42, R240). -/
def Obligations.RegisterAllocation : Prop :=
  (∀ (s : State) (g : GGrow), Runs s (.grow g) g.guard → s.actLanes g.guard ≠ 0#32 →
    (let n := 16 * (g.n3.toNat + 1)
     ∃ t, exec (.grow g) s = .next t ∧ t.g.s = s.g.s ∧ t.g.p = s.g.p ∧ t.g.fpctl = s.g.fpctl ∧ SameMemory s t ∧
       (∀ (r : Fin 128) (l : Fin 32), r.val < s.g.n → t.g.vr r l = s.g.vr r l) ∧
       t = { s.commit with
             blockOwner := t.blockOwner, nextId := t.nextId
             g := { s.commit.g with
               n := t.g.n, v := t.g.v, q := t.g.q, lpc := t.g.lpc, status := t.g.status, blocks := t.g.blocks } } ∧
       if n ≤ s.g.n ∨ (s.commit.growWaiting s.t.core = false ∧ s.commit.usedBlocks s.t.core + (n - s.g.n) / 16 ≤ 256) then
         t.g.n = max s.g.n n ∧ ScalarTest s t g.q true ∧ Advances s t
       else t.g.n = s.g.n ∧ t.g.q = s.g.q ∧ t.g.lpc = s.g.lpc ∧
         ∃ since, t.g.status = .grow s.iss.mask n g.q since)) ∧
  (∀ (s : State) (g : GShrink), Runs s (.shrink g) g.guard → s.actLanes g.guard ≠ 0#32 →
    (let n := 16 * (g.n3.toNat + 1)
     ∃ t, exec (.shrink g) s = .next t ∧ RegistersKept s t ∧ SameMemory s t ∧ Advances s t ∧
       t = { s.commit with
             due := t.due
             g := { s.commit.g with n := t.g.n, lpc := t.g.lpc, shrinkTo := t.g.shrinkTo, blocks := t.g.blocks } } ∧
       if s.g.n ≤ n then t.g.n = s.g.n ∧ t.g.shrinkTo = s.g.shrinkTo
       else if s.commit.g.clearAbove n then t.g.n = n ∧ t.due = s.due ++ [.growGrant s.t.core]
       else t.g.n = s.g.n ∧ t.g.shrinkTo = some n))

/-! ### Special registers (02 R50-R52; 06 R187; 13 R299, R300) and lookahead (05 R143, R144) -/

namespace Sys2Proof.Claims

/-- The scalar-class selectors and what each reads, for a group whose grid is `gr` (R50, R299). -/
def specials (s : State) (gr : Grid) : List (BitVec 8 × Nat) :=
  [(0x00#8, s.g.id), (0x01#8, s.t.x.toNat), (0x02#8, s.t.y.toNat), (0x03#8, s.t.z.toNat), (0x04#8, s.t.groupCount),
   (0x05#8, s.t.grid), (0x06#8, gr.record.ex), (0x07#8, gr.record.ey), (0x08#8, gr.record.ez), (0x09#8, gr.nest),
   (0x0A#8, s.t.core), (0x0B#8, s.g.quad), (0x0C#8, s.t.core / 48), (0x0D#8, s.pkg), (0x0E#8, s.g.cell.toNat),
   (0x0F#8, s.cycle.toNat), (0x10#8, s.g.n), (0x11#8, 1536 * s.t.rows), (0x12#8, s.g.gangr.toNat),
   (0x13#8, s.g.fpctl.toNat), (0x14#8, s.iss.mask.toNat), (0x15#8, s.g.runnable.toNat), (0x16#8, s.g.exited.toNat),
   (0x17#8, s.iss.yieldm.toNat)]

/-- The privileged selectors and what each reads (R299, R300): bit 63 of CTXCTL while a command waits or runs. -/
def privileges (s : State) : List (BitVec 8 × Nat) :=
  [(0x80#8, s.ctxtab.toNat), (0x81#8, s.t.ctx.toNat), (0x82#8, s.supctx.toNat),
   (0x83#8, if s.ctxctlQueue = [] then s.ctxctlStatus.toNat else 2 ^ 63), (0x84#8, s.trapseq.toNat)]

/-- A vector-class selector's value in a lane. -/
def laneValue (s : State) (sel : BitVec 8) (l : Fin 32) : W32 :=
  if sel = 0x40#8 then BitVec.ofNat 32 l.val
  else if sel = 0x41#8 then s.g.lpc[l]
  else if sel = 0x42#8 then (s.g.dep[l]).zeroExtend 32
  else s.g.sr[l]

/-- A lookahead window is open (R143): nothing has been bound, the issuing lanes have gone on, and one operation holds the
addresses of the active lanes and the number of words that may pass it. -/
def WindowOpens (s t : State) (i : Instr) (m : Mask) (la : BitVec 4) (addr : Fin 32 → W64) : Prop :=
  RegistersKept s t ∧ SameMemory s t ∧ Advances s t ∧
    ∃ o : Op, t = { s.commit with
        nextId := s.nextId + 2, g := { s.commit.g with lpc := t.g.lpc, ops := s.commit.g.ops ++ [o] } } ∧
      o.id = s.nextId + 1 ∧ o.instr = i ∧ o.active = m ∧ o.pend = m ∧ o.win = la.toNat ∧ o.fails = [] ∧ o.parked = 0#32 ∧
      ∀ l : Fin 32, m.getLsbD l.val = true → (o.lanes[l]).addr = addr l

end Sys2Proof.Claims

/-- SREAD reads every scalar-class and vector-class selector, and the privileged ones in the supervisor context; elsewhere a
privileged selector is the illegal-instruction fault. SREAD.W exchanges: FPCTL keeps its defined bits, CTXTAB reads 0 in bits
[17:0], SUPCTX has ten bits, CTXCTL takes a command (R46, R50, R51, R187, R299, R300). -/
def Sys2Proof.Claims.SpecialRegisters : Prop :=
  (∀ (s : State) (u : URead) (gr : Grid) (x : Nat), s.myGrid = some gr →
    ((u.sel, x) ∈ specials s gr ∨ (u.sel, x) ∈ privileges s ∧ s.t.ctx = s.supctx) → RunsU s (.sread u) u.q u.neg →
    ∃ t, exec (.sread u) s = .next t ∧ ScalarResult s t u.d (BitVec.ofNat 64 x) ∧ t.g.q = s.g.q ∧
      t.g.fpctl = s.g.fpctl ∧ Advances s t ∧ FrameScalar s t) ∧
  (∀ (s : State) (u : URead), 0x40 ≤ u.sel.toNat → u.sel.toNat ≤ 0x43 → RunsU s (.sread u) u.q u.neg →
    ∃ t, exec (.sread u) s = .next t ∧
      LaneResult s t (~~~s.g.exited) (u.d.extractLsb' 0 7) (fun l x => x = laneValue s u.sel l) ∧
      Advances s t ∧ FrameVector s t) ∧
  (∀ (s : State) (u : UReadW) (x : Nat), RunsU s (.sreadW u) u.q u.neg →
    (u.sel = 0x13#8 ∧ x = s.g.fpctl.toNat ∨
      (u.sel, x) ∈ privileges s ∧ s.t.ctx = s.supctx ∧ writableSel u.sel = true) →
    ∃ t, exec (.sreadW u) s = .next t ∧ ScalarResult s t u.d (BitVec.ofNat 64 x) ∧ Advances s t ∧
      (let a := s.g.sr64 (reg9 u.a)
       t.g.fpctl.toNat = (if u.sel = 0x13#8 then a.toNat &&& 0x31F else s.g.fpctl.toNat) ∧
       t.ctxtab.toNat = (if u.sel = 0x80#8 then a.toNat / 2 ^ 18 * 2 ^ 18 else s.ctxtab.toNat) ∧
       t.supctx.toNat = (if u.sel = 0x82#8 then a.toNat % 1024 else s.supctx.toNat) ∧
       t.ctxctlQueue = (if u.sel = 0x83#8 then s.ctxctlQueue ++ [⟨a, false⟩] else s.ctxctlQueue)) ∧
      t = { s.commit with
            ctxtab := t.ctxtab, supctx := t.supctx, ctxctlQueue := t.ctxctlQueue
            g := { s.commit.g with s := t.g.s, sbad := t.g.sbad, lpc := t.g.lpc, fpctl := t.g.fpctl } }) ∧
  (∀ (s : State) (i : Instr), s.power ≠ .off → s.t.ctx ≠ s.supctx →
    ((∃ u : URead, i = .sread u ∧ 0x80 ≤ u.sel.toNat ∧ u.sel.toNat ≤ 0x84) ∨
      (∃ u : UReadW, i = .sreadW u ∧ 0x80 ≤ u.sel.toNat ∧ u.sel.toNat ≤ 0x84)) →
    exec i s = .next s.illegal)

/-- LDV, LDS, SLD, ATOM, ATOMS, CASW, ENQ, CHLD and CREAD with lookahead open a window, whatever number of lanes is active
(R143). A `.split` load parks the lanes whose data the L1 does not hold; the others of the group go on (R26). -/
def Sys2Proof.Claims.WindowsOpen : Prop :=
  (∀ (s : State) (i : Instr) (guard : BitVec 7) (la : BitVec 4) (addr : Fin 32 → W64) (n : Nat) (sp : Bool),
    ((∃ m : MLoad, (i = .ldv m ∧ sp = false ∧ m.split = false ∨ i = .lds m ∧ sp = true) ∧ guard = m.guard ∧ la = m.la ∧
        addr = s.g.ea m.addr ∧ n = m.size.bytes) ∨
      (∃ m : MAtom, (i = .atom m ∧ sp = false ∨ i = .atoms m ∧ sp = true) ∧ guard = m.guard ∧ la = m.la ∧
        addr = s.g.ea m.addr ∧ n = (if m.wide8 then 8 else 4)) ∨
      (∃ m : MCasw, i = .casw m ∧ sp = false ∧ guard = m.guard ∧ la = m.la ∧ addr = s.g.ea m.addr ∧
        n = (if m.wide32 then 32 else 16)) ∨
      (∃ m : MEnq, i = .enq m ∧ sp = false ∧ guard = m.guard ∧ la = m.la ∧ addr = s.g.ea m.addr ∧ n = 16 ∧
        ∀ l : Fin 32, (s.actLanes guard).getLsbD l.val = true →
          ((s.g.vpair m.e l).toNat + 8 * m.link.toNat) % 8 = 0)) →
    la ≠ 0#4 → Runs s i guard → s.actLanes guard ≠ 0#32 →
    (∀ l : Fin 32, (s.actLanes guard).getLsbD l.val = true →
      (addr l).toNat % n = 0 ∧ (sp = true → (addr l).toNat + n ≤ 1536 * s.t.rows ∧ (addr l).toNat < 2 ^ 21)) →
    ∃ t, exec i s = .next t ∧ WindowOpens s t i (s.actLanes guard) la addr) ∧
  (∀ (s : State) (m : MChld), m.la ≠ 0#4 → Runs s (.chld m) m.guard → s.actLanes m.guard ≠ 0#32 →
    chainOk (s.g.sr64 (sreg7 m.e)) m.d s.g.n = true → s.g.badChain m.e = none →
    (∀ l : Fin 32, (s.actLanes m.guard).getLsbD l.val = true →
      (let r := chainRead (s.g.chainRecord m.e) 0 (s.g.ea m.addr l)
       r.1.toNat % r.2 = 0)) →
    ∃ t, exec (.chld m) s = .next t ∧ WindowOpens s t (.chld m) (s.actLanes m.guard) m.la (s.g.ea m.addr) ∧
      ∀ o ∈ t.g.ops.drop s.g.ops.length, o.gops = s.g.chainRecord m.e) ∧
  (∀ (s : State) (i : Instr) (m : Mask) (la : BitVec 4) (va : W64) (n : Nat) (sp : Bool),
    ((∃ u : ULoad, i = .sld u ∧ m = s.iss.mask ∧ la = u.la ∧ sp = u.sp ∧ n = u.size.bytes ∧
        va = s.g.sr64 (reg9 u.a) + u.disp.signExtend 64 ∧ RunsU s i u.q u.neg) ∨
      (∃ g : GRead, i = .cread g ∧ m = s.actLanes g.guard ∧ la = g.la ∧ sp = g.sp ∧ n = 8 ∧ va = s.g.sr64 (sreg7 g.a) ∧
        Executes s i m)) →
    la ≠ 0#4 → m ≠ 0#32 → va.toNat % n = 0 → (sp = true → va.toNat + n ≤ 1536 * s.t.rows ∧ va.toNat < 2 ^ 21) →
    ∃ t, exec i s = .next t ∧ WindowOpens s t i m la (fun _ => va)) ∧
  (∀ (s : State) (m : MLoad), m.split = true → Runs s (.ldv m) m.guard → s.actLanes m.guard ≠ 0#32 →
    (∀ o ∈ s.g.ops, o.isOpen = true ∧ o.id ≤ s.nextId) →
    (∀ l : Fin 32, (s.actLanes m.guard).getLsbD l.val = true →
      (s.g.ea m.addr l).toNat % m.size.bytes = 0 ∧
      ∃ pa, Held s (s.g.ea m.addr l) .load pa ∧ s.inL1 s.t.core pa m.size.bytes (dieUp m.acc.scope) = false) →
    ∃ t, exec (.ldv m) s = .next t ∧ RegistersKept s t ∧ SameMemory s t ∧ Advances s t ∧
      (∀ l : Fin 32, t.g.lane[l] =
        if (s.actLanes m.guard).getLsbD l.val = true then .parkedSplit else s.g.lane[l]) ∧
      ∃ o : Op, t.g.ops = s.commit.g.ops ++ [o] ∧ o.instr = .ldv m ∧ o.pend = s.actLanes m.guard ∧
        o.parked = s.actLanes m.guard)

/-- SREAD and SREAD.W over every selector, and the windows that memory words with lookahead open (R26, R46, R50, R51, R143, R187, R299, R300). -/
def Obligations.SpecialRegistersAndWindows : Prop :=
  Claims.SpecialRegisters ∧ Claims.WindowsOpen

/-! ### Gangs, MMA, tiles, copies, launches (03 R81-R86; 09 R245-R264) -/

namespace Sys2Proof.Claims

/-- A group-level word acts: some issuing lane is active, and nothing stops it at issue (R235, R243). -/
structure Acts (s : State) (i : Instr) (guard : BitVec 7) : Prop where
  runs : Runs s i guard
  some_ : s.actLanes guard ≠ 0#32

/-- The members of a gang mask, as a list of group numbers. -/
def membersOf (m : W32) : List Nat := (List.range 32).filter fun k => m.getLsbD k

/-- No MMA waits at any rendezvous, and the core's engine holds no operand. -/
def EngineQuiet (s : State) : Prop := s.mma = [] ∧ (s.engine s.t.core).held = []

/-- Every member of the current gang is a group of the team that stays in it, and some other member has not come (R246). -/
structure GangWaits (s : State) : Prop where
  team : ∃ x ∈ s.teams, x.tid = s.t.tid
  stays : s.t.gone = false
  members : ∀ k ∈ membersOf s.g.gangr, ∃ g : Group, s.t.groups.find? (fun g => g.id = k) = some g ∧
    (k ≠ s.g.id → g.retired = false ∧ g.gangr = s.g.gangr)
  self : s.g.retired = false
  other : ∃ k ∈ membersOf s.g.gangr, k ≠ s.g.id

/-- The core holds the translation, for writing, of every line from a virtual address on. -/
def LinesHeld (s : State) (va : W64) (fs : List Nat) : Prop :=
  ∀ k, k < fs.length → Held s (va + BitVec.ofNat 64 (128 * k)) .store (fs.getD k 0)

/-- Every line of a list is homed here, and nothing holds it back or has changed hands. -/
def LinesSettled (s : State) (fs : List Nat) : Prop := ∀ f ∈ fs, Settled s f 128 ∧ f % 128 = 0

/-- A line is homed here, and nothing stands between a home and a write to it: no freeze, no recall, no holder elsewhere. -/
structure LineUnheld (s : State) (f : Nat) : Prop where
  here : s.here f = true
  thawed : s.frozen f = false
  quiet : ∀ r ∈ s.recalls, r.line ≠ f
  mine : ∀ e ∈ s.dir, e.line ≠ f

/-- Writing the lines of a list can change neither the key map nor where it stands, and every line stands under its current
key (R358, R373). -/
def LinesKeyed (s : State) (fs : List Nat) : Prop :=
  ∀ f ∈ fs, f % 128 = 0 ∧ s.here f = true ∧ s.inRegion f = false ∧
    (∀ a, f ≤ a → a < f + 128 → ¬ (s.fcb + 72 ≤ a ∧ a < s.fcb + 80) ∧
      ¬ (s.rdRaw (s.fcb + 72) 8 ≤ a ∧ a < s.rdRaw (s.fcb + 72) 8 + 2 ^ 24)) ∧
    ∀ a, lineOf a = f → ∀ k, s.keyOf a = some k →
      ((s.tags.find? fun t => t.1 = f).map fun t => (t.2.1, t.2.2)).getD (k, 0) = (k, s.genOf k)

/-- The core holds the translation of every page of a run of staging units of the context (R264, R298). -/
def UnitsHeld (s : State) (first count : Nat) : Prop :=
  ∀ k, k < 16 * count →
    ∃ pa, Held s (BitVec.ofNat 64 (s.descField s.t.ctx 24 8 + 65536 * first + 4096 * k)) .load pa

/-- Where element `k` of a tile of element size `f` stands. -/
def elemAt (fs : List Nat) (f k : Nat) : Nat := fs.getD (k * f / 128) 0 + k * f % 128

end Sys2Proof.Claims

/-- GANG sets GANGR of every member of its mask; a mask that does not suit traps. MRDY and MWAIT only put a condition on the
group's next word. A complete MMA operand joins the rendezvous, where its group waits while a member is missing; a group with
no gang, or with an inactive lane, traps (R245-R247, R250, R251). -/
def Sys2Proof.Claims.GangWords : Prop :=
  (∀ (s : State) (e : EGang), Acts s (.gang e) e.guard →
    (let m : W32 := (s.g.sr64 (sreg7 e.a)).extractLsb' 0 32
     if s.g.id ∈ membersOf m ∧ 2 ≤ (membersOf m).length ∧ (membersOf m).length ≤ 6 ∧
         (∀ k ∈ membersOf m, k < s.t.groupCount) then
       EngineQuiet s → ∃ t, exec (.gang e) s = .next t ∧ t.g.gangr = m ∧
         t.t.groups = s.t.groups.map (fun g => if g.id ∈ membersOf m then { g with gangr := m } else g) ∧ Advances s t ∧
         t = { s.commit with t := { s.t with groups := t.t.groups }, g := { s.commit.g with lpc := t.g.lpc, gangr := m } }
     else exec (.gang e) s = .next (s.issueFault 0x02#8 (s.actLanes e.guard) 0#64 0#64))) ∧
  (∀ (s : State) (e : EMrdy), Acts s (.mrdy e) e.guard →
    ∃ t, exec (.mrdy e) s = .next t ∧ Advances s t ∧
      t = { s.commit with g := { s.commit.g with lpc := t.g.lpc, needA := some e.a } } ∧
      (t.mayIssue = true → t.g.settled e.a = true)) ∧
  (∀ (s : State) (e : EGuard), Acts s (.mwait e) e.guard →
    ∃ t, exec (.mwait e) s = .next t ∧ Advances s t ∧
      t = { s.commit with g := { s.commit.g with lpc := t.g.lpc, needLatch := true } } ∧
      (t.mayIssue = true → t.g.watch = none)) ∧
  (∀ (s : State) (e : EMma) (pa : Nat), Runs s (.mma e) e.guard → s.g.gangr ≠ 0#32 →
    s.actLanes e.guard = BitVec.allOnes 32 → s.g.badA e.a = none → EngineQuiet s → GangWaits s →
    (let b := s.g.sr64 (sreg7 e.b)
     let c (k : Nat) : W64 := s.g.sr64 ⟨(e.c.toNat + k) % 512, Nat.mod_lt _ (by decide)⟩
     b.toNat % 128 = 0 → b.toNat + 8192 ≤ 1536 * s.t.rows → b.toNat < 2 ^ 21 →
     (c 0).toNat % (64 * e.fmt.tile.bytes) = 0 → Held s (c 0) .store pa →
     ∃ t m, exec (.mma e) s = .next t ∧ RegistersKept s t ∧ SameMemory s t ∧ Advances s t ∧
       t.g.status = .rendezvous ∧ t.g.watch = some [] ∧ t.mma = [m] ∧ m.team = s.t.tid ∧ m.group = s.g.id ∧
       m.gang = s.g.gangr ∧ m.fmt = e.fmt ∧ m.free = e.free ∧ m.reuse = e.reuse ∧ m.a = e.a ∧ m.b = b.toNat ∧ m.t = c 0 ∧
       m.tile = pa ∧ m.tag.toNat = (c 1).toNat % 2 ^ 16 ∧ m.scale.toNat = (c 2).toNat % 2 ^ 16 ∧
       ∃ o : Op, t.g.ops = s.commit.g.ops ++ [o] ∧ o.instr = .mma e ∧ o.id = m.op ∧ o.win = e.la.toNat ∧
         o.pend = BitVec.allOnes 32)) ∧
  (∀ (s : State) (e : EMma), s.power ≠ .off → s.g.inAlloc (.mma e) = true →
    (s.g.gangr = 0#32 ∨ s.actLanes e.guard ≠ BitVec.allOnes 32) →
    exec (.mma e) s = .next (s.issueFault 0x02#8 (s.actLanes e.guard) 0#64 1#64))

/-- ACCOPEN and ACCCLOSE take effect in the word's own step where nothing holds them up, whatever their lookahead: R143 bounds
their completion, and R253 and R254 name no later moment (log 44, by inference). ACCOPEN at a slice of this package: status 1
where a tile stands open, 2 where eight do, else 0 and the tile: its lines, tags and counter, and its elements, 0 or read from
memory. ACCCLOSE: status 1 where no tile stands, 2 where a close is pending, else 0; the tile closes, at once if its contributions
are merged, and then its lines hold its elements (R253, R254). -/
def Sys2Proof.Claims.TileWords : Prop :=
  (∀ (s : State) (e : EAccOpen) (fs : List Nat), Acts s (.accopen e) e.guard → Idle s →
    (let va := s.g.sr64 (sreg7 e.a)
     let tags := s.g.sr64 (sreg7 e.b)
     let ctr := s.g.sr64 (sreg7 e.c)
     let f := e.fmt.bytes
     let base := fs.headD 0
     va.toNat % (64 * f) = 0 → ctr.toNat % 8 = 0 → (ctr ≠ 0#64 → ∃ cpa, Held s ctr .store cpa) →
     1 ≤ e.gsize.toNat → fs.length = 8 * e.gsize.toNat * f → LinesHeld s va fs → s.here base = true →
     ((∀ x ∈ s.tiles, x.base ≠ base) →
       (s.tiles.filter fun x => x.die = homeDie base ∧ x.slice = homeSlice base).length < 8 → LinesSettled s fs) →
     ∃ t, exec (.accopen e) s = .next t ∧ t.g.v = s.g.v ∧ NothingLeft s t ∧ Advances s t ∧ SameMemory s t ∧
       (∀ r : Fin 512, r ≠ sreg7 e.d → t.g.sr64 r = s.g.sr64 r) ∧
       t = { s.commit with
             tiles := t.tiles, expired := t.expired, l1 := t.l1, nextId := t.nextId
             g := { s.commit.g with s := t.g.s, sbad := t.g.sbad, lpc := t.g.lpc, ops := t.g.ops } } ∧
       if ∃ x ∈ s.tiles, x.base = base then t.g.sr64 (sreg7 e.d) = 1#64 ∧ t.tiles = s.tiles
       else if 8 ≤ (s.tiles.filter fun x => x.die = homeDie base ∧ x.slice = homeSlice base).length then
         t.g.sr64 (sreg7 e.d) = 2#64 ∧ t.tiles = s.tiles
       else t.g.sr64 (sreg7 e.d) = 0#64 ∧ ∃ x : Tile, t.tiles = s.tiles ++ [x] ∧ x.base = base ∧ x.frames = fs ∧
         x.va = va ∧ x.fmt = e.fmt ∧ x.free = e.free ∧ x.rows = 16 * e.gsize.toNat ∧ x.scope = e.scope ∧ x.ctr = ctr ∧
         x.next.toNat = tags.toNat % 2 ^ 16 ∧ x.n = tags.toNat / 2 ^ 16 % 2 ^ 16 + 1 ∧ x.merged = 0 ∧ x.kept = [] ∧
         x.closing = false ∧ x.tagError = false ∧ x.elems.length = 1024 * e.gsize.toNat ∧
         ∀ k, k < 1024 * e.gsize.toNat →
           x.elems.getD k 0#64 = if e.z then 0#64 else BitVec.ofNat 64 (numAt s (elemAt fs f k) f))) ∧
  (∀ (s : State) (e : EAccClose) (pa : Nat), Acts s (.accclose e) e.guard → Idle s →
    (∀ p ∈ s.posted, p.core ≠ s.t.core) → (∀ x ∈ s.tiles, x.base = pa → cellUp x.scope = true → s.recalls = []) →
    (let va := s.g.sr64 (sreg7 e.a)
     Held s va .load pa → s.here pa = true →
     ∃ t, exec (.accclose e) s = .next t ∧ t.g.v = s.g.v ∧ NothingLeft s t ∧ Advances s t ∧
       (∀ r : Fin 512, r ≠ sreg7 e.d → t.g.sr64 r = s.g.sr64 r) ∧
       t.g = { s.commit.g with s := t.g.s, sbad := t.g.sbad, lpc := t.g.lpc, ops := t.g.ops } ∧ t.t = s.t ∧
       match s.tiles.find? fun x => x.base = pa with
       | none => t.g.sr64 (sreg7 e.d) = 1#64 ∧ t.tiles = s.tiles ∧ SameMemory s t
       | some x =>
         if x.closing = true then t.g.sr64 (sreg7 e.d) = 2#64 ∧ t.tiles = s.tiles ∧ SameMemory s t
         else t.g.sr64 (sreg7 e.d) = 0#64 ∧
           if x.merged < x.n then
             t.tiles = s.tiles.map (fun y => if y.id = x.id then { x with closing := true } else y) ∧ SameMemory s t
           else (∀ f ∈ x.frames, LineUnheld s f) → (∀ y ∈ t.tiles, y.id ≠ x.id) ∧
             (x.ctr = 0#64 → x.touched = [] → Canonical s → x.frames.Nodup → LinesKeyed s x.frames →
              x.elems.length * x.fmt.bytes = 128 * x.frames.length →
              (∀ k, k < x.elems.length → numAt t (elemAt x.frames x.fmt.bytes k) x.fmt.bytes =
                (x.elems.getD k 0#64).toNat % 2 ^ (8 * x.fmt.bytes)) ∧
              ∀ b, lineOf b ∉ x.frames → t.mem.get b = s.mem.get b)))

/-- GANG, MRDY, MWAIT and MMA; ACCOPEN and ACCCLOSE, which take effect in the word's step whatever the lookahead (log 44, DEDUCED) (R245-R247, R250, R251, R253, R254). -/
def Obligations.GangAndTileWords : Prop :=
  Claims.GangWords ∧ Claims.TileWords

/-- TCOPY takes one of the core's eight places with the shape its record describes, its counter and nothing copied yet; with
all eight taken its group waits at the word. A record that an earlier acquire or write of the group holds back is read in flight,
and no later word issues before (log 22). The record's fields stand where R256 puts them; dimensions at or above dims have extent
1 and stride 0, and an esize code of 5 to 7 or dims of 0, 6 or 7 is invalid (R104, R113, R146, R256, R257). -/
def Obligations.CopyAccepted : Prop :=
  (∀ (s : State) (e : ETcopy), Acts s (.tcopy e) e.guard →
    (let rec_ := s.g.sr64 (sreg7 e.a)
     let ctr := s.g.sr64 (sreg7 e.c)
     if 8 ≤ (s.copies.filter fun c => c.core = s.t.core).length then
       exec (.tcopy e) s = .next { s with g := { s.g with status := .tcopy } }
     else ∀ (pa : Nat), rec_.toNat % 64 = 0 → Held s rec_ .load pa →
       (s.gate (s.recordOp (.tcopy e) rec_ ctr) = false →
         ∃ t, exec (.tcopy e) s = .next t ∧ RegistersKept s t ∧ SameMemory s t ∧ Advances s t ∧
           ∃ o : Op, o.instr = .tcopy e ∧ o.active = s.actLanes e.guard ∧ o.pend = s.actLanes e.guard ∧
             o.gops = [rec_, ctr, 0#64] ∧ o.blocks = true ∧
             t = { s.commit with
                   nextId := t.nextId, g := { s.commit.g with lpc := t.g.lpc, ops := s.commit.g.ops ++ [o] } }) ∧
       ∀ h : Shape, Idle s → Settled s pa 64 →
       parseShape ((List.range 64).map fun k => s.mem.get (pa + k)) = some h → s.shapeChecks h ctr e.sp = [] →
       ∃ t c, exec (.tcopy e) s = .next t ∧ RegistersKept s t ∧ SameMemory s t ∧ Advances s t ∧
         t.copies = s.copies ++ [c] ∧ c.shape = h ∧ c.ctr = ctr ∧ c.ctrSp = e.sp ∧ c.scope = e.scope ∧ c.started = false ∧
         c.done = 0 ∧ c.stuck = none ∧ c.core = s.t.core ∧ c.team = s.t.tid ∧ c.group = s.g.id ∧ c.ctx = s.t.ctx ∧
         c.behind = [] ∧ c.clear = false ∧
         t = { s.commit with copies := t.copies, nextId := t.nextId, g := { s.commit.g with lpc := t.g.lpc } })) ∧
  (∀ bs : List Byte,
    (let ctl := fieldAt bs 38 2
     let dims := ctl / 8 % 8
     (parseShape bs = none ↔ 4 < ctl % 8 ∨ dims = 0 ∨ 5 < dims) ∧
     ∀ h, parseShape bs = some h →
       h.base.toNat = fieldAt bs 0 8 ∧ h.esize = 2 ^ (ctl % 8) ∧ h.dims = dims ∧ (h.toGlobal = true ↔ ctl / 64 % 2 = 1) ∧
       h.sbase = fieldAt bs 40 4 % 2 ^ 21 ∧
       (∀ d, d < 5 →
         h.gstride.getD d 0 = (if d < dims then signedOf 32 (fieldAt bs (8 + 4 * d) 4) else 0) ∧
         h.extent.getD d 0 = if d < dims then fieldAt bs (28 + 2 * d) 2 + 1 else 1) ∧
       ∀ d, d < 4 → h.sstride.getD d 0 = if d + 1 < dims then signedOf 32 (fieldAt bs (44 + 4 * d) 4) else 0)) ∧
  ∀ (h : Shape) (v : List Nat), v.length = 5 → h.gstride.length = 5 → h.sstride.length = 4 →
    (h.globalAt v).toNat =
      ((h.base.toNat + ((List.range 5).map fun d => h.gstride.getD d 0 * (v.getD d 0 : Int)).sum) % 2 ^ 64).toNat ∧
    h.scratchAt v = h.sbase + h.esize * (v.getD 0 0) +
      ((List.range 4).map fun d => h.sstride.getD d 0 * (v.getD (d + 1) 0 : Int)).sum

/-- GLAUNCH and TLAUNCH by group 0, with every access of the group before them done: status 2 at nesting level 10, 5 for an
invalid record, 4 at the limit of pending grids, 3 at 4,096 triggers of one home unit, else 0 and a new grid, queued at once, or
held behind the trigger when the counter is not 0 yet; a launch by another group has status 1. A record that an earlier access
holds back is read in flight, and nothing is launched yet (log 22). A valid record has its fields where R260 puts them; that the
code base's low three bits do not count is the model's choice (log 38) (R104, R146, R260-R262, R319, R320). -/
def Sys2Proof.Claims.LaunchWords : Prop :=
  (∀ (s : State) (i : Instr) (guard d : BitVec 7), Acts s i guard → s.g.id ≠ 0 →
    ((∃ e : ELaunch, i = .glaunch e ∧ guard = e.guard ∧ d = e.d) ∨ (∃ e : ETLaunch, i = .tlaunch e ∧ guard = e.guard ∧ d = e.d)) →
    ∃ t, exec i s = .next t ∧ Advances s t ∧ (∀ r : Fin 512, t.g.sr64 r = if r = sreg7 d then 1#64 else s.g.sr64 r) ∧
      t = { s.commit with g := { s.commit.g with s := t.g.s, sbad := t.g.sbad, lpc := t.g.lpc } }) ∧
  (∀ (s : State) (i : Instr) (guard d : BitVec 7) (rec_ : W64) (pa : Nat) (gr : Grid) (trig : Option (W64 × Scope × Nat)),
    Acts s i guard → s.g.id = 0 → s.myGrid = some gr →
    ((∃ e : ELaunch, i = .glaunch e ∧ guard = e.guard ∧ d = e.d ∧ rec_ = s.g.sr64 (sreg7 e.a) ∧ trig = none) ∨
      (∃ (e : ETLaunch) (tpa : Nat), i = .tlaunch e ∧ guard = e.guard ∧ d = e.d ∧ rec_ = s.g.sr64 (sreg7 e.a) ∧
        trig = some (s.g.sr64 (sreg7 e.b), e.scope, tpa))) →
    rec_.toNat % 64 = 0 → Held s rec_ .load pa → Settled s pa 64 → (∀ g ∈ s.grids, g.gid < s.nextId) → Idle s →
    s.recalls = [] →
    (∀ c ∈ trig, c.1.toNat % 8 = 0 ∧ Held s c.1 .store c.2.2 ∧ Settled s c.2.2 8) →
    (gr.nest ≠ 10 → ∀ r, parseLaunch ((List.range 64).map fun k => s.mem.get (pa + k)) = some r →
      r.ctr = 0#64 ∨ ∃ cpa, Held s r.ctr .store cpa) →
    ∃ t n, exec i s = .next t ∧ Advances s t ∧ SameMemory s t ∧ t.g.v = s.g.v ∧ t.g.p = s.g.p ∧ t.g.q = s.g.q ∧
      t.g.fpctl = s.g.fpctl ∧ t.posted = s.posted ∧ t.teams = s.teams ∧ t.t = s.t ∧
      (∀ r : Fin 512, t.g.sr64 r = if r = sreg7 d then BitVec.ofNat 64 n else s.g.sr64 r) ∧
      t = { s.commit with
            grids := t.grids, queues := t.queues, triggers := t.triggers, nextId := t.nextId
            g := { s.commit.g with s := t.g.s, sbad := t.g.sbad, lpc := t.g.lpc, lastIssue := t.g.lastIssue } } ∧
      if gr.nest = 10 then n = 2 ∧ t.grids = s.grids
      else
        match parseLaunch ((List.range 64).map fun k => s.mem.get (pa + k)) with
        | none => n = 5 ∧ t.grids = s.grids
        | some r =>
          if s.gridLimit s.t.ctx = true then n = 4 ∧ t.grids = s.grids
          else if ∃ c ∈ trig, 4096 ≤ (s.triggers.filter fun x => homeUnit x.addr = homeUnit c.2.2).length then
            n = 3 ∧ t.grids = s.grids ∧ t.triggers = s.triggers
          else n = 0 ∧ ∃ x ∈ t.grids, x.gid = s.nextId ∧ x.record = r ∧ x.ctx = s.t.ctx ∧ x.nest = gr.nest + 1 ∧
            x.parent = some s.t.grid ∧ x.level ≤ r.prio ∧ x.level < 4 ∧ x.dealt = 0 ∧
            (let held := ∃ c ∈ trig, numAt s c.2.2 8 ≠ 0
             (x.waiting = true ↔ held) ∧
             (∀ k : Fin 4, .grid s.nextId ∈ t.queues[k] ↔ .grid s.nextId ∈ s.queues[k] ∨ (¬ held ∧ k.val = x.level)) ∧
             ∀ c ∈ trig, t.triggers =
               if numAt s c.2.2 8 = 0 then s.triggers
               else s.triggers ++ [⟨c.2.2, s.pkg, s.t.ctx, s.nextId, c.2.1⟩])) ∧
  (∀ (s : State) (i : Instr) (guard : BitVec 7) (rec_ ctr : W64) (pa : Nat) (gr : Grid),
    Acts s i guard → s.g.id = 0 → s.myGrid = some gr → gr.nest ≠ 10 → rec_.toNat % 64 = 0 → Held s rec_ .load pa →
    ((∃ e : ELaunch, i = .glaunch e ∧ guard = e.guard ∧ rec_ = s.g.sr64 (sreg7 e.a) ∧ ctr = 0#64) ∨
      (∃ (e : ETLaunch) (tpa : Nat), i = .tlaunch e ∧ guard = e.guard ∧ rec_ = s.g.sr64 (sreg7 e.a) ∧
        ctr = s.g.sr64 (sreg7 e.b) ∧ ctr.toNat % 8 = 0 ∧ Held s ctr .store tpa)) →
    s.gate (s.recordOp i rec_ ctr) = false →
    ∃ t, exec i s = .next t ∧ RegistersKept s t ∧ SameMemory s t ∧ Advances s t ∧ t.grids = s.grids ∧ t.queues = s.queues ∧
      t.triggers = s.triggers ∧
      ∃ o : Op, o.instr = i ∧ o.pend = s.actLanes guard ∧ o.gops = [rec_, ctr, 0#64] ∧ o.blocks = true ∧
        t.g.ops = s.commit.g.ops ++ [o]) ∧
  (∀ (bs : List Byte) (r : LaunchRec), parseLaunch bs = some r →
    r.codeBase.toNat = fieldAt bs 0 8 / 8 * 8 ∧ r.entry.toNat = fieldAt bs 8 4 ∧ r.ex = fieldAt bs 12 4 ∧
      r.ey = fieldAt bs 16 2 + 1 ∧ r.ez = fieldAt bs 18 2 + 1 ∧ r.groups = fieldAt bs 20 1 ∧
      r.regs = 16 * (fieldAt bs 21 1 % 8 + 1) ∧ r.rows = fieldAt bs 22 2 ∧ r.dataSeg.toNat = fieldAt bs 24 8 ∧
      r.arg0.toNat = fieldAt bs 32 8 ∧ r.arg1.toNat = fieldAt bs 40 8 ∧ r.ctr.toNat = fieldAt bs 48 8 ∧
      Machine.scopeOf (fieldAt bs 56 1 % 8) = some r.scope ∧ r.prio = fieldAt bs 56 1 / 8 % 4 ∧ r.order = fieldAt bs 56 1 / 32 % 4 ∧
      r.tile = fieldAt bs 57 1 ∧ r.dies.toNat = fieldAt bs 58 1 % 16 ∧
      1 ≤ r.groups ∧ r.groups ≤ 32 ∧ r.groups * r.regs ≤ 4096 ∧ r.rows ≤ 1024 ∧ 1 ≤ r.ex ∧ r.ex ≤ 2 ^ 31 ∧
      r.ctr.toNat % 8 = 0 ∧ r.tile ≤ 15)

/-- CRESV returns a status word: 2 for a bad count, 3 at 1,024 reservations, 1 where no run of units is free, else 0, with the
handle and the first unit of the lowest free run, which the context then holds, with unpredictable bytes. CREL gives a handle
back; a handle that the context does not hold does nothing. The pages of the units are held by the core (R264). That all bytes of
the units are free values of one moment is the model's reading (log 5, log 74). -/
def Sys2Proof.Claims.StagingWords : Prop :=
  (∀ (s : State) (e : ELaunch), Acts s (.cresv e) e.guard →
    (let k := (s.g.sr64 (sreg7 e.a)).toNat % 512
     let mine := s.staging.filter fun h => h.ctx = s.t.ctx
     let pool := min 4096 (s.descField s.t.ctx 20 2)
     let fits (a : Nat) : Prop := a + k ≤ pool ∧ ∀ h ∈ mine, a + k ≤ h.first ∨ h.first + h.count ≤ a
     (∀ a, fits a → 0 < k → k ≤ 256 → UnitsHeld s a k) → (∀ h ∈ s.nextHandle, 1 ≤ h.2 ∧ h.2 < 65536) →
     ∃ t x, exec (.cresv e) s = .next t ∧ Advances s t ∧ SameMemory s t ∧
       (∀ r : Fin 512, t.g.sr64 r = if r = sreg7 e.d then BitVec.ofNat 64 x else s.g.sr64 r) ∧
       t = { s.commit with
             staging := t.staging, nextHandle := t.nextHandle, hazes := t.hazes, l1 := t.l1
             g := { s.commit.g with s := t.g.s, sbad := t.g.sbad, lpc := t.g.lpc } } ∧
       if k = 0 ∨ 256 < k then x = 2 * 2 ^ 56 ∧ t.staging = s.staging ∧ t.hazes = s.hazes
       else if 1024 ≤ mine.length then x = 3 * 2 ^ 56 ∧ t.staging = s.staging ∧ t.hazes = s.hazes
       else (∀ a, ¬ fits a) ∧ x = 2 ^ 56 ∧ t.staging = s.staging ∧ t.hazes = s.hazes ∨
         ∃ h a, fits a ∧ (∀ b, b < a → ¬ fits b) ∧ 1 ≤ h ∧ h < 65536 ∧ (∀ m ∈ mine, m.handle ≠ h) ∧ x = h + 2 ^ 32 * a ∧
           t.staging = s.staging ++ [⟨s.t.ctx, h, a, k⟩] ∧
           ∀ b pa, b < 16 * k → Held s (BitVec.ofNat 64 (s.descField s.t.ctx 24 8 + 65536 * a + 4096 * b)) .load pa →
             ∀ j, j < 4096 → t.hazeByte (pa / 4096 * 4096 + j) =
               some ((Config.free s.fresh (2000000 + (pa / 4096 * 4096 + j))).extractLsb' 0 8))) ∧
  (∀ (s : State) (e : EGang), Acts s (.crel e) e.guard →
    (let h := (s.g.sr64 (sreg7 e.a)).toNat % 65536
     (∀ x ∈ s.staging, x.ctx = s.t.ctx → x.handle = h → UnitsHeld s x.first x.count) →
     ∃ t, exec (.crel e) s = .next t ∧ Advances s t ∧ SameMemory s t ∧ RegistersKept s t ∧
       (∀ x, x ∈ t.staging ↔ x ∈ s.staging ∧ ¬ (x.ctx = s.t.ctx ∧ x.handle = h)) ∧
       t = { s.commit with
             staging := t.staging, hazes := t.hazes, l1 := t.l1, posted := t.posted, copies := t.copies, acps := t.acps
             teams := t.teams, t := t.t, g := { s.commit.g with lpc := t.g.lpc, ops := t.g.ops } } ∧
       ((∀ x ∈ s.staging, ¬ (x.ctx = s.t.ctx ∧ x.handle = h)) →
         t = { s.commit with g := { s.commit.g with lpc := t.g.lpc } })))

/-- GLAUNCH and TLAUNCH, CRESV and CREL: the status each returns, and what it makes (R260-R262, R264, R319, R320). That the code base's low three bits do not count is log 38, a design choice; the free bytes of staging units are those of one moment (log 5, a design choice; log 74, DEDUCED). -/
def Obligations.LaunchAndStaging : Prop :=
  Claims.LaunchWords ∧ Claims.StagingWords

/-! ### Taking a fault or trap, and returning from one (01 R28-R31, R38; 05 R146; 13 R301-R315, R379; 15 R343) -/

namespace Sys2Proof.Claims

/-- Two ranges of addresses do not meet. -/
def Apart (a n b m : Nat) : Prop := a + n ≤ b ∨ b + m ≤ a

/-- The hardware may write the `n` bytes at `a`: they are homed here, their lines stand under their current keys, and they meet
neither the key map nor where it stands, nor a context descriptor, which holds the key of a save area (R330). -/
def HwWritable (s : State) (a n : Nat) : Prop :=
  ∀ k, k < n → s.here (a + k) = true ∧
    ¬ (s.fcb + 72 ≤ a + k ∧ a + k < s.fcb + 80) ∧
    ¬ (s.rdRaw (s.fcb + 72) 8 ≤ a + k ∧ a + k < s.rdRaw (s.fcb + 72) 8 + 2 ^ 24) ∧
    ¬ (s.ctxtab.toNat ≤ a + k ∧ a + k < s.ctxtab.toNat + 2 ^ 18) ∧
    ∀ b, lineOf b = lineOf (a + k) → ∀ key, s.keyOf b = some key →
      ((s.tags.find? fun t => t.1 = lineOf b).map fun t => (t.2.1, t.2.2)).getD (key, 0) = (key, s.genOf key)

/-- The context's fault queue: header, record count, and the slot at its tail (R298, R303). -/
def queueBase (s : State) : Nat := s.descField s.t.ctx 32 8
def queueSize (s : State) : Nat := 2 ^ logSize (s.descField s.t.ctx 40 1)
def queueTail (s : State) : Nat := s.rd (queueBase s) 8
def queueSlot (s : State) : Nat := queueBase s + 256 + 256 * (queueTail s % queueSize s)

/-- The record of a fault, field by field: offset, bytes, value (R304). -/
def recordFields (s : State) (f : FaultInfo) (resume : Nat) : List (Nat × Nat × Nat) :=
  [(0, 1, f.code.toNat), (1, 1, f.pos.toNat), (2, 1, s.g.held.length), (3, 1, s.g.id), (4, 2, s.t.ctx.toNat),
   (6, 2, s.t.core), (8, 4, f.lpc.toNat), (12, 4, f.lanes.toNat), (16, 4, f.active.toNat), (20, 4, s.g.yielded.toNat),
   (24, 4, f.waitm.toNat), (28, 4, s.g.exited.toNat), (32, 8, s.t.grid), (40, 4, s.t.x.toNat), (44, 2, s.t.y.toNat),
   (46, 2, s.t.z.toNat), (48, 8, f.addr.toNat), (56, 8, f.detail.toNat), (64, 8, f.cycle.toNat), (72, 8, resume)] ++
  ((List.finRange 32).map fun l => (96 + 4 * l.val, 4, (s.g.lpc[l]).toNat)) ++
  (List.finRange 32).map fun l => (224 + l.val, 1, (s.g.dep[l]).toNat)

/-- The queue exists and nothing stands between the hardware and its lines. -/
structure QueueHere (s : State) : Prop where
  exists_ : queueBase s ≠ 0
  base : LineUnheld s (lineOf (queueBase s))
  slot : LineUnheld s (lineOf (queueSlot s))
  slotUp : LineUnheld s (lineOf (queueSlot s + 128))

/-- The queue has room, and can be written. -/
structure QueueOpen (s : State) : Prop extends QueueHere s where
  canonical : Canonical s
  room : (BitVec.ofNat 64 (queueTail s) - BitVec.ofNat 64 (s.rd (queueBase s + 8) 8)).toNat ≠ queueSize s
  slotBytes : HwWritable s (queueSlot s) 256
  baseBytes : HwWritable s (queueBase s) 8

/-- The team already has its resume counter at `a`, apart from the queue. -/
structure ResumeAt (s : State) (a : Nat) : Prop where
  held : s.t.area = some a
  writable : HwWritable s a 8
  slot : Apart (queueSlot s) 256 a 8
  base : Apart (queueBase s) 8 a 8

/-- No group of the package has ended its context, or writes the records of a FINAL (R344). -/
def NoFinal (s : State) : Prop :=
  ∀ g, (g ∈ s.t.groups ∨ ∃ x ∈ s.teams, g ∈ x.groups) → g.status ≠ .condemned ∧
    ∀ i k, g.status = .queueWait i k → k = .final ∨ k = .entered ∨ k = .resolved

/-- Nothing stands between the hardware and the lines of the context's request ring that `n` calls need. -/
def RingHere (s : State) (n : Nat) : Prop :=
  (let base := s.ringBase s.t.ctx
   LineUnheld s (lineOf base) ∧ ∀ k, k < n → LineUnheld s (lineOf (s.slotAddr s.t.ctx (s.rd base 8 + k))))

/-- Between instructions: the module is on, no group is the current one, no team is on its way out; taking group `r` as the
current one gives `f`. -/
structure At (s : State) (r : GroupRef) (f : State) : Prop where
  on : s.power ≠ .off
  idle : s.t.tid = 0
  teams : ∀ x ∈ s.teams, x.tid ≠ 0 ∧ x.gone = false
  load : s.loadFocus r = some f

/-- Nothing of the group is in flight: no operation is open, and no FENCE waits. -/
def NoneOpen (s : State) : Prop := (∀ o ∈ s.g.ops, o.isOpen = false) ∧ s.g.fence = none

/-- A counter homed here that an update reaches at once: nothing holds its line, no earlier update of it waits, and no trigger
stands at it. -/
structure CounterHere (s : State) (a : Nat) : Prop where
  line : LineUnheld s (lineOf a)
  writable : HwWritable s a 8
  sound : s.poisoned a = false
  quiet : ∀ x ∈ s.triggers, x.addr ≠ a
  none_ : ∀ x ∈ s.adds, ¬ (x.phys = true ∧ x.va.toNat = a)
  asked : ∀ r ∈ s.reqs, r.purpose ≠ .notify

/-- The update of a counter at `a` with nothing in front of it. -/
def additionAt (n a : Nat) (delta : W64) (behind : Nat) : Addition :=
  ⟨n, 0, 0#10, true, BitVec.ofNat 64 a, delta, .sys, behind⟩

/-- Where the event ring stands, its next slot, and EVTNOTE (R364). -/
def eventRing (s : State) : Nat := s.rd (s.fcb + 40) 8
def eventSlot (s : State) : Nat := eventRing s + 64 + 32 * (s.rd (eventRing s) 8 % 256)
def eventNote (s : State) : Nat := s.rd (s.fcb + 48) 8

/-- The event ring exists, has room and can be written, and so can the counter EVTNOTE, if there is one. -/
structure EventOpen (s : State) : Prop where
  canonical : Canonical s
  exists_ : eventRing s ≠ 0
  room : s.rd (eventRing s) 8 - s.rd (eventRing s + 8) 8 < 256
  ring : HwWritable s (eventRing s) 8
  slot : HwWritable s (eventSlot s) 32
  note : eventNote s ≠ 0 → CounterHere s (eventNote s) ∧ Apart (eventRing s) 8 (eventNote s) 8 ∧
    Apart (eventSlot s) 32 (eventNote s) 8

/-- The event of a cause stands in the ring, with its fields (offset, bytes, value) and CYCLE, the ring's tail counts it, EVTNOTE
has risen by one, and of the bytes outside the set `other` no other has changed (R364). -/
def EventWritten (s t : State) (cause : Nat) (fields : List (Nat × Nat × Nat)) (other : Nat → Prop) : Prop :=
  numAt t (eventSlot s) 1 = cause ∧ numAt t (eventSlot s + 16) 8 = s.cycle.toNat ∧
    (∀ x ∈ fields, numAt t (eventSlot s + x.1) x.2.1 = x.2.2) ∧
    numAt t (eventRing s) 8 = (s.rd (eventRing s) 8 + 1) % 2 ^ 64 ∧
    (eventNote s ≠ 0 → numAt t (eventNote s) 8 = (s.rd (eventNote s) 8 + 1) % 2 ^ 64) ∧
    ∀ b, ¬ other b → ¬ (eventSlot s ≤ b ∧ b < eventSlot s + 32) → ¬ (eventRing s ≤ b ∧ b < eventRing s + 8) →
      ¬ (eventNote s ≠ 0 ∧ eventNote s ≤ b ∧ b < eventNote s + 8) → t.mem.get b = s.mem.get b

/-- Register `reg`, numbered as DETAIL names it, is one that lane `l` reads by a source, and it is bad there (R305, R369). -/
def BadOperand (g : Group) (x : VSrc) (l : Fin 32) (reg : Nat) : Prop :=
  match x.route with
  | .scalar bank hi => reg = 256 + (sregOf x.reg bank).val ∧ ((sregOf x.reg bank).val, if hi then 1 else 0) ∈ g.sbad
  | .idx n => (reg = 96 + n.toNat ∧ (reg, l.val) ∈ g.vbad) ∨
      reg = x.reg.toNat ∧ (reg, (g.routeLane x.route l).val) ∈ g.vbad
  | r => reg = x.reg.toNat ∧ (reg, (g.routeLane r l).val) ∈ g.vbad

/-- A fault found at issue that waits is kept while the fault of an earlier operation is taken (R146). -/
def behindStop (g : Group) : Group :=
  match g.status with
  | .drain f => { g with status := .running, stop := some f }
  | _ => g

/-- No call of the context has reserved slots of the ring that it has still to write (R314). -/
def NoCalls (s : State) : Prop :=
  ∀ x ∈ s.storeFocus.teams, x.ctx = s.t.ctx → ∀ g ∈ x.groups, ∀ o ∈ g.ops, ∀ w, o.instr = .svc w → o.pend = 0#32

end Sys2Proof.Claims

/-- A delivered fault, for which the context's descriptor is read, under disposition 0 or 1 writes its record at the tail of the
context's queue, with every field of R304, counts it in the tail and in TRAPSEQ, raises the team's resume counter by one, stops
the group, and marks its team for saving, unless it is being saved for an earlier cause, which stays (log 79). Without a queue no
record is written, and under disposition 2, or without a queue, the
context ends, once NOTIFY, where there is one, has risen. A full queue holds the record back. Codes 6 and 7 go to the merge table
instead (R297, R301-R304, R310, R312). -/
def Sys2Proof.Claims.TrapRecord : Prop :=
  (∀ (s : State) (f : FaultInfo) (a : Nat), f.code ≠ 0x06#8 → f.code ≠ 0x07#8 →
    (let d := s.readDesc s.t.ctx
     QueueOpen d → ResumeAt d a → NoFinal s → d.disposition s.t.ctx f.code ≤ 1 → d.descField s.t.ctx 48 8 = 0 →
     d.descField s.t.ctx 56 8 = 0 →
     (let t := s.deliver f
      (∀ x ∈ recordFields s f a, numAt t (queueSlot d + x.1) x.2.1 = x.2.2 % 256 ^ x.2.1) ∧
      numAt t (queueBase d) 8 = (queueTail d + 1) % 2 ^ 64 ∧ numAt t a 8 = (d.rd a 8 + 1) % 2 ^ 64 ∧
      (∀ b, ¬ (queueSlot d ≤ b ∧ b < queueSlot d + 256) → ¬ (queueBase d ≤ b ∧ b < queueBase d + 8) →
        ¬ (a ≤ b ∧ b < a + 8) → t.mem.get b = s.mem.get b) ∧
      t.trapseq = s.trapseq + 1#64 ∧ t.g = { s.g with status := .stopped } ∧
      t.t = { s.t with
        raised := true, zeroed := false
        saving := if s.t.header then s.t.saving else some (s.t.saving.getD .park) }))) ∧
  (∀ (s : State) (f : FaultInfo), f.code ≠ 0x06#8 → f.code ≠ 0x07#8 →
    (let d := s.readDesc s.t.ctx
     (∃ x ∈ s.teams, x.ctx = s.t.ctx) → NoFinal s →
     (d.descField s.t.ctx 48 8 ≠ 0 → CounterHere d (d.descField s.t.ctx 48 8)) →
     (queueBase d = 0 ∨ QueueHere d ∧ d.queueRoom = true ∧ d.disposition s.t.ctx f.code = 2) →
     (let t := s.deliver f
      (∀ x ∈ t.teams, x.ctx ≠ s.t.ctx) ∧ t.t.gone = true ∧ (∀ x ∈ t.saved, x.ctx ≠ s.t.ctx) ∧
      (∀ x ∈ t.grids, x.ctx ≠ s.t.ctx) ∧ (∀ x ∈ t.tiles, x.ctx ≠ s.t.ctx) ∧ (∀ x ∈ t.triggers, x.ctx ≠ s.t.ctx) ∧
      (∀ x ∈ t.staging, x.ctx ≠ s.t.ctx) ∧
      t.trapseq = if queueBase d = 0 then s.trapseq else s.trapseq + 1#64))) ∧
  (∀ (s : State) (f : FaultInfo), f.code ≠ 0x06#8 → f.code ≠ 0x07#8 →
    (let d := s.readDesc s.t.ctx
     QueueHere d → d.queueRoom = false →
     s.deliver f = { d with g := { s.g with status := .queueWait f .final } }))

/-- NOTIFY receives +1 once the record is written, and under disposition 1 HANDLER receives −1 after it; an address of 0 suppresses
the update. While NOTIFY's line cannot be had its update waits, HANDLER's waits behind it, and a context that is to end has not
ended (R302, R312, R357). -/
def Sys2Proof.Claims.TrapCounters : Prop :=
  ∀ (s : State) (f : FaultInfo), f.code ≠ 0x06#8 → f.code ≠ 0x07#8 → (∃ x ∈ s.teams, x.ctx = s.t.ctx) → NoFinal s →
    (let d := s.readDesc s.t.ctx
     let disp := d.disposition s.t.ctx f.code
     let note := d.descField s.t.ctx 48 8
     let hand := if disp = 1 then d.descField s.t.ctx 56 8 else 0
     let t := s.deliver f
     QueueOpen d →
     (∀ a : Nat, disp ≤ 1 → ResumeAt d a →
       (note ≠ 0 → CounterHere d note ∧ Apart note 8 a 8 ∧ Apart note 8 (queueSlot d) 256 ∧ Apart note 8 (queueBase d) 8) →
       (hand ≠ 0 → CounterHere d hand ∧ Apart hand 8 a 8 ∧ Apart hand 8 (queueSlot d) 256 ∧ Apart hand 8 (queueBase d) 8 ∧
         Apart hand 8 note 8) →
       (note ≠ 0 → numAt t note 8 = (d.rd note 8 + 1) % 2 ^ 64) ∧
       (hand ≠ 0 → numAt t hand 8 = (d.rd hand 8 + (2 ^ 64 - 1)) % 2 ^ 64) ∧ t.adds = s.adds ∧
       numAt t (queueBase d) 8 = (queueTail d + 1) % 2 ^ 64 ∧
       ∀ b, ¬ (queueSlot d ≤ b ∧ b < queueSlot d + 256) → ¬ (queueBase d ≤ b ∧ b < queueBase d + 8) →
         ¬ (a ≤ b ∧ b < a + 8) → ¬ (note ≠ 0 ∧ note ≤ b ∧ b < note + 8) → ¬ (hand ≠ 0 ∧ hand ≤ b ∧ b < hand + 8) →
         t.mem.get b = s.mem.get b) ∧
     (note ≠ 0 → s.here note = true → s.frozen (lineOf note) = true →
       (∀ a : Nat, disp ≤ 1 → ResumeAt d a → ∃ n k, n < k ∧
         t.adds = s.adds ++ [additionAt n note 1#64 0] ++ (if hand = 0 then [] else [additionAt k hand (BitVec.allOnes 64) note])) ∧
       (disp = 2 → t.g = { s.g with status := .condemned } ∧ t.teams = s.teams ∧
         ∃ n, t.adds = s.adds ++ [additionAt n note 1#64 0])))

/-- A delivered fault or trap: its record, the resume counter, the dispositions, NOTIFY and HANDLER (R297, R301-R304, R310, R312). That a save under way keeps its first cause is log 79, DEDUCED. -/
def Obligations.TrapEntry : Prop :=
  Claims.TrapRecord ∧ Claims.TrapCounters

/-- A check that fails at issue is taken at the word, which counts as issued: its fault (POS 0) is delivered once nothing of the
group is open and no FENCE waits, no reported lane moves, and every other issuing lane advances; until then the group waits. An
illegal word and a register that holds an uncorrectable error are such faults; of the latter DETAIL names a bad register that the
lowest bad lane reads, of its A operand where that is bad (log 17) (R17, R29, R125, R146, R305, R369, R379). That the issuing
lanes which are not reported advance is the model's reading (log 16), and so is that an illegal word, which may have no guard to
read, reports every issuing lane in LANES and in ACTIVE (log 58). -/
def Sys2Proof.Claims.FaultsAtIssue : Prop :=
  (∀ (s : State) (f : FaultInfo),
    ((∃ o ∈ s.g.ops, o.isOpen = true) ∨ s.g.fence ≠ none →
      s.stopFault f = { s with g := { s.g with status := .drain f }, due := s.due ++ [.faultTaken s.me] }) ∧
    (NoneOpen s → s.stopFault f = s.deliver f)) ∧
  (∀ (s : State) (code : BitVec 8) (m : Mask) (addr detail : W64),
    ∃ u : State, s.issueFault code m addr detail =
        u.stopFault ⟨code, 0#8, s.iss.key.lpc, m, m, s.iss.waitm, addr, detail, s.cycle⟩ ∧
      (∀ l : Fin 32, u.g.lpc[l] =
        if s.iss.mask.getLsbD l.val = true ∧ m.getLsbD l.val = false then s.g.lpc[l] + 1#32 else s.g.lpc[l]) ∧
      u = { s.commit with g := { s.commit.g with lpc := u.g.lpc } }) ∧
  (∀ s : State, s.illegal = s.issueFault 0x01#8 s.iss.mask 0#64 s.iss.word) ∧
  (∀ (s : State) (i : Instr) (w : WBin) (f : W32 → W32 → Int), (i, f) ∈ twoSource w → s.power ≠ .off →
    s.g.inAlloc i = true → s.g.badLanes i (s.actLanes w.guard) ≠ 0#32 →
    (let bad := s.g.badLanes i (s.actLanes w.guard)
     ∃ (u : State) (reg : Nat) (low : Fin 32), bad.getLsbD low.val = true ∧
       (∀ l : Fin 32, bad.getLsbD l.val = true → low ≤ l) ∧
       (BadOperand s.g w.a low reg ∨ (∀ k, ¬ BadOperand s.g w.a low k) ∧ BadOperand s.g w.b low reg) ∧ exec i s =
         .next (u.stopFault ⟨0x09#8, 0#8, s.iss.key.lpc, bad, s.actLanes w.guard, s.iss.waitm, 0#64,
           BitVec.ofNat 64 (2 ^ 5 + 2 ^ 6 * reg), s.cycle⟩) ∧
       LaneResult s u (s.actLanes w.guard &&& ~~~bad) w.d (fun l x => x = BitVec.ofInt 32 (f (s.g.src w.a l) (s.g.src w.b l))) ∧
       (∀ l : Fin 32, u.g.lpc[l] =
         if s.iss.mask.getLsbD l.val = true ∧ bad.getLsbD l.val = false then s.g.lpc[l] + 1#32 else s.g.lpc[l]) ∧
       FrameVector s u))

/-- Alignment and scratchpad bounds are checked at issue, before any lane takes effect: the fault is taken at the word and reports
every active lane; misalignment goes before bounds; ADDR is the address of the lowest lane that fails the check reported, and
DETAIL[63:32] the lanes that fail any. Words that act for the group fail in every active lane. TCOPY reports, in this order, its
record, the base, the scratchpad side and the counter (log 24) (R54, R92, R235, R239, R257, R379). -/
def Sys2Proof.Claims.ChecksAtIssue : Prop :=
  (∀ (s : State) (i : Instr) (guard : BitVec 7) (va : Fin 32 → W64) (n : Nat) (sp : Bool) (fails : Mask),
    ((∃ m : MLoad, (i = .ldv m ∧ sp = false ∨ i = .lds m ∧ sp = true) ∧ guard = m.guard ∧ va = s.g.ea m.addr ∧
        n = m.size.bytes) ∨
      (∃ m : MStore, (i = .stv m ∧ sp = false ∨ i = .sts m ∧ sp = true) ∧ guard = m.guard ∧ va = s.g.ea m.addr ∧
        n = m.size.bytes) ∨
      (∃ m : MAtom, ((i = .atom m ∨ i = .red m) ∧ sp = false ∨ i = .atoms m ∧ sp = true) ∧ guard = m.guard ∧
        va = s.g.ea m.addr ∧ n = (if m.wide8 then 8 else 4)) ∨
      (∃ m : MCasw, i = .casw m ∧ sp = false ∧ guard = m.guard ∧ va = s.g.ea m.addr ∧ n = (if m.wide32 then 32 else 16)) ∨
      (∃ m : MEnq, i = .enq m ∧ sp = false ∧ guard = m.guard ∧ va = s.g.ea m.addr ∧ n = 16 ∧
        ∀ l : Fin 32, (s.actLanes guard).getLsbD l.val = true → ((s.g.vpair m.e l).toNat + 8 * m.link.toNat) % 8 = 0) ∨
      (∃ (m : MStc) (cpa : Nat), i = .stc m ∧ sp = false ∧ guard = m.guard ∧ va = s.g.ea m.addr ∧ n = m.size.bytes ∧
        (s.g.sr64 (sreg7 m.e)).toNat % 8 = 0 ∧ Held s (s.g.sr64 (sreg7 m.e)) .store cpa)) →
    Runs s i guard →
    (let act := s.actLanes guard
     let inside (l : Fin 32) : Prop := (va l).toNat + n ≤ 1536 * s.t.rows ∧ (va l).toNat < 2 ^ 21
     let detail : W64 := fails.zeroExtend 64 <<< 32
     (∀ l : Fin 32, fails.getLsbD l.val = true ↔
       act.getLsbD l.val = true ∧ ((va l).toNat % n ≠ 0 ∨ (sp = true ∧ ¬ inside l))) →
     ∀ l : Fin 32, act.getLsbD l.val = true →
       ((va l).toNat % n ≠ 0 → (∀ k : Fin 32, k < l → act.getLsbD k.val = true → (va k).toNat % n = 0) →
         exec i s = .next (s.issueFault 0x04#8 act (va l) detail)) ∧
       (sp = true → ¬ inside l → (∀ k : Fin 32, act.getLsbD k.val = true → (va k).toNat % n = 0) →
         (∀ k : Fin 32, k < l → act.getLsbD k.val = true → inside k) →
         exec i s = .next (s.issueFault 0x05#8 act (va l) detail)))) ∧
  (∀ (s : State) (i : Instr) (m : Mask) (va : W64) (n : Nat) (sp : Bool),
    ((∃ g : GCtr, (i = .cinc g ∨ i = .cdec g ∨ i = .cwait g) ∧ m = s.actLanes g.guard ∧ sp = g.sp ∧ n = 8 ∧
        va = s.g.sr64 (sreg7 g.a) ∧ Executes s i m) ∨
      (∃ g : GRead, i = .cread g ∧ m = s.actLanes g.guard ∧ sp = g.sp ∧ n = 8 ∧ va = s.g.sr64 (sreg7 g.a) ∧ Executes s i m) ∨
      (∃ g : GBar, (i = .binit g ∨ i = .bwait g) ∧ m = s.actLanes g.guard ∧ sp = true ∧ n = 16 ∧
        va = s.g.sr64 (sreg7 g.a) ∧ Executes s i m) ∨
      (∃ g : GArrive, i = .barrive g ∧ m = s.actLanes g.guard ∧ sp = true ∧ n = 16 ∧ va = s.g.sr64 (sreg7 g.a) ∧
        Executes s i m) ∨
      (∃ u : ULoad, i = .sld u ∧ m = s.iss.mask ∧ sp = u.sp ∧ n = u.size.bytes ∧
        va = s.g.sr64 (reg9 u.a) + u.disp.signExtend 64 ∧ RunsU s i u.q u.neg) ∨
      (∃ u : UStore, i = .sst u ∧ m = s.iss.mask ∧ sp = u.sp ∧ n = u.size.bytes ∧
        va = s.g.sr64 (reg9 u.a) + u.disp.signExtend 64 ∧ RunsU s i u.q u.neg)) →
    m ≠ 0#32 →
    (va.toNat % n ≠ 0 → exec i s = .next (s.issueFault 0x04#8 m va (m.zeroExtend 64 <<< 32))) ∧
    (va.toNat % n = 0 → sp = true → ¬ (va.toNat + n ≤ 1536 * s.t.rows ∧ va.toNat < 2 ^ 21) →
      exec i s = .next (s.issueFault 0x05#8 m va (m.zeroExtend 64 <<< 32)))) ∧
  (∀ (s : State) (e : ETcopy), Acts s (.tcopy e) e.guard → Idle s →
    (s.copies.filter fun c => c.core = s.t.core).length < 8 →
    (let rec_ := s.g.sr64 (sreg7 e.a)
     let ctr := s.g.sr64 (sreg7 e.c)
     let fault (code : BitVec 8) (addr : W64) : Host.Outcome State Fault Refusal :=
       .next (s.issueFault code (s.actLanes e.guard) addr ((s.actLanes e.guard).zeroExtend 64 <<< 32))
     ∀ pa, Held s rec_ .load pa →
     (rec_.toNat % 64 ≠ 0 → exec (.tcopy e) s = fault 0x04#8 rec_) ∧
     (rec_.toNat % 64 = 0 → Settled s pa 64 →
       (parseShape ((List.range 64).map fun k => s.mem.get (pa + k)) = none →
         exec (.tcopy e) s = .next (s.issueFault 0x02#8 (s.actLanes e.guard) rec_ 3#64)) ∧
       ∀ h, parseShape ((List.range 64).map fun k => s.mem.get (pa + k)) = some h →
         (let off (x : Int) : Prop := x % (h.esize : Int) ≠ 0
          let badBase := h.base.toNat % h.esize ≠ 0 ∨ ∃ x ∈ h.gstride, off x
          let badSide := off h.sbase ∨ ∃ x ∈ h.sstride, off x
          let beyond := h.reach.1 < 0 ∨ 1536 * s.t.rows < h.reach.2 + h.esize
          (badBase → exec (.tcopy e) s = fault 0x04#8 h.base) ∧
          (¬ badBase → badSide → exec (.tcopy e) s = fault 0x04#8 (BitVec.ofNat 64 h.sbase)) ∧
          (¬ badBase → ¬ badSide → ctr.toNat % 8 ≠ 0 → exec (.tcopy e) s = fault 0x04#8 ctr) ∧
          (¬ badBase → ¬ badSide → ctr.toNat % 8 = 0 →
            (beyond → exec (.tcopy e) s = fault 0x05#8 (BitVec.ofInt 64 h.reach.1)) ∧
            (¬ beyond → e.sp = true → ¬ (ctr.toNat + 8 ≤ 1536 * s.t.rows ∧ ctr.toNat < 2 ^ 21) →
              exec (.tcopy e) s = fault 0x05#8 ctr)))))) ∧
  ∀ (bs : List Byte) (h : Shape), parseShape bs = some h →
    (let within (v : List Nat) : Prop := v.length = 5 ∧ ∀ d, d < 5 → v.getD d 0 < h.extent.getD d 0
     (∀ v, within v → h.reach.1 ≤ h.scratchAt v ∧ h.scratchAt v ≤ h.reach.2) ∧
     (∃ v, within v ∧ h.scratchAt v = h.reach.1) ∧ ∃ v, within v ∧ h.scratchAt v = h.reach.2)

/-- Faults found at issue: when they are taken, what they report, and the checks of alignment and bounds (R17, R29, R54, R92, R125, R146, R235, R239, R257, R305, R369, R379). Log 16, 17 and 24, and log 58 (DEDUCED), mark what the model chose or read between the lines. -/
def Obligations.IssueFaults : Prop :=
  Claims.FaultsAtIssue ∧ Claims.ChecksAtIssue

/-- BPT: the issuing lanes advance, and the group takes the breakpoint trap, POS 3, with its code as DETAIL, once every earlier
instruction has taken its full effect (R38, R146). SVC, which reads the
context's descriptor: the issuing lanes advance; without a ring or without room the active lanes receive an error status; else
every active lane takes a slot in ascending order, with its sixteen argument registers, and is parked, the tail and the team's
resume counter count the calls, and the team is marked for saving. That the slots and the tail are written in one step is the
model's choice (log 15), and so is, by inference, that a team keeps its first cause of saving (log 79). While the slots of an
earlier call are not written yet, a call parks its lanes with the next slots of the ring and writes them later (log 15) (R34,
R176, R177, R297, R313, R314). -/
def Obligations.TrapWords : Prop :=
  (∀ (s : State) (w : WBpt), s.power ≠ .off → s.g.inAlloc (.bpt w) = true →
    ∃ u : State, Advances s u ∧ u = { s.commit with g := { s.commit.g with lpc := u.g.lpc } } ∧
      (s.actLanes w.guard = 0#32 → exec (.bpt w) s = .next u) ∧
      (s.actLanes w.guard ≠ 0#32 → exec (.bpt w) s = .next (u.stopFault
        ⟨0x0D#8, 3#8, s.iss.key.lpc, s.actLanes w.guard, s.actLanes w.guard, s.iss.waitm, 0#64, w.code.zeroExtend 64, s.cycle⟩))) ∧
  (∀ (s : State) (w : WSvc), Acts s (.svc w) w.guard →
    (let d := s.readDesc s.t.ctx
     let n := (lanesOf (s.actLanes w.guard)).length
     let base := d.ringBase s.t.ctx
     let full := (BitVec.ofNat 64 (d.rd base 8) - BitVec.ofNat 64 (d.rd (base + 8) 8)).toNat + n > d.ringSize s.t.ctx
     base = 0 ∨ full ∧ RingHere d n →
     ∃ t, exec (.svc w) s = .next t ∧
       LaneResult s t (s.actLanes w.guard) w.d (fun _ x => x = if base = 0 then 0xFFFF_FFF1#32 else 0xFFFF_FFF0#32) ∧
       Advances s t ∧ FrameVector d t)) ∧
  (∀ (s : State) (w : WSvc), Acts s (.svc w) w.guard →
    (let d := s.readDesc s.t.ctx
     let n := (lanesOf (s.actLanes w.guard)).length
     let base := d.ringBase s.t.ctx
     let count := d.rd base 8 + d.reserved s.t.ctx
     base ≠ 0 → d.reserved s.t.ctx ≠ 0 → RingHere d n →
     (BitVec.ofNat 64 count - BitVec.ofNat 64 (d.rd (base + 8) 8)).toNat + n ≤ d.ringSize s.t.ctx →
     ∃ t, exec (.svc w) s = .next t ∧ RegistersKept s t ∧ Advances s t ∧ t.t.calls = s.t.calls ∧
       (∀ l : Fin 32, t.g.lane[l] = if (s.actLanes w.guard).getLsbD l.val = true then .parkedCall else s.g.lane[l]) ∧
       (s.t.header = false → t.t.saving = some (s.t.saving.getD .call)) ∧
       ∃ o : Op, o.instr = .svc w ∧ o.pend = s.actLanes w.guard ∧ o.gops = [BitVec.ofNat 64 count] ∧
         t.g.ops = s.commit.g.ops ++ [o])) ∧
  (∀ (s : State) (w : WSvc) (a : Nat), Acts s (.svc w) w.guard → Canonical s → (∀ e ∈ s.posted, e.core ≠ s.t.core) →
    s.t.area = some a → Idle s → s.recalls = [] → NoCalls s →
    (let d := s.readDesc s.t.ctx
     let ls := lanesOf (s.actLanes w.guard)
     let base := d.ringBase s.t.ctx
     let size := d.ringSize s.t.ctx
     let tail := d.rd base 8
     let slot (k : Nat) : Nat := base + 128 + 128 * ((tail + k) % size)
     d.descField s.t.ctx 72 8 = 0 → base ≠ 0 →
     (BitVec.ofNat 64 tail - BitVec.ofNat 64 (d.rd (base + 8) 8)).toNat + ls.length ≤ size → RingHere d ls.length →
     HwWritable d base (128 + 128 * size) → HwWritable d a 8 → Apart base (128 + 128 * size) a 8 →
     ∃ t, exec (.svc w) s = .next t ∧ RegistersKept s t ∧ Advances s t ∧
       numAt t base 8 = (tail + ls.length) % 2 ^ 64 ∧ numAt t a 8 = (d.rd a 8 + ls.length) % 2 ^ 64 ∧
       (∀ k (hk : k < ls.length),
         (∀ j, j < 16 → numAt t (slot k + 4 * j) 4 = (s.g.vr (regUp w.a j) ls[k]).toNat) ∧
         numAt t (slot k + 72) 8 = a % 2 ^ 64 ∧ numAt t (slot k + 80) 4 = s.iss.key.lpc.toNat ∧
         numAt t (slot k + 84) 1 = ls[k].val ∧ numAt t (slot k + 85) 1 = s.g.id % 256 ∧
         numAt t (slot k + 104) 8 = (tail + k) % 2 ^ 64 ∧ numAt t (slot k + 112) 1 = 1) ∧
       (∀ b, ¬ (base ≤ b ∧ b < base + 128 + 128 * size) → ¬ (a ≤ b ∧ b < a + 8) → t.mem.get b = s.mem.get b) ∧
       (∀ l : Fin 32, t.g.lane[l] = if (s.actLanes w.guard).getLsbD l.val = true then .parkedCall else s.g.lane[l]) ∧
       t.t.calls = s.t.calls ++ (ls.zipIdx).map (fun p => (s.g.id, p.1.val, w.d, slot p.2)) ∧
       (s.t.header = false → t.t.saving = some (s.t.saving.getD .call))))

/-- The merge table of a die: the first fault of a page takes an entry and writes a record with RESUME 0, where the context has a
queue; a later one joins it and writes none; with 256 entries taken the group stays stopped until one is free (R310, R343). -/
def Obligations.MergeTable : Prop :=
  ∀ (s : State) (f : FaultInfo), f.code = 0x06#8 ∨ f.code = 0x07#8 →
    (let key (m : MergeEntry) : Prop := m.die = s.t.core / 48 ∧ m.ctx = s.t.ctx ∧ m.page = f.addr.toNat % 2 ^ 57 / 4096
     let d := s.readDesc s.t.ctx
     let t := s.deliver f
     if ∃ m ∈ s.merge, m.die = s.t.core / 48 ∧ m.ctx = s.t.ctx ∧ m.page = f.addr.toNat % 2 ^ 57 / 4096 then
       t = { d with merge := t.merge, g := { s.g with status := .merged f } } ∧
       ∀ m, m ∈ t.merge ↔ (m ∈ s.merge ∧ ¬ key m) ∨ ∃ e ∈ s.merge, key e ∧ m = { e with waiters := e.waiters ++ [s.me] }
     else if 256 ≤ (s.merge.filter fun m => m.die = s.t.core / 48).length then
       t = { d with g := { s.g with status := .mergeFull f } }
     else
       (queueBase d = 0 ∨ QueueHere d →
         t.merge = s.merge ++ [⟨s.t.core / 48, s.t.ctx, f.addr.toNat % 2 ^ 57 / 4096, [s.me]⟩] ∧ t.t = s.t ∧
         t.g = { s.g with
           status := if queueBase d = 0 ∨ d.queueRoom = true then .merged f else .queueWait f .entered } ∧
         t.trapseq = if queueBase d = 0 ∨ d.queueRoom = false then s.trapseq else s.trapseq + 1#64) ∧
       (QueueOpen d → numAt t (queueBase d) 8 = (queueTail d + 1) % 2 ^ 64 ∧
         ∀ x ∈ recordFields s f 0, numAt t (queueSlot d + x.1) x.2.1 = x.2.2 % 256 ^ x.2.1))

/-- The events of faults already found. FAULT_TAKEN: the earliest failed operation goes to the log with its failing lanes, POS
1, and is delivered, or is held behind the log without a record; where one of them was parked, the entry parks them all at its
replay (log 61, by inference). A fault that a later word met at issue waits behind it. An MMA's trap at the rendezvous, a bad
register of its rows (log 83) and a failed check of a record read in flight (log 22) are precise: POS 0, and the lanes return to
the word. FAULT_QUEUE_ROOM and FAULT_MERGE_ENTRY: what waited is delivered. HELD_FAULT_DELIVERY: the next held entry moves into
the empty log and is delivered; a withdrawn MMA is replayed; behind the last comes the fault that a later word met.
STARVATION_TRAP: POS 2, no lane reported (log 20) (R30, R38, R146, R246, R303, R309, R343, R379). -/
def Sys2Proof.Claims.FaultEvents : Prop :=
  (∀ (s f : State) (r : GroupRef) (o : Op) (rest : List Op), At s r f → f.g.ops = o :: rest → o.pend = 0#32 → o.late = [] →
    o.fails ≠ [] → o.instr.isMma = false → o.unread = false → f.g.exited ≠ BitVec.allOnes 32 →
    ∃ (i : FaultInfo) (low : LaneFail), low ∈ o.fails ∧ (∀ x ∈ o.fails, low.lane ≤ x.lane) ∧ i.code = low.code ∧ i.pos = 1#8 ∧
      i.lpc = o.lpc ∧ (∀ l : Fin 32, i.lanes.getLsbD l.val = true ↔ ∃ x ∈ o.fails, x.lane = l) ∧ i.active = o.active ∧
      i.waitm = o.waitm ∧ i.addr = low.addr ∧ i.cycle = o.found.getD s.cycle ∧
      i.detail = (if ∀ x ∈ o.fails, x.code = low.code then low.detail else low.detail ||| 0x8000_0000_0000_0000#64) ∧
      (let ops := rest.filter fun x => x.id ≠ o.id
       let parked := if o.parked &&& i.lanes = 0#32 then 0#32 else i.lanes
       let entry : LogEntry := ⟨{ o with pend := i.lanes, parked := parked, fails := [] }, i, 0#8⟩
       let g : Group := behindStop { f.g with ops := ops }
       exec (.faultTaken r) s = .next (
         if f.g.log = none then (State.deliver { f with g := { g with log := some entry, replay := false } } i).settle
         else if f.g.held.length < 15 then State.settle { f with g := { g with held := f.g.held ++ [entry] } }
         else State.settle { f with g := g }))) ∧
  (∀ (s f : State) (r : GroupRef) (o : Op) (rest : List Op), At s r f → f.g.ops = o :: rest → o.pend = 0#32 → o.late = [] →
    o.fails ≠ [] → (o.unread = true ∨ o.instr.isMma = true ∧ ∃ x ∈ o.fails, x.code = 0x02#8 ∨ x.code = 0x09#8) →
    f.g.log = none → (f.g.status = .running ∨ ∃ x, f.g.status = .drain x) → f.g.exited ≠ BitVec.allOnes 32 →
    ∃ (i : FaultInfo) (low : LaneFail) (u : State), low ∈ o.fails ∧ (∀ x ∈ o.fails, low.lane ≤ x.lane) ∧ i.code = low.code ∧
      i.pos = 0#8 ∧ i.lpc = o.lpc ∧ (∀ l : Fin 32, i.lanes.getLsbD l.val = true ↔ ∃ x ∈ o.fails, x.lane = l) ∧
      i.active = o.active ∧ i.waitm = o.waitm ∧ i.addr = low.addr ∧
      (∀ l : Fin 32, u.g.lpc[l] =
        if o.issue.getLsbD l.val = true ∧ f.g.lane[l] = .runnable then o.lpc else f.g.lpc[l]) ∧
      u = { f with g := { behindStop { f.g with ops := rest.filter fun x => x.id ≠ o.id } with lpc := u.g.lpc } } ∧
      exec (.faultTaken r) s = .next (u.deliver i).settle) ∧
  (∀ (s f : State) (r : GroupRef) (i : FaultInfo), At s r f → f.g.status = .drain i →
    ((NoneOpen f → exec (.faultTaken r) s = .next (f.deliver i).settle) ∧
     (f.g.ops = [] → f.g.fence ≠ none → exec (.faultTaken r) s = .next f.settle))) ∧
  (∀ (s f : State) (r : GroupRef) (i : FaultInfo), At s r f →
    (let d := f.readDesc f.t.ctx
     (f.g.status = .queueWait i .final → exec (.faultQueueRoom r) s = .next (d.deliverRecord i .final).settle) ∧
     (f.g.status = .queueWait i .entered → QueueHere d → d.queueRoom = true →
       exec (.faultQueueRoom r) s = .next (State.settle ((d.appendRecord i 0).setStatus (.merged i)))) ∧
     (f.g.status = .queueWait i .resolved → QueueHere d → d.queueRoom = true →
       exec (.faultQueueRoom r) s = .next (State.settle (d.appendRecord i 0).resumeInPlace)))) ∧
  (∀ (s f : State) (r : GroupRef) (i : FaultInfo), At s r f → f.g.status = .mergeFull i →
    exec (.faultMergeEntry r) s = .next (f.enterMerge i).settle) ∧
  (∀ (s f : State) (r : GroupRef) (e : LogEntry) (rest : List LogEntry), At s r f → f.g.held = e :: rest → f.g.log = none →
    f.g.status = .running → (∀ o ∈ f.g.ops, o.isOpen = false) →
    (let u := { f with g := { f.g with log := some e, held := rest, replay := decide (e.info.code = 0#8) } }
     exec (.heldFaultDelivery r) s = .next (if e.info.code = 0#8 then u.settle else (u.deliver e.info).settle))) ∧
  (∀ (s f : State) (r : GroupRef) (i : FaultInfo), At s r f → f.g.held = [] → f.g.log = none → f.g.stop = some i →
    f.g.status = .running → NoneOpen f →
    exec (.heldFaultDelivery r) s = .next (State.deliver { f with g := { f.g with stop := none } } i).settle) ∧
  (∀ (s f : State) (r : GroupRef), At s r f → (f.threshold f.t.ctx).toNat ≤ f.g.starve.toNat → f.g.status = .running →
    NoneOpen f → f.g.shrinkTo = none → f.g.log = none → f.g.held = [] → f.g.stop = none → f.t.saving = none →
    ∃ i : FaultInfo, i.code = 0x0C#8 ∧ i.pos = 2#8 ∧ i.lanes = 0#32 ∧ i.detail = f.g.starve ∧
      exec (.starvationTrap r) s = .next (State.deliver { f with g := { f.g with starved := true } } i).settle)

namespace Sys2Proof.Claims

/-- The group is about to perform its log (R308). -/
structure Replays (s f : State) (r : GroupRef) (e : LogEntry) : Prop extends At s r f where
  log : f.g.log = some e
  replay : f.g.replay = true
  stays : f.t.saving = none
  running : e.op.parked = 0#32

/-- The words whose replay is in flight for a lookahead of their own (R143, R308). -/
def inFlightWord (i : Instr) (la : BitVec 4) : Prop :=
  (∃ m : MLoad, (i = .ldv m ∨ i = .lds m) ∧ la = m.la) ∨ (∃ m : MAtom, (i = .atom m ∨ i = .atoms m) ∧ la = m.la) ∨
    (∃ m : MCasw, i = .casw m ∧ la = m.la) ∨ (∃ m : MEnq, i = .enq m ∧ la = m.la) ∨ (∃ m : MChld, i = .chld m ∧ la = m.la) ∨
    (∃ u : ULoad, i = .sld u ∧ la = u.la) ∨ ∃ g : GRead, i = .cread g ∧ la = g.la

/-- The number that the first `n` bytes of a lane's DATA make. -/
def dataNum (o : Op) (l : Fin 32) (n : Nat) : Nat := ofBytes (LaneOp.bytes (o.lanes[l])) % 256 ^ n

end Sys2Proof.Claims

/-- OPERAND_LOG_REPLAY performs the log once, by its ACTION, and empties it. Replay performs the operation again from the log
alone: with a lookahead it is in flight again, a chain from the step and pointer of its log; without one a store's bytes are
posted again, a read-modify-write is performed again, a load reads again; an MMA joins the rendezvous again; a TCOPY's command
goes on from its vector. Discard does nothing; supply writes a load's or an atomic's destination from DATA, extended as the
load would (R307, R308). -/
def Sys2Proof.Claims.LogReplay : Prop :=
  (∀ (s f : State) (r : GroupRef) (e : LogEntry), Replays s f r e →
    (let u : State := { f with g := { f.g with log := none, replay := false } }
     let i := e.op.instr
     (∀ la, inFlightWord i la → la ≠ 0#4 → (∀ o ∈ f.g.ops, o.id < f.nextId) → e.action = 0#8 →
       exec (.operandLogReplay r) s = .next (State.settle { u with
         nextId := f.nextId + 1
         g := { u.g with ops := f.g.ops ++ [{ e.op with
           id := f.nextId, win := la.toNat, sent := 0#32, after := [], late := [], moved := false, fails := []
           found := none }] } })) ∧
     (∀ (l : Fin 32) (pa n : Nat), e.action = 0#8 → e.op.pend = oneLane l → Idle f → (e.op.lanes[l]).aux = 0#64 →
       ((∃ m, i = .stv m ∧ n = m.size.bytes) ∨ ∃ u, i = .sst u ∧ u.sp = false ∧ n = u.size.bytes ∧ Instr.wf i = true) →
       Held f (e.op.lanes[l]).addr .store pa →
       ∃ t ps, exec (.operandLogReplay r) s = .next t.settle ∧ t.posted = f.posted ++ ps ∧
         (ps.flatMap fun x => x.bytes) =
           (List.range n).map (fun k => (pa + k, BitVec.ofNat 8 (dataNum e.op l n / 256 ^ k))) ∧
         t.g.log = none ∧ t.g.replay = false ∧ RegistersKept f t ∧ SameMemory f t ∧ t.g.lpc = f.g.lpc) ∧
     (∀ (m : MAtom) (l : Fin 32) (pa : Nat), e.action = 0#8 → (i = .atom m ∧ m.la = 0#4 ∨ i = .red m ∧ m.la = 0#4) →
       e.op.pend = oneLane l → Idle f → Held f (e.op.lanes[l]).addr .store pa →
       Settled f pa (if m.wide8 then 8 else 4) → f.recalls = [] →
       (let n := if m.wide8 then 8 else 4
        ∃ t, exec (.operandLogReplay r) s = .next t.settle ∧
          Stored f t pa n (atomSpec m.op (8 * n) (numAt f pa n) (dataNum e.op l n) % 2 ^ (8 * n)) ∧
          (if i = .atom m then LaneRegisters f t l m.d (n / 4) (fun k => BitVec.ofNat 32 (numAt f pa n / 2 ^ (32 * k)))
           else t.g.v = f.g.v) ∧ t.g.log = none ∧ t.g.replay = false ∧ t.g.lpc = f.g.lpc)) ∧
     (∀ (m : MLoad) (l : Fin 32) (pa : Nat), e.action = 0#8 → i = .ldv m → m.la = 0#4 →
       isHalved m.size.bytes m.acc = false → e.op.pend = oneLane l → Idle f → Held f (e.op.lanes[l]).addr .load pa →
       Settled f pa m.size.bytes → f.corePoison f.t.core pa m.size.bytes = false →
       ∃ t, exec (.operandLogReplay r) s = .next t.settle ∧
         LaneRegisters f t l m.d m.size.regs (loadedWord m.size m.sx (seen f m.acc pa m.size.bytes)) ∧
         t.g.log = none ∧ t.g.replay = false ∧ SameMemory f t ∧ t.g.lpc = f.g.lpc) ∧
     (∀ (m : EMma) (pa : Nat), e.action = 0#8 → i = .mma m → EngineQuiet f → GangWaits f →
       Held f (e.op.gops.getD 1 0#64) .store pa →
       ∃ (t : State) (x : MmaOp), exec (.operandLogReplay r) s = .next t.settle ∧ t.mma = [x] ∧ x.team = f.t.tid ∧ x.group = f.g.id ∧
         x.gang = f.g.gangr ∧ x.a = m.a ∧ x.b = (e.op.gops.getD 0 0#64).toNat ∧ x.t = e.op.gops.getD 1 0#64 ∧ x.tile = pa ∧
         x.tag = (e.op.gops.getD 2 0#64).extractLsb' 0 16 ∧ x.scale = (e.op.gops.getD 3 0#64).extractLsb' 0 16 ∧
         t.g.status = .rendezvous ∧ t.g.log = none ∧ t.g.v = f.g.v ∧ t.g.lpc = f.g.lpc) ∧
     (∀ (c : ETcopy) (h : Shape), e.action = 0#8 → i = .tcopy c →
       parseShape ((e.op.gops.take 8).flatMap fun w => toBytes 8 w.toNat) = some h →
       ∃ (t : State) (x : CopyCmd), exec (.operandLogReplay r) s = .next t.settle ∧ t.copies = x :: f.copies ∧ x.shape = h ∧
         x.team = f.t.tid ∧ x.group = f.g.id ∧ x.ctr = e.op.gops.getD 10 0#64 ∧ x.started = false ∧ x.stuck = none ∧
         x.covered = e.op.cover.1 ∧ x.sources = e.op.cover.2 ∧
         (∀ q, q < h.count →
           (let v := h.vector q
            (e.op.gops.getD 8 0#64).toNat = v.getD 0 0 + 2 ^ 16 * v.getD 1 0 + 2 ^ 32 * v.getD 2 0 + 2 ^ 48 * v.getD 3 0 ∧
            (e.op.gops.getD 9 0#64).toNat = v.getD 4 0 → x.done = q)) ∧
         t.g.log = none ∧ t.g.ops = f.g.ops) ∧
     (e.action = 1#8 → exec (.operandLogReplay r) s = .next u.settle) ∧
     (∀ (l : Fin 32) (d : BitVec 7) (n : Nat) (val : Nat → W32), e.action = 2#8 → e.op.pend = oneLane l →
       ((∃ m, (i = .ldv m ∨ i = .lds m) ∧ d = m.d ∧ n = m.size.regs ∧
           val = loadedWord m.size m.sx (dataNum e.op l m.size.bytes)) ∨
         (∃ m, (i = .atom m ∨ i = .atoms m) ∧ d = m.d ∧ n = (if m.wide8 then 2 else 1) ∧
           val = fun k => BitVec.ofNat 32 (dataNum e.op l 64 / 2 ^ (32 * k))) ∨
         ∃ m, i = .casw m ∧ d = m.d ∧ n = (if m.wide32 then 8 else 4) ∧
           val = fun k => BitVec.ofNat 32 (dataNum e.op l 64 / 2 ^ (32 * k))) →
       ∃ t, exec (.operandLogReplay r) s = .next t.settle ∧ LaneRegisters f t l d n val ∧
         t = { u with g := { u.g with v := t.g.v, watch := t.g.watch, vbad := t.g.vbad } })))

namespace Sys2Proof.Claims

/-- A group whose lanes have all exited and that has nothing left: it retires (R28). -/
structure Retires (s f : State) (r : GroupRef) : Prop extends At s r f where
  exited : f.g.exited = BitVec.allOnes 32
  once : f.g.retired = false
  ops : f.g.ops = []
  fence : f.g.fence = none
  log : f.g.log = none
  held : f.g.held = []
  stop : f.g.stop = none
  status : f.g.status = .running
  free : f.contributes = false
  commands : f.commands = false
  mma : f.mma = []
  engine : (f.engine f.t.core).held = []
  posted : ∀ p ∈ f.posted, ¬ (p.team = f.t.tid ∧ p.group = f.g.id)
  group : (f.t.groups.filter fun g => g.id = f.g.id) = [f.g]
  team : (f.teams.filter fun x => x.tid = f.t.tid) = [f.t]

end Sys2Proof.Claims

/-- GROUP_RETIRE: a group whose lanes have all exited and that has nothing left retires, and with the team's last group the team
leaves and its grid counts one live team less (R28, R37). -/
def Sys2Proof.Claims.GroupRetires : Prop :=
  ∀ (s f : State) (r : GroupRef), Retires s f r → (∀ gr ∈ s.grids, gr.gid = f.t.grid → 2 ≤ gr.live) →
    ∃ t, exec (.groupRetire r) s = .next t ∧ SameMemory s t ∧
      (let others := f.t.groups.filter fun g => g.id ≠ f.g.id
       if ∀ g ∈ others, g.retired = true then
         (∀ x ∈ t.teams, x.tid ≠ f.t.tid) ∧
         (∀ gr ∈ s.grids, gr.gid = f.t.grid →
           { gr with live := gr.live - 1 } ∈ t.grids)
       else ∃ x ∈ t.teams, x.tid = f.t.tid ∧ (∀ g ∈ x.groups, g.id = f.g.id → g.retired = true) ∧ ∀ g ∈ others, g ∈ x.groups)

/-- A grid completes with its last team once its teams are all placed and its children complete: it leaves, its parent counts one
child less, and its counter, translated for writing with the grid's context, receives one addition of 1. An addition that cannot
be made, for the counter is poisoned, not present or not writable, is reported by an event, and nothing faults (R37, R263, R364,
R380). -/
def Sys2Proof.Claims.GridCompletes : Prop :=
  ∀ (s f : State) (r : GroupRef) (gr : Grid), Retires s f r →
    (∀ g ∈ f.t.groups, g.id ≠ f.g.id → g.retired = true) → gr.gid = f.t.grid → gr ∈ s.grids →
    (∀ x ∈ s.grids, x.gid = gr.gid → x = gr) → gr.placedAll = true → gr.live = 1 → gr.children = 0 →
    (∀ p, gr.parent = some p → p ≠ gr.gid ∧ ∀ x ∈ s.grids, x.gid = p → 2 ≤ x.children) →
    ∃ t, exec (.groupRetire r) s = .next t ∧ (∀ x ∈ t.teams, x.tid ≠ f.t.tid) ∧ (∀ x ∈ t.grids, x.gid ≠ gr.gid) ∧
      (∀ p, gr.parent = some p → ∀ x ∈ s.grids, x.gid = p → { x with children := x.children - 1 } ∈ t.grids) ∧
      (∀ x ∈ s.grids, x.gid ≠ gr.gid → some x.gid ≠ gr.parent → x ∈ t.grids) ∧
      (gr.record.ctr = 0#64 → SameMemory s t) ∧
      (gr.record.ctr ≠ 0#64 → (cellUp gr.record.scope = true → s.recalls = []) →
        (let die := (gr.lastCore.getD 0) / 48
         let event (why : Nat) : Prop := EventOpen s → EventWritten s t 7
           [(1, 1, why), (4, 4, gr.ctx.toNat), (24, 8, gr.record.ctr.toNat)] fun _ => False
         (∀ pb, HeldAtDie s die gr.ctx gr.record.ctr .store pb →
           (Canonical s → CounterHere s pb → Stored s t pb 8 ((s.rd pb 8 + 1) % 2 ^ 64)) ∧
           (LineUnheld s (lineOf pb) → s.poisoned pb = true → event 1)) ∧
         (canonical gr.record.ctr = false → event 2) ∧
         (∀ l : Leaf, canonical gr.record.ctr = true → s.tlbFind [.die die] gr.ctx (vaNum gr.record.ctr) = some l →
           (s.useLeaf l (vaNum gr.record.ctr) .store = .notPresent s → event 2) ∧
           (s.useLeaf l (vaNum gr.record.ctr) .store = .permission s → event 3))))

/-- The events of faults already found, the replay of the operand log, the retirement of a group and the completion of a grid (R28, R30, R37, R38, R146, R263, R303, R307-R309, R343, R364, R380). The events that log entries mark: 20, 22 and 83, and 61 (DEDUCED: an entry parks every lane of PEND where one was parked). -/
def Obligations.FaultProgress : Prop :=
  Claims.FaultEvents ∧ Claims.LogReplay ∧ Claims.GroupRetires ∧ Claims.GridCompletes

/-! ### Completion of what is in flight (01 R26; 04 R95, R96, R109; 05 R143; 08 R237-R241) -/

namespace Sys2Proof.Claims

/-- An operation of the group has the lanes `m` still to perform, and nothing earlier of the group holds it back. -/
structure InFlight (f : State) (o : Op) (m : Mask) : Prop where
  mine : o ∈ f.g.ops
  unique : ∀ x ∈ f.g.ops, x.id = o.id → x = o
  others : ∀ x ∈ f.g.ops, x.isOpen = true
  pend : o.pend = m
  fails : o.fails = []
  late : o.late = []
  ready : f.gate o = true
  undrained : f.g.draining = false

/-- A line that is homed here, that nothing holds back or has changed hands, under its current key. -/
structure LineFree (s : State) (line : Nat) : Prop where
  canonical : Canonical s
  aligned : line % 128 = 0
  here : s.here line = true
  thawed : s.frozen line = false
  quiet : ∀ r ∈ s.recalls, r.line ≠ line
  mine : ∀ e ∈ s.dir, e.line ≠ line
  keyed : ∀ a, lineOf a = line → s.here a = true ∧ ∀ k, s.keyOf a = some k →
    ((s.tags.find? fun t => t.1 = line).map fun t => (t.2.1, t.2.2)).getD (k, 0) = (k, s.genOf k)

/-- The posted store waits for no new walk, and no earlier store of its core holds it back: it is no release at die scope or wider
behind one, and touches no byte of one. The two parts of a lane's 16 bytes do not hold each other back (R92, R98, R103). -/
def Unheld (s : State) (e : Posted) : Prop :=
  ∀ x ∈ s.posted, x.moved = false ∧ (x.core = e.core → x.id < e.id → ¬ (x.batch = e.batch ∧ x.part = e.part) →
    ¬ (e.release = true ∧ dieUp e.scope = true) ∧ ∀ c ∈ x.bytes, ∀ d ∈ e.bytes, c.1 ≠ d.1)

/-- Every lane of `m` advances its LPC by 1, and no other moves. -/
def LanesAdvance (s t : State) (m : Mask) : Prop :=
  ∀ l : Fin 32, t.g.lpc[l] = if m.getLsbD l.val = true then s.g.lpc[l] + 1#32 else s.g.lpc[l]

/-- Group `r` alone of its core waits in GROW, for `n` registers. -/
structure LoneGrower (s : State) (r : GroupRef) (f : State) (issue : Mask) (n : Nat) (q : BitVec 4) : Prop where
  at_ : At s r f
  waits : ∃ since, f.g.status = .grow issue n q since
  oneTeam : (s.teams.filter fun x => x.tid = f.t.tid) = [f.t]
  oneGroup : (f.t.groups.filter fun x => x.id = f.g.id) = [f.g]
  alone : ∀ x ∈ s.teams, x.core = f.t.core → ∀ g ∈ x.groups, (∃ i n q k, g.status = .grow i n q k) →
    x.tid = f.t.tid ∧ g.id = f.g.id
  grows : f.g.n < n

end Sys2Proof.Claims

/-- LONG_LATENCY_COMPLETE and SPLIT_DATA_RETURN bind a lane of a load: the destination receives the bytes the lane would read
now, a parked lane is runnable again, and the operation is gone. Inside a window a result of several registers is held, and each
event writes one or more of them, all once the window has closed: what R144 leaves open the model does so (log 21, a design
choice). LONG_LATENCY_COMPLETE of a long floating word writes the results it holds for the lanes of the event and raises their
flags; in a window the two halves of a result are written apart (R26, R46, R143, R144; log 21). -/
def Sys2Proof.Claims.LoadsBind : Prop :=
  (∀ (s f : State) (r : GroupRef) (o : Op) (m : MLoad) (l : Fin 32) (ms : Mask) (pa : Nat) (e : Instr), At s r f →
    InFlight f o (oneLane l) → ms.getLsbD l.val = true → o.instr = .ldv m → isHalved m.size.bytes m.acc = false →
    (e = .splitDataReturn r o.id ms ∧ o.parked.getLsbD l.val = true ∨
      e = .longLatencyComplete r o.id ms ∧ o.parked.getLsbD l.val = false) →
    Held f (o.lanes[l]).addr .load pa → Settled f pa m.size.bytes → f.corePoison f.t.core pa m.size.bytes = false →
    ∃ t : State, exec e s = .next t.settle ∧
      (let val := loadedWord m.size m.sx (seen f m.acc pa m.size.bytes)
       if o.win = 0 ∨ o.parked.getLsbD l.val = true ∨ m.size.regs = 1 then
         LaneRegisters f t l m.d m.size.regs val ∧ t.g.ops = f.g.ops.filter (fun x => x.id ≠ o.id)
       else (∀ (k : Fin 128) (j : Fin 32), t.g.vr k j = f.g.vr k j) ∧ ∃ o' ∈ t.g.ops, o'.id = o.id ∧ o'.pend = 0#32 ∧
         o'.late = (List.range m.size.regs).map fun k => (l, (regUp m.d k).val, val k)) ∧
      (∀ j : Fin 32, t.g.lane[j] =
        if j = l ∧ o.parked.getLsbD l.val = true ∧ f.g.lane[j] = .parkedSplit then .runnable else f.g.lane[j]) ∧
      t = { f with
            l1 := t.l1
            g := { f.g with
              v := t.g.v, watch := t.g.watch, vbad := t.g.vbad, lane := t.g.lane, ops := t.g.ops, old := t.g.old } }) ∧
  (∀ (s f : State) (r : GroupRef) (o : Op) (m : MLoad) (ms : Mask), At s r f → o ∈ f.g.ops →
    (∀ x ∈ f.g.ops, x.id = o.id → x = o) → o.instr = .ldv m → f.gate o = true →
    f.g.draining = false → o.pend = 0#32 → o.fails = [] → o.late ≠ [] →
    (∀ x ∈ o.late, ms.getLsbD x.1.val = true ∧ x.2.1 < 128) → (o.late.map fun x => (x.1, x.2.1)).Nodup →
    ∃ (t : State) (now : List (Fin 32 × Nat × W32)), exec (.longLatencyComplete r o.id ms) s = .next t.settle ∧
      now ≠ [] ∧ (∀ x ∈ now, x ∈ o.late) ∧ (o.win = 0 → ∀ x ∈ o.late, x ∈ now) ∧
      (∀ (k : Fin 128) (l : Fin 32) (x : W32), (l, k.val, x) ∈ now → t.g.vr k l = x) ∧
      (∀ (k : Fin 128) (l : Fin 32), (∀ x, (l, k.val, x) ∉ now) → t.g.vr k l = f.g.vr k l) ∧
      t.g.ops = (f.g.ops.map fun x =>
        if x.id = o.id then { o with late := o.late.filter fun y => !now.contains y } else x).filter Op.isOpen ∧
      t = { f with g := { f.g with v := t.g.v, watch := t.g.watch, vbad := t.g.vbad, ops := t.g.ops } }) ∧
  (∀ (s f : State) (r : GroupRef) (o : Op) (ms : Mask) (d : BitVec 7) (la : BitVec 4) (wide : Bool), At s r f →
    o ∈ f.g.ops → (∀ x ∈ f.g.ops, x.id = o.id → x = o) → f.g.draining = false → o.fails = [] → o.late = [] →
    o.parked = 0#32 →
    ((∃ w : WBin, w.d = d ∧ (o.instr = .fdivF64 w la ∧ wide = true ∨ o.instr = .fdivF32 w la ∧ wide = false)) ∨
      (∃ w : WUn, w.d = d ∧ (o.instr = .fsqrtF64 w la ∧ wide = true ∨
        (o.instr = .fsqrtF32 w la ∨ o.instr = .frcp w la ∨ o.instr = .frsq w la ∨ o.instr = .fexp2 w la ∨
          o.instr = .flog2 w la ∨ o.instr = .fsin w la ∨ o.instr = .fcos w la) ∧ wide = false))) →
    ∃ t : State, exec (.longLatencyComplete r o.id ms) s = .next t.settle ∧
      (if wide = true ∧ o.win ≠ 0 then ∀ (k : Fin 128) (j : Fin 32), t.g.vr k j = f.g.vr k j
       else if wide then PairResult f t (o.pend &&& ms) d (fun l x => x = (o.lanes[l]).data[1] ++ (o.lanes[l]).data[0])
       else LaneResult f t (o.pend &&& ms) d (fun l x => x = (o.lanes[l]).data[0])) ∧
      RaisesFlags f t (o.pend &&& ms) (fun l => (o.lanes[l]).aux.extractLsb' 0 5) ∧
      (let o' : Op := { o with
         pend := o.pend &&& ~~~ms
         late := if wide = true ∧ o.win ≠ 0 then
           (lanesOf (o.pend &&& ms)).flatMap fun l =>
             [(l, (regUp d 0).val, (o.lanes[l]).data[0]), (l, (regUp d 1).val, (o.lanes[l]).data[1])]
           else [] }
       t.g.ops = (f.g.ops.map fun x => if x.id = o.id then o' else x).filter Op.isOpen) ∧
      t = { f with
            g := { f.g with v := t.g.v, watch := t.g.watch, vbad := t.g.vbad, fpctl := t.g.fpctl, ops := t.g.ops } })

/-- A strong access of 16 bytes that has made one half makes the other in its completion event: a load receives the two halves
in their order; STS and BINIT write the eight bytes that were left. The operation is then gone (R92, R239). -/
def Sys2Proof.Claims.SecondHalfFollows : Prop :=
  (∀ (s f : State) (r : GroupRef) (o : Op) (m : MLoad) (l : Fin 32) (ms : Mask) (h x : Nat), At s r f →
    InFlight f o (oneLane l) → ms.getLsbD l.val = true → isHalved m.size.bytes m.acc = true → h < 2 →
    (o.lanes[l]).aux.toNat = h + 1 → o.parked = 0#32 → o.win = 0 →
    (let va : W64 := (o.lanes[l]).addr + BitVec.ofNat 64 (8 * (1 - h))
     let first := ofBytes ((LaneOp.bytes (o.lanes[l])).take 8)
     (o.instr = .ldv m ∧ (∃ pa, Held f va .load pa ∧ Settled f pa 8 ∧ f.corePoison f.t.core pa 8 = false ∧ x = seen f m.acc pa 8) ∨
       o.instr = .lds m ∧ ScratchRange f va 8 ∧ x = scrNum f va.toNat 8) →
     ∃ t : State, exec (.longLatencyComplete r o.id ms) s = .next t.settle ∧
       LaneRegisters f t l m.d 4 (loadedWord m.size m.sx (if h = 0 then first + 2 ^ 64 * x else x + 2 ^ 64 * first)) ∧
       t.g.ops = f.g.ops.filter (fun y => y.id ≠ o.id) ∧
       t = { f with
             l1 := t.l1
             g := { f.g with v := t.g.v, watch := t.g.watch, vbad := t.g.vbad, ops := t.g.ops, old := t.g.old } })) ∧
  (∀ (s f : State) (r : GroupRef) (o : Op) (ms pend : Mask) (h : Nat), At s r f → InFlight f o pend → pend &&& ms ≠ 0#32 →
    ((∃ m, o.instr = .sts m ∧ isHalved m.size.bytes m.acc = true ∧ pend = oneLane (lowLane pend)) ∨ ∃ g, o.instr = .binit g) →
    h < 2 → o.parked = 0#32 →
    (let lo := o.lanes[lowLane pend]
     let a := lo.addr.toNat + 8 * (1 - h)
     lo.aux.toNat = h + 1 →
     ∃ t : State, exec (.longLatencyComplete r o.id ms) s = .next t.settle ∧
       ScratchStored f t a 8 (ofBytes (((LaneOp.bytes lo).drop (8 * (1 - h))).take 8)) ∧
       (∀ w, w ∈ t.t.scrPoison ↔ w ∈ f.t.scrPoison ∧ ¬ (a ≤ 4 * w ∧ 4 * w + 4 ≤ a + 8)) ∧
       t.g.ops = f.g.ops.filter (fun y => y.id ≠ o.id) ∧
       t = { f with
             mma := t.mma, engines := t.engines, t := { f.t with scr := t.t.scr, scrPoison := t.t.scrPoison }
             g := { f.g with ops := t.g.ops, old := t.g.old } }))

/-- REGISTRATION_ACK performs a posted store whose line is free and that no earlier store of its core holds back: its home's
memory holds its bytes, the store is no longer pending, its core's L1 has the words registered and no other core's has
(R95, R96, R98, R103). FENCE_COMPLETE ends a fence whose writes are performed and whose group has nothing open that a fence
orders, and at die scope or wider empties the core's L1 of copies; at cell and system scope it waits for every recall (R109,
R221). -/
def Sys2Proof.Claims.WritesLand : Prop :=
  (∀ (s : State) (e : Posted) (pa : Nat) (bs : List Byte), s.power ≠ .off → (s.posted.filter fun x => x.id = e.id) = [e] →
    e.bytes = cellsAt pa bs → bs ≠ [] → (∀ k, k < bs.length → lineOf (pa + k) = lineOf pa) → LineFree s (lineOf pa) →
    Unheld s e → (∀ x ∈ s.posted, e.pair = true → x.batch = e.batch → x.part = e.part → Unheld s x) →
    (e.release = true → cellUp e.scope = true → s.recalls = []) →
    ∃ t : State, exec (.registrationAck e.id) s = .next t ∧
      (∀ k (hk : k < bs.length), t.mem.get (pa + k) = bs[k] ∧
        (∃ w ∈ t.l1, w.core = e.core ∧ w.word = (pa + k) / 4 ∧ w.reg = true) ∧
        ∀ w ∈ t.l1, w.word = (pa + k) / 4 → w.reg = true → w.core = e.core) ∧
      (∀ b, ¬ (pa ≤ b ∧ b < pa + bs.length) → t.mem.get b = s.mem.get b) ∧
      t.posted = s.posted.filter (fun x => x.id ≠ e.id) ∧
      t = { s with
            mem := t.mem, tags := t.tags, hazes := t.hazes, cellTaken := t.cellTaken, tiles := t.tiles, l1 := t.l1
            posted := t.posted, poison := t.poison }) ∧
  (∀ (s f : State) (r : GroupRef) (sc : Scope) (ids : List Nat), At s r f → f.g.fence = some (sc, ids) →
    (∀ o ∈ f.g.ops, o.instr.isLongFloat = true ∨ o.instr.isMma = true ∨ o.instr.isPrefetch = true) → f.g.draining = false →
    f.g.log = none → (cellUp sc = true → f.recalls = []) → (∀ x ∈ f.posted, x.id ∉ ids) →
    ∃ t : State, exec (.fenceComplete r) s = .next t.settle ∧ t = { f with l1 := t.l1, g := { f.g with fence := none, old := [] } } ∧
      ∀ w, w ∈ t.l1 ↔ w ∈ f.l1 ∧ (dieUp sc = true → w.core = f.t.core → w.reg = true))

/-- Loads bind, posted stores are performed, fences end (R26, R92, R95, R96, R98, R103, R109, R143, R239). That a result of several registers is held in its window and written register by register is log 21, a design choice where R144 leaves it open. -/
def Obligations.AccessesLand : Prop :=
  Claims.LoadsBind ∧ Claims.SecondHalfFollows ∧ Claims.WritesLand

/-- CWAIT_WAKE and BWAIT_WAKE look again at what the group waits for: reached, the lanes that issued the word advance and the
group runs; not reached, it goes on waiting (R237, R239). -/
def Sys2Proof.Claims.WaitersWake : Prop :=
  (∀ (s f : State) (r : GroupRef) (g : GCtr) (issue : Mask) (va goal : W64) (x : Nat), At s r f →
    Idle f → f.g.status = .cwait (.cwait g) issue va goal →
    (if g.sp then ScratchRange f va 8 ∧ x = scrNum f va.toNat 8
     else ∃ pa, Held f va .load pa ∧ Settled f pa 8 ∧ f.corePoison f.t.core pa 8 = false ∧
       x = seen f (.strong .st g.scope) pa 8) →
    ∃ t : State, exec (.cwaitWake r) s = .next t.settle ∧
      t = { f with l1 := t.l1, g := { f.g with lpc := t.g.lpc, status := t.g.status, old := t.g.old } } ∧
      if goal.toNat ≤ x then t.g.status = .running ∧ t.g.old = [] ∧ LanesAdvance f t issue else t.g = f.g) ∧
  (∀ (s f : State) (r : GroupRef) (g : GBar) (issue : Mask) (va : W64) (goal : W32), At s r f →
    Idle f → f.g.status = .bwait (.bwait g) issue va goal → f.scrPoisoned va.toNat 12 = false →
    ∃ t : State, exec (.bwaitWake r) s = .next t.settle ∧ t = { f with g := { f.g with lpc := t.g.lpc, status := t.g.status, old := t.g.old } } ∧
      if (scrNum f (va.toNat + 8) 4 + 2 ^ 32 - goal.toNat) % 2 ^ 32 < 2 ^ 31 then t.g.status = .running ∧ t.g.old = [] ∧ LanesAdvance f t issue
      else t.g = f.g)

/-- GROW_GRANT gives a waiting GROW its registers once the core's 256 blocks allow it: its predicate is set, every register
below the old count is kept, and what the new ones hold is free (log 8). GROW_DEADLOCK_FAIL: where no group of the core can go
on and the blocks do not suffice, the GROW completes with a false predicate. SHRINK_RELEASE: a waiting SHRINK releases its
registers once no write in flight targets them (R42, R240, R241). -/
def Sys2Proof.Claims.GrowEvents : Prop :=
  (∀ (s f : State) (r : GroupRef) (issue : Mask) (n : Nat) (q : BitVec 4), LoneGrower s r f issue n q →
    s.usedBlocks f.t.core + (n - f.g.n) / 16 ≤ 256 →
    ∃ t : State, exec (.growGrant f.t.core) s = .next t.settle ∧ t.g.n = n ∧ ScalarTest f t q true ∧ LanesAdvance f t issue ∧
      t.g.status = .running ∧ (∀ (k : Fin 128) (l : Fin 32), k.val < f.g.n → t.g.vr k l = f.g.vr k l) ∧
      t = { f with
            due := f.due ++ [.growGrant f.t.core], blockOwner := t.blockOwner
            g := { f.g with n := n, v := t.g.v, q := t.g.q, lpc := t.g.lpc, status := .running, blocks := t.g.blocks } }) ∧
  (∀ (s f : State) (r : GroupRef) (issue : Mask) (n : Nat) (q : BitVec 4), LoneGrower s r f issue n q →
    256 < s.usedBlocks f.t.core + (n - f.g.n) / 16 →
    (∀ x ∈ s.teams, x.core = f.t.core → ∀ g ∈ x.groups, g.id ≠ f.g.id ∨ x.tid ≠ f.t.tid →
      g.retired = true ∨ g.runnable = 0#32 ∧ g.exited ≠ BitVec.allOnes 32) →
    ∃ t : State, exec (.growDeadlockFail f.t.core) s = .next t.settle ∧ ScalarTest f t q false ∧ LanesAdvance f t issue ∧
      t = { f with g := { f.g with q := t.g.q, lpc := t.g.lpc, status := .running } }) ∧
  (∀ (s f : State) (r : GroupRef) (n : Nat), At s r f → f.g.shrinkTo = some n →
    exec (.shrinkRelease r) s = .next (if f.g.clearAbove n then
      State.settle { f with g := { f.g with n := n, blocks := f.g.blocks.take (n / 16), shrinkTo := none }, due := f.due ++ [.growGrant f.t.core] } else f.settle))

/-- CWAIT, BWAIT, GROW and SHRINK: how a wait ends (R42, R237, R239-R241). -/
def Obligations.WaitsEnd : Prop :=
  Claims.WaitersWake ∧ Claims.GrowEvents

/-! ### The matrix engine, tiles and copies in flight (03 R77-R86; 08 R229, R238; 09 R246-R258) -/

namespace Sys2Proof.Claims

/-- Between instructions: the module is on, no group is the current one, no team is on its way out. -/
structure Between (s : State) : Prop where
  on : s.power ≠ .off
  idle : s.t.tid = 0
  teams : ∀ x ∈ s.teams, x.tid ≠ 0 ∧ x.gone = false

/-- Exactly the members of one gang wait at the rendezvous of core `core`, and agree (R246). -/
structure GangComplete (s : State) (core tid : Nat) (gang : W32) : Prop where
  idle : Between s
  some_ : s.mma ≠ []
  agree : ∀ m ∈ s.mma, ∀ x ∈ s.mma, m.team = tid ∧ m.gang = gang ∧ m.fmt = x.fmt ∧ m.free = x.free ∧ m.reuse = x.reuse
  all : ∀ k ∈ membersOf gang, ∃ m ∈ s.mma, m.group = k
  team : ∃ x, (s.teams.filter fun t => t.tid = tid) = [x] ∧ x.core = core ∧ (x.groups.map (·.id)).Nodup ∧
    ∀ k ∈ membersOf gang, ∃ g ∈ x.groups, g.id = k ∧ g.retired = false ∧ g.gangr = gang
  free : (s.engine core).places.length + (s.engine core).latched.length < 2
  held : (s.engine core).held = []
  unheld : ∀ m ∈ s.mma, s.mmaHeld m = false

/-- The row of an input format of an MMA: the bytes of an element, its format, that of the partial (R77, R247). -/
def mmaRow : MmaFmt → Nat × Fmt × Fmt
  | .f64 => (8, fmtF64, fmtF64)
  | .f32 => (4, fmtF32, fmtF32)
  | .bf16 => (2, fmtBf16, fmtF32)
  | .f16 => (2, fmtF16, fmtF32)
  | .f8e4 => (1, fmtE4m3, fmtF32)
  | .f8e5 => (1, fmtE5m2, fmtF32)
  | .i8 => (1, fmtF32, fmtF32)

/-- Element `k` of an A row: the lanes of its register, lane 0 first, hold its 128 bytes in order (R247). -/
def aPart (f : MmaFmt) (row : Vector W32 32) (k : Nat) : Nat :=
  ofBytes (((row.toList.flatMap fun w => toBytes 4 w.toNat).drop ((mmaRow f).1 * k)).take (mmaRow f).1)

/-- Element (k, j) of the B operand, at byte e × (64k + j) (R247). -/
def bPart (f : MmaFmt) (bs : List Byte) (k j : Nat) : Nat := ofBytes ((bs.drop ((mmaRow f).1 * (64 * k + j))).take (mmaRow f).1)

/-- What an update that leaves the counter at `pa` at `x` does at its home: at 0 every trigger there fires, the grids held
behind them join the queues of their levels, in the order of the triggers; at any other value nothing fires (R262). -/
def Fires (s t : State) (pa x : Nat) : Prop :=
  let fired := if x = 0 then (s.triggers.filter fun y => y.addr = pa).map fun y => y.grid else []
  t.triggers = (s.triggers.filter fun y => ¬ (x = 0 ∧ y.addr = pa)) ∧
    t.grids = (s.grids.map fun g => if g.gid ∈ fired then { g with waiting := false } else g) ∧
    ∀ k : Fin 4, t.queues[k] = s.queues[k] ++ (fired.filter fun n =>
      ((s.grids.find? fun g => g.gid = n).map fun g => g.level % 4) = some k.val).map QEntry.grid

/-- A counter homed here that an addition by virtual address reaches at once; the triggers at it hold grids of this package. -/
structure CounterOpen (s : State) (pb : Nat) : Prop where
  line : LineUnheld s (lineOf pb)
  writable : HwWritable s pb 8
  sound : s.poisoned pb = false
  plain : ∀ y ∈ s.tiles, lineOf pb ∉ y.frames
  near : ∀ x ∈ s.triggers, x.addr = pb → x.pkg = s.pkg

/-- A command of a group may begin: no operation that it waits for is unbound, no write that goes before it is pending, and at
cell or system scope no recall is in progress (R103, R104, R113). -/
def MayBegin (s f : State) (r : GroupRef) (sc : Scope) (behind after : List Nat) : Prop :=
  (∀ p ∈ f.g.ops, p.id ∈ behind → p.unbound = false) ∧
    (∀ e ∈ s.posted, e.id ∉ after ∧ ¬ (e.team = r.team ∧ e.group = r.group ∧ e.part.1 ∈ behind)) ∧
    (cellUp sc = true → s.recalls = [])

/-- The tile with number `id` becomes `y`; every other tile stays. -/
def TileBecomes (s t : State) (id : Nat) (y : Tile) : Prop := t.tiles = s.tiles.map fun x => if x.id = id then y else x

end Sys2Proof.Claims

/-- An element of a partial is the sum of R77 over the elements of the A row and the B operand, scaled by sa + sb for the FP8
forms (R78), and rounded once to nearest-even; `.I8` is exact. A sum that cancels to zero is +0; a NaN among the operands, or an
infinity times a zero, gives the canonical NaN (R64, R66, R68, R76-R78, R247). -/
def Sys2Proof.Claims.PartialIsRoundedSum : Prop :=
  ∀ (f : MmaFmt) (sc : BitVec 16) (row : Vector W32 32) (bs : List Byte) (j : Nat), j < 64 → bs.length = 8192 →
    (let e := (mmaRow f).1
     let fi := (mmaRow f).2.1
     let out := (mmaRow f).2.2
     let n := 128 / e
     let p := (partialElem f sc row bs j).toNat
     (f = .i8 → partialElem f sc row bs j = (BitVec.ofInt 32 ((List.range 128).map fun k =>
       (BitVec.ofNat 8 (aPart f row k)).toInt * (BitVec.ofNat 8 (bPart f bs k j)).toInt).sum).zeroExtend 64) ∧
     (f ≠ .i8 →
       (∀ (x y : Nat → ℝ), (∀ k, k < n → FinVal fi (aPart f row k) (x k) ∧ FinVal fi (bPart f bs k j) (y k)) →
         (let scale : Int := if f = .f8e4 ∨ f = .f8e5 then (sc.extractLsb' 0 8).toInt + (sc.extractLsb' 8 8).toInt else 0
          let v : ℝ := ((List.range n).map fun k => x k * y k).sum * (2 : ℝ) ^ scale
          (v ≠ 0 → ∃ fl : Flags, Rounded out .rne v (p, fl)) ∧
          (v = 0 → (∃ k, k < n ∧ x k * y k ≠ 0) → p = 0))) ∧
       ((∃ k, k < n ∧ ((fi.decode (aPart f row k)).isNan = true ∨ (fi.decode (bPart f bs k j)).isNan = true ∨
           ((fi.decode (aPart f row k)).isInf = true ∧ (fi.decode (bPart f bs k j)).isZero = true) ∨
           ((fi.decode (aPart f row k)).isZero = true ∧ (fi.decode (bPart f bs k j)).isInf = true))) → p = out.cnan)))

/-- A complete gang takes a free place of its core's engine, its members in ascending order, and its groups run again; the latch
event reads A and B, makes the partial, and completes the MMAs of the gang, which holds A when it asked to; a latched
contribution leaves for its tile in MMA order. A register of A that holds an uncorrectable error by then withdraws its member's
MMA, and the other members wait at the rendezvous again: the spec has A checked at issue, and the model's choice is log 83
(R246-R249, R252, R369). -/
def Sys2Proof.Claims.GangEvents : Prop :=
  (∀ (s : State) (core tid : Nat) (gang : W32), GangComplete s core tid gang →
    ∃ (t : State) (r : Rendezvous), exec (.enginePlaceFree core) s = .next t ∧ t.mma = [] ∧
      (t.engine core).places = (s.engine core).places ++ [r] ∧ (t.engine core).latched = (s.engine core).latched ∧
      r.members.Perm s.mma ∧ r.members.Pairwise (fun a b => a.group ≤ b.group) ∧
      (∀ x ∈ t.teams, x.tid = tid → ∀ g ∈ x.groups, g.id ∈ s.mma.map (·.group) → g.status ≠ .rendezvous) ∧
      SameMemory s t) ∧
  (∀ (s : State) (core : Nat) (h : MmaOp) (ms : List MmaOp) (rest : List Rendezvous), Between s →
    (s.engine core).places = ⟨h :: ms⟩ :: rest → (s.engine core).latched = [] → s.stalled core = false →
    (s.engine core).held = [] → h.dirty = [] →
    (∀ m ∈ h :: ms, ∃ f, s.loadFocus ⟨m.team, m.group⟩ = some f ∧ f.g.watch = some [] ∧
      ∀ b ∈ f.g.vbad, ¬ (m.a.toNat ≤ b.1 ∧ b.1 < m.a.toNat + 16)) →
    ∃ (t : State) (c : Contribution), exec (.mmaLatchEvent core) s = .next t ∧ (t.engine core).places = rest ∧
      (t.engine core).latched = [c] ∧ c.members = (h :: ms).map (fun m => ⟨m.group, m.lpc, m.waitm⟩) ∧ c.team = h.team ∧ c.fmt = h.fmt ∧
      c.free = h.free ∧ c.tile = h.tile ∧ c.tag = h.tag ∧ c.t = h.t ∧ c.rows = 16 * (ms.length + 1) ∧
      c.elems.length = 1024 * (ms.length + 1) ∧
      (∀ (q k j : Nat) (hq : q < (h :: ms).length) (f fh : State), k < 16 → j < 64 →
        s.loadFocus ⟨((h :: ms)[q]).team, ((h :: ms)[q]).group⟩ = some f → s.loadFocus ⟨h.team, h.group⟩ = some fh →
        c.elems.getD (64 * (16 * q + k) + j) 0#64 =
          partialElem h.fmt h.scale (f.g.v[(regUp ((h :: ms)[q]).a k).val]) (fh.scrBytes h.b 8192) j) ∧
      ((t.engine core).held = [] ↔ h.reuse = false) ∧ SameMemory s t) ∧
  (∀ (s : State) (core : Nat) (ms : List MmaOp) (rest : List Rendezvous) (bad : MmaOp → Bool), Between s →
    (s.engine core).places = ⟨ms⟩ :: rest → (s.engine core).latched = [] → s.stalled core = false →
    (s.engine core).held = [] → (ms.map fun m => m.op).Nodup →
    (∀ m ∈ ms, ∃ f, s.loadFocus ⟨m.team, m.group⟩ = some f ∧
      (bad m = true ↔ ∃ b ∈ f.g.vbad, m.a.toNat ≤ b.1 ∧ b.1 < m.a.toNat + 16)) → (∃ m ∈ ms, bad m = true) →
    ∃ t : State, exec (.mmaLatchEvent core) s = .next t ∧ (t.engine core).places = rest ∧ (t.engine core).latched = [] ∧
      t.mma = s.mma ++ ms.filter (fun m => !bad m) ∧ t.transit = s.transit ∧ SameMemory s t) ∧
  (∀ (s : State) (core : Nat) (c : Contribution) (rest : List Contribution), s.power ≠ .off →
    (s.engine core).latched = c :: rest → s.stalled core = false → s.here c.tile = true → s.mma = [] →
    ∃ t : State, exec (.mmaContributionSend core) s = .next t ∧ t.transit = s.transit ++ [c] ∧
      (t.engine core).latched = rest ∧ (t.engine core).places = (s.engine core).places ∧
      t = { s with engines := t.engines, transit := t.transit })

/-- The matrix engine: the elements of a partial, and the events of a gang's MMA (R64, R66, R76-R78, R246-R249, R252, R369); log 83 is a design choice. -/
def Obligations.EngineEvents : Prop :=
  Claims.PartialIsRoundedSum ∧ Claims.GangEvents

/-- A contribution that arrives at its tile: one of another format, size or mode, or with a tag out of range or taken, is
dropped, and the tile notes a tag error; in free mode, or with the next tag, it is merged; ahead of its turn it is held, at most
four, and a fifth is refused and stays with its engine. With the next tag it is merged at once, and then each held one whose tag
has come up, in tag order. A signalled engine sends again. A tile whose timer runs out expires: its lines are poisoned, the tag
it misses is remembered, and its counter, if it has one, grows by 1 + 2^33 (R81, R82, R84, R85, R255). -/
def Obligations.TileEvents : Prop :=
  (∀ (s : State) (c : Contribution) (x : Tile) (rest : List Contribution), s.power ≠ .off →
    s.transit = c :: rest → (∀ y ∈ rest, y.id ≠ c.id) → c.refused = false → s.here c.tile = true →
    (s.tiles.find? fun y => y.base = c.tile) = some x → (s.tiles.filter fun y => y.id = x.id) = [x] → x.closing = false →
    x.refusedFar = [] →
    ∃ t : State, exec (.tileContributionArrival c.id) s = .next t ∧
      t = { s with tiles := t.tiles, transit := t.transit } ∧
      (let off := (c.tag.toNat + 2 ^ 16 - x.next.toNat) % 2 ^ 16
       let merged : Tile := { x with
         elems := List.zipWith (mergeElem x.fmt) x.elems c.elems, merged := x.merged + 1, next := x.next + 1#16
         poisoned := if c.poison then x.frames else x.poisoned, refusedBy := [], refusedFar := [] }
       if c.fmt.tile ≠ x.fmt ∨ c.rows ≠ x.rows ∨ c.free ≠ x.free ∨
           (x.free = false ∧ (x.n - x.merged ≤ off ∨ off ≠ 0 ∧ ∃ k ∈ x.kept, k.tag = c.tag)) then
         t.transit = rest ∧ TileBecomes s t x.id { x with tagError := true }
       else if x.free = true then t.transit = rest ∧ TileBecomes s t x.id merged
       else if off = 0 then
         (x.kept.map fun y => y.tag).Nodup → x.kept.length ≤ 4 →
         ∃ d : List Contribution, t.transit = rest ∧
           (d.map fun y => y.tag) = (List.range d.length).map (fun k => c.tag + BitVec.ofNat 16 (k + 1)) ∧
           (∀ y ∈ d, y ∈ x.kept) ∧ (∀ y ∈ x.kept, y.tag ≠ c.tag + BitVec.ofNat 16 (d.length + 1)) ∧
           TileBecomes s t x.id { merged with
             elems := (c :: d).foldl (fun es y => List.zipWith (mergeElem x.fmt) es y.elems) x.elems
             merged := x.merged + d.length + 1, next := x.next + BitVec.ofNat 16 (d.length + 1)
             poisoned := if (c :: d).any (fun y => y.poison) then x.frames else x.poisoned
             kept := x.kept.filter fun y => !d.contains y }
       else
         if x.kept.length < 4 then t.transit = rest ∧ TileBecomes s t x.id { x with kept := x.kept ++ [c] }
         else t.transit = { c with refused := true } :: rest ∧
           TileBecomes s t x.id { x with refusedBy := x.refusedBy ++ [c.id] })) ∧
  (∀ (s : State) (c : Contribution), s.power ≠ .off → (s.transit.filter fun x => x.id = c.id) = [c] → c.refused = true →
    s.here c.tile = true →
    ∃ t : State, exec (.engineResend c.id) s = .next t ∧
      if ∃ x ∈ s.tiles, c.id ∈ x.refusedBy then t = s
      else t = { s with
        transit := s.transit.map fun x => if x.id = c.id then { x with refused := false, signalled := false } else x }) ∧
  (∀ (s : State) (x : Tile), s.power ≠ .off → (s.tiles.filter fun y => y.id = x.id) = [x] →
    x.merged < x.n → (x.closing = true ∨ x.free = false ∧ x.kept ≠ []) →
    x.refusedFar = [] → (∀ l ∈ x.frames, s.here l = true) →
    (∀ c ∈ s.transit, c.tile = x.base → c.refused = false) →
    ∃ t : State, exec (.tileTimeout x.id) s = .next t ∧ t.expired = ⟨x.base, x.va, x.next⟩ :: s.expired ∧
      (x.ctr = 0#64 → t.tiles = s.tiles.filter (fun y => y.id ≠ x.id) ∧ (∀ l, l ∈ t.poison ↔ l ∈ s.poison ∨ l ∈ x.frames) ∧
        t = { s with tiles := t.tiles, transit := t.transit, poison := t.poison, expired := t.expired }) ∧
      ∀ pb, x.ctr ≠ 0#64 → HeldAtDie s x.die x.ctx x.ctr .store pb → CounterOpen s pb → Canonical s →
        (cellUp x.scope = true → s.recalls = []) → Stored s t pb 8 ((s.rd pb 8 + 0x2_0000_0001) % 2 ^ 64) ∧
        Fires s t pb ((s.rd pb 8 + 0x2_0000_0001) % 2 ^ 64) ∧ (∀ y ∈ t.tiles, y.id ≠ x.id) ∧
        ∀ l, l ∈ t.poison ↔ l ∈ s.poison ∨ l ∈ x.frames)

/-- TCOPY_START: the engine starts the oldest waiting command when it works on fewer than two. TCOPY_COMPLETE: every element is
copied, the command is gone, and its counter has grown by the bytes copied. TCOPY_WALK_FAULT: a command whose walk met a fault
leaves the engine, and its group has the fault to take (R257, R258). ACP_COMPLETE copies its lanes and adds to its counter
(R238). Both go on once they may begin (R103, R104, R113). STC_LANDING decrements the counter by the bytes stored, and at 0
fires what waits there (R229, R262). Shown for copies into scratchpad, with the counter there or homed here, and for an STC
counter homed here. -/
def Obligations.CopyEvents : Prop :=
  (∀ (s : State) (c : CopyCmd) (f : State), At s ⟨c.team, c.group⟩ f → (s.copies.filter fun x => x.id = c.id) = [c] →
    (s.copies.find? fun x => x.core = c.core ∧ x.started = false) = some c →
    (s.copies.filter fun x => x.core = c.core ∧ x.started = true).length < 2 → c.clear = false →
    MayBegin s f ⟨c.team, c.group⟩ c.scope c.behind c.after →
    ∃ t : State, exec (.tcopyStart c.core 0) s = .next t ∧ SameMemory s t ∧
      t.copies = s.copies.map (fun x => if x.id = c.id then { c with started := true, after := [], behind := [], clear := true } else x)) ∧
  (∀ (s : State) (c : CopyCmd) (f : State) (pa : Nat → Nat), At s ⟨c.team, c.group⟩ f →
    (s.copies.filter fun x => x.id = c.id) = [c] → c.started = true → c.stuck = none →
    (c.clear = true ∨ MayBegin s f ⟨c.team, c.group⟩ c.scope c.behind c.after) → c.ctrSp = true →
    (cellUp c.scope = true → s.recalls = []) → c.shape.toGlobal = false → f.t.core = c.core → f.t.ctx = c.ctx → c.done = 0 →
    (let n := c.shape.esize
     let a (q : Nat) : Nat := (c.shape.scratchAt (c.shape.vector q)).toNat
     (∀ q, q < c.shape.count →
       f.translateEngine c.core c.ctx (c.shape.globalAt (c.shape.vector q)) .load = .ok f (pa q) ∧ Settled f (pa q) n) →
     (∀ q r, q < r → r < c.shape.count → Apart (a q) n (a r) n) →
     (∀ q, q < c.shape.count → Apart (a q) n c.ctr.toNat 8) → f.scrPoisoned c.ctr.toNat 8 = false →
     (∀ q, q < c.shape.count → f.scrPoisoned (a q) n = false) →
     ∃ t : State, exec (.tcopyComplete c.core c.id) s = .next t.settle ∧ t.copies = s.copies.filter (fun x => x.id ≠ c.id) ∧
       (∀ q k, q < c.shape.count → k < n → t.scrByte (a q + k) = s.mem.get (pa q + k)) ∧
       scrNum t c.ctr.toNat 8 = (scrNum f c.ctr.toNat 8 + n * c.shape.count) % 2 ^ 64 ∧
       (∀ b, (∀ q, q < c.shape.count → ¬ (a q ≤ b ∧ b < a q + n)) → ¬ (c.ctr.toNat ≤ b ∧ b < c.ctr.toNat + 8) →
         t.scrByte b = f.scrByte b) ∧ SameMemory s t ∧ t.g = f.g)) ∧
  (∀ (s : State) (c : CopyCmd) (f : State) (pb : Nat), At s ⟨c.team, c.group⟩ f →
    (s.copies.filter fun x => x.id = c.id) = [c] → c.started = true → c.stuck = none → c.clear = true → c.ctrSp = false →
    c.done = c.shape.count → (cellUp c.scope = true → s.recalls = []) →
    HeldAtDie s (c.core / 48) c.ctx c.ctr .store pb → CounterOpen s pb → Canonical s →
    (let x := (s.rd pb 8 + c.shape.esize * c.shape.count) % 2 ^ 64
     ∃ t : State, exec (.tcopyComplete c.core c.id) s = .next t.settle ∧ t.copies = s.copies.filter (fun y => y.id ≠ c.id) ∧
       Stored s t pb 8 x ∧ Fires s t pb x ∧ t.g = f.g)) ∧
  (∀ (s : State) (c : CopyCmd) (f : State) (code : BitVec 8) (addr detail : W64), At s ⟨c.team, c.group⟩ f →
    (s.copies.filter fun x => x.id = c.id) = [c] → c.stuck = some (code, addr, detail) → (∀ v ∈ s.saved, v.tid ≠ c.team) →
    ∃ (t : State) (o : Op), exec (.tcopyWalkFault c.core c.id) s = .next t.settle ∧
      t = { f with
            copies := s.copies.filter (fun x => x.id ≠ c.id), nextId := s.nextId + 1
            due := s.due ++ [.faultTaken ⟨c.team, c.group⟩], g := { f.g with ops := f.g.ops ++ [o] } } ∧
      o.instr = c.instr ∧ o.lpc = c.lpc ∧ o.active = c.active ∧ o.waitm = c.waitm ∧ o.pend = 0#32 ∧ o.gops = c.groupOps ∧
      o.cover = (c.covered, c.sources) ∧ (∀ l : Fin 32, (o.lanes[l]).addr = c.recAddr) ∧
      o.fails = (lanesOf c.active).map fun l => ⟨l, code, addr, detail⟩) ∧
  (∀ (s : State) (c : AcpCmd) (f : State) (l : Fin 32) (pa a : Nat), At s ⟨c.team, c.group⟩ f →
    (s.acps.filter fun x => x.id = c.id) = [c] →
    c.toGlobal = false → c.ctrSp = true → (c.clear = true ∨ MayBegin s f ⟨c.team, c.group⟩ c.scope c.behind c.after) →
    (cellUp c.scope = true → s.recalls = []) → c.fails = [] → c.moves = [⟨l, some pa, a⟩] → Settled f pa c.size →
    f.scrPoisoned c.ctr.toNat 8 = false → Apart a c.size c.ctr.toNat 8 →
    ∃ t : State, exec (.acpComplete c.id) s = .next t.settle ∧ t.acps = s.acps.filter (fun x => x.id ≠ c.id) ∧
      (∀ k, k < c.size → t.scrByte (a + k) = s.mem.get (pa + k)) ∧
      scrNum t c.ctr.toNat 8 = (scrNum f c.ctr.toNat 8 + c.total) % 2 ^ 64 ∧
      (∀ b, ¬ (a ≤ b ∧ b < a + c.size) → ¬ (c.ctr.toNat ≤ b ∧ b < c.ctr.toNat + 8) → t.scrByte b = f.scrByte b) ∧
      SameMemory s t ∧ t.g = f.g) ∧
  (∀ (s : State) (c : StcCmd) (f : State) (o : Op) (pa : Nat), At s ⟨c.team, c.group⟩ f →
    (s.stcs.filter fun x => x.id = c.id) = [c] → InFlight f o (oneLane (Fin.ofNat 32 c.lane)) → o.id = c.op →
    (∀ e ∈ s.posted, e.id ∉ c.after) → Held f c.ctr .store pa → Settled f pa 8 → KeyMapApart f pa 8 pa →
    (∀ x ∈ s.triggers, x.addr = pa → x.pkg = s.pkg) → (cellUp c.scope = true → s.recalls = []) →
    ∃ t : State, exec (.stcLanding c.id) s = .next t.settle ∧
      (let x := (numAt f pa 8 + 2 ^ 64 - c.amount % 2 ^ 64) % 2 ^ 64
       Stored f t pa 8 x ∧ Fires f t pa x) ∧
      t.stcs = s.stcs.filter (fun x => x.id ≠ c.id) ∧ t.g.ops = f.g.ops.filter (fun x => x.id ≠ o.id) ∧
      t = { f with
            stcs := t.stcs, mem := t.mem, tags := t.tags, hazes := t.hazes, cellTaken := t.cellTaken, tiles := t.tiles
            triggers := t.triggers, grids := t.grids, queues := t.queues
            l1 := t.l1, g := { f.g with ops := t.g.ops } })

/-- CINC and CDEC of a counter homed here: at cell and system scope a counter left at 0 fires every trigger at it; any other
value fires nothing, and neither does an update at a narrower scope, whatever it leaves (R112, R235, R262). -/
def Sys2Proof.Claims.CounterFires : Prop :=
  ∀ (s : State) (g : GCtr) (i : Instr) (delta : Int) (pa : Nat),
    (i = .cinc g ∧ delta = ((s.g.sr64 (sreg7 g.e)).toNat : Int) ∨ i = .cdec g ∧ delta = -((s.g.sr64 (sreg7 g.e)).toNat : Int)) →
    OneForGroup s i (s.actLanes g.guard) (s.g.sr64 (sreg7 g.a)) 8 → (∀ e ∈ s.posted, e.core ≠ s.t.core) → g.sp = false →
    Held s (s.g.sr64 (sreg7 g.a)) .store pa → Settled s pa 8 → KeyMapApart s pa 8 pa → s.recalls = [] →
    (∀ x ∈ s.triggers, x.addr = pa → x.pkg = s.pkg) →
    (let x := (((numAt s pa 8 : Int) + delta) % 2 ^ 64).toNat
     ∃ t, exec i s = .next t ∧ Stored s t pa 8 x ∧ RegistersKept s t ∧ NothingLeft s t ∧ Advances s t ∧
       if cellUp g.scope then Fires s t pa x else t.triggers = s.triggers ∧ t.grids = s.grids ∧ t.queues = s.queues)

/-- CINC, CDEC, CREAD and CWAIT, and the triggers that a counter left at 0 fires (R112, R235, R237, R262). -/
def Obligations.CountersAndWait : Prop :=
  Claims.CounterWords ∧ Claims.CounterWait ∧ Claims.CounterFires

/-! ### The scheduler and privileged commands (02 R40; 09 R244; 13 R299, R300, R311, R312; 14 R320-R332; 15 R345) -/

namespace Sys2Proof.Claims

/-- A group right after its launch (R40, R244); its starvation counter at 0 is the model's choice (log 30). -/
structure Launched (g : Group) (r : LaunchRec) (ctxBase : W64) (q0 k : Nat) : Prop where
  id : g.id = k
  quad : g.quad = (q0 + k) % 4
  n : g.n = r.regs
  v0 : ∀ l : Fin 32, g.vr 0 l = BitVec.ofNat 32 (32 * k + l.val)
  s0 : g.sr64 0 = r.dataSeg
  s1 : g.sr64 1 = r.arg0
  s2 : g.sr64 2 = r.arg1
  s3 : g.sr64 3 = ctxBase
  lanes : ∀ l : Fin 32, g.lpc[l] = r.entry ∧ g.dep[l] = 0#8 ∧ g.lane[l] = .runnable ∧
    g.sr[l] = BitVec.ofNat 32 (l.val + 1)
  clear : g.yielded = 0#32 ∧ g.fpctl = 0#32 ∧ g.gangr = 0#32 ∧ g.starve = 0#64 ∧ g.status = .running ∧ g.ops = [] ∧
    g.log = none ∧ g.retired = false

/-- Nothing waits at a home of the package: no request, no addition, no host, no tile that closes, no team whose resume counter
may still reach 0. -/
structure HomesQuiet (s : State) : Prop where
  answered : ∀ r ∈ s.replies, r.reply ≠ none ∨ r.passed = true
  adds : s.adds = []
  sent : ∀ r ∈ s.reqs, r.phase ≠ .held
  hosts : s.hostq = []
  tiles : ∀ x ∈ s.tiles, x.closing = false
  teams : ∀ x, x ∈ s.teams ∨ x = s.t → x.raised = true → x.zeroed = true
  saved : ∀ v ∈ s.saved, v.eligible = true ∨ v.zeroed = true

/-- Removing the teams `S` of core `c` makes room for the head `w` of a level: the core is in service and in the head's allowed
set; the teams stand below the level, and none is being saved already or has left for its resume counter (R323, R327). -/
structure Qualifies (s : State) (w : Wanted) (level c : Nat) (S : List Team) : Prop where
  core : c < 192 ∧ w.dies.getLsbD (c / 48) = true ∧ c ∉ s.spares.fenced
  mine : S.Sublist (s.teams.filter fun y => y.core = c)
  lower : ∀ y ∈ S, y.level < level ∧ y.saving = none ∧ y.header = false
  fits : (room ((s.teams.filter fun y => y.core = c).filter fun y => !S.contains y) w).isSome = true

/-- A pair comes no later than another under R327: fewest teams, lowest highest level, latest earliest placement, lowest core. -/
def NoLater (a b : Nat × List Team) : Prop :=
  let hi (x : Nat × List Team) : Nat := (x.2.map fun y => y.level).foldl max 0
  let early (x : Nat × List Team) (n : Nat) : Prop := (∃ y ∈ x.2, y.placed = n) ∧ ∀ y ∈ x.2, n ≤ y.placed
  a.2.length < b.2.length ∨ (a.2.length = b.2.length ∧
    (hi a < hi b ∨ (hi a = hi b ∧ ∀ m n, early a m → early b n → (n < m ∨ (n = m ∧ a.1 ≤ b.1)))))

end Sys2Proof.Claims

/-- TEAM_PLACEMENT places the next team of the grid at the head of a level, where no higher level waits and a core has room: on an
allowed core, in rows no other team holds, each group in its quadrant with its initial registers, and the grid counts it;
row-major and column-major grids deal their indices in that order (R40, R244, R321, R322, R324). PREEMPTION marks the teams of one
core and set for saving, and leaves every other team alone: the pair qualifies, and no pair that does comes before it under
R327's keys (R323, R327). That a group's starvation counter starts at 0 is the model's choice (log 30); that nothing is chosen
while teams leave for the same head is too (log 41), and which of two sets equal in every key goes (log 70). -/
def Sys2Proof.Claims.TeamsPlaced : Prop :=
  (∀ (s : State) (level : Fin 4) (g : Grid) (rest : List QEntry) (core q0 row0 : Nat), s.power ≠ .off →
    s.queues[level] = .grid g.gid :: rest → (∀ k : Fin 4, level < k → s.queues[k] = []) →
    (s.grids.find? fun x => x.gid = g.gid) = some g → s.active g.ctx = true →
    (let r := g.record
     s.seatFor ⟨.grid g.gid, List.range r.groups, r.groups * (r.regs / 16), r.rows, g.dies, g.lastCore.map (· + 1)⟩ =
       some (core, q0, row0) →
     ∃ (t : State) (x : Team), exec (.teamPlacement level.val) s = .next t ∧ t.teams = s.teams ++ [x] ∧ SameMemory s t ∧
       x.tid = s.nextId ∧ x.grid = g.gid ∧ x.ctx = g.ctx ∧ x.level = g.level ∧ x.core = core ∧ x.row0 = row0 ∧
       x.rows = r.rows ∧ x.groupCount = r.groups ∧ x.saving = none ∧ x.gone = false ∧
       g.dies.getLsbD (core / 48) = true ∧ core < 192 ∧ (r.rows ≠ 0 → row0 + r.rows ≤ 1024) ∧
       (∀ y ∈ s.teams, y.core = core → r.rows = 0 ∨ y.rows = 0 ∨ row0 + r.rows ≤ y.row0 ∨ y.row0 + y.rows ≤ row0) ∧
       x.groups.length = r.groups ∧
       (∀ k (hk : k < x.groups.length), Launched x.groups[k] r ((s.readDesc g.ctx).stageBase g.ctx) q0 k) ∧
       (∀ h ∈ x.groups, h.cell = BitVec.ofNat 32 s.ownCell) ∧
       (r.order = 0 → 0 < r.ex → 0 < r.ey → g.dealt < r.ex * r.ey * r.ez →
         x.x = BitVec.ofNat 32 (g.dealt % r.ex) ∧ x.y = BitVec.ofNat 16 (g.dealt / r.ex % r.ey) ∧
         x.z = BitVec.ofNat 16 (g.dealt / (r.ex * r.ey))) ∧
       (r.order = 1 → 0 < r.ex → 0 < r.ey → g.dealt < r.ex * r.ey * r.ez →
         x.x = BitVec.ofNat 32 (g.dealt / r.ey % r.ex) ∧ x.y = BitVec.ofNat 16 (g.dealt % r.ey) ∧
         x.z = BitVec.ofNat 16 (g.dealt / (r.ex * r.ey))) ∧
       ∃ y ∈ t.grids, y.gid = g.gid ∧ y.placed = g.placed + 1 ∧ y.live = g.live + 1 ∧ y.lastCore = some core ∧
         (y.placedAll = true ↔ r.ex * r.ey * r.ez ≤ g.placed + 1))) ∧
  (∀ (s : State) (level : Nat) (w : Wanted), s.power ≠ .off → (s.teams.map (·.tid)).Nodup →
    (∀ c, (s.teams.filter fun y => y.core = c).length ≤ 64) → s.head level = some w → s.roomComing w = false →
    s.seatIn (s.coresOf w.dies) w = none → (∃ c S, Qualifies s w level c S) →
    ∃ core ts, Qualifies s w level core ts ∧ (∀ c S, Qualifies s w level c S → NoLater (core, ts) (c, S)) ∧
      ((s.reserveAreas (w.entry, s.headPlace w.entry) ts).isSome = true →
        ∃ t : State, exec (.preemption level) s = .next t ∧
          ∀ y ∈ s.teams, if y ∈ ts then
            ∃ a, { y with area := some a, saving := some .preempt, forHead := some (w.entry, s.headPlace w.entry) } ∈ t.teams
          else y ∈ t.teams))

/-- TEAM_SAVE writes a drained team, every write of its core performed at system scope, to its save area, field by field where
R331 puts it, and takes it off its core (R94). TEAM_RESUME:
once the resume counter of a saved team is 0 it waits in its level's queue, ahead of every grid (R311, R320, R329-R331).
MOVED_RETRY: a posted store that its home refuses as moved is translated anew and stands at its new place (R345). -/
def Sys2Proof.Claims.TeamsSaved : Prop :=
  (∀ (s : State) (x : Team) (cause : SaveCause) (a : Nat), Between s → Canonical s → (s.teams.filter fun y => y.tid = x.tid) = [x] →
    x.saving = some cause → s.teamDrained x = true → x.area = some a → x.header = false →
    (∀ p ∈ s.posted, p.core ≠ x.core) → s.recalls = [] → (x.groups.map (·.id)).Nodup → (s.copies.filter fun c => c.team = x.tid) = [] →
    (∀ g ∈ x.groups, g.id < x.groupCount ∧ g.held.length ≤ 14 ∧ g.n ≤ 128) → HwWritable s a (4096 * areaUnits x.groupCount x.rows) →
    ∃ (t : State) (v : Saved), exec (.teamSave x.tid) s = .next t ∧ t.teams = s.teams.filter (fun y => y.tid ≠ x.tid) ∧
      t.saved = s.saved ++ [v] ∧ v.tid = x.tid ∧ v.area = a ∧ v.ctx = x.ctx ∧ v.level = x.level ∧ v.core = x.core ∧
      v.cause = cause ∧ v.eligible = !x.raised ∧ v.zeroed = x.zeroed ∧
      (∀ g ∈ x.groups, g.retired = false →
        (let b := a + 4096 + 65536 * g.id
         (∀ (r : Fin 128) (l : Fin 32), r.val < g.n → numAt t (b + 128 * r.val + 4 * l.val) 4 = (g.vr r l).toNat) ∧
         (∀ k : Fin 128, numAt t (b + 16384 + 4 * k.val) 4 = if k = 0 then 2 ^ 32 - 1 else (g.p[k]).toNat) ∧
         (∀ k : Fin 512, numAt t (b + 16896 + 8 * k.val) 8 = (g.sr64 k).toNat) ∧
         (∀ l : Fin 32, numAt t (b + 20992 + 16 * l.val) 4 = (g.lpc[l]).toNat ∧
           numAt t (b + 20996 + 16 * l.val) 1 = (g.dep[l]).toNat ∧ numAt t (b + 20997 + 16 * l.val) 1 = laneCode g.lane[l] ∧
           numAt t (b + 20998 + 16 * l.val) 2 = (if g.yielded.getLsbD l.val = true then 1 else 0) ∧
           numAt t (b + 21000 + 16 * l.val) 8 = (g.sr[l]).toNat) ∧
         numAt t (b + 21504) 4 = g.gangr.toNat ∧ numAt t (b + 21508) 4 = g.fpctl.toNat ∧
         numAt t (b + 21512) 2 = g.q.toNat ∧ numAt t (b + 21520) 8 = g.starve.toNat)) ∧
      (∀ k, k < 1536 * x.rows →
        t.mem.get (a + 4096 + 65536 * x.groupCount + k) = State.scrByte { s with t := x } k) ∧
      ∀ b, ¬ (a ≤ b ∧ b < a + 4096 * areaUnits x.groupCount x.rows) → t.mem.get b = s.mem.get b) ∧
  (∀ (s : State) (v : Saved), s.power ≠ .off → (s.saved.filter fun x => x.tid = v.tid) = [v] → v.eligible = false →
    v.zeroed = true → v.calls = [] → v.level < 4 →
    ∃ t : State, exec (.teamResume v.tid) s = .next t ∧
      t = { s with saved := t.saved, queues := t.queues } ∧ { v with eligible := true } ∈ t.saved ∧
      ∀ k : Fin 4, k.val = v.level → ∃ a b, t.queues[k] = a ++ .saved v.tid :: b ∧ s.queues[k] = a ++ b ∧
        (∀ e ∈ a, ∃ tid, e = .saved tid) ∧ ∀ e ∈ b.head?, ∃ gid, e = .grid gid) ∧
  (∀ (s f u : State) (e : Posted) (c : Host.Cell) (cs : List Host.Cell) (pa : Nat), At s ⟨e.team, e.group⟩ f →
    (s.posted.filter fun x => x.team = e.team ∧ x.group = e.group) = [e] → (s.posted.filter fun x => x.id = e.id) = [e] →
    (∀ x ∈ s.acps, ¬ (x.team = e.team ∧ x.group = e.group)) → f.g.ops = [] → e.bytes = c :: cs → e.moved = true →
    (s.dropVa e.core e.ctx e.va).translate e.core e.ctx e.va .store = .ok u pa → u.frozen pa = false →
    ∃ t : State, exec (.movedRetry ⟨e.team, e.group⟩) s = .next t ∧ SameMemory s t ∧
      ∀ x, x ∈ t.posted ↔ x ∈ s.posted ∧ x ≠ e ∨
        x = { e with
          bytes := rebase pa e.bytes, whole := e.whole.map fun l => if l = lineOf c.1 then lineOf pa else l, moved := false })

/-- Teams are placed, chosen and marked for pre-emption, saved and resumed, and moved accesses are tried again (R40, R94, R244, R311, R320-R322, R324, R327, R329-R331, R345). Log 30, 41 and 70 are design choices that its clauses rest on. -/
def Obligations.TeamsScheduled : Prop :=
  Claims.TeamsPlaced ∧ Claims.TeamsSaved

/-- The commands of CTXCTL: bits [9:0] name the context, bits [15:12] the command; SUSPEND marks the context suspended and its
teams for saving, and ends when none is left to save; RESUME marks it active; TERMINATE ends it; FLUSH removes its translations;
any other word, and one with a nonzero bit in [11:10] or [63:16], is not performed and reads status 2. A command leaves the
queue with status 0. PRIVILEGED_REGISTER_WRITE writes CTXTAB, SUPCTX or CTXCTL (R299, R300, R312). That SUSPEND leaves the cause
of a save already begun as it is, is the model's reading (log 79). -/
def Obligations.PrivilegedCommands : Prop :=
  (∀ w : W64, ctxctlEvent w =
    (let ctx : BitVec 10 := BitVec.ofNat 10 w.toNat
     let k := w.toNat / 4096 % 16
     if w.toNat / 1024 % 4 ≠ 0 ∨ w.toNat / 65536 ≠ 0 then .ctxctlInvalidCommand w
     else if k = 1 then .ctxctlSuspend ctx else if k = 2 then .ctxctlResume ctx else if k = 3 then .ctxctlTerminate ctx
     else if k = 4 then .ctxctlFlush ctx else .ctxctlInvalidCommand w)) ∧
  (∀ (s : State) (c : CtxCmd) (rest : List CtxCmd) (ctx : BitVec 10), s.power ≠ .off → s.ctxctlQueue = c :: rest →
    c.started = false → Canonical s →
    (ctxctlEvent c.word = .ctxctlSuspend ctx →
      ∃ t : State, exec (.ctxctlSuspend ctx) s = .next t ∧ numAt t (s.desc ctx + 10) 1 = 2 ∧
        t.teams = s.teams.map (fun x =>
          if x.ctx = ctx ∧ x.saving = none ∧ x.header = false then { x with saving := some .suspend } else x) ∧
        if ∃ x ∈ t.teams, x.ctx = ctx ∧ x.saving ≠ none then
          t.ctxctlQueue = { c with started := true } :: rest ∧ t.ctxctlStatus = s.ctxctlStatus
        else t.ctxctlQueue = rest ∧ t.ctxctlStatus = 0#64) ∧
    (ctxctlEvent c.word = .ctxctlResume ctx →
      ∃ t : State, exec (.ctxctlResume ctx) s = .next t ∧ numAt t (s.desc ctx + 10) 1 = 1 ∧ t.teams = s.teams ∧
        t.ctxctlQueue = rest ∧ t.ctxctlStatus = 0#64) ∧
    (ctxctlEvent c.word = .ctxctlTerminate ctx →
      ∃ t : State, exec (.ctxctlTerminate ctx) s = .next t ∧ numAt t (s.desc ctx + 10) 1 = 3 ∧
        t.teams = s.teams.filter (fun x => x.ctx ≠ ctx) ∧ t.grids = s.grids.filter (fun x => x.ctx ≠ ctx) ∧
        t.saved = s.saved.filter (fun x => x.ctx ≠ ctx) ∧ (∀ x ∈ s.tiles, x.ctx = ctx → ∀ l ∈ x.frames, l ∈ t.poison) ∧
        t.ctxctlQueue = rest ∧ t.ctxctlStatus = 0#64)) ∧
  (∀ (s : State) (c : CtxCmd) (rest : List CtxCmd) (ctx : BitVec 10), s.power ≠ .off → s.ctxctlQueue = c :: rest →
    c.started = false → ctxctlEvent c.word = .ctxctlFlush ctx → s.posted = [] → s.acps = [] → s.transit = [] → s.reqs = [] →
    s.recalls = [] → (∀ r ∈ s.replies, r.passed = false) →
    s.mma = [] → (∀ e ∈ s.engines, e.latched = [] ∧ e.places = []) →
    ∃ t : State, exec (.ctxctlFlush ctx) s = .next t ∧
      t = { s with
            descs := (s.readDesc ctx).descs
            tlb := s.tlb.filter (fun x => x.2.ctx ≠ ctx), ptrs := s.ptrs.filter (fun p => p.ctx ≠ ctx), ctxctlQueue := rest
            ctxctlStatus := 0#64 }) ∧
  (∀ (s : State) (c : CtxCmd) (rest : List CtxCmd) (cmd : W64), s.power ≠ .off → s.ctxctlQueue = c :: rest →
    ctxctlEvent c.word = .ctxctlInvalidCommand cmd →
    exec (.ctxctlInvalidCommand cmd) s = .next { s with ctxctlQueue := rest, ctxctlStatus := 2#64 }) ∧
  (∀ (s : State) (sel : BitVec 8) (x : W64), s.power ≠ .off →
    exec (.privilegedRegisterWrite sel x) s = .next
      (if sel = 0x80#8 then { s with ctxtab := BitVec.ofNat 64 (x.toNat / 2 ^ 18 * 2 ^ 18) }
       else if sel = 0x82#8 then { s with supctx := BitVec.ofNat 10 x.toNat }
       else if sel = 0x83#8 then { s with ctxctlQueue := s.ctxctlQueue ++ [⟨x, false⟩] } else s))

/-! ### Hosts, translation commands, keys and cells (14 R318; 15 R341-R347; 16 R363-R368; 17 R373, R374) -/

namespace Sys2Proof.Claims

/-- The bridge runs here, the package has joined its cell, unless it is in service mode, nothing of the flow waits, and the
package's number is one. -/
structure BridgeOpen (s : State) (flow : BitVec 12) : Prop where
  on : s.power ≠ .off
  joined : s.power = .running → s.joined = true
  bridge : s.isBridge = true
  free : ∀ q ∈ s.hostq, q.flow ≠ flow
  pkg : s.pkg < 2 ^ 21

/-- A line a home may serve: free, in a range that exists, under a key, not poisoned, in no open tile. -/
structure Servable (s : State) (pa n : Nat) : Prop where
  free : LineFree s (lineOf pa)
  homed : s.homed pa = true
  inLine : pa % 128 + n ≤ 128
  sound : s.poison.contains (lineOf pa) = false
  known : ∀ k, k < 128 → s.hazeByte (lineOf pa + k) = none
  plain : ∀ t ∈ s.tiles, lineOf pa ∉ t.frames

/-- The bytes of memory from an address. -/
def bytesAt (s : State) (pa n : Nat) : List Byte := (List.range n).map fun k => s.mem.get (pa + k)

/-- The command at the head of the translation queue, read and not begun, is `bs`, and stands for the event `e`; nothing holds the
lines of the queue, and nothing waits at a home. -/
structure Commands (s : State) (bs : List Byte) (e : Instr) : Prop where
  on : s.power ≠ .off
  idle : s.tcq = none
  head : s.tcqHead = some bs
  event : s.tcqEvent bs = e
  header : LineUnheld s (lineOf s.tcqBase)
  slot : LineUnheld s (lineOf s.tcqSlot)
  quiet : HomesQuiet s

/-- The number that `n` bytes of a list hold from byte `off` on, least significant first. -/
def bytesNum (bs : List Byte) (off n : Nat) : Nat := ((List.range n).map fun k => (bs.getD (off + k) 0#8).toNat * 256 ^ k).sum

/-- A length of R342: a power of two from 4 KiB to 4 GiB, to which the address is aligned. -/
def LenOk (len va : Nat) : Prop := (∃ k, k ≤ 20 ∧ len = 2 ^ (12 + k)) ∧ va % len = 0

/-- The home of the new frame has room for the triggers of the counters in a range: with those it has, and those that come, no
more than 4,096 (R262, R346). -/
def RoomForTriggers (s : State) (base len new : Nat) : Prop :=
  let inside (a : Nat) : Prop := base ≤ a ∧ a < base + len
  ∀ x ∈ s.triggers, inside x.addr →
    (s.triggers.filter fun y => ¬ inside y.addr ∧ homeUnit y.addr = homeUnit (new + (x.addr - base))).length +
      (s.triggers.filter fun y => inside y.addr ∧
        homeUnit (new + (y.addr - base)) = homeUnit (new + (x.addr - base))).length ≤ 4096

/-- Nothing of a context is on its way to memory. -/
structure NothingUnderWay (s : State) : Prop where
  posted : s.posted = []
  acps : s.acps = []
  transit : s.transit = []
  reqs : s.reqs = []
  mma : s.mma = []
  engines : ∀ e ∈ s.engines, e.places = [] ∧ e.latched = []
  recalls : s.recalls = []
  passed : ∀ r ∈ s.replies, r.passed = false

/-- A line stands under a key id: as it was last written, or, where nothing has written it, by the key map (R373, R374). -/
def StandsUnder (s : State) (key line : Nat) : Prop :=
  s.here line = true ∧
    match s.tags.find? fun t => t.1 = line with
    | some t => t.2.1 = key
    | none => s.keyOf line = some key

/-- The bridge's answer to a host, with the TAG of its packet (R352, R368); an update by the host may have left a resume counter at 0
(R311). -/
def answered (s : State) (flow : BitVec 12) (tag : BitVec 32) (status : Nat) (data : List Byte) : State :=
  State.latchResume { s with outbox := s.outbox ++ [.hostReply flow tag status data] }

/-- The registers that a host reads at this package, beside those that name a group's value (R299, R368). -/
def hostRegisters (s : State) : List (BitVec 8 × Nat) :=
  [(0x0D#8, s.pkg), (0x0E#8, s.ownCell), (0x0F#8, s.cycle.toNat), (0x80#8, s.ctxtab.toNat), (0x82#8, s.supctx.toNat),
   (0x83#8, if s.ctxctlQueue = [] then s.ctxctlStatus.toNat else 2 ^ 63), (0x84#8, s.trapseq.toNat)]

/-- CELLCMD (R358, R363). -/
def cellWord (s : State) : Nat := s.rd (s.fcb + 56) 8

/-- The declaration of cell `cell` dead meets nothing that waits: what waits at the homes is of that cell, and has not started
(R365). -/
structure DeclareOpen (s : State) (cell : Nat) : Prop where
  quiet : HomesQuiet { s with replies := s.replies.filter fun r => r.req.cell ≠ cell }
  theirs : ∀ r ∈ s.replies, r.req.cell = cell →
    r.reply ≠ none ∨ r.passed = true ∨ r.req.typ = 0x01#8 ∨ r.req.typ = 0x02#8 ∨ s.behindFlow r.req r.at_ = true
  event : EventOpen s

/-- The `n` bytes at `b` lie apart from the fabric control block, the cell map, and the event ring with its counter. -/
structure ApartFromCells (s : State) (b n : Nat) : Prop where
  map : Apart b n (s.rd (s.fcb + 32) 8) (256 * 4096)
  ring : Apart b n (eventRing s) 16
  slot : Apart b n (eventSlot s) 32
  note : eventNote s ≠ 0 → Apart b n (eventNote s) 8

/-- The record of a cell at `a`, whose STATE byte may be written, and the structures of events lie apart (R362, R364). -/
structure RecordOpen (s : State) (cell a : Nat) : Prop where
  held : s.cellRec cell = some a
  writable : HwWritable s (a + 4) 1
  block : Apart (a + 4) 1 s.fcb 80
  ring : Apart (a + 4) 1 (eventRing s) 16
  slot : Apart (a + 4) 1 (eventSlot s) 32
  note : eventNote s ≠ 0 → Apart (a + 4) 1 (eventNote s) 8
  mapRing : Apart (eventRing s) 16 (s.rd (s.fcb + 32) 8) (256 * 4096) ∧ Apart (eventSlot s) 32 (s.rd (s.fcb + 32) 8) (256 * 4096) ∧
    (eventNote s ≠ 0 → Apart (eventNote s) 8 (s.rd (s.fcb + 32) 8) (256 * 4096))
  blockRing : Apart (eventRing s) 16 s.fcb 80 ∧ Apart (eventSlot s) 32 s.fcb 80 ∧ (eventNote s ≠ 0 → Apart (eventNote s) 8 s.fcb 80)

/-- What the declaration of a cell leaves (R363-R365): it is dead and under recovery; STATE in its record at `a` is 1; the event
of the cause names it and the unanswering package; its reply records and early packets are gone, and its lines held here are
poisoned. -/
def Declared (s t : State) (cell a cause pkg : Nat) (other : Nat → Prop) : Prop :=
  t.dead = BitVec.ofNat 21 cell :: s.dead ∧ t.recovering = BitVec.ofNat 21 cell :: s.recovering ∧ numAt t (a + 4) 1 = 1 ∧
    EventWritten s t cause [(4, 4, cell), (8, 4, pkg)] (fun b => b = a + 4 ∨ other b) ∧
    (∀ r, r ∈ t.replies ↔ r ∈ s.replies ∧ r.req.cell ≠ cell) ∧
    (∀ f ∈ t.flowsIn, ∀ q ∈ f.early, q.cell ≠ cell) ∧
    ∀ x ∈ s.llc, pkgOf x.line ∈ s.members cell → x.line ∈ t.poison

/-- The base, length and third word of a command (R342). -/
def cmdBase (bs : List Byte) : Nat := fieldAt bs 8 8 % 2 ^ 62
def cmdLen (bs : List Byte) : Nat := fieldAt bs 16 8
def cmdNew (bs : List Byte) : Nat := fieldAt bs 24 8 % 2 ^ 62

end Sys2Proof.Claims

/-- The bridge answers a host in the order of its flow: a register read or write of this package, a read, a write or an operation of
an HOU (one of R225, CASW, an addition to a counter, which fires the triggers there at 0) of an address homed here, and a launch,
whose command stands at ADDR: its grid is queued at nesting level 0; the answer goes out with
the packet's TAG, its status and data (R262, R318, R352, R353, R368). A launch goes
behind every write. That the requests of a flow do not overlap, and that the package of ADDR reads the command and queues the grid,
are the model's readings (log 43, 75); the codes of the operations are its numbering (log 18). -/
def Obligations.HostRequests : Prop :=
  (∀ (s : State) (h : HostReg) (x : Nat), BridgeOpen s h.flow → h.pkg.toNat = s.pkg →
    ((h.sel, x) ∈ hostRegisters s → exec (.hostRegisterRead h) s = .next (answered s h.flow h.tag 0 (toBytes 8 x))) ∧
    ((h.sel = 0x80#8 ∨ h.sel = 0x82#8 ∨ h.sel = 0x83#8) →
      ∃ t : State, exec (.privilegedRegisterWrite h.sel h.val) s = .next t ∧
        exec (.hostRegisterWrite h) s = .next (answered t h.flow h.tag 0 []))) ∧
  (∀ (s : State) (h : HostAccess), BridgeOpen s h.flow → h.virt = false →
    (let pa := h.addr.toNat % 2 ^ 62
     (Servable s pa h.len →
       exec (.hostRead h) s = .next (answered s h.flow h.tag 0 (bytesAt s pa h.len)) ∧
       (h.data.length = h.len → 1 ≤ h.len →
         ∃ t : State, exec (.hostWrite h) s = .next (answered t h.flow h.tag 0 []) ∧ Stored s t pa h.len (ofBytes h.data) ∧
           t = { s with
                 mem := t.mem, tags := t.tags, hazes := t.hazes, cellTaken := t.cellTaken, tiles := t.tiles, l1 := t.l1 }) ∧
       (∀ op : AtomOp, h.op = .rmw op → h.data.length = h.len → h.len = 4 ∨ h.len = 8 →
         ∃ t : State, exec (.hostAtomic h) s = .next (answered t h.flow h.tag 0 (bytesAt s pa h.len)) ∧
           Stored s t pa h.len (atomSpec op (8 * h.len) (numAt s pa h.len) (ofBytes h.data)) ∧
           t = { s with
                 mem := t.mem, tags := t.tags, hazes := t.hazes, cellTaken := t.cellTaken, tiles := t.tiles, l1 := t.l1 })) ∧
     (∀ n : Nat, h.op = .casw → n = 4 ∨ n = 8 ∨ n = 16 → h.data.length = 2 * n → Servable s pa n →
       ∃ t : State, exec (.hostAtomic h) s = .next (answered t h.flow h.tag 0 (bytesAt s pa n)) ∧
         (if bytesAt s pa n = h.data.take n then Stored s t pa n (ofBytes (h.data.drop n)) else SameMemory s t) ∧
         t = { s with
               mem := t.mem, tags := t.tags, hazes := t.hazes, cellTaken := t.cellTaken, tiles := t.tiles, l1 := t.l1 }) ∧
     (h.op = .counter → h.data.length = 8 → Servable s pa 8 → HwWritable s pa 8 → (∀ x ∈ s.triggers, x.addr = pa → x.pkg = s.pkg) →
       (let x := (numAt s pa 8 + ofBytes h.data) % 2 ^ 64
        ∃ t : State, exec (.hostAtomic h) s = .next (answered t h.flow h.tag 0 (bytesAt s pa 8)) ∧ Stored s t pa 8 x ∧
          Fires s t pa x ∧
          t = { s with
                mem := t.mem, tags := t.tags, hazes := t.hazes, cellTaken := t.cellTaken, tiles := t.tiles, l1 := t.l1
                triggers := t.triggers, grids := t.grids, queues := t.queues })))) ∧
  (∀ (s : State) (h : HostLaunch) (r : LaunchRec), BridgeOpen s h.flow → (∀ q ∈ s.hostq, q.job.writes = false) →
    (let pa := h.addr.toNat % 2 ^ 62
     let record := numAt s pa 8 % 2 ^ 62
     let ctx : BitVec 10 := BitVec.ofNat 10 (numAt s (pa + 8) 2)
     let tag := bytesAt s (pa + 16) 8
     Servable s pa 24 → Servable s record 64 → record % 64 = 0 → s.active ctx = true →
     parseLaunch (bytesAt s record 64) = some r → (∀ g ∈ s.grids, g.gid < s.nextId) →
     if s.gridLimit ctx = true then exec (.hostLaunch h) s = .next (answered s h.flow h.tag 4 tag)
     else ∃ t : State, exec (.hostLaunch h) s = .next (answered t h.flow h.tag 0 tag) ∧
       t = { s with nextId := s.nextId + 1, grids := t.grids, queues := t.queues } ∧
       ∃ x ∈ t.grids, x.gid = s.nextId ∧ x.record = r ∧ x.ctx = ctx ∧ x.nest = 0 ∧ x.parent = none ∧ x.waiting = false ∧
         ∃ k : Fin 4, k.val = x.level ∧ .grid s.nextId ∈ t.queues[k]))

/-- A slot of the translation queue holds the command of its OP where every reserved byte is 0 and every field that the command
uses lies within its limits, whatever the others hold; any other slot is an invalid command, with status 1. TCQ_TAIL_ADVANCE
reads the tail. A command ends with its status in its slot and the head one further; the event of another command than the one
at the head does nothing (R342). That a MOVE is for a range homed here is the model's reading (log 28). -/
def Sys2Proof.Claims.CommandSlots : Prop :=
  (∀ (s : State) (bs : List Byte), bs.length = 64 →
    (let op := bytesNum bs 0 1
     let ctx := bytesNum bs 2 2
     let va := bytesNum bs 8 8
     let len := bytesNum bs 16 8
     let new := bytesNum bs 24 8
     let reserved : Prop := ∃ k, (4 ≤ k ∧ k < 8 ∨ 32 ≤ k ∧ k < 64) ∧ bs.getD k 0#8 ≠ 0#8
     let e := s.tcqEvent bs
     (e = .inval ↔ ¬ reserved ∧ op = 1 ∧ ctx < 1024 ∧ LenOk len va) ∧ (e = .resolve ↔ ¬ reserved ∧ op = 2 ∧ ctx < 1024) ∧
     (e = .finalCmd ↔ ¬ reserved ∧ op = 3 ∧ ctx < 1024) ∧
     (e = .moveCmd ↔ ¬ reserved ∧ op = 4 ∧ LenOk len va ∧ new % len = 0 ∧ va / 2 ^ 41 = s.pkg) ∧
     (e = .thaw ↔ ¬ reserved ∧ op = 5 ∧ LenOk len va) ∧ (e = .carve ↔ ¬ reserved ∧ op = 6 ∧ ctx ≤ 3 ∧ len ≤ 16) ∧
     (e = .tcqInvalidCommand ∨ e ∈ [.inval, .resolve, .finalCmd, .moveCmd, .thaw, .carve]))) ∧
  (∀ s : State, s.power ≠ .off → LineUnheld s (lineOf s.tcqBase) →
    exec .tcqTailAdvance s = .next { s with tcqTail := BitVec.ofNat 64 (s.rd (s.ctxtab.toNat + 0x4_0000) 8) }) ∧
  (∀ (s : State) (status : Nat), Canonical s → HomesQuiet s → HwWritable s (s.tcqBase + 8) 8 → HwWritable s (s.tcqSlot + 1) 1 →
    Apart (s.tcqSlot + 1) 1 (s.tcqBase + 8) 8 →
    (let t := s.tcqEnd status
     numAt t (s.tcqSlot + 1) 1 = status % 256 ∧ numAt t (s.tcqBase + 8) 8 = (s.rd (s.tcqBase + 8) 8 + 1) % 2 ^ 64 ∧
     t = { s with
           mem := t.mem, tags := t.tags, hazes := t.hazes, cellTaken := t.cellTaken, tiles := t.tiles, l1 := t.l1, tcq := none
           move := none })) ∧
  (∀ (s : State) (bs : List Byte) (e : Instr), Commands s bs e →
    (e = .tcqInvalidCommand → exec .tcqInvalidCommand s = .next (State.tcqEnd { s with tcq := some ⟨bs, []⟩ } 1)) ∧
    ∀ i : Instr, i ∈ [.inval, .resolve, .finalCmd, .moveCmd, .thaw, .carve, .tcqInvalidCommand] → i ≠ e → exec i s = .next s)

/-- INVAL removes the context's leaves that meet the range, and every table pointer of the context, which may come from an entry
that the range has changed (log 86, a design choice: R342 asks for the range's translations alone); RESOLVE
and FINAL free the entries of a page, and its groups resume or have the fault delivered again. INVAL and RESOLVE end once nothing
of the context is under way. VA is taken modulo 2^57 (log 85, a design choice). (R340-R344). -/
def Sys2Proof.Claims.Invalidations : Prop :=
  (∀ (s : State) (bs : List Byte), Commands s bs .inval → NothingUnderWay s →
    (let lo := fieldAt bs 8 8 % 2 ^ 57
     let ctx : BitVec 10 := BitVec.ofNat 10 (fieldAt bs 2 2)
     ∃ u : State, exec .inval s = .next (u.tcqEnd 0) ∧
       u = { s with tlb := u.tlb, ptrs := u.ptrs, tcq := some ⟨bs, []⟩ } ∧
       (∀ x, x ∈ u.tlb ↔ x ∈ s.tlb ∧
         ¬ (x.2.ctx = ctx ∧ x.2.va < lo + cmdLen bs ∧ lo < x.2.va + 2 ^ x.2.sz)) ∧
       ∀ p, p ∈ u.ptrs ↔ p ∈ s.ptrs ∧ p.ctx ≠ ctx)) ∧
  (∀ (s f : State) (bs : List Byte) (m : MergeEntry) (r : GroupRef) (i : FaultInfo), At s r f → f.g.status = .merged i →
    NothingUnderWay s → (s.teams.filter fun x => x.tid = f.t.tid) = [f.t] → (f.t.groups.filter fun x => x.id = f.g.id) = [f.g] →
    (let ctx : BitVec 10 := BitVec.ofNat 10 (fieldAt bs 2 2)
     let page := fieldAt bs 8 8 % 2 ^ 57 / 4096
     (s.merge.filter fun x => x.ctx = ctx ∧ x.page = page) = [m] → m.waiters = [r] →
     (Commands s bs .resolve → ∃ u : State, exec .resolve s = .next (u.settle.tcqEnd 0) ∧ u.g.status = .running ∧
       u.g.replay = f.g.log.isSome ∧ m ∉ u.merge ∧
       u = { f with tlb := u.tlb, ptrs := u.ptrs, merge := u.merge, tcq := u.tcq
                    g := { f.g with status := .running, replay := u.g.replay, starve := u.g.starve, starved := false } }) ∧
     (Commands s bs .finalCmd → ∃ u : State,
       exec .finalCmd s = .next (((u.readDesc u.t.ctx).deliverRecord i .finaled).settle.tcqEnd 0) ∧
       u.g = { f.g with status := .queueWait i .finaled } ∧ u.t = { f.t with groups := u.t.groups } ∧
       u = { f with
             merge := s.merge.filter (fun x => ¬ (x.ctx = ctx ∧ x.page = page)), tcq := some ⟨bs, [r]⟩, teams := u.teams, t := u.t
             g := u.g, iss := u.iss })))

/-- THAW ends a freeze; CARVE renews a
window; a MOVE is refused for an open tile, for triggers without room and at 64 freezes, and else freezes the range, copies it
and moves its triggers with their counters;
a copy that is not acknowledged ends with status 4 (R345-R347). VA of MOVE and THAW, and NEW, are taken modulo 2^62 (log 85, a
design choice). -/
def Sys2Proof.Claims.MovesAndCarves : Prop :=
  (∀ (s : State) (bs : List Byte), Commands s bs .thaw →
    exec .thaw s = .next (State.tcqEnd { s with
      tcq := some ⟨bs, []⟩, freezes := s.freezes.filter fun f => ¬ (f.base = cmdBase bs ∧ f.len = cmdLen bs) } 0)) ∧
  (∀ (s : State) (bs : List Byte), Commands s bs .carve →
    (let die := fieldAt bs 2 2
     let w := s.pkg * 2 ^ 41 + 2 ^ 40 + die * 2 ^ 27
     let inside (a : Nat) : Prop := w ≤ a ∧ a < w + 2 ^ 27
     let u0 : State := { s with tcq := some ⟨bs, []⟩ }
     s.asks = [] → (∀ e ∈ s.dir, ¬ inside e.line) → (∀ x ∈ s.openFar, ¬ inside x.1) →
     ((∃ t ∈ s.tiles, ∃ l ∈ t.frames, inside l) → exec .carve s = .next (u0.tcqEnd 3)) ∧
     ((∀ t ∈ s.tiles, ∀ l ∈ t.frames, ¬ inside l) →
       ((∃ t ∈ s.triggers, inside t.addr) → exec .carve s = .next (u0.tcqEnd 5)) ∧
       ((∀ t ∈ s.triggers, ¬ inside t.addr) →
         (64 ≤ s.freezes.length → exec .carve s = .next (u0.tcqEnd 2)) ∧
         (s.freezes.length < 64 → (∀ r ∈ s.recalls, ¬ inside r.line) → (∀ f ∈ s.freezes, f ≠ ⟨w, 2 ^ 27⟩) →
           (∀ k, k < 64 → ((s.llc.map (·.line)).filter (inSlice die k)).length + 1024 * cmdLen bs ≤ 2 ^ 15) →
           ∃ u : State, exec .carve s = .next (u.tcqEnd 0) ∧
             (∀ d : Fin 4, u.carve[d] = if d.val = die then cmdLen bs else s.carve[d]) ∧
             u.genOf (1024 + die) = s.genOf (1024 + die) + 1 ∧ (∀ l, l ∈ u.poison ↔ l ∈ s.poison ∧ ¬ inside l) ∧
             (∀ x, x ∈ u.l1 ↔ x ∈ s.l1 ∧ ¬ inside (4 * x.word)) ∧ u.freezes = s.freezes ∧ SameMemory s u))))) ∧
  (∀ (s : State) (bs : List Byte), Commands s bs .moveCmd → s.reqs = [] →
    (let inside (a : Nat) : Prop := cmdBase bs ≤ a ∧ a < cmdBase bs + cmdLen bs
     let u : State := { s with tcq := some ⟨bs, []⟩ }
     let lines (a : Nat) : List Nat := (List.range (cmdLen bs / 128)).map fun k => a + 128 * k
     (∀ e ∈ s.dir, ¬ inside e.line) → (∀ x ∈ s.openFar, ¬ inside x.1) → s.here (cmdNew bs) = true →
     ((∃ t ∈ s.tiles, ∃ l ∈ t.frames, inside l) → exec .moveCmd s = .next (u.tcqEnd 3)) ∧
     ((∀ t ∈ s.tiles, ∀ l ∈ t.frames, ¬ inside l) →
       (¬ RoomForTriggers s (cmdBase bs) (cmdLen bs) (cmdNew bs) → exec .moveCmd s = .next (u.tcqEnd 5)) ∧
       (RoomForTriggers s (cmdBase bs) (cmdLen bs) (cmdNew bs) →
         (64 ≤ s.freezes.length → exec .moveCmd s = .next (u.tcqEnd 2)) ∧
         (s.freezes.length < 64 → (∀ r ∈ s.recalls, ¬ inside r.line) → s.deadPkg s.pkg = false →
           Apart (cmdBase bs) (cmdLen bs) (cmdNew bs) (cmdLen bs) →
           (∀ l, l ∈ lines (cmdNew bs) ∨ l ∈ lines (cmdBase bs) → Servable s l 128) →
           LinesKeyed s (lines (cmdNew bs)) → LinesKeyed s (lines (cmdBase bs)) →
           ∃ v : State, exec .moveCmd s = .next (v.tcqEnd 0) ∧ v.freezes = s.freezes ++ [⟨cmdBase bs, cmdLen bs⟩] ∧
             v.triggers = s.triggers.filter (fun x => ¬ inside x.addr) ++ (s.triggers.filter fun x => inside x.addr).map (fun x =>
               { x with addr := cmdNew bs + (x.addr - cmdBase bs) }) ∧
             (∀ k, k < cmdLen bs → v.mem.get (cmdNew bs + k) = s.mem.get (cmdBase bs + k)) ∧
             ∀ b, ¬ (cmdNew bs ≤ b ∧ b < cmdNew bs + cmdLen bs) → v.mem.get b = s.mem.get b))))) ∧
  (∀ (s : State) (m : MoveState), s.power ≠ .off → s.move = some m → m.phase = .copying → m.copied < m.len →
    s.here m.dst = false → s.reqs = [] →
    exec .moveCopyTimeout s = .next (s.tcqEnd 4))

/-- The commands of the translation queue: how a slot's bytes stand for them, how they end, and what each does (R262, R340-R347). Log 28, 85 and 86 are the model's choices. -/
def Obligations.TranslationCommands : Prop :=
  Claims.CommandSlots ∧ Claims.Invalidations ∧ Claims.MovesAndCarves

/-- The key mailbox: while byte 15 is 1 a command is pending, with its OP in byte 0 and its key id in bytes 2-3. GENKEY gives a
key id a new generation, under which what was written before is not read back. RETIRE is
refused with status 2 for a key id in use, and else removes the lines under it from every L1, and from the directory: a line that
no other package holds at once, one that others hold once they have given it up, each being asked to, with its data discarded.
Any other command has status 1. A command ends with its status and byte 15 cleared (R123, R373, R374). The
generations of a key id are the model's way to say that old lines read as free bytes (log 4, 48). -/
def Sys2Proof.Claims.KeyMailbox : Prop :=
  (∀ s : State, (let box := s.ctxtab.toNat + 0x6_0000
     s.keyCmd = if s.rd (box + 15) 1 = 1 then some (s.rd box 1, s.rd (box + 2) 2 % 2 ^ 10) else none)) ∧
  (∀ (s : State) (key : Nat), s.power ≠ .off → s.keyCmd = some (1, key) →
    ∃ u : State, exec .genkey s = .next (u.keyEnd 0) ∧ u.genOf key = s.genOf key + 1 ∧ (∀ k, k ≠ key → u.genOf k = s.genOf k) ∧
      u = { s with keyGen := u.keyGen } ∧
      ∀ (pa g : Nat), s.keyOf pa = some key → (s.tags.find? fun t => t.1 = lineOf pa) = some (lineOf pa, key, g) →
        g ≤ s.genOf key → u.byteUnder key pa = Config.wrongKey pa key (s.genOf key + 1)) ∧
  (∀ (s : State) (key : Nat), s.power ≠ .off → s.keyCmd = some (2, key) →
    (s.keyInUse key = true → exec .retire s = .next (s.keyEnd 2)) ∧
    (s.keyInUse key = false → (s.dir.map (·.line)).Nodup →
      ∃ u : State, exec .retire s = .next (u.keyEnd 0).pump ∧ u.genOf key = s.genOf key + 1 ∧ SameMemory s u ∧
        (∀ w, w ∈ u.l1 ↔ w ∈ s.l1 ∧ ¬ StandsUnder s key (lineOf (4 * w.word))) ∧
        (∀ e, e ∈ u.dir ↔ e ∈ s.dir ∧ ¬ (StandsUnder s key e.line ∧ s.otherHolders e = [] ∧ ∀ r ∈ s.recalls, r.line ≠ e.line)) ∧
        (∀ e ∈ s.dir, StandsUnder s key e.line →
          (∀ r ∈ u.recalls, r.line = e.line → r.kind = .drop) ∧
          ((∀ r ∈ s.recalls, r.line ≠ e.line) → s.otherHolders e ≠ [] → ⟨e.line, .drop, s.otherHolders e⟩ ∈ u.recalls ∧
            ∀ h ∈ s.otherHolders e, s.deadPkg h = false → h < 2 ^ 24 → ∃ p : Packet, .packet p ∈ u.outbox ∧ p.typ = 0x06#8 ∧
              p.op = 1#8 ∧ p.dst.toNat = h ∧ p.addr = BitVec.ofNat 64 e.line)) ∧
        ∀ e ∈ s.posted, (∀ c ∈ e.bytes, ¬ StandsUnder s key (lineOf c.1)) → e ∈ u.posted)) ∧
  (∀ (s : State) (op key : Nat), s.power ≠ .off → s.keyCmd = some (op, key) → op ≠ 1 → op ≠ 2 →
    exec .keyInvalidCommand s = .next (s.keyEnd 1)) ∧
  (∀ (s : State) (status : Nat), Canonical s → HwWritable s (s.keyBox + 1) 1 → HwWritable s (s.keyBox + 15) 1 →
    numAt (s.keyEnd status) (s.keyBox + 1) 1 = status % 256 ∧ numAt (s.keyEnd status) (s.keyBox + 15) 1 = 0 ∧
      ∀ b, b ≠ s.keyBox + 1 → b ≠ s.keyBox + 15 → (s.keyEnd status).mem.get b = s.mem.get b)

/-- Cell commands: CELLCMD names a cell in [20:0], with [23:21] zero, and the command in [25:24]: 1 dead, 2 live; a command that
names OWNCELL, or with other values, is ignored. A cell declared dead is so until it is declared live again: its record is marked,
an event of cause 1, or of cause 2 with the unanswering package, is in the ring, what it has asked here is discarded, its lines
held here are poisoned, and CELLCMD shows bit 63 until the recovery is complete. Nothing is sent to it. A package that does not
answer a recall takes its cell with it, but never this package's own, and the recall waits on it no longer. A live cell has no
entry, no record and no flow here (R362-R365). -/
def Sys2Proof.Claims.CellsDeclared : Prop :=
  (∀ (s : State) (v : Nat),
    (let known : Prop := v < 2 ^ 26 ∧ v / 2 ^ 21 % 8 = 0 ∧ v % 2 ^ 21 ≠ s.rd s.fcb 4 % 2 ^ 21
     let e := s.cellEvent v
     (e = .cellDeadCommand ↔ known ∧ v / 2 ^ 24 = 1) ∧ (e = .cellLiveCommand ↔ known ∧ v / 2 ^ 24 = 2) ∧
     (e = .cellDeadCommand ∨ e = .cellLiveCommand ∨ e = .cellInvalidCommand))) ∧
  (∀ s : State, s.power ≠ .off → exec .cellInvalidCommand s = .next { s with cellTaken := true }) ∧
  (∀ (s : State) (cell a : Nat), s.power ≠ .off → s.cellTaken = false → s.cellEvent (cellWord s) = .cellDeadCommand →
    cell = cellWord s % 2 ^ 21 → BitVec.ofNat 21 cell ∉ s.dead → DeclareOpen s cell → RecordOpen s cell a → s.recalls = [] →
    HwWritable s (s.fcb + 56) 8 → ApartFromCells s (s.fcb + 56) 8 →
    ∃ t : State, exec .cellDeadCommand s = .next t ∧ t.cellTaken = true ∧ numAt t (s.fcb + 56) 8 = cellWord s + 2 ^ 63 ∧
      Declared s t cell a 1 0 (fun b => s.fcb + 56 ≤ b ∧ b < s.fcb + 64) ∧ t.dir = s.dir ∧ t.llc = s.llc) ∧
  (∀ s : State, s.power ≠ .off → s.cellTaken = false → s.cellEvent (cellWord s) = .cellDeadCommand →
    BitVec.ofNat 21 (cellWord s) ∈ s.dead → BitVec.ofNat 21 (cellWord s) ∉ s.recovering →
    exec .cellDeadCommand s = .next { s with cellTaken := true }) ∧
  (∀ (s : State) (pkg : BitVec 21) (line c a : Nat) (e : DirEntry), s.power ≠ .off → s.recalls = [⟨line, .all, [pkg.toNat]⟩] →
    s.cellOf pkg.toNat = some c → pkg.toNat ∈ s.members c → c ≠ s.rd s.fcb 4 % 2 ^ 21 → BitVec.ofNat 21 c ∉ s.dead →
    DeclareOpen s c → RecordOpen s c a → (s.dir.filter fun x => x.line = line) = [e] → e.owner = some pkg.toNat → e.readers = [] →
    ∃ t : State, exec (.recallTimeout pkg line) s = .next t ∧ Declared s t c a 2 pkg.toNat (fun _ => False) ∧ t.recalls = [] ∧
      t.dir = s.dir.filter (fun x => x.line ≠ line) ∧ (e.st = .m ∨ e.st = .o → line ∈ t.poison)) ∧
  (∀ (s : State) (pkg : BitVec 21) (line : Nat), s.power ≠ .off →
    s.cellOf pkg.toNat = some (s.rd s.fcb 4 % 2 ^ 21) → exec (.recallTimeout pkg line) s = .next s) ∧
  (∀ (s : State) (a : Nat), s.power ≠ .off → s.cellTaken = false → s.cellEvent (cellWord s) = .cellLiveCommand →
    (let cell : BitVec 21 := BitVec.ofNat 21 (cellWord s)
     (cell ∉ s.dead → exec .cellLiveCommand s = .next { s with cellTaken := true }) ∧
     (cell ∈ s.dead → s.dir = [] → Canonical s → s.cellRec cell.toNat = some a → HwWritable s (a + 4) 1 →
       Apart (a + 4) 1 (s.fcb + 56) 8 →
       ∃ t : State, exec .cellLiveCommand s = .next t ∧ t.cellTaken = true ∧ t.dead = s.dead.filter (fun c => c ≠ cell) ∧
         t.recovering = s.recovering.filter (fun c => c ≠ cell) ∧ numAt t (a + 4) 1 = 0 ∧
         (∀ b, b ≠ a + 4 → t.mem.get b = s.mem.get b) ∧ (∀ r, r ∈ t.replies ↔ r ∈ s.replies ∧ r.src ∉ s.members cell.toNat) ∧
         (∀ f, f ∈ t.flowsIn ↔ f ∈ s.flowsIn ∧ f.src ∉ s.members cell.toNat) ∧
         ∀ f, f ∈ t.flowsOut ↔ f ∈ s.flowsOut ∧ f.dst ∉ s.members cell.toNat))) ∧
  (∀ (s : State) (p : Packet) (u : Purpose) (strong : Bool), s.deadPkg p.dst.toNat = true →
    s.send p = s ∧ s.request p u strong = s)

/-- RECOVERY_COMPLETE: the directory has been walked. A line that a dead cell owned in M or O is poisoned, and leaves the
directory once the copies of its other holders have been called in; one it owned in E leaves the directory as it is; a dead
reader is taken off, and an entry with no reader left goes; any other entry stays. CELLCMD reads with bit 63 clear again, where
it holds the command that named the cell (R120, R363, R365). -/
def Sys2Proof.Claims.RecoveryEnds : Prop :=
  ∀ (s : State) (cell : BitVec 21), s.power ≠ .off → cell ∈ s.recovering → HomesQuiet s → s.recalls = [] →
    (s.dir.map (·.line)).Nodup → Canonical s → HwWritable s (s.fcb + 56) 8 → Apart (s.fcb + 56) 8 (s.rd (s.fcb + 32) 8) (256 * 4096) →
    ∃ t : State, exec (.recoveryComplete cell) s = .next t ∧ t.recovering = s.recovering.filter (fun c => c ≠ cell) ∧ t.dead = s.dead ∧
      (if cellWord s % 2 ^ 21 = cell.toNat ∧ 2 ^ 63 ≤ cellWord s then
        numAt t (s.fcb + 56) 8 = cellWord s - 2 ^ 63 ∧ t.cellTaken = true ∧
          ∀ b, ¬ (s.fcb + 56 ≤ b ∧ b < s.fcb + 64) → t.mem.get b = s.mem.get b
       else SameMemory s t ∧ t.cellTaken = s.cellTaken) ∧
      ∀ e ∈ s.dir,
        (let live (p : Nat) : Prop := s.deadPkg p = false
         let gone : Prop := ∀ x ∈ t.dir, x.line ≠ e.line
         (∀ o, e.owner = some o → ¬ live o → e.st = .m ∨ e.st = .o → e.cellMode = false →
           e.line ∈ t.poison ∧
           ((∀ p ∈ e.readers, p = s.pkg ∨ ¬ live p) → gone) ∧
           ((∃ p ∈ e.readers, p ≠ s.pkg ∧ live p) → ∃ r ∈ t.recalls, r.line = e.line ∧ r.kind = .drop ∧
             ∀ p, p ∈ r.wait ↔ p ∈ e.readers ∧ p ≠ s.pkg ∧ live p)) ∧
         (∀ o, e.owner = some o → ¬ live o → e.st = .e → gone ∧ (e.line ∈ t.poison → e.line ∈ s.poison)) ∧
         (e.owner = none → e.cellMode = false → e.readers ≠ [] →
           (∃ p ∈ e.readers, live p) ∧ { e with readers := e.readers.filter fun p => s.deadPkg p = false } ∈ t.dir ∨
           (∀ p ∈ e.readers, ¬ live p) ∧ gone) ∧
         (e.owner = none → e.cellMode = true → e.readers ≠ [] →
           (∃ c ∈ e.readers, c ∉ s.dead.map (·.toNat)) ∧ { e with readers := e.readers.filter fun c => c ∉ s.dead.map (·.toNat) } ∈ t.dir ∨
           (∀ c ∈ e.readers, c ∈ s.dead.map (·.toNat)) ∧ gone) ∧
         (∀ o, e.owner = some o → live o → e.cellMode = false →
           { e with readers := e.readers.filter fun p => s.deadPkg p = false } ∈ t.dir))

/-- The key mailbox, the commands and timeouts that declare a cell dead or live, and the end of a recovery (R120, R123, R362-R365, R373, R374). That key ids have generations is the model's way (log 4, 48). -/
def Obligations.KeysAndCells : Prop :=
  Claims.KeyMailbox ∧ Claims.CellsDeclared ∧ Claims.RecoveryEnds

/-! ### Packets that ask (16 R350-R361, R364, R366; 08 R229, R231; R368) -/

namespace Sys2Proof.Claims

/-- A packet of a type arrives at a package that runs and has joined its cell, free of what R353 discards; no cell is dead. -/
structure Arrives (s : State) (typ : BitVec 8) (p : Packet) : Prop where
  on : s.power = .running
  typ : p.typ = typ
  good : s.badPacket p = false
  joined : s.joined = true
  alive : s.dead = []

/-- It is a new request, its home unit has room for its record, nothing else waits at a home here, and a sequenced one carries the
number its flow expects, with nothing of the flow held or refused (R350, R358). -/
structure Asks (s : State) (typ : BitVec 8) (p : Packet) : Prop where
  arrives : Arrives s typ p
  new : ∀ r ∈ s.replies, ¬ (r.src = p.src.toNat ∧ r.flow = p.flow ∧ r.tag = p.tag)
  room : s.replies.length < 4096
  quiet : HomesQuiet s
  turn : p.flags.getLsbD 7 = true → s.flowOf p = ⟨p.src.toNat, p.flow, p.seq, none, []⟩

/-- The packet this package sends in answer to `p`: back to its source, with its context, tag, flow and address (R352, R353). -/
def answerTo (s : State) (p : Packet) (typ op flags : BitVec 8) (data : List Byte) : Packet :=
  { typ := typ, age := 0#8, dst := p.src, src := BitVec.ofNat 24 s.pkg, srcCell := BitVec.ofNat 24 s.ownCell, flags := flags
    ctx := p.ctx, seq := 0#16, tag := p.tag, flow := p.flow, op := op, size := sizeCode data.length, addr := p.addr
    payload := padPayload data }

/-- The request is answered at once by RESP with a status and data, its record is kept for the ACK, and a sequenced one moves its
flow on by one number (R350, R353, R358). -/
def Responds (s t : State) (p : Packet) (status : Nat) (data : List Byte) (flags : BitVec 8) : Prop :=
  t.outbox = s.outbox ++ [.packet (answerTo t p 0x08#8 (BitVec.ofNat 8 status) flags data)] ∧
    (∃ r ∈ t.replies, r.src = p.src.toNat ∧ r.flow = p.flow ∧ r.tag = p.tag ∧ r.reply = some (status, data)) ∧
    (p.flags.getLsbD 7 = true → (t.flowOf p).expect = p.seq + 1#16)

/-- The scalar operands that a STEP carries after its step and pointer (log 18). -/
def stepRecord (p : Packet) : List W64 := (List.range 11).map fun k => BitVec.ofNat 64 (p.field (16 + 8 * k) 8)

/-- The event is a packet's arrival, and its type code is `ty` (R353). -/
def ArrivalOf (p : Packet) (i : Instr) (ty : BitVec 8) : Prop :=
  (i, ty) ∈ [(.rd p, 0x01#8), (.wr p, 0x02#8), (.atomPacket p, 0x03#8), (.step p, 0x04#8), (.stcPacket p, 0x05#8), (.coh p, 0x06#8),
    (.cohack p, 0x07#8), (.resp p, 0x08#8), (.retry p, 0x09#8), (.ack p, 0x0A#8), (.notice p, 0x0B#8), (.abort p, 0x0C#8),
    (.abortack p, 0x0D#8), (.mgmt p, 0x0E#8), (.hostPacket p, 0x0F#8)]

end Sys2Proof.Claims

/-- A request of another package is performed at its home and answered: a read copy gives the line, held
in E when no one else holds it (log 50, DEDUCED: R359 lets the home give S or E), ownership gives it in M, and no word of it stays in
this package's L1s; a host's read gives the line and keeps nothing; a write stores its bytes; an atomic or CASW stores its result
and returns the old value; an addition to a counter, and a store-and-count, which stores and then
counts its bytes off its counter, fire at 0 the triggers there; the last step of a chain returns its datum, a misaligned next
pointer its step and pointer; a register read gives the register (R229, R231, R262, R353, R357, R359, R368). The OP codes and
payloads are the model's numbering (log 18). -/
def Obligations.PacketRequests : Prop :=
  (∀ (s : State) (p : Packet), Asks s 0x01#8 p → Servable s p.pa 1 →
    (let line := lineOf p.pa
     (0xC000 ≤ p.flow.toNat → p.op ≠ 1#8 → ∃ t : State, exec (.rd p) s = .next t ∧ SameMemory s t ∧ t.dir = s.dir ∧
       Responds s t p 0 (bytesAt s line 128) 0#8) ∧
     (p.flow.toNat < 0xC000 → p.op ≠ 1#8 → s.dir.length < 2 ^ 20 → ∃ t : State, exec (.rd p) s = .next t ∧
       SameMemory s t ∧ t.dir = s.dir ++ [⟨line, .e, some p.src.toNat, [], false, false⟩] ∧
       (∀ w, w ∈ t.l1 ↔ w ∈ s.l1 ∧ lineOf (4 * w.word) ≠ line) ∧ Responds s t p 0 (bytesAt s line 128) 1#8) ∧
     (p.flow.toNat < 0xC000 → p.op = 1#8 → s.dir.length < 2 ^ 20 → s.mayWrite line p.cell = true →
       ∃ t : State, exec (.rd p) s = .next t ∧ SameMemory s t ∧ t.dir = s.dir ++ [⟨line, .m, some p.src.toNat, [], false, false⟩] ∧
         (∀ w, w ∈ t.l1 ↔ w ∈ s.l1 ∧ lineOf (4 * w.word) ≠ line) ∧ Responds s t p 0 (bytesAt s line 128) 0#8))) ∧
  (∀ (s : State) (p : Packet), Asks s 0x02#8 p → 16 ≤ p.op.toNat → Servable s p.pa (p.op.toNat - 16) →
    p.op.toNat - 16 ≤ p.payload.length → s.mayWrite p.pa p.cell = true →
    ∃ t : State, exec (.wr p) s = .next t ∧ Stored s t p.pa (p.op.toNat - 16) (ofBytes (p.payload.take (p.op.toNat - 16))) ∧
      (p.flags.getLsbD 6 = true → lineOf p.pa ∈ t.poison) ∧ Responds s t p 0 [] 0#8) ∧
  (∀ (s : State) (p : Packet), Asks s 0x03#8 p → s.mayWrite p.pa p.cell = true →
    (let n := if p.op.getLsbD 6 = true then 8 else 4
     p.op.toNat % 64 < 10 → Servable s p.pa n →
     ∃ t : State, exec (.atomPacket p) s = .next t ∧
       Stored s t p.pa n (atomSpec (atomOf (p.op.toNat % 64)) (8 * n) (numAt s p.pa n) (ofBytes (p.payload.take n))) ∧
       Responds s t p 0 (bytesAt s p.pa n) 0#8) ∧
    (∀ n : Nat, p.op = 0x10#8 → n = 4 ∨ n = 8 ∨ n = 16 → p.payload.length = 2 * n → Servable s p.pa n →
      ∃ t : State, exec (.atomPacket p) s = .next t ∧
        (if bytesAt s p.pa n = p.payload.take n then Stored s t p.pa n (ofBytes (p.payload.drop n)) else SameMemory s t) ∧
        Responds s t p 0 (bytesAt s p.pa n) 0#8) ∧
    (p.op = 0x20#8 → Servable s p.pa 8 → CounterOpen s p.pa →
      (let x := (numAt s p.pa 8 + p.field 0 8) % 2 ^ 64
       ∃ t : State, exec (.atomPacket p) s = .next t ∧ Stored s t p.pa 8 x ∧ Fires s t p.pa x ∧
         Responds s t p 0 (bytesAt s p.pa 8) 0#8))) ∧
  (∀ (s : State) (p : Packet), Asks s 0x04#8 p →
    (let rec_ := stepRecord p
     let k := p.field 0 8
     (chainSteps rec_ ≤ k → Servable s p.pa (chainSize rec_).bytes →
       ∃ t : State, exec (.step p) s = .next t ∧ SameMemory s t ∧
         Responds s t p 0 (bytesAt s p.pa (chainSize rec_).bytes) 0#8) ∧
     (k < chainSteps rec_ → Servable s p.pa 8 →
       (let ptr' : W64 := BitVec.ofNat 64 (numAt s p.pa 8) &&& chainMask rec_ k
        (chainRead rec_ (k + 1) ptr').1.toNat % (chainRead rec_ (k + 1) ptr').2 ≠ 0 →
        ∃ t : State, exec (.step p) s = .next t ∧ SameMemory s t ∧
          Responds s t p 4 (toBytes 8 (k + 1) ++ toBytes 8 ptr'.toNat ++ toBytes 8 4) 0#8)))) ∧
  (∀ (s : State) (p : Packet) (cpa : Nat), Asks s 0x05#8 p → s.mayWrite p.pa p.cell = true →
    (let n := p.op.toNat
     let ctr : W64 := BitVec.ofNat 64 (p.field 0 8)
     Servable s p.pa n → 8 + n ≤ p.payload.length → HeldAtDie s (homeDie p.pa) p.context ctr .store cpa →
     (∀ r ∈ s.reqs, r.purpose ≠ .decrement p.src.toNat p.flow p.tag) →
     KeyMapApart s p.pa n cpa → Servable s cpa 8 → CounterOpen s cpa → s.mayWrite cpa p.cell = true → Apart p.pa n cpa 8 →
     (let x := (numAt s cpa 8 + 2 ^ 64 - n) % 2 ^ 64
      ∃ t : State, exec (.stcPacket p) s = .next t ∧
        (∀ k, k < n → t.mem.get (p.pa + k) = p.payload.getD (8 + k) 0#8) ∧ numAt t cpa 8 = x ∧ Fires s t cpa x ∧
        (∀ b, ¬ (p.pa ≤ b ∧ b < p.pa + n) → ¬ (cpa ≤ b ∧ b < cpa + 8) → t.mem.get b = s.mem.get b) ∧
        Responds s t p 0 [] 0#8))) ∧
  (∀ (s : State) (p : Packet) (sel : BitVec 8) (x : Nat), Asks s 0x0F#8 p → p.op = 1#8 → p.addr.extractLsb' 0 8 = sel →
    p.addr.toNat / 2 ^ 20 % 2 ^ 21 = s.pkg →
    (sel, x) ∈ hostRegisters s →
    ∃ t : State, exec (.hostPacket p) s = .next t ∧ SameMemory s t ∧ Responds s t p 0 (toBytes 8 x) 0#8)

/-- A packet that breaks R353 (an unknown TYPE, a reserved bit or size, or another destination) is discarded and counted in
DISCARDS, whatever its type; a request of a cell declared dead is
answered with status 5, its write-backs, COHACKs and ACKs are discarded, and an ABORT of it is answered with status 5; a request
already answered is
answered again from its record; a request of a full home unit gets RETRY with a delay code of 0 to 10; a package that has not joined
its cell takes nothing in (R353, R354, R358, R364, R366, R377). The OP code of a
write-back is the model's numbering (log 18), and which delay RETRY names is a free value (log 27). -/
def Obligations.PacketsTurnedAway : Prop :=
  (∀ (s : State) (p : Packet), s.badPacket p = true ↔
    (p.typ.toNat = 0 ∨ 0x0F < p.typ.toNat ∨ 2 ^ 21 ≤ p.dst.toNat ∨ 2 ^ 21 ≤ p.src.toNat ∨ 2 ^ 21 ≤ p.srcCell.toNat ∨
      2 ^ 10 ≤ p.ctx.toNat ∨ 5 < p.size.toNat ∨ 2 ^ 62 ≤ p.addr.toNat ∨ p.dst.toNat ≠ s.pkg)) ∧
  (∀ (s : State) (p : Packet) (i : Instr) (ty : BitVec 8), ArrivalOf p i ty → s.power ≠ .off →
    p.typ ≠ ty ∨ s.badPacket p = true → Canonical s → HwWritable s (s.fcb + 64) 8 →
    ∃ t : State, exec i s = .next t ∧ numAt t (s.fcb + 64) 8 = (s.rd (s.fcb + 64) 8 + 1) % 2 ^ 64 ∧
      (∀ b, ¬ (s.fcb + 64 ≤ b ∧ b < s.fcb + 72) → t.mem.get b = s.mem.get b) ∧
      t = { s with
            mem := t.mem, tags := t.tags, hazes := t.hazes, cellTaken := t.cellTaken, tiles := t.tiles, l1 := t.l1 }) ∧
  (∀ (s : State) (p : Packet) (i : Instr) (ty : BitVec 8), ArrivalOf p i ty → p.typ = ty → s.badPacket p = false →
    s.power = .running → s.joined = false → exec i s = .next s) ∧
  (∀ (s : State) (p : Packet) (i : Instr) (ty : BitVec 8),
    (i, ty) ∈ [(.rd p, 0x01#8), (.wr p, 0x02#8), (.atomPacket p, 0x03#8), (.step p, 0x04#8), (.stcPacket p, 0x05#8),
      (.hostPacket p, 0x0F#8)] →
    s.power = .running → s.joined = true → p.typ = ty → s.badPacket p = false → s.fromDead p = true →
    exec i s = .next (if ty = 0x02#8 ∧ p.op = 2#8 then s
      else { s with outbox := s.outbox ++ [.packet (answerTo s p 0x08#8 5#8 0#8 [])] })) ∧
  (∀ (s : State) (p : Packet), s.power = .running → s.joined = true → s.badPacket p = false → s.fromDead p = true →
    (p.typ = 0x0C#8 →
      exec (.abort p) s = .next { s with outbox := s.outbox ++ [.packet (answerTo s p 0x0D#8 5#8 0#8 [])] }) ∧
    (p.typ = 0x07#8 → exec (.cohack p) s = .next s) ∧ (p.typ = 0x0A#8 → exec (.ack p) s = .next s)) ∧
  (∀ (s : State) (p : Packet) (i : Instr) (ty : BitVec 8) (r : ReplyRec) (st : Nat) (d : List Byte),
    (i, ty) ∈ [(.wr p, 0x02#8), (.atomPacket p, 0x03#8), (.step p, 0x04#8), (.stcPacket p, 0x05#8), (.hostPacket p, 0x0F#8)] →
    Arrives s ty p → HomesQuiet s → p.flags.getLsbD 7 = false →
    (s.replies.find? fun x => x.src == p.src.toNat && x.flow == p.flow && x.tag == p.tag && recordHome x.req == recordHome p &&
      (p.typ != 0x04#8 || Packet.field x.req 0 8 == p.field 0 8)) = some r → r.reply = some (st, d) →
    r.aborted = false →
    exec i s = .next { s with outbox := s.outbox ++ [.packet (answerTo s p 0x08#8 (BitVec.ofNat 8 st) 0#8 d)] }) ∧
  (∀ (s : State) (p : Packet) (i : Instr) (ty : BitVec 8),
    (i, ty) ∈ [(.rd p, 0x01#8), (.wr p, 0x02#8), (.atomPacket p, 0x03#8), (.step p, 0x04#8), (.stcPacket p, 0x05#8),
      (.hostPacket p, 0x0F#8)] →
    Arrives s ty p → HomesQuiet s → p.flags.getLsbD 7 = false →
    (∀ r ∈ s.replies, ¬ (r.src = p.src.toNat ∧ r.flow = p.flow ∧ r.tag = p.tag)) →
    4096 ≤ (s.replies.filter fun r => recordHome r.req = recordHome p).length →
    ∃ d : BitVec 8, d.toNat ≤ 10 ∧
      exec i s = .next { s with outbox := s.outbox ++ [.packet (answerTo s p 0x09#8 0#8 0#8 [d])] })

/-! ### Packets that answer, coherence, and the requester's timers (16 R350-R359, R363, R366, R367) -/

namespace Sys2Proof.Claims

/-- Nothing of this package waits for a line: no posted store, no operation in flight, nothing at its homes. -/
structure Idling (s : State) : Prop where
  posted : s.posted = []
  ops : ∀ t ∈ s.teams, ∀ g ∈ t.groups, g.ops = []
  quiet : HomesQuiet s

/-- Request `r` is outstanding, and the only one with its tag. -/
structure Outstanding (s : State) (r : Req) : Prop where
  mem : r ∈ s.reqs
  unanswered : r.reply = none
  only : ∀ q ∈ s.reqs, q.tag = r.tag → q = r

/-- It is the request that packet `p` answers. -/
structure AnsweredBy (s : State) (r : Req) (p : Packet) : Prop where
  out : Outstanding s r
  tag : r.tag = p.tag
  flow : r.pkt.flow = p.flow

/-- The requests with request `r` replaced by `q`. -/
def swapReq (s : State) (r q : Req) : List Req := s.reqs.map fun x => if x.tag = r.tag then q else x

/-- The request asks for the line, and has no answer yet. -/
def AsksFor (r : Req) (line : Nat) : Bool :=
  r.reply.isNone && match r.purpose with
    | .fill l | .own l | .prefetch l _ => l == line
    | _ => false

/-- The slice of a line has room for one more line of another package: of its 32,768 places, those of its part of the carve-out
are taken (R1, R58). -/
def SliceRoom (s : State) (line : Nat) : Prop :=
  ((s.llc.map (·.line)).filter (inSlice (homeDie line) (homeSlice line))).length + 1024 * s.carve.toList.getD (homeDie line) 0 < 2 ^ 15

end Sys2Proof.Claims

/-- COH: a holder gives the line up, or only its right to write, and answers with COHACK, which carries the line, poison and all,
from M or O; an answer to a request for the line that was under way is not used any more. The last COHACK ends the recall: the
data of the line's owner becomes memory, unless the recall discards it, and the line has no entry, or, where its owner was to keep
it, one in O or S: that a downgrade makes home memory current too, and that the owner then serves one read from there, is the
model's reading (log 51, DEDUCED). RESP is acknowledged and brings a line into the LLC in the state it was granted, and into the
L1 that asked; a poisoned line is not prefetched, nor is a line taken whose request is void. RESP, and ABORTACK for an aborted
request, give a waiting access its status and data; one that nothing awaits is only acknowledged. ACK ends a finished reply
record, NOTICE records a chain's progress, and MGMT writes CELLCMD, which is read next (R97, R120, R221, R233, R353, R358, R359,
R363, R367, R374). The OP codes of COH, the flag of E and the payloads are the model's numbering (log 18), and that the homes
which have passed a chain on are acknowledged too is its choice (log 72). -/
def Obligations.PacketAnswers : Prop :=
  (∀ (s : State) (p : Packet) (st : LlcState), Arrives s 0x06#8 p →
    (let line := lineOf p.pa
     s.llcState line = some st → s.here line = false → (∀ t ∈ s.tiles, line ∉ t.frames) → (∀ e ∈ s.posted, e.pair = false) →
     (∀ k, k < 128 → s.hazeByte (line + k) = none) → (∀ r ∈ s.reqs, r.purpose ≠ .writeback line) →
     (let dirty : Bool := st = .m || st = .o
      let data := if dirty then bytesAt s line 128 else []
      let flags : BitVec 8 := if dirty && s.poison.contains line then 0x40#8 else 0#8
      let out := s.outbox ++ [.packet (answerTo s p 0x07#8 p.op flags data)]
      let reqs := s.reqs.map fun r => if AsksFor r line then { r with void := true } else r
      (p.op = 2#8 → exec (.coh p) s = .next { s with
        outbox := out, reqs := reqs
        llc := s.llc.map fun l => if l.line = line then
          { l with st := match l.st with | .m => .o | .e => .s | x => x } else l }) ∧
      (p.op ≠ 2#8 → exec (.coh p) s = .next { s with
        outbox := out, reqs := reqs
        llc := s.llc.filter fun l => l.line ≠ line
        l1 := s.l1.filter fun w => lineOf (4 * w.word) ≠ line })))) ∧
  (∀ (s : State) (p : Packet) (r : Recall), Arrives s 0x07#8 p → Idling s → s.recalls = [r] → r.line = lineOf p.pa →
    r.wait = [p.src.toNat] →
    (let owns : Prop := ∃ e ∈ s.dir, e.line = r.line ∧ e.owner = some p.src.toNat
     ∃ t : State, exec (.cohack p) s = .next t ∧ t.recalls = [] ∧ (∀ e ∈ s.dir, e.line ≠ r.line → e ∈ t.dir) ∧
      (r.kind ≠ .down → ∀ e ∈ t.dir, e.line ≠ r.line) ∧ (r.kind = .drop ∨ p.payload = [] ∨ ¬ owns → SameMemory s t ∧ t.poison = s.poison) ∧
      (r.kind ≠ .drop → owns → p.payload.length = 128 → Canonical s → HwWritable s r.line 128 →
        Stored s t r.line 128 (ofBytes p.payload) ∧ (r.line ∈ t.poison ↔ p.flags.getLsbD 6 = true)) ∧
      (r.kind = .down → ∀ e : DirEntry, s.dir = [e] → e.line = r.line →
        (e.st = .m ∨ e.st = .o → t.dir = [{ e with st := .o, supplied := true }]) ∧
        (e.st = .e → p.payload = [] →
          t.dir = [{ e with st := .s, owner := none, readers := e.owner.toList ++ e.readers }])))) ∧
  (∀ (s : State) (p : Packet) (r : Req) (line : Nat) (st : LlcState) (core : Option Nat), Arrives s 0x08#8 p →
    AnsweredBy s r p → Idling s → r.passers = [] → p.op = 0#8 → p.payload.length = 128 → Canonical s → s.here line = false →
    line % 128 = 0 →
    (r.purpose, st) ∈ [(Purpose.fill line, if p.flags.getLsbD 0 = true then LlcState.e else .s),
      (.prefetch line core, if p.flags.getLsbD 0 = true then LlcState.e else .s), (.own line, .m)] →
    (r.void = false → s.llcState line = none → SliceRoom s line → (r.purpose = .prefetch line core → p.flags.getLsbD 6 = false) →
      ∃ t : State, exec (.resp p) s = .next t ∧ t.llcState line = some st ∧ Stored s t line 128 (ofBytes p.payload) ∧
        (line ∈ t.poison ↔ p.flags.getLsbD 6 = true) ∧ r ∉ t.reqs ∧
        (∀ c, r.purpose = .prefetch line (some c) → ∀ k, k < 32 → (t.l1Word c (line / 4 + k)).isSome = true) ∧
        t.outbox = s.outbox ++ [.packet (answerTo s p 0x0A#8 0#8 0#8 [])]) ∧
    (r.void = true ∨ r.purpose = .prefetch line core ∧ p.flags.getLsbD 6 = true →
      exec (.resp p) s = .next { s with
        reqs := s.reqs.filter fun q => q.tag ≠ r.tag
        outbox := s.outbox ++ [.packet (answerTo s p 0x0A#8 0#8 0#8 [])] })) ∧
  (∀ (s : State) (p : Packet) (i : Instr) (ty : BitVec 8) (r : Req) (a : GroupRef) (o l : Nat),
    (i, ty) ∈ [(.resp p, 0x08#8), (.abortack p, 0x0D#8)] → (ty = 0x0D#8 → r.phase = .aborting) → Arrives s ty p →
    AnsweredBy s r p → Idling s → r.purpose = .lane a o l →
    exec i s = .next { s with
      outbox := s.outbox ++ .packet (answerTo s p 0x0A#8 0#8 0#8 []) ::
        (r.passers.filter fun h => h ≠ p.src.toNat).map fun h =>
          .packet (answerTo s { p with src := BitVec.ofNat 24 h } 0x0A#8 0#8 0#8 [])
      reqs := swapReq s r { r with reply := some (p.op.toNat, p.payload), phase := .sent } }) ∧
  (∀ (s : State) (p : Packet) (i : Instr) (ty : BitVec 8), (i, ty) ∈ [(.resp p, 0x08#8), (.notice p, 0x0B#8), (.abortack p, 0x0D#8)] →
    Arrives s ty p → (∀ r ∈ s.reqs, r.tag ≠ p.tag) →
    exec i s = .next { s with outbox := s.outbox ++ [.packet (answerTo s p 0x0A#8 0#8 0#8 [])] }) ∧
  (∀ (s : State) (p : Packet), Arrives s 0x0A#8 p →
    exec (.ack p) s = .next { s with
      replies := s.replies.filter fun r =>
        ¬ (r.src = p.src.toNat ∧ r.flow = p.flow ∧ r.tag = p.tag ∧ (r.reply ≠ none ∨ r.passed = true)) }) ∧
  (∀ (s : State) (p : Packet) (r : Req), Arrives s 0x0B#8 p → AnsweredBy s r p →
    exec (.notice p) s = .next { s with
      reqs := swapReq s r { r with
        notice := some (BitVec.ofNat 64 (p.field 0 8), BitVec.ofNat 64 (p.field 8 8))
        passers := insertNat p.src.toNat r.passers } }) ∧
  (∀ (s : State) (p : Packet), Arrives s 0x0E#8 p →
    (p.op ≠ 0#8 → exec (.mgmt p) s = .next s) ∧
    (p.op = 0#8 → Canonical s → HwWritable s (s.fcb + 56) 8 →
      ∃ t : State, exec (.mgmt p) s = .next t ∧ Stored s t (s.fcb + 56) 8 (p.field 0 8) ∧ t.cellTaken = false ∧
        t = { s with
              mem := t.mem, tags := t.tags, hazes := t.hazes, cellTaken := t.cellTaken, tiles := t.tiles, l1 := t.l1
              due := s.due ++ [s.cellEvent (p.field 0 8)] }))

/-- RETRY sets its request aside for the delay it names; the resend is the same packet, and of a flow's numbered requests the
lowest number goes first; the timer resends the same packet at most three times. At the timeout a read completes with a fault, a
prefetch is dropped, and any other request is aborted; a retry after a moved status has no timer; when the ABORT is not answered
either, its outcome is unknown, and an event of cause 3 names the home's cell and package (R364). An ABORT is answered with the
reply of a finished request, marks one under way, and records one that has not come as never performed (R351, R354, R364, R366,
R367). The payloads of RETRY, NOTICE and ABORT are the model's (log 18, 27). -/
def Obligations.RequestTimers : Prop :=
  (∀ (s : State) (p : Packet) (r : Req), Arrives s 0x09#8 p → AnsweredBy s r p → r.phase ≠ .aborting →
    exec (.retry p) s = .next { s with reqs := swapReq s r { r with phase := .backoff (p.field 0 1) } }) ∧
  (∀ (s : State) (r : Req) (k : Nat) (a b : List Req), s.power ≠ .off → Outstanding s r → r.phase = .backoff k →
    s.deadPkg r.pkt.dst.toNat = false → s.reqs = a ++ r :: b → r ∉ a →
    (let aside (q : Req) : Prop := q.pkt.flow = r.pkt.flow ∧ q.pkt.dst = r.pkt.dst ∧ q.pkt.flags.getLsbD 7 = true ∧
       q.phase ≠ .sent ∧ q.phase ≠ .aborting ∧ q.phase ≠ .held
     (r.pkt.flags.getLsbD 7 = false ∨ (∀ q ∈ a, ¬ aside q) → exec (.retryResend r.tag.toNat) s = .next { s with
       reqs := swapReq s r { r with phase := .sent }, outbox := s.outbox ++ [.packet r.pkt] }) ∧
     (r.pkt.flags.getLsbD 7 = true → (∃ q ∈ a, aside q) → exec (.retryResend r.tag.toNat) s = .next s))) ∧
  (∀ (s : State) (r : Req), s.power ≠ .off → Outstanding s r → r.phase = .sent → s.deadPkg r.pkt.dst.toNat = false →
    exec (.requestTimerResend r.tag.toNat) s = .next (if 3 ≤ r.resends ∨ r.retried = true then s else
      { s with reqs := swapReq s r { r with resends := r.resends + 1 }, outbox := s.outbox ++ [.packet r.pkt] })) ∧
  (∀ (s : State) (r : Req), s.power ≠ .off → Outstanding s r → r.phase ≠ .aborting → r.phase ≠ .held → HomesQuiet s →
    (r.retried = true → exec (.requestTimeout r.tag.toNat) s = .next s) ∧
    (r.retried = false → (let read : Prop := r.pkt.typ = 0x01#8 ∧ r.pkt.op ≠ 1#8 ∨ r.pkt.typ = 0x04#8
     (read → ((∃ a o l, r.purpose = .lane a o l) ∨ ∃ line, r.purpose = .fill line) →
       exec (.requestTimeout r.tag.toNat) s = .next { s with
         reqs := swapReq s r { r with
           reply := some (258, match r.notice with
             | some x => toBytes 8 x.1.toNat ++ toBytes 8 x.2.toNat ++ toBytes 8 0
             | none => [])
           phase := .sent } }) ∧
     (read → (∃ line core, r.purpose = .prefetch line core) →
       exec (.requestTimeout r.tag.toNat) s = .next { s with reqs := s.reqs.filter fun q => q.tag ≠ r.tag }) ∧
     (¬ read → s.deadPkg r.pkt.dst.toNat = false → exec (.requestTimeout r.tag.toNat) s = .next { s with
       reqs := swapReq s r { r with phase := .aborting }
       outbox := s.outbox ++ [.packet { r.pkt with typ := 0x0C#8, size := 0#8, payload := [] }] })))) ∧
  (∀ (s : State) (r : Req) (a : GroupRef) (o l : Nat), s.power ≠ .off → Outstanding s r → r.phase = .aborting →
    r.purpose = .lane a o l → HomesQuiet s → EventOpen s →
    ∃ t : State, exec (.abortTimeout r.tag.toNat) s = .next t ∧
      t.reqs = swapReq s r { r with reply := some (257, []), phase := .sent } ∧
      EventWritten s t 3 [(4, 4, (s.cellOf r.pkt.dst.toNat).getD 0), (8, 4, r.pkt.dst.toNat)] fun _ => False) ∧
  (∀ (s : State) (p : Packet), Arrives s 0x0C#8 p → HomesQuiet s →
    (p.flags.getLsbD 7 = false → (∀ r ∈ s.replies, ¬ (r.src = p.src.toNat ∧ r.flow = p.flow ∧ r.tag = p.tag)) →
      exec (.abort p) s = .next { s with
        replies := s.replies ++ [⟨s.nextId, p.src.toNat, p.flow, p.tag, p, some (6, []), true, false⟩]
        nextId := s.nextId + 1
        outbox := s.outbox ++ [.packet (answerTo s p 0x0D#8 6#8 0#8 [])] }) ∧
    (∀ (r : ReplyRec) (st : Nat) (d : List Byte),
      (s.replies.find? fun x => x.src == p.src.toNat && x.flow == p.flow && x.tag == p.tag) = some r →
      r.reply = some (st, d) → r.req.typ ≠ 0x01#8 →
      exec (.abort p) s = .next { s with
        outbox := s.outbox ++ [.packet (answerTo s r.req 0x0D#8 (BitVec.ofNat 8 st) 0#8 d)] })) ∧
  (∀ (s : State) (p : Packet) (r : ReplyRec), Arrives s 0x0C#8 p → s.replies = [r] → r.reply = none →
    r.src = p.src.toNat → r.flow = p.flow → r.tag = p.tag →
    exec (.abort p) s = .next (State.pump { s with replies := [{ r with aborted := true }] }))

/-! ### Links, spares, reset and power (16 R348, R349; 17 R369-R378) -/

namespace Sys2Proof.Claims

/-- The number filed under a key of a count list. -/
def countOf (l : List (Nat × Nat)) (k : Nat) : Nat := ((l.find? fun x => x.1 = k).map (·.2)).getD 0

/-- The wear section, written and signed anew (R376). -/
def wornBy (s : State) (f : Spares → Spares) : State := { s with spares := { f s.spares with valid := true } }

/-- An authentication failure lies less than 1 ms back, in core cycles (R374). -/
def recent (s : State) (x : Nat × W64) : Bool := (s.cycle - x.2).toNat < 2700000

end Sys2Proof.Claims

/-- A replayed flit loses nothing; one of a die pair's sixteen modules is counted out of service; failed lanes of a port's four and
its spare are listed; the eighth authentication failure of a port within 1 ms starts its count anew. A scrubbed row's counter
leaks one and adds the corrected errors, at eight a spare row of its bank is taken and the copy begins, or an event of cause 5 says
that none is free; an uncorrectable error
poisons its line, with an event of cause 4, wherever it is found: in a line, in scratchpad, or in L1, where a copy word is dropped
and a registered one poisons its line; the switch ends the copy, and the row's counter starts at 0 (log 87, a design choice: the
spec gives it no value there). A core's spare takes over, its teams marked for saving, unless they are being saved already, which
stays as it is (log 79, DEDUCED), and its L1 dropped, while the
die has spares, and else the core is kept as worn, with an event of cause 6; a slice gives up its lines and takes a spare, and a row
of its memory one of sixteen, while one is left (that it stays in service where none is, is log 88, a design choice). Stacks,
dies, slices, ports, cores and die pairs that do not exist have no errors and no spares (R1, R3, R348, R349, R364, R369-R374). What
the further bytes of these events hold is free (log 19). -/
def Obligations.LinksAndSpares : Prop :=
  ∀ s : State, s.power ≠ .off →
  (∀ k : Nat, exec (.flitCrcReplay k) s = .next s) ∧
  (∀ k : Nat, 6 ≤ k → exec (.ucieModuleRetire k) s = .next s) ∧
  (∀ k : Nat, k < 6 → ∃ t : State, exec (.ucieModuleRetire k) s = .next t ∧
    t = wornBy s (fun w => { w with ucie := t.spares.ucie }) ∧
    ∀ j, countOf t.spares.ucie j =
      if j = k then min 16 (countOf s.spares.ucie k + 1) else countOf s.spares.ucie j) ∧
  (∀ k : Nat, exec (.fabricLaneSpare k) s = .next (if 48 ≤ k ∨ 5 ≤ s.spares.fabricLanes.count k then s
    else wornBy s fun w => { w with fabricLanes := w.fabricLanes ++ [k] })) ∧
  (∀ k : Nat, 48 ≤ k → exec (.linkAuthFailure k) s = .next s) ∧
  (∀ k n : Nat, k < 48 → n = (s.authFails.filter fun x => recent s x ∧ x.1 = k).length + 1 →
    exec (.linkAuthFailure k) s = .next { s with
      authFails := if 8 ≤ n then s.authFails.filter fun x => recent s x ∧ x.1 ≠ k
        else (k, s.cycle) :: s.authFails.filter fun x => recent s x }) ∧
  (∀ (row : RowRef) (e : Nat) (l : Option Nat), 8 ≤ row.stack → exec (.scrubRowPass row e l) s = .next s) ∧
  (∀ (row : RowRef) (e : Nat), row.stack < 8 →
    (let x := s.rowOf row
     let n := min 8 (x.count - 1 + e)
     let full : Prop := 8 ≤ (s.spares.rows.filter fun y => y = (row.stack, row.bank)).length
     (n < 8 ∨ x.copying ≠ none →
       ∃ t : State, exec (.scrubRowPass row e none) s = .next t ∧
         t = { s with rowStates := t.rowStates } ∧ t.rowOf row = { x with row := row, count := n } ∧
         ∀ r, r ≠ row → t.rowOf r = s.rowOf r) ∧
     (n = 8 → x.copying = none → full → EventOpen s →
       ∃ t : State, exec (.scrubRowPass row e none) s = .next t ∧ t.rowOf row = { x with row := row, count := 8 } ∧
         t.spares = s.spares ∧ EventWritten s t 5 [] fun _ => False) ∧
     (n = 8 → x.copying = none → ¬ full →
       ∃ t : State, exec (.scrubRowPass row e none) s = .next t ∧ (t.rowOf row).copying ≠ none ∧
         t = { wornBy s (fun w => { w with rows := (row.stack, row.bank) :: w.rows }) with rowStates := t.rowStates }))) ∧
  (∀ (row : RowRef) (e line : Nat), row.stack < 8 → ∃ t : State, exec (.scrubRowPass row e (some line)) s = .next t ∧
    line / 128 * 128 ∈ t.poison ∧ (∀ l ∈ s.poison, l ∈ t.poison) ∧
    ((s.rowOf row).count - 1 + e < 8 → EventOpen s → (eventNote s ≠ 0 → lineOf (eventNote s) ≠ lineOf line) →
      EventWritten s t 4 [] fun _ => False)) ∧
  (EventOpen s →
    (∀ line : Nat, (eventNote s ≠ 0 → lineOf (eventNote s) ≠ lineOf line) →
      ∃ t : State, s.take (.badLine line) = .next t ∧ line / 128 * 128 ∈ t.poison ∧ EventWritten s t 4 [] fun _ => False) ∧
    (∀ tid word : Nat, ∃ t : State, s.take (.badScratch tid word) = .next t ∧ EventWritten s t 4 [] (fun _ => False) ∧
      t.teams = s.teams.map fun x => if x.tid = tid then { x with scrPoison := insertNat word x.scrPoison } else x) ∧
    ∀ (core word : Nat) (x : L1Word), (s.l1Word core word) = some x →
      (eventNote s ≠ 0 → lineOf (eventNote s) ≠ lineOf (4 * word)) →
      ∃ t : State, s.take (.badL1 core word) = .next t ∧ EventWritten s t 4 [] (fun _ => False) ∧
        (x.reg = true → 4 * word / 128 * 128 ∈ t.poison) ∧ (x.reg = false → t.poison = s.poison) ∧
        ∀ w ∈ t.l1, w.core ≠ core ∨ w.word ≠ word) ∧
  (∀ (row : RowRef) (k : Nat), (s.rowOf row).copying = some k → ∃ t : State, exec (.rowRemapSwitch row) s = .next t ∧
    t = { s with rowStates := t.rowStates } ∧ t.rowOf row = ⟨row, 0, none, some k⟩) ∧
  (∀ core : Nat,
    (let spent := (s.spares.cores.filter fun c => c / 48 = core / 48).length
     (192 ≤ core → exec (.coreSpareSwap core) s = .next s) ∧
     (core < 192 → spent < 4 →
       ∃ t : State, exec (.coreSpareSwap core) s = .next t ∧
         t = { wornBy s (fun w => { w with cores := core :: w.cores }) with
               l1 := s.l1.filter fun w => w.core ≠ core
               teams := s.teams.map fun x =>
                 if x.core = core ∧ x.header = false ∧ x.saving = none then { x with saving := some .preempt } else x
               rowOwner := t.rowOwner, blockOwner := t.blockOwner }) ∧
     (core < 192 → 4 ≤ spent →
       ∃ t : State, exec (.coreSpareSwap core) s = .next t ∧
         t.spares = { s.spares with valid := true, worn := insertNat core s.spares.worn } ∧ t.teams = s.teams ∧
         (EventOpen s → EventWritten s t 6 [] fun _ => False)))) ∧
  (∀ core : Nat, s.take (.fenceCore core) = .next (if 192 ≤ core then s
    else wornBy s fun w => { w with fenced := insertNat core w.fenced })) ∧
  (∀ pair : Nat, pair < 6 → ∃ t : State, s.take (.ucieRepair pair) = .next t ∧
    t = wornBy s (fun w => { w with ucieLanes := t.spares.ucieLanes }) ∧
    ∀ j, countOf t.spares.ucieLanes j = if j = pair then countOf s.spares.ucieLanes pair + 1 else countOf s.spares.ucieLanes j) ∧
  (∀ die slice : Nat,
    (let spent := (s.spares.slices.filter fun x => x.1 = die).length
     let mine (l : LlcLine) : Prop := homeDie l.line = die ∧ homeSlice l.line = slice
     (4 ≤ die ∨ 64 ≤ slice ∨ 4 ≤ spent → exec (.sliceSpareSwap die slice) s = .next s) ∧
     (die < 4 → slice < 64 → spent < 4 → (∀ x ∈ s.tiles, ∀ l ∈ s.llc, mine l → lineOf l.line ∉ x.frames) →
       (∀ e ∈ s.posted, e.pair = false) →
       ∃ t : State, exec (.sliceSpareSwap die slice) s = .next t ∧
         t.spares = { s.spares with valid := true, slices := (die, slice) :: s.spares.slices } ∧
         (∀ l, l ∈ t.llc ↔ l ∈ s.llc ∧ ¬ mine l) ∧ (∀ l ∈ s.poison, l ∈ t.poison) ∧ SameMemory s t))) ∧
  (∀ die slice row : Nat, exec (.sramRowSpare die slice row) s =
    .next (if die < 4 ∧ slice < 64 ∧ (s.spares.sramRows.filter fun x => x.1 = die ∧ x.2.1 = slice).length < 16 then
      wornBy s fun w => { w with sramRows := (die, slice, row) :: w.sramRows } else s))

namespace Sys2Proof.Claims

/-- The root of trust accepts a firmware image (R375; where an image holds its parts is log 11's). -/
abbrev ImageAccepted (s : State) (i : List Byte) : Prop :=
  sha3 (Config.imageKey i) = Config.firmwareKeyHash ∧
    dsaVerify (Config.imageKey i) (Config.imageBody i) (Config.imageSignature i) = true ∧
    s.policy.versionFloor ≤ Config.imageVersion i

end Sys2Proof.Claims

/-- A reset starts CYCLE at 0 with no context, team, grid or translation, the privileged registers at their reset values and every
key renewed (log 48, DEDUCED); HBM keeps its bytes and their poison, and the package the sections of its configuration that are
signed; in the place of a policy section that is not, the model takes the defaults, package id and bridge 0 (log 89, a design
choice). Stacks, die pairs and ports that fail their training are down, and the UCIe lanes repaired are recorded. It comes to
service mode with a section or an image refused, a stack that fails or a core fenced off; it is off when its ROM check fails; once
it joins, it announces its cell to the bridge package. An attestation report carries the requester's nonce, the hashes of the
loaded images and of the configuration, the package and its cell, the spares in use, and 2,420 bytes of ML-DSA-44 signature over
all of these by the identity key (log 11, PRESUMED). An image counts where the hash of its key is the one that the root of trust
holds, its signature holds under that key, and its version is not below the floor. A throttle changes the clock alone, a shutdown
turns the module off and records why in the wear section, and a module that is off does nothing: every word and step faults (log
56, a design choice) (R57, R299, R373-R378). The announcement, and the layout of the configuration that is hashed, are the model's
(log 2, 29). -/
def Obligations.ResetAndPower : Prop :=
  (∀ s : State, s.power ≠ .off →
    ∃ t : State, exec .packageReset s = .next t ∧ t.cycle = 0#64 ∧ t.ctxtab = 0#64 ∧ t.supctx = 0#10 ∧ t.trapseq = 0#64 ∧
      t.ctxctlStatus = 0#64 ∧ t.ctxctlQueue = [] ∧ t.teams = [] ∧ t.grids = [] ∧ t.saved = [] ∧ t.tlb = [] ∧ t.l1 = [] ∧
      t.llc = [] ∧ t.dir = [] ∧ t.tiles = [] ∧ t.reqs = [] ∧ t.mem = s.mem ∧ t.poison = (s.poison.filter fun l => isHbm l) ∧
      (∀ k, k < 1028 → t.genOf k = s.genOf k + 1) ∧
      (s.policy.valid = true → t.policy = s.policy ∧ t.pkg = s.policy.pkg ∧ t.carve = s.policy.carve) ∧
      (s.policy.valid = false → t.policy = { Policy.default with valid := false } ∧ t.pkg = 0) ∧
      (s.spares.valid = true → t.spares = { s.spares with ucieLanes := t.spares.ucieLanes } ∧
        ∀ j, countOf t.spares.ucieLanes j = countOf s.spares.ucieLanes j +
          (if h : j < 6 then Config.laneRepairs (s.resets + 1) ⟨j, h⟩ else 0)) ∧ t.firmware = s.firmware ∧
      (∀ p, p ∈ t.pairsDown ↔ ∃ k : Fin 6, k.val = p ∧ Config.pairOk (s.resets + 1) k = false) ∧
      (∀ p, p ∈ t.portsDown ↔ ∃ k : Fin 48, k.val = p ∧ Config.portOk (s.resets + 1) k = false) ∧
      (∀ p, p ∈ t.stacksDown ↔ ∃ k : Fin 8, k.val = p ∧ Config.stackOk (s.resets + 1) k = false) ∧
      (t.power = .off ↔ Config.romOk (s.resets + 1) = false) ∧
      (t.power = .running ↔ Config.romOk (s.resets + 1) = true ∧ s.policy.valid = true ∧ s.spares.valid = true ∧
        s.spares.fenced = [] ∧ (∀ k, Config.stackOk (s.resets + 1) k = true) ∧
        ∀ i ∈ s.firmware, ImageAccepted s i) ∧
      (t.joined = true ↔ t.power = .running ∧ Config.joinOk (s.resets + 1) = true) ∧
      (t.joined = false → t.outbox = s.outbox) ∧
      (t.joined = true → ∃ q : Packet, t.outbox = s.outbox ++ [.packet q] ∧ q.typ = 0x0E#8 ∧
        q.dst = BitVec.ofNat 24 s.policy.bridge ∧ q.payload = toBytes 8 t.ownCell)) ∧
  (∀ (s : State) (nonce : List Byte), s.power ≠ .off → nonce.length = 32 →
    ∃ body rnd sig : List Byte,
      body = nonce ++ (s.firmware.filter fun i => ImageAccepted s i).flatMap sha3 ++ sha3 s.configBytes ++ toBytes 3 s.pkg ++ toBytes 3 s.ownCell ++
        [s.spares.cores.length, s.spares.slices.length, s.spares.sramRows.length, s.spares.rows.length,
          s.spares.fabricLanes.dedup.length, (s.spares.ucieLanes.map fun x => x.2).sum].flatMap (toBytes 4) ∧
      rnd.length = 32 ∧ sig.length = 2420 ∧
      sig = (dsaKeyOf ((List.finRange 32).map (Config.identitySeed s.resets))).sign rnd body ∧
      exec (.attestationRequest nonce) s = .next { s with outbox := s.outbox ++ [.report (body ++ sig)] }) ∧
  (∀ s : State, s.power ≠ .off → exec .thermalThrottle s = .next { s with throttled := true } ∧
    exec .thermalShutdown s = .next { wornBy s (fun w => { w with shutdowns := w.shutdowns ++ [115] }) with
      power := .off, shutdownCause := some 115 }) ∧
  ∀ (s : State) (i : Instr), s.power = .off → exec i s = .fault .moduleOff ∧ step s = .fault .moduleOff

/-! ### Encodings (05 R125-R141), the step (01 R18, R32), reset (13 R299; 17 R377), memory -/

/-- Words written out from the layouts of R126, R129, R137 and R139 decode to what they stand for: IADD with rotated and scalar
sources, ICMP, LGC3, FADD with a rounding selector, the FFMA of the walkthrough under R142, FCVT to BF16 with stochastic rounding,
CHLD, MMA, SVC, NOP, SADD, SPEER, and an H-word of IADD and FADD. -/
def Obligations.DecodeWords : Prop :=
  decode (0x00#8 ++ 5#7 ++ 0#4 ++ 1#7 ++ 2#7 ++ 1#3 ++ 3#5 ++ 12#7 ++ 0#7 ++ 5#3 ++ 5#5 ++ 0#1) =
    some (.iadd ⟨5#7, 1#7, ⟨2#7, .rot 3#5⟩, ⟨12#7, .scalar 1#2 true⟩⟩) ∧
  decode (0x2D#8 ++ 0#7 ++ 0#4 ++ 9#7 ++ 2#7 ++ 0#8 ++ 3#7 ++ 10#7 ++ 0#9) =
    some (.icmpEq ⟨0#7, 9#7, 10#7, ⟨2#7, .own⟩, ⟨3#7, .own⟩⟩) ∧
  decode 0x210000410003092C#64 = some (.lgc3 ⟨0#7, 1#7, ⟨2#7, .own⟩, 3#7, 4#7, 0x96#8⟩) ∧
  decode (0x39#8 ++ 0#7 ++ 0#4 ++ 4#7 ++ 6#7 ++ 3#3 ++ 16#5 ++ 7#7 ++ 0#4 ++ 2#3 ++ 0#9) =
    some (.faddF32 ⟨0#7, 4#7, ⟨6#7, .bfly 16#5⟩, ⟨7#7, .own⟩, .rtz⟩) ∧
  decode 0x45000201B20C1342#64 = some (.ffmaF32 ⟨0#7, 8#7, ⟨3#7, .bfly 4#5⟩, ⟨12#7, .scalar 1#2 false⟩, ⟨9#7, .own⟩⟩) ∧
  decode 0x68000103000031A0#64 = some (.fcvt ⟨0#7, 4#7, ⟨6#7, .own⟩, .bf16, .f32, .sr⟩) ∧
  decode 0x9A0001810002A014#64 = some (.chld ⟨0#7, 0#4, 6#7, ⟨⟨2#7, .own⟩, 0#5, true⟩, 40#7, .st, .dev⟩) ∧
  decode 0xB200000805500002#64 = some (.mma ⟨0#7, 0#4, 16#7, 5#7, 40#7, .bf16, false, false⟩) ∧
  decode 0xC900020800000000#64 = some (.svc ⟨0#7, 8#7, 16#7⟩) ∧
  decode 0xC000000000000000#64 = some (.nop ⟨0#7⟩) ∧
  decode (0xD0#8 ++ 3#4 ++ 1#1 ++ 0#4 ++ 21#9 ++ 10#9 ++ 300#9 ++ 0#20) = some (.sadd ⟨3#4, true, 21#9, 10#9, 300#9⟩) ∧
  decode 0xED00054140BFFFFF#64 = some (.speer ⟨0#4, false, 21#9, 10#9, 11#9, 0xFFFFF#20⟩) ∧
  decode (0xF#4 ++ (0x02#6 ++ 1#3 ++ 4#7 ++ 5#7 ++ 0#2 ++ 0#5) ++ (0x20#6 ++ 0#3 ++ 6#7 ++ 7#7 ++ 1#2 ++ 2#5)) =
    some (.hWord ⟨.iadd, 1#3, 4#7, ⟨5#7, .own⟩⟩ ⟨.faddF32, 0#3, 6#7, ⟨7#7, .rot 2#5⟩⟩)

/-- Decoding undoes encoding: every well-formed word has an encoding, and the encoding decodes to it, with every operand at every
value its field admits (R125-R141, R216-R222, R235, R243). -/
def Obligations.EncodeDecode : Prop :=
  ∀ i : Instr, i.isWord = true → i.wf = true → ∃ w : BitVec 64, encode i = some w ∧ decode w = some i

/-- Decoding gives nothing but well-formed instruction words, and refuses every word of a reserved opcode, of a reserved
half-opcode, with a route of kind 6 or 7 on A, or with a lookahead on an opcode outside the long-latency set, whatever the opcode
(MMA, ACCOPEN and TLAUNCH have other fields in the place of route A; the scalar unit's lookahead stands in [50:47]) (R125, R132, R133,
R137, R140, R142). -/
def Obligations.DecodeRefuses : Prop :=
  (∀ (w : BitVec 64) (i : Instr), decode w = some i → i.isWord = true ∧ i.wf = true) ∧
  (∀ w : BitVec 64, (w.toNat / 2 ^ 56) ∈ (List.range' 0x81 15 ++ List.range' 0xA7 9 ++ List.range' 0xBB 5 ++ List.range' 0xCA 6 ++
    [0xEE, 0xEF]) → decode w = none) ∧
  (∀ w : BitVec 64, 0xF0 ≤ w.toNat / 2 ^ 56 →
    (w.toNat / 2 ^ 54 % 64 ∈ List.range' 0x1A 6 ++ List.range' 0x2B 21 ∨ w.toNat / 2 ^ 24 % 64 ∈ List.range' 0x1A 6 ++ List.range' 0x2B 21) →
    decode w = none) ∧
  (∀ w : BitVec 64, w.toNat / 2 ^ 56 < 0xD0 → w.toNat / 2 ^ 56 ∉ [0xB2, 0xB4, 0xB8] →
    w.toNat / 2 ^ 28 % 8 = 6 ∨ w.toNat / 2 ^ 28 % 8 = 7 → decode w = none) ∧
  (∀ w : BitVec 64, w.toNat / 2 ^ 56 < 0xD0 →
    w.toNat / 2 ^ 56 ∉ List.range' 0x5E 10 ++ [0x90, 0x92, 0x95, 0x97, 0x98, 0x99, 0x9A, 0x9D, 0xA1] ++ [0xB2] ++ List.range' 0xB4 6 →
    w.toNat / 2 ^ 45 % 16 ≠ 0 → decode w = none) ∧
  (∀ w : BitVec 64, 0xD0 ≤ w.toNat / 2 ^ 56 → w.toNat / 2 ^ 56 < 0xF0 → w.toNat / 2 ^ 56 ≠ 0xEA →
    w.toNat / 2 ^ 47 % 16 ≠ 0 → decode w = none)

/-- The issue key: among the runnable lanes that have not yielded, or all runnable lanes where every one has, the greatest DEP, and
with it the lowest LPC; there is none exactly when no lane is runnable; and every runnable lane at the key issues, yielded or not
(R18). -/
def Obligations.IssueKey : Prop :=
  ∀ g : Group,
    (let runnable (l : Fin 32) : Prop := g.lane[l] = .runnable
     let fresh (l : Fin 32) : Prop := runnable l ∧ g.yielded.getLsbD l.val = false
     let cand (l : Fin 32) : Prop := fresh l ∨ (∀ j, ¬ fresh j) ∧ runnable l
     (g.selectKey = none ↔ ∀ l, ¬ runnable l) ∧
     (∀ k : Key, g.selectKey = some k →
       (∃ l, cand l ∧ g.dep[l] = k.dep ∧ g.lpc[l] = k.lpc) ∧
       ∀ l, cand l → (g.dep[l]).toNat < k.dep.toNat ∨ g.dep[l] = k.dep ∧ k.lpc.toNat ≤ (g.lpc[l]).toNat) ∧
     ∀ (k : Key) (l : Fin 32), (g.atKey k).getLsbD l.val = true ↔ runnable l ∧ g.dep[l] = k.dep ∧ g.lpc[l] = k.lpc)

/-- A quadrant issues for a ready group of the highest level present, the one that issued least recently, one that has not issued
going first; it issues whenever some group is ready (R32). -/
def Obligations.QuadrantChoice : Prop :=
  ∀ (s : State) (core quad : Nat),
    (let ready := (s.quadrant core quad).filterMap s.offer
     (s.chooseGroup core quad = none ↔ ready = []) ∧
     ∀ c : Candidate, s.chooseGroup core quad = some c → c ∈ ready ∧
       ∀ x ∈ ready, x.level ≤ c.level ∧ (x.level = c.level → ∀ m, c.last = some m → ∃ n, x.last = some n ∧ m ≤ n))

/-- A step whose turn is a quadrant's takes the word at the selected key of its ready group, and runs exactly the instruction that
the word decodes to, with the lanes, key and masks of the issue; a word that decodes to none traps as illegal. A step whose turn is
an event runs that event. Either way the turn is used up and time passes; then the working copies go back (R17-R19, R125; the form
of a turn is the model's own, log 6). -/
def Obligations.StepRunsDecoded : Prop :=
  (∀ (s f x : State) (core quad : Nat) (rest : List Turn) (r : GroupRef) (k : Key) (w : W64), s.power ≠ .off →
    s.turns = .issue core quad :: rest →
    (let u := State.tick { s with turns := rest }
     s.spares.fenced.contains core = false → u.quadrant core quad = [r] → u.loadFocus r = some f → f.mayIssue = true → f.g.selectKey = some k →
     State.fetch { f with g := { f.g with status := .running } } k.lpc = .word x w →
     (let y : State := { x with iss := ⟨x.g.atKey k, k, w, x.g.yielded, x.g.runnable &&& ~~~x.g.atKey k, []⟩ }
      (decode w = none → step s = .next y.illegal.settle) ∧
      ∀ i : Instr, decode w = some i → y.wordReady i = true → (∃ z, y.recordReady i = .yes z) →
        (∀ t, exec i y = .next t → step s = .next t.settle) ∧ ∀ e, exec i y = .fault e → step s = .fault e))) ∧
  (∀ (s : State) (e : Instr) (rest : List Turn), s.power ≠ .off → e.isWord = false → s.turns = .occur e :: rest →
    ∀ t, exec e (State.tick { s with turns := rest }) = .next t → step s = .next t.settle) ∧
  (∀ (s : State) (rest : List Turn), s.power ≠ .off → s.turns = .idle :: rest → step s = .next (State.tick { s with turns := rest }))

/-- Every step keeps memory in its canonical form: addresses rising, and nothing listed that reads as an unlisted byte does. -/
def Obligations.StepKeepsMemoryCanonical : Prop :=
  ∀ s t : State, Canonical s → step s = .next t → Canonical t

/-- The machine after reset: CYCLE 0, the privileged registers of R299 at their reset values, no context's team, grid, translation
or request anywhere, and memory in canonical form. That the package is running and its memory unwritten is the model's choice (log
2, 3). -/
def Obligations.ResetValues : Prop :=
  (let s := State.reset
   s.cycle = 0#64 ∧ s.ctxtab = 0#64 ∧ s.supctx = 0#10 ∧ s.ctxctlStatus = 0#64 ∧ s.ctxctlQueue = [] ∧ s.trapseq = 0#64 ∧ s.teams = [] ∧
   s.grids = [] ∧ s.tlb = [] ∧ s.l1 = [] ∧ s.reqs = [] ∧ s.merge = [] ∧ s.freezes = [] ∧ Canonical s ∧ s.power = .running)

/-! ### Operand routing and addresses (02 R43; 05 R126, R132-R136; 08 R217) -/

namespace Sys2Proof.Claims

/-- The lane that a route of kind 0 to 4 selects for lane `i` (R133). -/
def routedLane (g : Group) (kind amount i : Nat) : Nat :=
  match kind with
  | 0 => i
  | 1 => (i + amount) % 32
  | 2 => amount
  | 3 => i ^^^ amount
  | _ => (((g.v[96 + amount]?.getD g.v[0])[i]?.getD 0#32).toNat) % 32

end Sys2Proof.Claims

/-- A route is read from its fields: kinds 6 and 7, an amount with kind 0, and amount[4:3] with kind 5 are reserved. Kinds 0 to 4
read the register of lane i, (i + amount) mod 32, amount, i XOR amount, or the low five bits of lane i's own v(96 + amount),
whatever that lane's state, a pair as a whole; kind 5 reads s(field + 128 × amount[1:0]), a half of it in a 32-bit use. The A
field of MOV and the A and B fields of IADD are where R126 puts them. An effective address is the base plus the offset, modulo
2^64: the offset is the sign-extended 32-bit source, or the whole 64-bit one (R43, R126, R132, R133, R136, R217). -/
def Obligations.OperandRouting : Prop :=
  (∀ (field : BitVec 7) (kind : BitVec 3) (amount : BitVec 5),
    srcOf field kind amount = none ↔
      6 ≤ kind.toNat ∨ kind.toNat = 0 ∧ amount ≠ 0#5 ∨ kind.toNat = 5 ∧ 8 ≤ amount.toNat) ∧
  (∀ (g : Group) (field : BitVec 7) (kind : BitVec 3) (amount : BitVec 5) (x : VSrc) (i : Fin 32),
    srcOf field kind amount = some x →
    (kind.toNat ≤ 4 → ∃ j : Fin 32, j.val = Claims.routedLane g kind.toNat amount.toNat i.val ∧
      g.src x i = (g.v[field.toNat])[j.val] ∧
      (g.src64 x i).toNat = ((g.v[field.toNat])[j.val]).toNat + 2 ^ 32 * ((g.v[(field.toNat + 1) % 128]'(by omega))[j.val]).toNat) ∧
    (kind.toNat = 5 → ∃ r : Fin 512, r.val = field.toNat + 128 * (amount.toNat % 4) ∧ g.src64 x i = g.s[r.val] ∧
      (g.src x i).toNat = (if 4 ≤ amount.toNat then (g.s[r.val]).toNat / 2 ^ 32 else (g.s[r.val]).toNat % 2 ^ 32))) ∧
  (∀ (guard d a : BitVec 7) (kind : BitVec 3) (amount : BitVec 5),
    decode (0x2A#8 ++ guard ++ 0#4 ++ d ++ a ++ kind ++ amount ++ 0#23) =
      (srcOf a kind amount).map fun x => .mov ⟨guard, d, x⟩) ∧
  (∀ (guard d a b : BitVec 7) (ka kb : BitVec 3) (na nb : BitVec 5),
    decode (0x00#8 ++ guard ++ 0#4 ++ d ++ a ++ ka ++ na ++ b ++ 0#7 ++ kb ++ nb ++ 0#1) =
      (srcOf a ka na).bind fun x => (srcOf b kb nb).map fun y => .iadd ⟨guard, d, x, y⟩) ∧
  ∀ (g : Group) (m : MAddr) (i : Fin 32),
    ((g.ea m i).toNat : Int) =
      ((if m.s = 0#5 then 0 else (((g.s[m.s.toNat]?).getD 0#64).toNat : Int)) +
        (if m.wide then ((g.src64 m.x i).toNat : Int) else (g.src m.x i).toInt)) % 2 ^ 64
end

