-- ==== Sys2Proof/Laws/Encoding.lean ====
section
/-! SUPPORT. Fields of joined bits: taking a word apart gives the fields it was joined from, for every layout of the
encoding, and every code gives back what it encodes. -/

namespace Sys2Proof

/-- A field above the low part. -/
theorem extract_skip {a b : Nat} (x : BitVec a) (z : BitVec b) (s n : Nat) (h : b ≤ s) :
    (x ++ z).extractLsb' s n = x.extractLsb' (s - b) n := by
  apply BitVec.eq_of_getLsbD_eq
  intro i hi
  have h1 : ¬ s + i < b := by omega
  have h2 : s + i - b = s - b + i := by omega
  simp [BitVec.getLsbD_append, h1, h2]

/-- A field within the low part. -/
theorem extract_low {a b : Nat} (x : BitVec a) (z : BitVec b) (s n : Nat) (h : s + n ≤ b) :
    (x ++ z).extractLsb' s n = z.extractLsb' s n := by
  apply BitVec.eq_of_getLsbD_eq
  intro i hi
  have h1 : s + i < b := by omega
  simp [BitVec.getLsbD_append, h1]

/-- The whole of a field. -/
theorem extract_whole {a : Nat} (x : BitVec a) : x.extractLsb' 0 a = x := by simp

theorem RawW.ofBits_toBits (r : RawW) : RawW.ofBits r.toBits = r := by
  obtain ⟨op, guard, la, d, a, rk, ra, low⟩ := r
  simp (disch := omega) only [RawW.ofBits, RawW.toBits, extract_skip, extract_low, Nat.reduceSub, extract_whole]

theorem RawBXC.ofBits_toBits (r : RawBXC) : RawBXC.ofBits r.toBits = r := by
  obtain ⟨b, c, xk, xa, xt⟩ := r
  simp (disch := omega) only [RawBXC.ofBits, RawBXC.toBits, extract_skip, extract_low, Nat.reduceSub, extract_whole]

theorem RawMem.ofBits_toBits (r : RawMem) : RawMem.ofBits r.toBits = r := by
  obtain ⟨s, w, e, ctl⟩ := r
  simp (disch := omega) only [RawMem.ofBits, RawMem.toBits, extract_skip, extract_low, Nat.reduceSub, extract_whole]

theorem RawCtl.ofBits_toBits (r : RawCtl) : RawCtl.ofBits r.toBits = r := by
  obtain ⟨size, kind, scope, split⟩ := r
  simp (disch := omega) only [RawCtl.ofBits, RawCtl.toBits, extract_skip, extract_low, Nat.reduceSub, extract_whole]

theorem RawACtl.ofBits_toBits (r : RawACtl) : RawACtl.ofBits r.toBits = r := by
  obtain ⟨op, size, kind, scope⟩ := r
  simp (disch := omega) only [RawACtl.ofBits, RawACtl.toBits, extract_skip, extract_low, Nat.reduceSub, extract_whole]

theorem RawE.ofBits_toBits (r : RawE) : RawE.ofBits r.toBits = r := by
  obtain ⟨op, guard, la, d, a, b, c, ctl⟩ := r
  simp (disch := omega) only [RawE.ofBits, RawE.toBits, extract_skip, extract_low, Nat.reduceSub, extract_whole]

theorem RawU.ofBits_toBits (r : RawU) : RawU.ofBits r.toBits = r := by
  obtain ⟨op, q, neg, la, d, a, b, imm⟩ := r
  simp (disch := omega) only [RawU.ofBits, RawU.toBits, extract_skip, extract_low, Nat.reduceSub, extract_whole]

theorem RawHalf.ofBits_toBits (r : RawHalf) : RawHalf.ofBits r.toBits = r := by
  obtain ⟨op, guard, d, b, rk, ra⟩ := r
  simp (disch := omega) only [RawHalf.ofBits, RawHalf.toBits, extract_skip, extract_low, Nat.reduceSub, extract_whole]

/-- The opcode of a joined W-form word. -/
theorem RawW.toBits_op (r : RawW) : r.toBits.extractLsb' 56 8 = r.op := congrArg RawW.op r.ofBits_toBits

/-- The opcode of a joined U-form word. -/
theorem RawU.toBits_op (r : RawU) : r.toBits.extractLsb' 56 8 = r.op := congrArg RawU.op r.ofBits_toBits

/-- The opcode of a joined word of the engine layout. -/
theorem RawE.toBits_op (r : RawE) : r.toBits.extractLsb' 56 8 = r.op := congrArg RawE.op r.ofBits_toBits

/-! ### Codes -/

theorem Route.of_code (r : Route) : routeOf r.kind r.amount = some r := by
  cases r with
  | own => rfl
  | rot n => rfl
  | bcast n => rfl
  | bfly n => rfl
  | idx n => rfl
  | scalar bank hi =>
    revert bank hi; decide

theorem VSrc.of_code (x : VSrc) : srcOf x.reg x.route.kind x.route.amount = some x := by
  simp [srcOf, Route.of_code]

theorem RndSel.of_code (r : RndSel) : rndOf r.code = some r := by cases r <;> rfl
theorem FType.of_code (t : FType) : ftypeOf t.code = t := by cases t <;> rfl
theorem CvtMode.of_code (m : CvtMode) : cvtModeOf m.code = some m := by
  cases m with
  | sel r => cases r <;> rfl
  | sr => rfl
theorem RedOp.of_code (o : RedOp) : redOpOf o.code = some o := by cases o <;> rfl
theorem MaskSel.of_code (m : MaskSel) : maskSelOf m.code = some m := by cases m <;> rfl
theorem Size.of_code (z : Size) : sizeOf3 z.code = some z := by cases z <;> rfl
theorem Scope.of_code (sc : Scope) : scopeOf sc.code = some sc := by cases sc <;> rfl
theorem Kind.of_code (k : Kind) : kindOf k.code = some k := by cases k <;> rfl
theorem Kind.of_code2 (k : Kind) : kind2Of k.code2 = k := by cases k <;> rfl
theorem Acc.of_code (a : Acc) : accOf a.kindCode a.scopeCode = some a := by
  cases a with
  | wk => rfl
  | strong k sc => cases k <;> cases sc <;> rfl
theorem AtomOp.of_code (o : AtomOp) : atomOpOf o.code = some o := by cases o <;> rfl
theorem MmaFmt.of_code (f : MmaFmt) : mmaFmtOf f.code = some f := by cases f <;> rfl
theorem TileFmt.of_code (f : TileFmt) : tileFmtOf f.code = some f := by cases f <;> rfl
theorem HOp.of_code (o : HOp) : hopOf o.code = some o := by cases o <;> rfl

end Sys2Proof
end

