-- ==== Sys2Proof/Laws/State.lean ====
section
/-! SUPPORT. What each field reads after each plain update of the state and of a group: one lemma per field and update,
so that no proof unfolds a record update. -/

namespace Sys2Proof.Machine

/-! ### `setG` -/

@[simp] theorem State.setG_power (s : State) (x : Group) : (s.setG x).power = s.power := rfl
@[simp] theorem State.setG_joined (s : State) (x : Group) : (s.setG x).joined = s.joined := rfl
@[simp] theorem State.setG_portsDown (s : State) (x : Group) : (s.setG x).portsDown = s.portsDown := rfl
@[simp] theorem State.setG_pairsDown (s : State) (x : Group) : (s.setG x).pairsDown = s.pairsDown := rfl
@[simp] theorem State.setG_stacksDown (s : State) (x : Group) : (s.setG x).stacksDown = s.stacksDown := rfl
@[simp] theorem State.setG_resets (s : State) (x : Group) : (s.setG x).resets = s.resets := rfl
@[simp] theorem State.setG_pkg (s : State) (x : Group) : (s.setG x).pkg = s.pkg := rfl
@[simp] theorem State.setG_policy (s : State) (x : Group) : (s.setG x).policy = s.policy := rfl
@[simp] theorem State.setG_carve (s : State) (x : Group) : (s.setG x).carve = s.carve := rfl
@[simp] theorem State.setG_cycle (s : State) (x : Group) : (s.setG x).cycle = s.cycle := rfl
@[simp] theorem State.setG_ctxtab (s : State) (x : Group) : (s.setG x).ctxtab = s.ctxtab := rfl
@[simp] theorem State.setG_descs (s : State) (x : Group) : (s.setG x).descs = s.descs := rfl
@[simp] theorem State.setG_supctx (s : State) (x : Group) : (s.setG x).supctx = s.supctx := rfl
@[simp] theorem State.setG_ctxctlStatus (s : State) (x : Group) : (s.setG x).ctxctlStatus = s.ctxctlStatus := rfl
@[simp] theorem State.setG_ctxctlQueue (s : State) (x : Group) : (s.setG x).ctxctlQueue = s.ctxctlQueue := rfl
@[simp] theorem State.setG_trapseq (s : State) (x : Group) : (s.setG x).trapseq = s.trapseq := rfl
@[simp] theorem State.setG_mem (s : State) (x : Group) : (s.setG x).mem = s.mem := rfl
@[simp] theorem State.setG_poison (s : State) (x : Group) : (s.setG x).poison = s.poison := rfl
@[simp] theorem State.setG_tags (s : State) (x : Group) : (s.setG x).tags = s.tags := rfl
@[simp] theorem State.setG_hazes (s : State) (x : Group) : (s.setG x).hazes = s.hazes := rfl
@[simp] theorem State.setG_keyGen (s : State) (x : Group) : (s.setG x).keyGen = s.keyGen := rfl
@[simp] theorem State.setG_l1 (s : State) (x : Group) : (s.setG x).l1 = s.l1 := rfl
@[simp] theorem State.setG_posted (s : State) (x : Group) : (s.setG x).posted = s.posted := rfl
@[simp] theorem State.setG_llc (s : State) (x : Group) : (s.setG x).llc = s.llc := rfl
@[simp] theorem State.setG_dir (s : State) (x : Group) : (s.setG x).dir = s.dir := rfl
@[simp] theorem State.setG_recalls (s : State) (x : Group) : (s.setG x).recalls = s.recalls := rfl
@[simp] theorem State.setG_openFar (s : State) (x : Group) : (s.setG x).openFar = s.openFar := rfl
@[simp] theorem State.setG_tlb (s : State) (x : Group) : (s.setG x).tlb = s.tlb := rfl
@[simp] theorem State.setG_ptrs (s : State) (x : Group) : (s.setG x).ptrs = s.ptrs := rfl
@[simp] theorem State.setG_freezes (s : State) (x : Group) : (s.setG x).freezes = s.freezes := rfl
@[simp] theorem State.setG_merge (s : State) (x : Group) : (s.setG x).merge = s.merge := rfl
@[simp] theorem State.setG_move (s : State) (x : Group) : (s.setG x).move = s.move := rfl
@[simp] theorem State.setG_triggers (s : State) (x : Group) : (s.setG x).triggers = s.triggers := rfl
@[simp] theorem State.setG_tiles (s : State) (x : Group) : (s.setG x).tiles = s.tiles := rfl
@[simp] theorem State.setG_expired (s : State) (x : Group) : (s.setG x).expired = s.expired := rfl
@[simp] theorem State.setG_mma (s : State) (x : Group) : (s.setG x).mma = s.mma := rfl
@[simp] theorem State.setG_engines (s : State) (x : Group) : (s.setG x).engines = s.engines := rfl
@[simp] theorem State.setG_transit (s : State) (x : Group) : (s.setG x).transit = s.transit := rfl
@[simp] theorem State.setG_assembly (s : State) (x : Group) : (s.setG x).assembly = s.assembly := rfl
@[simp] theorem State.setG_copies (s : State) (x : Group) : (s.setG x).copies = s.copies := rfl
@[simp] theorem State.setG_acps (s : State) (x : Group) : (s.setG x).acps = s.acps := rfl
@[simp] theorem State.setG_stcs (s : State) (x : Group) : (s.setG x).stcs = s.stcs := rfl
@[simp] theorem State.setG_grids (s : State) (x : Group) : (s.setG x).grids = s.grids := rfl
@[simp] theorem State.setG_queues (s : State) (x : Group) : (s.setG x).queues = s.queues := rfl
@[simp] theorem State.setG_teams (s : State) (x : Group) : (s.setG x).teams = s.teams := rfl
@[simp] theorem State.setG_saved (s : State) (x : Group) : (s.setG x).saved = s.saved := rfl
@[simp] theorem State.setG_rowOwner (s : State) (x : Group) : (s.setG x).rowOwner = s.rowOwner := rfl
@[simp] theorem State.setG_blockOwner (s : State) (x : Group) : (s.setG x).blockOwner = s.blockOwner := rfl
@[simp] theorem State.setG_staging (s : State) (x : Group) : (s.setG x).staging = s.staging := rfl
@[simp] theorem State.setG_nextHandle (s : State) (x : Group) : (s.setG x).nextHandle = s.nextHandle := rfl
@[simp] theorem State.setG_reqs (s : State) (x : Group) : (s.setG x).reqs = s.reqs := rfl
@[simp] theorem State.setG_replies (s : State) (x : Group) : (s.setG x).replies = s.replies := rfl
@[simp] theorem State.setG_flowsIn (s : State) (x : Group) : (s.setG x).flowsIn = s.flowsIn := rfl
@[simp] theorem State.setG_flowsOut (s : State) (x : Group) : (s.setG x).flowsOut = s.flowsOut := rfl
@[simp] theorem State.setG_outbox (s : State) (x : Group) : (s.setG x).outbox = s.outbox := rfl
@[simp] theorem State.setG_hostq (s : State) (x : Group) : (s.setG x).hostq = s.hostq := rfl
@[simp] theorem State.setG_dead (s : State) (x : Group) : (s.setG x).dead = s.dead := rfl
@[simp] theorem State.setG_recovering (s : State) (x : Group) : (s.setG x).recovering = s.recovering := rfl
@[simp] theorem State.setG_cellTaken (s : State) (x : Group) : (s.setG x).cellTaken = s.cellTaken := rfl
@[simp] theorem State.setG_tcqTail (s : State) (x : Group) : (s.setG x).tcqTail = s.tcqTail := rfl
@[simp] theorem State.setG_tcq (s : State) (x : Group) : (s.setG x).tcq = s.tcq := rfl
@[simp] theorem State.setG_adds (s : State) (x : Group) : (s.setG x).adds = s.adds := rfl
@[simp] theorem State.setG_rowStates (s : State) (x : Group) : (s.setG x).rowStates = s.rowStates := rfl
@[simp] theorem State.setG_spares (s : State) (x : Group) : (s.setG x).spares = s.spares := rfl
@[simp] theorem State.setG_authFails (s : State) (x : Group) : (s.setG x).authFails = s.authFails := rfl
@[simp] theorem State.setG_firmware (s : State) (x : Group) : (s.setG x).firmware = s.firmware := rfl
@[simp] theorem State.setG_throttled (s : State) (x : Group) : (s.setG x).throttled = s.throttled := rfl
@[simp] theorem State.setG_shutdownCause (s : State) (x : Group) : (s.setG x).shutdownCause = s.shutdownCause := rfl
@[simp] theorem State.setG_nextId (s : State) (x : Group) : (s.setG x).nextId = s.nextId := rfl
@[simp] theorem State.setG_fresh (s : State) (x : Group) : (s.setG x).fresh = s.fresh := rfl
@[simp] theorem State.setG_turns (s : State) (x : Group) : (s.setG x).turns = s.turns := rfl
@[simp] theorem State.setG_due (s : State) (x : Group) : (s.setG x).due = s.due := rfl
@[simp] theorem State.setG_t (s : State) (x : Group) : (s.setG x).t = s.t := rfl
@[simp] theorem State.setG_g (s : State) (x : Group) : (s.setG x).g = x := rfl
@[simp] theorem State.setG_iss (s : State) (x : Group) : (s.setG x).iss = s.iss := rfl

/-! ### `setStatus` -/

@[simp] theorem State.setStatus_power (s : State) (x : GroupStatus) : (s.setStatus x).power = s.power := rfl
@[simp] theorem State.setStatus_joined (s : State) (x : GroupStatus) : (s.setStatus x).joined = s.joined := rfl
@[simp] theorem State.setStatus_portsDown (s : State) (x : GroupStatus) : (s.setStatus x).portsDown = s.portsDown := rfl
@[simp] theorem State.setStatus_pairsDown (s : State) (x : GroupStatus) : (s.setStatus x).pairsDown = s.pairsDown := rfl
@[simp] theorem State.setStatus_stacksDown (s : State) (x : GroupStatus) : (s.setStatus x).stacksDown = s.stacksDown := rfl
@[simp] theorem State.setStatus_resets (s : State) (x : GroupStatus) : (s.setStatus x).resets = s.resets := rfl
@[simp] theorem State.setStatus_pkg (s : State) (x : GroupStatus) : (s.setStatus x).pkg = s.pkg := rfl
@[simp] theorem State.setStatus_policy (s : State) (x : GroupStatus) : (s.setStatus x).policy = s.policy := rfl
@[simp] theorem State.setStatus_carve (s : State) (x : GroupStatus) : (s.setStatus x).carve = s.carve := rfl
@[simp] theorem State.setStatus_cycle (s : State) (x : GroupStatus) : (s.setStatus x).cycle = s.cycle := rfl
@[simp] theorem State.setStatus_ctxtab (s : State) (x : GroupStatus) : (s.setStatus x).ctxtab = s.ctxtab := rfl
@[simp] theorem State.setStatus_descs (s : State) (x : GroupStatus) : (s.setStatus x).descs = s.descs := rfl
@[simp] theorem State.setStatus_supctx (s : State) (x : GroupStatus) : (s.setStatus x).supctx = s.supctx := rfl
@[simp] theorem State.setStatus_ctxctlStatus (s : State) (x : GroupStatus) : (s.setStatus x).ctxctlStatus = s.ctxctlStatus := rfl
@[simp] theorem State.setStatus_ctxctlQueue (s : State) (x : GroupStatus) : (s.setStatus x).ctxctlQueue = s.ctxctlQueue := rfl
@[simp] theorem State.setStatus_trapseq (s : State) (x : GroupStatus) : (s.setStatus x).trapseq = s.trapseq := rfl
@[simp] theorem State.setStatus_mem (s : State) (x : GroupStatus) : (s.setStatus x).mem = s.mem := rfl
@[simp] theorem State.setStatus_poison (s : State) (x : GroupStatus) : (s.setStatus x).poison = s.poison := rfl
@[simp] theorem State.setStatus_tags (s : State) (x : GroupStatus) : (s.setStatus x).tags = s.tags := rfl
@[simp] theorem State.setStatus_hazes (s : State) (x : GroupStatus) : (s.setStatus x).hazes = s.hazes := rfl
@[simp] theorem State.setStatus_keyGen (s : State) (x : GroupStatus) : (s.setStatus x).keyGen = s.keyGen := rfl
@[simp] theorem State.setStatus_l1 (s : State) (x : GroupStatus) : (s.setStatus x).l1 = s.l1 := rfl
@[simp] theorem State.setStatus_posted (s : State) (x : GroupStatus) : (s.setStatus x).posted = s.posted := rfl
@[simp] theorem State.setStatus_llc (s : State) (x : GroupStatus) : (s.setStatus x).llc = s.llc := rfl
@[simp] theorem State.setStatus_dir (s : State) (x : GroupStatus) : (s.setStatus x).dir = s.dir := rfl
@[simp] theorem State.setStatus_recalls (s : State) (x : GroupStatus) : (s.setStatus x).recalls = s.recalls := rfl
@[simp] theorem State.setStatus_openFar (s : State) (x : GroupStatus) : (s.setStatus x).openFar = s.openFar := rfl
@[simp] theorem State.setStatus_tlb (s : State) (x : GroupStatus) : (s.setStatus x).tlb = s.tlb := rfl
@[simp] theorem State.setStatus_ptrs (s : State) (x : GroupStatus) : (s.setStatus x).ptrs = s.ptrs := rfl
@[simp] theorem State.setStatus_freezes (s : State) (x : GroupStatus) : (s.setStatus x).freezes = s.freezes := rfl
@[simp] theorem State.setStatus_merge (s : State) (x : GroupStatus) : (s.setStatus x).merge = s.merge := rfl
@[simp] theorem State.setStatus_move (s : State) (x : GroupStatus) : (s.setStatus x).move = s.move := rfl
@[simp] theorem State.setStatus_triggers (s : State) (x : GroupStatus) : (s.setStatus x).triggers = s.triggers := rfl
@[simp] theorem State.setStatus_tiles (s : State) (x : GroupStatus) : (s.setStatus x).tiles = s.tiles := rfl
@[simp] theorem State.setStatus_expired (s : State) (x : GroupStatus) : (s.setStatus x).expired = s.expired := rfl
@[simp] theorem State.setStatus_mma (s : State) (x : GroupStatus) : (s.setStatus x).mma = s.mma := rfl
@[simp] theorem State.setStatus_engines (s : State) (x : GroupStatus) : (s.setStatus x).engines = s.engines := rfl
@[simp] theorem State.setStatus_transit (s : State) (x : GroupStatus) : (s.setStatus x).transit = s.transit := rfl
@[simp] theorem State.setStatus_assembly (s : State) (x : GroupStatus) : (s.setStatus x).assembly = s.assembly := rfl
@[simp] theorem State.setStatus_copies (s : State) (x : GroupStatus) : (s.setStatus x).copies = s.copies := rfl
@[simp] theorem State.setStatus_acps (s : State) (x : GroupStatus) : (s.setStatus x).acps = s.acps := rfl
@[simp] theorem State.setStatus_stcs (s : State) (x : GroupStatus) : (s.setStatus x).stcs = s.stcs := rfl
@[simp] theorem State.setStatus_grids (s : State) (x : GroupStatus) : (s.setStatus x).grids = s.grids := rfl
@[simp] theorem State.setStatus_queues (s : State) (x : GroupStatus) : (s.setStatus x).queues = s.queues := rfl
@[simp] theorem State.setStatus_teams (s : State) (x : GroupStatus) : (s.setStatus x).teams = s.teams := rfl
@[simp] theorem State.setStatus_saved (s : State) (x : GroupStatus) : (s.setStatus x).saved = s.saved := rfl
@[simp] theorem State.setStatus_rowOwner (s : State) (x : GroupStatus) : (s.setStatus x).rowOwner = s.rowOwner := rfl
@[simp] theorem State.setStatus_blockOwner (s : State) (x : GroupStatus) : (s.setStatus x).blockOwner = s.blockOwner := rfl
@[simp] theorem State.setStatus_staging (s : State) (x : GroupStatus) : (s.setStatus x).staging = s.staging := rfl
@[simp] theorem State.setStatus_nextHandle (s : State) (x : GroupStatus) : (s.setStatus x).nextHandle = s.nextHandle := rfl
@[simp] theorem State.setStatus_reqs (s : State) (x : GroupStatus) : (s.setStatus x).reqs = s.reqs := rfl
@[simp] theorem State.setStatus_replies (s : State) (x : GroupStatus) : (s.setStatus x).replies = s.replies := rfl
@[simp] theorem State.setStatus_flowsIn (s : State) (x : GroupStatus) : (s.setStatus x).flowsIn = s.flowsIn := rfl
@[simp] theorem State.setStatus_flowsOut (s : State) (x : GroupStatus) : (s.setStatus x).flowsOut = s.flowsOut := rfl
@[simp] theorem State.setStatus_outbox (s : State) (x : GroupStatus) : (s.setStatus x).outbox = s.outbox := rfl
@[simp] theorem State.setStatus_hostq (s : State) (x : GroupStatus) : (s.setStatus x).hostq = s.hostq := rfl
@[simp] theorem State.setStatus_dead (s : State) (x : GroupStatus) : (s.setStatus x).dead = s.dead := rfl
@[simp] theorem State.setStatus_recovering (s : State) (x : GroupStatus) : (s.setStatus x).recovering = s.recovering := rfl
@[simp] theorem State.setStatus_cellTaken (s : State) (x : GroupStatus) : (s.setStatus x).cellTaken = s.cellTaken := rfl
@[simp] theorem State.setStatus_tcqTail (s : State) (x : GroupStatus) : (s.setStatus x).tcqTail = s.tcqTail := rfl
@[simp] theorem State.setStatus_tcq (s : State) (x : GroupStatus) : (s.setStatus x).tcq = s.tcq := rfl
@[simp] theorem State.setStatus_adds (s : State) (x : GroupStatus) : (s.setStatus x).adds = s.adds := rfl
@[simp] theorem State.setStatus_rowStates (s : State) (x : GroupStatus) : (s.setStatus x).rowStates = s.rowStates := rfl
@[simp] theorem State.setStatus_spares (s : State) (x : GroupStatus) : (s.setStatus x).spares = s.spares := rfl
@[simp] theorem State.setStatus_authFails (s : State) (x : GroupStatus) : (s.setStatus x).authFails = s.authFails := rfl
@[simp] theorem State.setStatus_firmware (s : State) (x : GroupStatus) : (s.setStatus x).firmware = s.firmware := rfl
@[simp] theorem State.setStatus_throttled (s : State) (x : GroupStatus) : (s.setStatus x).throttled = s.throttled := rfl
@[simp] theorem State.setStatus_shutdownCause (s : State) (x : GroupStatus) : (s.setStatus x).shutdownCause = s.shutdownCause := rfl
@[simp] theorem State.setStatus_nextId (s : State) (x : GroupStatus) : (s.setStatus x).nextId = s.nextId := rfl
@[simp] theorem State.setStatus_fresh (s : State) (x : GroupStatus) : (s.setStatus x).fresh = s.fresh := rfl
@[simp] theorem State.setStatus_turns (s : State) (x : GroupStatus) : (s.setStatus x).turns = s.turns := rfl
@[simp] theorem State.setStatus_due (s : State) (x : GroupStatus) : (s.setStatus x).due = s.due := rfl
@[simp] theorem State.setStatus_t (s : State) (x : GroupStatus) : (s.setStatus x).t = s.t := rfl
@[simp] theorem State.setStatus_g (s : State) (x : GroupStatus) : (s.setStatus x).g = { s.g with status := x } := rfl
@[simp] theorem State.setStatus_iss (s : State) (x : GroupStatus) : (s.setStatus x).iss = s.iss := rfl

/-! ### `pushDue` -/

@[simp] theorem State.pushDue_power (s : State) (e : Instr) : (s.pushDue e).power = s.power := rfl
@[simp] theorem State.pushDue_joined (s : State) (e : Instr) : (s.pushDue e).joined = s.joined := rfl
@[simp] theorem State.pushDue_portsDown (s : State) (e : Instr) : (s.pushDue e).portsDown = s.portsDown := rfl
@[simp] theorem State.pushDue_pairsDown (s : State) (e : Instr) : (s.pushDue e).pairsDown = s.pairsDown := rfl
@[simp] theorem State.pushDue_stacksDown (s : State) (e : Instr) : (s.pushDue e).stacksDown = s.stacksDown := rfl
@[simp] theorem State.pushDue_resets (s : State) (e : Instr) : (s.pushDue e).resets = s.resets := rfl
@[simp] theorem State.pushDue_pkg (s : State) (e : Instr) : (s.pushDue e).pkg = s.pkg := rfl
@[simp] theorem State.pushDue_policy (s : State) (e : Instr) : (s.pushDue e).policy = s.policy := rfl
@[simp] theorem State.pushDue_carve (s : State) (e : Instr) : (s.pushDue e).carve = s.carve := rfl
@[simp] theorem State.pushDue_cycle (s : State) (e : Instr) : (s.pushDue e).cycle = s.cycle := rfl
@[simp] theorem State.pushDue_ctxtab (s : State) (e : Instr) : (s.pushDue e).ctxtab = s.ctxtab := rfl
@[simp] theorem State.pushDue_descs (s : State) (e : Instr) : (s.pushDue e).descs = s.descs := rfl
@[simp] theorem State.pushDue_supctx (s : State) (e : Instr) : (s.pushDue e).supctx = s.supctx := rfl
@[simp] theorem State.pushDue_ctxctlStatus (s : State) (e : Instr) : (s.pushDue e).ctxctlStatus = s.ctxctlStatus := rfl
@[simp] theorem State.pushDue_ctxctlQueue (s : State) (e : Instr) : (s.pushDue e).ctxctlQueue = s.ctxctlQueue := rfl
@[simp] theorem State.pushDue_trapseq (s : State) (e : Instr) : (s.pushDue e).trapseq = s.trapseq := rfl
@[simp] theorem State.pushDue_mem (s : State) (e : Instr) : (s.pushDue e).mem = s.mem := rfl
@[simp] theorem State.pushDue_poison (s : State) (e : Instr) : (s.pushDue e).poison = s.poison := rfl
@[simp] theorem State.pushDue_tags (s : State) (e : Instr) : (s.pushDue e).tags = s.tags := rfl
@[simp] theorem State.pushDue_hazes (s : State) (e : Instr) : (s.pushDue e).hazes = s.hazes := rfl
@[simp] theorem State.pushDue_keyGen (s : State) (e : Instr) : (s.pushDue e).keyGen = s.keyGen := rfl
@[simp] theorem State.pushDue_l1 (s : State) (e : Instr) : (s.pushDue e).l1 = s.l1 := rfl
@[simp] theorem State.pushDue_posted (s : State) (e : Instr) : (s.pushDue e).posted = s.posted := rfl
@[simp] theorem State.pushDue_llc (s : State) (e : Instr) : (s.pushDue e).llc = s.llc := rfl
@[simp] theorem State.pushDue_dir (s : State) (e : Instr) : (s.pushDue e).dir = s.dir := rfl
@[simp] theorem State.pushDue_recalls (s : State) (e : Instr) : (s.pushDue e).recalls = s.recalls := rfl
@[simp] theorem State.pushDue_openFar (s : State) (e : Instr) : (s.pushDue e).openFar = s.openFar := rfl
@[simp] theorem State.pushDue_tlb (s : State) (e : Instr) : (s.pushDue e).tlb = s.tlb := rfl
@[simp] theorem State.pushDue_ptrs (s : State) (e : Instr) : (s.pushDue e).ptrs = s.ptrs := rfl
@[simp] theorem State.pushDue_freezes (s : State) (e : Instr) : (s.pushDue e).freezes = s.freezes := rfl
@[simp] theorem State.pushDue_merge (s : State) (e : Instr) : (s.pushDue e).merge = s.merge := rfl
@[simp] theorem State.pushDue_move (s : State) (e : Instr) : (s.pushDue e).move = s.move := rfl
@[simp] theorem State.pushDue_triggers (s : State) (e : Instr) : (s.pushDue e).triggers = s.triggers := rfl
@[simp] theorem State.pushDue_tiles (s : State) (e : Instr) : (s.pushDue e).tiles = s.tiles := rfl
@[simp] theorem State.pushDue_expired (s : State) (e : Instr) : (s.pushDue e).expired = s.expired := rfl
@[simp] theorem State.pushDue_mma (s : State) (e : Instr) : (s.pushDue e).mma = s.mma := rfl
@[simp] theorem State.pushDue_engines (s : State) (e : Instr) : (s.pushDue e).engines = s.engines := rfl
@[simp] theorem State.pushDue_transit (s : State) (e : Instr) : (s.pushDue e).transit = s.transit := rfl
@[simp] theorem State.pushDue_assembly (s : State) (e : Instr) : (s.pushDue e).assembly = s.assembly := rfl
@[simp] theorem State.pushDue_copies (s : State) (e : Instr) : (s.pushDue e).copies = s.copies := rfl
@[simp] theorem State.pushDue_acps (s : State) (e : Instr) : (s.pushDue e).acps = s.acps := rfl
@[simp] theorem State.pushDue_stcs (s : State) (e : Instr) : (s.pushDue e).stcs = s.stcs := rfl
@[simp] theorem State.pushDue_grids (s : State) (e : Instr) : (s.pushDue e).grids = s.grids := rfl
@[simp] theorem State.pushDue_queues (s : State) (e : Instr) : (s.pushDue e).queues = s.queues := rfl
@[simp] theorem State.pushDue_teams (s : State) (e : Instr) : (s.pushDue e).teams = s.teams := rfl
@[simp] theorem State.pushDue_saved (s : State) (e : Instr) : (s.pushDue e).saved = s.saved := rfl
@[simp] theorem State.pushDue_rowOwner (s : State) (e : Instr) : (s.pushDue e).rowOwner = s.rowOwner := rfl
@[simp] theorem State.pushDue_blockOwner (s : State) (e : Instr) : (s.pushDue e).blockOwner = s.blockOwner := rfl
@[simp] theorem State.pushDue_staging (s : State) (e : Instr) : (s.pushDue e).staging = s.staging := rfl
@[simp] theorem State.pushDue_nextHandle (s : State) (e : Instr) : (s.pushDue e).nextHandle = s.nextHandle := rfl
@[simp] theorem State.pushDue_reqs (s : State) (e : Instr) : (s.pushDue e).reqs = s.reqs := rfl
@[simp] theorem State.pushDue_replies (s : State) (e : Instr) : (s.pushDue e).replies = s.replies := rfl
@[simp] theorem State.pushDue_flowsIn (s : State) (e : Instr) : (s.pushDue e).flowsIn = s.flowsIn := rfl
@[simp] theorem State.pushDue_flowsOut (s : State) (e : Instr) : (s.pushDue e).flowsOut = s.flowsOut := rfl
@[simp] theorem State.pushDue_outbox (s : State) (e : Instr) : (s.pushDue e).outbox = s.outbox := rfl
@[simp] theorem State.pushDue_hostq (s : State) (e : Instr) : (s.pushDue e).hostq = s.hostq := rfl
@[simp] theorem State.pushDue_dead (s : State) (e : Instr) : (s.pushDue e).dead = s.dead := rfl
@[simp] theorem State.pushDue_recovering (s : State) (e : Instr) : (s.pushDue e).recovering = s.recovering := rfl
@[simp] theorem State.pushDue_cellTaken (s : State) (e : Instr) : (s.pushDue e).cellTaken = s.cellTaken := rfl
@[simp] theorem State.pushDue_tcqTail (s : State) (e : Instr) : (s.pushDue e).tcqTail = s.tcqTail := rfl
@[simp] theorem State.pushDue_tcq (s : State) (e : Instr) : (s.pushDue e).tcq = s.tcq := rfl
@[simp] theorem State.pushDue_adds (s : State) (e : Instr) : (s.pushDue e).adds = s.adds := rfl
@[simp] theorem State.pushDue_rowStates (s : State) (e : Instr) : (s.pushDue e).rowStates = s.rowStates := rfl
@[simp] theorem State.pushDue_spares (s : State) (e : Instr) : (s.pushDue e).spares = s.spares := rfl
@[simp] theorem State.pushDue_authFails (s : State) (e : Instr) : (s.pushDue e).authFails = s.authFails := rfl
@[simp] theorem State.pushDue_firmware (s : State) (e : Instr) : (s.pushDue e).firmware = s.firmware := rfl
@[simp] theorem State.pushDue_throttled (s : State) (e : Instr) : (s.pushDue e).throttled = s.throttled := rfl
@[simp] theorem State.pushDue_shutdownCause (s : State) (e : Instr) : (s.pushDue e).shutdownCause = s.shutdownCause := rfl
@[simp] theorem State.pushDue_nextId (s : State) (e : Instr) : (s.pushDue e).nextId = s.nextId := rfl
@[simp] theorem State.pushDue_fresh (s : State) (e : Instr) : (s.pushDue e).fresh = s.fresh := rfl
@[simp] theorem State.pushDue_turns (s : State) (e : Instr) : (s.pushDue e).turns = s.turns := rfl
@[simp] theorem State.pushDue_due (s : State) (e : Instr) : (s.pushDue e).due = s.due ++ [e] := rfl
@[simp] theorem State.pushDue_t (s : State) (e : Instr) : (s.pushDue e).t = s.t := rfl
@[simp] theorem State.pushDue_g (s : State) (e : Instr) : (s.pushDue e).g = s.g := rfl
@[simp] theorem State.pushDue_iss (s : State) (e : Instr) : (s.pushDue e).iss = s.iss := rfl

/-! ### `tick` -/

@[simp] theorem State.tick_power (s : State) : (s.tick).power = s.power := rfl
@[simp] theorem State.tick_joined (s : State) : (s.tick).joined = s.joined := rfl
@[simp] theorem State.tick_portsDown (s : State) : (s.tick).portsDown = s.portsDown := rfl
@[simp] theorem State.tick_pairsDown (s : State) : (s.tick).pairsDown = s.pairsDown := rfl
@[simp] theorem State.tick_stacksDown (s : State) : (s.tick).stacksDown = s.stacksDown := rfl
@[simp] theorem State.tick_resets (s : State) : (s.tick).resets = s.resets := rfl
@[simp] theorem State.tick_pkg (s : State) : (s.tick).pkg = s.pkg := rfl
@[simp] theorem State.tick_policy (s : State) : (s.tick).policy = s.policy := rfl
@[simp] theorem State.tick_carve (s : State) : (s.tick).carve = s.carve := rfl
@[simp] theorem State.tick_cycle (s : State) : (s.tick).cycle = s.cycle + BitVec.ofNat 64 (Config.elapsed s.fresh) := rfl
@[simp] theorem State.tick_ctxtab (s : State) : (s.tick).ctxtab = s.ctxtab := rfl
@[simp] theorem State.tick_descs (s : State) : (s.tick).descs = s.descs := rfl
@[simp] theorem State.tick_supctx (s : State) : (s.tick).supctx = s.supctx := rfl
@[simp] theorem State.tick_ctxctlStatus (s : State) : (s.tick).ctxctlStatus = s.ctxctlStatus := rfl
@[simp] theorem State.tick_ctxctlQueue (s : State) : (s.tick).ctxctlQueue = s.ctxctlQueue := rfl
@[simp] theorem State.tick_trapseq (s : State) : (s.tick).trapseq = s.trapseq := rfl
@[simp] theorem State.tick_mem (s : State) : (s.tick).mem = s.mem := rfl
@[simp] theorem State.tick_poison (s : State) : (s.tick).poison = s.poison := rfl
@[simp] theorem State.tick_tags (s : State) : (s.tick).tags = s.tags := rfl
@[simp] theorem State.tick_hazes (s : State) : (s.tick).hazes = s.hazes := rfl
@[simp] theorem State.tick_keyGen (s : State) : (s.tick).keyGen = s.keyGen := rfl
@[simp] theorem State.tick_l1 (s : State) : (s.tick).l1 = s.l1 := rfl
@[simp] theorem State.tick_posted (s : State) : (s.tick).posted = s.posted := rfl
@[simp] theorem State.tick_llc (s : State) : (s.tick).llc = s.llc := rfl
@[simp] theorem State.tick_dir (s : State) : (s.tick).dir = s.dir := rfl
@[simp] theorem State.tick_recalls (s : State) : (s.tick).recalls = s.recalls := rfl
@[simp] theorem State.tick_openFar (s : State) : (s.tick).openFar = s.openFar := rfl
@[simp] theorem State.tick_tlb (s : State) : (s.tick).tlb = s.tlb := rfl
@[simp] theorem State.tick_ptrs (s : State) : (s.tick).ptrs = s.ptrs := rfl
@[simp] theorem State.tick_freezes (s : State) : (s.tick).freezes = s.freezes := rfl
@[simp] theorem State.tick_merge (s : State) : (s.tick).merge = s.merge := rfl
@[simp] theorem State.tick_move (s : State) : (s.tick).move = s.move := rfl
@[simp] theorem State.tick_triggers (s : State) : (s.tick).triggers = s.triggers := rfl
@[simp] theorem State.tick_tiles (s : State) : (s.tick).tiles = s.tiles := rfl
@[simp] theorem State.tick_expired (s : State) : (s.tick).expired = s.expired := rfl
@[simp] theorem State.tick_mma (s : State) : (s.tick).mma = s.mma := rfl
@[simp] theorem State.tick_engines (s : State) : (s.tick).engines = s.engines := rfl
@[simp] theorem State.tick_transit (s : State) : (s.tick).transit = s.transit := rfl
@[simp] theorem State.tick_assembly (s : State) : (s.tick).assembly = s.assembly := rfl
@[simp] theorem State.tick_copies (s : State) : (s.tick).copies = s.copies := rfl
@[simp] theorem State.tick_acps (s : State) : (s.tick).acps = s.acps := rfl
@[simp] theorem State.tick_stcs (s : State) : (s.tick).stcs = s.stcs := rfl
@[simp] theorem State.tick_grids (s : State) : (s.tick).grids = s.grids := rfl
@[simp] theorem State.tick_queues (s : State) : (s.tick).queues = s.queues := rfl
@[simp] theorem State.tick_teams (s : State) : (s.tick).teams = s.teams := rfl
@[simp] theorem State.tick_saved (s : State) : (s.tick).saved = s.saved := rfl
@[simp] theorem State.tick_rowOwner (s : State) : (s.tick).rowOwner = s.rowOwner := rfl
@[simp] theorem State.tick_blockOwner (s : State) : (s.tick).blockOwner = s.blockOwner := rfl
@[simp] theorem State.tick_staging (s : State) : (s.tick).staging = s.staging := rfl
@[simp] theorem State.tick_nextHandle (s : State) : (s.tick).nextHandle = s.nextHandle := rfl
@[simp] theorem State.tick_reqs (s : State) : (s.tick).reqs = s.reqs := rfl
@[simp] theorem State.tick_replies (s : State) : (s.tick).replies = s.replies := rfl
@[simp] theorem State.tick_flowsIn (s : State) : (s.tick).flowsIn = s.flowsIn := rfl
@[simp] theorem State.tick_flowsOut (s : State) : (s.tick).flowsOut = s.flowsOut := rfl
@[simp] theorem State.tick_outbox (s : State) : (s.tick).outbox = s.outbox := rfl
@[simp] theorem State.tick_hostq (s : State) : (s.tick).hostq = s.hostq := rfl
@[simp] theorem State.tick_dead (s : State) : (s.tick).dead = s.dead := rfl
@[simp] theorem State.tick_recovering (s : State) : (s.tick).recovering = s.recovering := rfl
@[simp] theorem State.tick_cellTaken (s : State) : (s.tick).cellTaken = s.cellTaken := rfl
@[simp] theorem State.tick_tcqTail (s : State) : (s.tick).tcqTail = s.tcqTail := rfl
@[simp] theorem State.tick_tcq (s : State) : (s.tick).tcq = s.tcq := rfl
@[simp] theorem State.tick_adds (s : State) : (s.tick).adds = s.adds := rfl
@[simp] theorem State.tick_rowStates (s : State) : (s.tick).rowStates = s.rowStates := rfl
@[simp] theorem State.tick_spares (s : State) : (s.tick).spares = s.spares := rfl
@[simp] theorem State.tick_authFails (s : State) : (s.tick).authFails = s.authFails := rfl
@[simp] theorem State.tick_firmware (s : State) : (s.tick).firmware = s.firmware := rfl
@[simp] theorem State.tick_throttled (s : State) : (s.tick).throttled = s.throttled := rfl
@[simp] theorem State.tick_shutdownCause (s : State) : (s.tick).shutdownCause = s.shutdownCause := rfl
@[simp] theorem State.tick_nextId (s : State) : (s.tick).nextId = s.nextId := rfl
@[simp] theorem State.tick_fresh (s : State) : (s.tick).fresh = s.fresh + 1 := rfl
@[simp] theorem State.tick_turns (s : State) : (s.tick).turns = s.turns := rfl
@[simp] theorem State.tick_due (s : State) : (s.tick).due = s.due := rfl
@[simp] theorem State.tick_t (s : State) : (s.tick).t = s.t := rfl
@[simp] theorem State.tick_g (s : State) : (s.tick).g = s.g := rfl
@[simp] theorem State.tick_iss (s : State) : (s.tick).iss = s.iss := rfl

/-! ### `noFocus` -/

@[simp] theorem State.noFocus_power (s : State) : (s.noFocus).power = s.power := rfl
@[simp] theorem State.noFocus_joined (s : State) : (s.noFocus).joined = s.joined := rfl
@[simp] theorem State.noFocus_portsDown (s : State) : (s.noFocus).portsDown = s.portsDown := rfl
@[simp] theorem State.noFocus_pairsDown (s : State) : (s.noFocus).pairsDown = s.pairsDown := rfl
@[simp] theorem State.noFocus_stacksDown (s : State) : (s.noFocus).stacksDown = s.stacksDown := rfl
@[simp] theorem State.noFocus_resets (s : State) : (s.noFocus).resets = s.resets := rfl
@[simp] theorem State.noFocus_pkg (s : State) : (s.noFocus).pkg = s.pkg := rfl
@[simp] theorem State.noFocus_policy (s : State) : (s.noFocus).policy = s.policy := rfl
@[simp] theorem State.noFocus_carve (s : State) : (s.noFocus).carve = s.carve := rfl
@[simp] theorem State.noFocus_cycle (s : State) : (s.noFocus).cycle = s.cycle := rfl
@[simp] theorem State.noFocus_ctxtab (s : State) : (s.noFocus).ctxtab = s.ctxtab := rfl
@[simp] theorem State.noFocus_descs (s : State) : (s.noFocus).descs = s.descs := rfl
@[simp] theorem State.noFocus_supctx (s : State) : (s.noFocus).supctx = s.supctx := rfl
@[simp] theorem State.noFocus_ctxctlStatus (s : State) : (s.noFocus).ctxctlStatus = s.ctxctlStatus := rfl
@[simp] theorem State.noFocus_ctxctlQueue (s : State) : (s.noFocus).ctxctlQueue = s.ctxctlQueue := rfl
@[simp] theorem State.noFocus_trapseq (s : State) : (s.noFocus).trapseq = s.trapseq := rfl
@[simp] theorem State.noFocus_mem (s : State) : (s.noFocus).mem = s.mem := rfl
@[simp] theorem State.noFocus_poison (s : State) : (s.noFocus).poison = s.poison := rfl
@[simp] theorem State.noFocus_tags (s : State) : (s.noFocus).tags = s.tags := rfl
@[simp] theorem State.noFocus_hazes (s : State) : (s.noFocus).hazes = s.hazes := rfl
@[simp] theorem State.noFocus_keyGen (s : State) : (s.noFocus).keyGen = s.keyGen := rfl
@[simp] theorem State.noFocus_l1 (s : State) : (s.noFocus).l1 = s.l1 := rfl
@[simp] theorem State.noFocus_posted (s : State) : (s.noFocus).posted = s.posted := rfl
@[simp] theorem State.noFocus_llc (s : State) : (s.noFocus).llc = s.llc := rfl
@[simp] theorem State.noFocus_dir (s : State) : (s.noFocus).dir = s.dir := rfl
@[simp] theorem State.noFocus_recalls (s : State) : (s.noFocus).recalls = s.recalls := rfl
@[simp] theorem State.noFocus_openFar (s : State) : (s.noFocus).openFar = s.openFar := rfl
@[simp] theorem State.noFocus_tlb (s : State) : (s.noFocus).tlb = s.tlb := rfl
@[simp] theorem State.noFocus_ptrs (s : State) : (s.noFocus).ptrs = s.ptrs := rfl
@[simp] theorem State.noFocus_freezes (s : State) : (s.noFocus).freezes = s.freezes := rfl
@[simp] theorem State.noFocus_merge (s : State) : (s.noFocus).merge = s.merge := rfl
@[simp] theorem State.noFocus_move (s : State) : (s.noFocus).move = s.move := rfl
@[simp] theorem State.noFocus_triggers (s : State) : (s.noFocus).triggers = s.triggers := rfl
@[simp] theorem State.noFocus_tiles (s : State) : (s.noFocus).tiles = s.tiles := rfl
@[simp] theorem State.noFocus_expired (s : State) : (s.noFocus).expired = s.expired := rfl
@[simp] theorem State.noFocus_mma (s : State) : (s.noFocus).mma = s.mma := rfl
@[simp] theorem State.noFocus_engines (s : State) : (s.noFocus).engines = s.engines := rfl
@[simp] theorem State.noFocus_transit (s : State) : (s.noFocus).transit = s.transit := rfl
@[simp] theorem State.noFocus_assembly (s : State) : (s.noFocus).assembly = s.assembly := rfl
@[simp] theorem State.noFocus_copies (s : State) : (s.noFocus).copies = s.copies := rfl
@[simp] theorem State.noFocus_acps (s : State) : (s.noFocus).acps = s.acps := rfl
@[simp] theorem State.noFocus_stcs (s : State) : (s.noFocus).stcs = s.stcs := rfl
@[simp] theorem State.noFocus_grids (s : State) : (s.noFocus).grids = s.grids := rfl
@[simp] theorem State.noFocus_queues (s : State) : (s.noFocus).queues = s.queues := rfl
@[simp] theorem State.noFocus_teams (s : State) : (s.noFocus).teams = s.teams := rfl
@[simp] theorem State.noFocus_saved (s : State) : (s.noFocus).saved = s.saved := rfl
@[simp] theorem State.noFocus_rowOwner (s : State) : (s.noFocus).rowOwner = s.rowOwner := rfl
@[simp] theorem State.noFocus_blockOwner (s : State) : (s.noFocus).blockOwner = s.blockOwner := rfl
@[simp] theorem State.noFocus_staging (s : State) : (s.noFocus).staging = s.staging := rfl
@[simp] theorem State.noFocus_nextHandle (s : State) : (s.noFocus).nextHandle = s.nextHandle := rfl
@[simp] theorem State.noFocus_reqs (s : State) : (s.noFocus).reqs = s.reqs := rfl
@[simp] theorem State.noFocus_replies (s : State) : (s.noFocus).replies = s.replies := rfl
@[simp] theorem State.noFocus_flowsIn (s : State) : (s.noFocus).flowsIn = s.flowsIn := rfl
@[simp] theorem State.noFocus_flowsOut (s : State) : (s.noFocus).flowsOut = s.flowsOut := rfl
@[simp] theorem State.noFocus_outbox (s : State) : (s.noFocus).outbox = s.outbox := rfl
@[simp] theorem State.noFocus_hostq (s : State) : (s.noFocus).hostq = s.hostq := rfl
@[simp] theorem State.noFocus_dead (s : State) : (s.noFocus).dead = s.dead := rfl
@[simp] theorem State.noFocus_recovering (s : State) : (s.noFocus).recovering = s.recovering := rfl
@[simp] theorem State.noFocus_cellTaken (s : State) : (s.noFocus).cellTaken = s.cellTaken := rfl
@[simp] theorem State.noFocus_tcqTail (s : State) : (s.noFocus).tcqTail = s.tcqTail := rfl
@[simp] theorem State.noFocus_tcq (s : State) : (s.noFocus).tcq = s.tcq := rfl
@[simp] theorem State.noFocus_adds (s : State) : (s.noFocus).adds = s.adds := rfl
@[simp] theorem State.noFocus_rowStates (s : State) : (s.noFocus).rowStates = s.rowStates := rfl
@[simp] theorem State.noFocus_spares (s : State) : (s.noFocus).spares = s.spares := rfl
@[simp] theorem State.noFocus_authFails (s : State) : (s.noFocus).authFails = s.authFails := rfl
@[simp] theorem State.noFocus_firmware (s : State) : (s.noFocus).firmware = s.firmware := rfl
@[simp] theorem State.noFocus_throttled (s : State) : (s.noFocus).throttled = s.throttled := rfl
@[simp] theorem State.noFocus_shutdownCause (s : State) : (s.noFocus).shutdownCause = s.shutdownCause := rfl
@[simp] theorem State.noFocus_nextId (s : State) : (s.noFocus).nextId = s.nextId := rfl
@[simp] theorem State.noFocus_fresh (s : State) : (s.noFocus).fresh = s.fresh := rfl
@[simp] theorem State.noFocus_turns (s : State) : (s.noFocus).turns = s.turns := rfl
@[simp] theorem State.noFocus_due (s : State) : (s.noFocus).due = s.due := rfl
@[simp] theorem State.noFocus_t (s : State) : (s.noFocus).t = Team.blank := rfl
@[simp] theorem State.noFocus_g (s : State) : (s.noFocus).g = Group.blank := rfl
@[simp] theorem State.noFocus_iss (s : State) : (s.noFocus).iss = Issue.blank := rfl

/-! ### `commit` -/

@[simp] theorem State.commit_power (s : State) : (s.commit).power = s.power := rfl
@[simp] theorem State.commit_joined (s : State) : (s.commit).joined = s.joined := rfl
@[simp] theorem State.commit_portsDown (s : State) : (s.commit).portsDown = s.portsDown := rfl
@[simp] theorem State.commit_pairsDown (s : State) : (s.commit).pairsDown = s.pairsDown := rfl
@[simp] theorem State.commit_stacksDown (s : State) : (s.commit).stacksDown = s.stacksDown := rfl
@[simp] theorem State.commit_resets (s : State) : (s.commit).resets = s.resets := rfl
@[simp] theorem State.commit_pkg (s : State) : (s.commit).pkg = s.pkg := rfl
@[simp] theorem State.commit_policy (s : State) : (s.commit).policy = s.policy := rfl
@[simp] theorem State.commit_carve (s : State) : (s.commit).carve = s.carve := rfl
@[simp] theorem State.commit_cycle (s : State) : (s.commit).cycle = s.cycle := rfl
@[simp] theorem State.commit_ctxtab (s : State) : (s.commit).ctxtab = s.ctxtab := rfl
@[simp] theorem State.commit_descs (s : State) : (s.commit).descs = s.descs := rfl
@[simp] theorem State.commit_supctx (s : State) : (s.commit).supctx = s.supctx := rfl
@[simp] theorem State.commit_ctxctlStatus (s : State) : (s.commit).ctxctlStatus = s.ctxctlStatus := rfl
@[simp] theorem State.commit_ctxctlQueue (s : State) : (s.commit).ctxctlQueue = s.ctxctlQueue := rfl
@[simp] theorem State.commit_trapseq (s : State) : (s.commit).trapseq = s.trapseq := rfl
@[simp] theorem State.commit_mem (s : State) : (s.commit).mem = s.mem := rfl
@[simp] theorem State.commit_poison (s : State) : (s.commit).poison = s.poison := rfl
@[simp] theorem State.commit_tags (s : State) : (s.commit).tags = s.tags := rfl
@[simp] theorem State.commit_hazes (s : State) : (s.commit).hazes = s.hazes := rfl
@[simp] theorem State.commit_keyGen (s : State) : (s.commit).keyGen = s.keyGen := rfl
@[simp] theorem State.commit_l1 (s : State) : (s.commit).l1 = s.l1 := rfl
@[simp] theorem State.commit_posted (s : State) : (s.commit).posted = s.posted := rfl
@[simp] theorem State.commit_llc (s : State) : (s.commit).llc = s.llc := rfl
@[simp] theorem State.commit_dir (s : State) : (s.commit).dir = s.dir := rfl
@[simp] theorem State.commit_recalls (s : State) : (s.commit).recalls = s.recalls := rfl
@[simp] theorem State.commit_openFar (s : State) : (s.commit).openFar = s.openFar := rfl
@[simp] theorem State.commit_tlb (s : State) : (s.commit).tlb = s.tlb := rfl
@[simp] theorem State.commit_ptrs (s : State) : (s.commit).ptrs = s.ptrs := rfl
@[simp] theorem State.commit_freezes (s : State) : (s.commit).freezes = s.freezes := rfl
@[simp] theorem State.commit_merge (s : State) : (s.commit).merge = s.merge := rfl
@[simp] theorem State.commit_move (s : State) : (s.commit).move = s.move := rfl
@[simp] theorem State.commit_triggers (s : State) : (s.commit).triggers = s.triggers := rfl
@[simp] theorem State.commit_tiles (s : State) : (s.commit).tiles = s.tiles := rfl
@[simp] theorem State.commit_expired (s : State) : (s.commit).expired = s.expired := rfl
@[simp] theorem State.commit_mma (s : State) : (s.commit).mma = s.mma := rfl
@[simp] theorem State.commit_engines (s : State) : (s.commit).engines = s.engines := rfl
@[simp] theorem State.commit_transit (s : State) : (s.commit).transit = s.transit := rfl
@[simp] theorem State.commit_assembly (s : State) : (s.commit).assembly = s.assembly := rfl
@[simp] theorem State.commit_copies (s : State) : (s.commit).copies = s.copies := rfl
@[simp] theorem State.commit_acps (s : State) : (s.commit).acps = s.acps := rfl
@[simp] theorem State.commit_stcs (s : State) : (s.commit).stcs = s.stcs := rfl
@[simp] theorem State.commit_grids (s : State) : (s.commit).grids = s.grids := rfl
@[simp] theorem State.commit_queues (s : State) : (s.commit).queues = s.queues := rfl
@[simp] theorem State.commit_teams (s : State) : (s.commit).teams = s.teams := rfl
@[simp] theorem State.commit_saved (s : State) : (s.commit).saved = s.saved := rfl
@[simp] theorem State.commit_rowOwner (s : State) : (s.commit).rowOwner = s.rowOwner := rfl
@[simp] theorem State.commit_blockOwner (s : State) : (s.commit).blockOwner = s.blockOwner := rfl
@[simp] theorem State.commit_staging (s : State) : (s.commit).staging = s.staging := rfl
@[simp] theorem State.commit_nextHandle (s : State) : (s.commit).nextHandle = s.nextHandle := rfl
@[simp] theorem State.commit_reqs (s : State) : (s.commit).reqs = s.reqs := rfl
@[simp] theorem State.commit_replies (s : State) : (s.commit).replies = s.replies := rfl
@[simp] theorem State.commit_flowsIn (s : State) : (s.commit).flowsIn = s.flowsIn := rfl
@[simp] theorem State.commit_flowsOut (s : State) : (s.commit).flowsOut = s.flowsOut := rfl
@[simp] theorem State.commit_outbox (s : State) : (s.commit).outbox = s.outbox := rfl
@[simp] theorem State.commit_hostq (s : State) : (s.commit).hostq = s.hostq := rfl
@[simp] theorem State.commit_dead (s : State) : (s.commit).dead = s.dead := rfl
@[simp] theorem State.commit_recovering (s : State) : (s.commit).recovering = s.recovering := rfl
@[simp] theorem State.commit_cellTaken (s : State) : (s.commit).cellTaken = s.cellTaken := rfl
@[simp] theorem State.commit_tcqTail (s : State) : (s.commit).tcqTail = s.tcqTail := rfl
@[simp] theorem State.commit_tcq (s : State) : (s.commit).tcq = s.tcq := rfl
@[simp] theorem State.commit_adds (s : State) : (s.commit).adds = s.adds := rfl
@[simp] theorem State.commit_rowStates (s : State) : (s.commit).rowStates = s.rowStates := rfl
@[simp] theorem State.commit_spares (s : State) : (s.commit).spares = s.spares := rfl
@[simp] theorem State.commit_authFails (s : State) : (s.commit).authFails = s.authFails := rfl
@[simp] theorem State.commit_firmware (s : State) : (s.commit).firmware = s.firmware := rfl
@[simp] theorem State.commit_throttled (s : State) : (s.commit).throttled = s.throttled := rfl
@[simp] theorem State.commit_shutdownCause (s : State) : (s.commit).shutdownCause = s.shutdownCause := rfl
@[simp] theorem State.commit_nextId (s : State) : (s.commit).nextId = s.nextId + 1 := rfl
@[simp] theorem State.commit_fresh (s : State) : (s.commit).fresh = s.fresh := rfl
@[simp] theorem State.commit_turns (s : State) : (s.commit).turns = s.turns := rfl
@[simp] theorem State.commit_due (s : State) : (s.commit).due = s.due := rfl
@[simp] theorem State.commit_t (s : State) : (s.commit).t = s.t := rfl

@[simp] theorem State.commit_iss_mask (s : State) : s.commit.iss.mask = s.iss.mask := rfl
@[simp] theorem State.commit_iss_key (s : State) : s.commit.iss.key = s.iss.key := rfl
@[simp] theorem State.commit_iss_word (s : State) : s.commit.iss.word = s.iss.word := rfl
@[simp] theorem State.commit_iss_yieldm (s : State) : s.commit.iss.yieldm = s.iss.yieldm := rfl
@[simp] theorem State.commit_iss_waitm (s : State) : s.commit.iss.waitm = s.iss.waitm := rfl
@[simp] theorem State.commit_iss_beyond (s : State) : s.commit.iss.beyond = (s.g.ops.filter Op.beyondWindow).map (·.id) := rfl

/-! ### The group after `commit` (R17, R25, R29, R32) -/

@[simp] theorem State.commit_g_id (s : State) : s.commit.g.id = s.g.id := rfl
@[simp] theorem State.commit_g_quad (s : State) : s.commit.g.quad = s.g.quad := rfl
@[simp] theorem State.commit_g_slot (s : State) : s.commit.g.slot = s.g.slot := rfl
@[simp] theorem State.commit_g_n (s : State) : s.commit.g.n = s.g.n := rfl
@[simp] theorem State.commit_g_blocks (s : State) : s.commit.g.blocks = s.g.blocks := rfl
@[simp] theorem State.commit_g_cell (s : State) : s.commit.g.cell = s.g.cell := rfl
@[simp] theorem State.commit_g_v (s : State) : s.commit.g.v = s.g.v := rfl
@[simp] theorem State.commit_g_p (s : State) : s.commit.g.p = s.g.p := rfl
@[simp] theorem State.commit_g_s (s : State) : s.commit.g.s = s.g.s := rfl
@[simp] theorem State.commit_g_q (s : State) : s.commit.g.q = s.g.q := rfl
@[simp] theorem State.commit_g_lpc (s : State) : s.commit.g.lpc = s.g.lpc := rfl
@[simp] theorem State.commit_g_dep (s : State) : s.commit.g.dep = s.g.dep := rfl
@[simp] theorem State.commit_g_yielded (s : State) : s.commit.g.yielded = s.g.yielded &&& ~~~s.iss.mask := rfl
@[simp] theorem State.commit_g_lane (s : State) : s.commit.g.lane = s.g.lane := rfl
@[simp] theorem State.commit_g_sr (s : State) : s.commit.g.sr = s.g.sr := rfl
@[simp] theorem State.commit_g_gangr (s : State) : s.commit.g.gangr = s.g.gangr := rfl
@[simp] theorem State.commit_g_fpctl (s : State) : s.commit.g.fpctl = s.g.fpctl := rfl
@[simp] theorem State.commit_g_starve (s : State) : s.commit.g.starve = starveNext s.g.starve s.g.runnable s.iss.mask := rfl
@[simp] theorem State.commit_g_lastKey (s : State) : s.commit.g.lastKey = s.iss.key := rfl
@[simp] theorem State.commit_g_lastWait (s : State) : s.commit.g.lastWait = s.iss.waitm := rfl
@[simp] theorem State.commit_g_status (s : State) : s.commit.g.status = s.g.status := rfl
@[simp] theorem State.commit_g_ops (s : State) : s.commit.g.ops = s.g.ops.map fun o => { o with win := o.win - 1 } := rfl
@[simp] theorem State.commit_g_log (s : State) : s.commit.g.log = s.g.log := rfl
@[simp] theorem State.commit_g_held (s : State) : s.commit.g.held = s.g.held := rfl
@[simp] theorem State.commit_g_replay (s : State) : s.commit.g.replay = s.g.replay := rfl
@[simp] theorem State.commit_g_fence (s : State) : s.commit.g.fence = s.g.fence := rfl
@[simp] theorem State.commit_g_vbad (s : State) : s.commit.g.vbad = s.g.vbad := rfl
@[simp] theorem State.commit_g_sbad (s : State) : s.commit.g.sbad = s.g.sbad := rfl
@[simp] theorem State.commit_g_lastIssue (s : State) : s.commit.g.lastIssue = some s.nextId := rfl
@[simp] theorem State.commit_g_watch (s : State) : s.commit.g.watch = s.g.watch := rfl
@[simp] theorem State.commit_g_needLatch (s : State) : s.commit.g.needLatch = false := rfl
@[simp] theorem State.commit_g_needA (s : State) : s.commit.g.needA = none := rfl
@[simp] theorem State.commit_g_shrinkTo (s : State) : s.commit.g.shrinkTo = s.g.shrinkTo := rfl
@[simp] theorem State.commit_g_starved (s : State) : s.commit.g.starved = s.g.starved := rfl
@[simp] theorem State.commit_g_stop (s : State) : s.commit.g.stop = s.g.stop := rfl
@[simp] theorem State.commit_g_retired (s : State) : s.commit.g.retired = s.g.retired := rfl
@[simp] theorem State.commit_g_old (s : State) : s.commit.g.old = s.g.old := rfl

/-! ### `emit` -/

@[simp] theorem State.emit_power (s : State) (p : Packet) : (s.emit p).power = s.power := rfl
@[simp] theorem State.emit_joined (s : State) (p : Packet) : (s.emit p).joined = s.joined := rfl
@[simp] theorem State.emit_portsDown (s : State) (p : Packet) : (s.emit p).portsDown = s.portsDown := rfl
@[simp] theorem State.emit_pairsDown (s : State) (p : Packet) : (s.emit p).pairsDown = s.pairsDown := rfl
@[simp] theorem State.emit_stacksDown (s : State) (p : Packet) : (s.emit p).stacksDown = s.stacksDown := rfl
@[simp] theorem State.emit_resets (s : State) (p : Packet) : (s.emit p).resets = s.resets := rfl
@[simp] theorem State.emit_pkg (s : State) (p : Packet) : (s.emit p).pkg = s.pkg := rfl
@[simp] theorem State.emit_policy (s : State) (p : Packet) : (s.emit p).policy = s.policy := rfl
@[simp] theorem State.emit_carve (s : State) (p : Packet) : (s.emit p).carve = s.carve := rfl
@[simp] theorem State.emit_cycle (s : State) (p : Packet) : (s.emit p).cycle = s.cycle := rfl
@[simp] theorem State.emit_ctxtab (s : State) (p : Packet) : (s.emit p).ctxtab = s.ctxtab := rfl
@[simp] theorem State.emit_descs (s : State) (p : Packet) : (s.emit p).descs = s.descs := rfl
@[simp] theorem State.emit_supctx (s : State) (p : Packet) : (s.emit p).supctx = s.supctx := rfl
@[simp] theorem State.emit_ctxctlStatus (s : State) (p : Packet) : (s.emit p).ctxctlStatus = s.ctxctlStatus := rfl
@[simp] theorem State.emit_ctxctlQueue (s : State) (p : Packet) : (s.emit p).ctxctlQueue = s.ctxctlQueue := rfl
@[simp] theorem State.emit_trapseq (s : State) (p : Packet) : (s.emit p).trapseq = s.trapseq := rfl
@[simp] theorem State.emit_mem (s : State) (p : Packet) : (s.emit p).mem = s.mem := rfl
@[simp] theorem State.emit_poison (s : State) (p : Packet) : (s.emit p).poison = s.poison := rfl
@[simp] theorem State.emit_tags (s : State) (p : Packet) : (s.emit p).tags = s.tags := rfl
@[simp] theorem State.emit_hazes (s : State) (p : Packet) : (s.emit p).hazes = s.hazes := rfl
@[simp] theorem State.emit_keyGen (s : State) (p : Packet) : (s.emit p).keyGen = s.keyGen := rfl
@[simp] theorem State.emit_l1 (s : State) (p : Packet) : (s.emit p).l1 = s.l1 := rfl
@[simp] theorem State.emit_posted (s : State) (p : Packet) : (s.emit p).posted = s.posted := rfl
@[simp] theorem State.emit_llc (s : State) (p : Packet) : (s.emit p).llc = s.llc := rfl
@[simp] theorem State.emit_dir (s : State) (p : Packet) : (s.emit p).dir = s.dir := rfl
@[simp] theorem State.emit_recalls (s : State) (p : Packet) : (s.emit p).recalls = s.recalls := rfl
@[simp] theorem State.emit_openFar (s : State) (p : Packet) : (s.emit p).openFar = s.openFar := rfl
@[simp] theorem State.emit_tlb (s : State) (p : Packet) : (s.emit p).tlb = s.tlb := rfl
@[simp] theorem State.emit_ptrs (s : State) (p : Packet) : (s.emit p).ptrs = s.ptrs := rfl
@[simp] theorem State.emit_freezes (s : State) (p : Packet) : (s.emit p).freezes = s.freezes := rfl
@[simp] theorem State.emit_merge (s : State) (p : Packet) : (s.emit p).merge = s.merge := rfl
@[simp] theorem State.emit_move (s : State) (p : Packet) : (s.emit p).move = s.move := rfl
@[simp] theorem State.emit_triggers (s : State) (p : Packet) : (s.emit p).triggers = s.triggers := rfl
@[simp] theorem State.emit_tiles (s : State) (p : Packet) : (s.emit p).tiles = s.tiles := rfl
@[simp] theorem State.emit_expired (s : State) (p : Packet) : (s.emit p).expired = s.expired := rfl
@[simp] theorem State.emit_mma (s : State) (p : Packet) : (s.emit p).mma = s.mma := rfl
@[simp] theorem State.emit_engines (s : State) (p : Packet) : (s.emit p).engines = s.engines := rfl
@[simp] theorem State.emit_transit (s : State) (p : Packet) : (s.emit p).transit = s.transit := rfl
@[simp] theorem State.emit_assembly (s : State) (p : Packet) : (s.emit p).assembly = s.assembly := rfl
@[simp] theorem State.emit_copies (s : State) (p : Packet) : (s.emit p).copies = s.copies := rfl
@[simp] theorem State.emit_acps (s : State) (p : Packet) : (s.emit p).acps = s.acps := rfl
@[simp] theorem State.emit_stcs (s : State) (p : Packet) : (s.emit p).stcs = s.stcs := rfl
@[simp] theorem State.emit_grids (s : State) (p : Packet) : (s.emit p).grids = s.grids := rfl
@[simp] theorem State.emit_queues (s : State) (p : Packet) : (s.emit p).queues = s.queues := rfl
@[simp] theorem State.emit_teams (s : State) (p : Packet) : (s.emit p).teams = s.teams := rfl
@[simp] theorem State.emit_saved (s : State) (p : Packet) : (s.emit p).saved = s.saved := rfl
@[simp] theorem State.emit_rowOwner (s : State) (p : Packet) : (s.emit p).rowOwner = s.rowOwner := rfl
@[simp] theorem State.emit_blockOwner (s : State) (p : Packet) : (s.emit p).blockOwner = s.blockOwner := rfl
@[simp] theorem State.emit_staging (s : State) (p : Packet) : (s.emit p).staging = s.staging := rfl
@[simp] theorem State.emit_nextHandle (s : State) (p : Packet) : (s.emit p).nextHandle = s.nextHandle := rfl
@[simp] theorem State.emit_reqs (s : State) (p : Packet) : (s.emit p).reqs = s.reqs := rfl
@[simp] theorem State.emit_replies (s : State) (p : Packet) : (s.emit p).replies = s.replies := rfl
@[simp] theorem State.emit_flowsIn (s : State) (p : Packet) : (s.emit p).flowsIn = s.flowsIn := rfl
@[simp] theorem State.emit_flowsOut (s : State) (p : Packet) : (s.emit p).flowsOut = s.flowsOut := rfl
@[simp] theorem State.emit_outbox (s : State) (p : Packet) : (s.emit p).outbox = s.outbox ++ [.packet p] := rfl
@[simp] theorem State.emit_hostq (s : State) (p : Packet) : (s.emit p).hostq = s.hostq := rfl
@[simp] theorem State.emit_dead (s : State) (p : Packet) : (s.emit p).dead = s.dead := rfl
@[simp] theorem State.emit_recovering (s : State) (p : Packet) : (s.emit p).recovering = s.recovering := rfl
@[simp] theorem State.emit_cellTaken (s : State) (p : Packet) : (s.emit p).cellTaken = s.cellTaken := rfl
@[simp] theorem State.emit_tcqTail (s : State) (p : Packet) : (s.emit p).tcqTail = s.tcqTail := rfl
@[simp] theorem State.emit_tcq (s : State) (p : Packet) : (s.emit p).tcq = s.tcq := rfl
@[simp] theorem State.emit_adds (s : State) (p : Packet) : (s.emit p).adds = s.adds := rfl
@[simp] theorem State.emit_rowStates (s : State) (p : Packet) : (s.emit p).rowStates = s.rowStates := rfl
@[simp] theorem State.emit_spares (s : State) (p : Packet) : (s.emit p).spares = s.spares := rfl
@[simp] theorem State.emit_authFails (s : State) (p : Packet) : (s.emit p).authFails = s.authFails := rfl
@[simp] theorem State.emit_firmware (s : State) (p : Packet) : (s.emit p).firmware = s.firmware := rfl
@[simp] theorem State.emit_throttled (s : State) (p : Packet) : (s.emit p).throttled = s.throttled := rfl
@[simp] theorem State.emit_shutdownCause (s : State) (p : Packet) : (s.emit p).shutdownCause = s.shutdownCause := rfl
@[simp] theorem State.emit_nextId (s : State) (p : Packet) : (s.emit p).nextId = s.nextId := rfl
@[simp] theorem State.emit_fresh (s : State) (p : Packet) : (s.emit p).fresh = s.fresh := rfl
@[simp] theorem State.emit_turns (s : State) (p : Packet) : (s.emit p).turns = s.turns := rfl
@[simp] theorem State.emit_due (s : State) (p : Packet) : (s.emit p).due = s.due := rfl
@[simp] theorem State.emit_t (s : State) (p : Packet) : (s.emit p).t = s.t := rfl
@[simp] theorem State.emit_g (s : State) (p : Packet) : (s.emit p).g = s.g := rfl
@[simp] theorem State.emit_iss (s : State) (p : Packet) : (s.emit p).iss = s.iss := rfl

/-! ### `addPoison` -/

@[simp] theorem State.addPoison_power (s : State) (ls : List Nat) : (s.addPoison ls).power = s.power := rfl
@[simp] theorem State.addPoison_joined (s : State) (ls : List Nat) : (s.addPoison ls).joined = s.joined := rfl
@[simp] theorem State.addPoison_portsDown (s : State) (ls : List Nat) : (s.addPoison ls).portsDown = s.portsDown := rfl
@[simp] theorem State.addPoison_pairsDown (s : State) (ls : List Nat) : (s.addPoison ls).pairsDown = s.pairsDown := rfl
@[simp] theorem State.addPoison_stacksDown (s : State) (ls : List Nat) : (s.addPoison ls).stacksDown = s.stacksDown := rfl
@[simp] theorem State.addPoison_resets (s : State) (ls : List Nat) : (s.addPoison ls).resets = s.resets := rfl
@[simp] theorem State.addPoison_pkg (s : State) (ls : List Nat) : (s.addPoison ls).pkg = s.pkg := rfl
@[simp] theorem State.addPoison_policy (s : State) (ls : List Nat) : (s.addPoison ls).policy = s.policy := rfl
@[simp] theorem State.addPoison_carve (s : State) (ls : List Nat) : (s.addPoison ls).carve = s.carve := rfl
@[simp] theorem State.addPoison_cycle (s : State) (ls : List Nat) : (s.addPoison ls).cycle = s.cycle := rfl
@[simp] theorem State.addPoison_ctxtab (s : State) (ls : List Nat) : (s.addPoison ls).ctxtab = s.ctxtab := rfl
@[simp] theorem State.addPoison_descs (s : State) (ls : List Nat) : (s.addPoison ls).descs = s.descs := rfl
@[simp] theorem State.addPoison_supctx (s : State) (ls : List Nat) : (s.addPoison ls).supctx = s.supctx := rfl
@[simp] theorem State.addPoison_ctxctlStatus (s : State) (ls : List Nat) : (s.addPoison ls).ctxctlStatus = s.ctxctlStatus := rfl
@[simp] theorem State.addPoison_ctxctlQueue (s : State) (ls : List Nat) : (s.addPoison ls).ctxctlQueue = s.ctxctlQueue := rfl
@[simp] theorem State.addPoison_trapseq (s : State) (ls : List Nat) : (s.addPoison ls).trapseq = s.trapseq := rfl
@[simp] theorem State.addPoison_mem (s : State) (ls : List Nat) : (s.addPoison ls).mem = s.mem := rfl
@[simp] theorem State.addPoison_poison (s : State) (ls : List Nat) : (s.addPoison ls).poison = insertAll ls s.poison := rfl
@[simp] theorem State.addPoison_tags (s : State) (ls : List Nat) : (s.addPoison ls).tags = s.tags := rfl
@[simp] theorem State.addPoison_hazes (s : State) (ls : List Nat) : (s.addPoison ls).hazes = s.hazes := rfl
@[simp] theorem State.addPoison_keyGen (s : State) (ls : List Nat) : (s.addPoison ls).keyGen = s.keyGen := rfl
@[simp] theorem State.addPoison_l1 (s : State) (ls : List Nat) : (s.addPoison ls).l1 = s.l1 := rfl
@[simp] theorem State.addPoison_posted (s : State) (ls : List Nat) : (s.addPoison ls).posted = s.posted := rfl
@[simp] theorem State.addPoison_llc (s : State) (ls : List Nat) : (s.addPoison ls).llc = s.llc := rfl
@[simp] theorem State.addPoison_dir (s : State) (ls : List Nat) : (s.addPoison ls).dir = s.dir := rfl
@[simp] theorem State.addPoison_recalls (s : State) (ls : List Nat) : (s.addPoison ls).recalls = s.recalls := rfl
@[simp] theorem State.addPoison_openFar (s : State) (ls : List Nat) : (s.addPoison ls).openFar = s.openFar := rfl
@[simp] theorem State.addPoison_tlb (s : State) (ls : List Nat) : (s.addPoison ls).tlb = s.tlb := rfl
@[simp] theorem State.addPoison_ptrs (s : State) (ls : List Nat) : (s.addPoison ls).ptrs = s.ptrs := rfl
@[simp] theorem State.addPoison_freezes (s : State) (ls : List Nat) : (s.addPoison ls).freezes = s.freezes := rfl
@[simp] theorem State.addPoison_merge (s : State) (ls : List Nat) : (s.addPoison ls).merge = s.merge := rfl
@[simp] theorem State.addPoison_move (s : State) (ls : List Nat) : (s.addPoison ls).move = s.move := rfl
@[simp] theorem State.addPoison_triggers (s : State) (ls : List Nat) : (s.addPoison ls).triggers = s.triggers := rfl
@[simp] theorem State.addPoison_tiles (s : State) (ls : List Nat) : (s.addPoison ls).tiles = s.tiles := rfl
@[simp] theorem State.addPoison_expired (s : State) (ls : List Nat) : (s.addPoison ls).expired = s.expired := rfl
@[simp] theorem State.addPoison_mma (s : State) (ls : List Nat) : (s.addPoison ls).mma = s.mma := rfl
@[simp] theorem State.addPoison_engines (s : State) (ls : List Nat) : (s.addPoison ls).engines = s.engines := rfl
@[simp] theorem State.addPoison_transit (s : State) (ls : List Nat) : (s.addPoison ls).transit = s.transit := rfl
@[simp] theorem State.addPoison_assembly (s : State) (ls : List Nat) : (s.addPoison ls).assembly = s.assembly := rfl
@[simp] theorem State.addPoison_copies (s : State) (ls : List Nat) : (s.addPoison ls).copies = s.copies := rfl
@[simp] theorem State.addPoison_acps (s : State) (ls : List Nat) : (s.addPoison ls).acps = s.acps := rfl
@[simp] theorem State.addPoison_stcs (s : State) (ls : List Nat) : (s.addPoison ls).stcs = s.stcs := rfl
@[simp] theorem State.addPoison_grids (s : State) (ls : List Nat) : (s.addPoison ls).grids = s.grids := rfl
@[simp] theorem State.addPoison_queues (s : State) (ls : List Nat) : (s.addPoison ls).queues = s.queues := rfl
@[simp] theorem State.addPoison_teams (s : State) (ls : List Nat) : (s.addPoison ls).teams = s.teams := rfl
@[simp] theorem State.addPoison_saved (s : State) (ls : List Nat) : (s.addPoison ls).saved = s.saved := rfl
@[simp] theorem State.addPoison_rowOwner (s : State) (ls : List Nat) : (s.addPoison ls).rowOwner = s.rowOwner := rfl
@[simp] theorem State.addPoison_blockOwner (s : State) (ls : List Nat) : (s.addPoison ls).blockOwner = s.blockOwner := rfl
@[simp] theorem State.addPoison_staging (s : State) (ls : List Nat) : (s.addPoison ls).staging = s.staging := rfl
@[simp] theorem State.addPoison_nextHandle (s : State) (ls : List Nat) : (s.addPoison ls).nextHandle = s.nextHandle := rfl
@[simp] theorem State.addPoison_reqs (s : State) (ls : List Nat) : (s.addPoison ls).reqs = s.reqs := rfl
@[simp] theorem State.addPoison_replies (s : State) (ls : List Nat) : (s.addPoison ls).replies = s.replies := rfl
@[simp] theorem State.addPoison_flowsIn (s : State) (ls : List Nat) : (s.addPoison ls).flowsIn = s.flowsIn := rfl
@[simp] theorem State.addPoison_flowsOut (s : State) (ls : List Nat) : (s.addPoison ls).flowsOut = s.flowsOut := rfl
@[simp] theorem State.addPoison_outbox (s : State) (ls : List Nat) : (s.addPoison ls).outbox = s.outbox := rfl
@[simp] theorem State.addPoison_hostq (s : State) (ls : List Nat) : (s.addPoison ls).hostq = s.hostq := rfl
@[simp] theorem State.addPoison_dead (s : State) (ls : List Nat) : (s.addPoison ls).dead = s.dead := rfl
@[simp] theorem State.addPoison_recovering (s : State) (ls : List Nat) : (s.addPoison ls).recovering = s.recovering := rfl
@[simp] theorem State.addPoison_cellTaken (s : State) (ls : List Nat) : (s.addPoison ls).cellTaken = s.cellTaken := rfl
@[simp] theorem State.addPoison_tcqTail (s : State) (ls : List Nat) : (s.addPoison ls).tcqTail = s.tcqTail := rfl
@[simp] theorem State.addPoison_tcq (s : State) (ls : List Nat) : (s.addPoison ls).tcq = s.tcq := rfl
@[simp] theorem State.addPoison_adds (s : State) (ls : List Nat) : (s.addPoison ls).adds = s.adds := rfl
@[simp] theorem State.addPoison_rowStates (s : State) (ls : List Nat) : (s.addPoison ls).rowStates = s.rowStates := rfl
@[simp] theorem State.addPoison_spares (s : State) (ls : List Nat) : (s.addPoison ls).spares = s.spares := rfl
@[simp] theorem State.addPoison_authFails (s : State) (ls : List Nat) : (s.addPoison ls).authFails = s.authFails := rfl
@[simp] theorem State.addPoison_firmware (s : State) (ls : List Nat) : (s.addPoison ls).firmware = s.firmware := rfl
@[simp] theorem State.addPoison_throttled (s : State) (ls : List Nat) : (s.addPoison ls).throttled = s.throttled := rfl
@[simp] theorem State.addPoison_shutdownCause (s : State) (ls : List Nat) : (s.addPoison ls).shutdownCause = s.shutdownCause := rfl
@[simp] theorem State.addPoison_nextId (s : State) (ls : List Nat) : (s.addPoison ls).nextId = s.nextId := rfl
@[simp] theorem State.addPoison_fresh (s : State) (ls : List Nat) : (s.addPoison ls).fresh = s.fresh := rfl
@[simp] theorem State.addPoison_turns (s : State) (ls : List Nat) : (s.addPoison ls).turns = s.turns := rfl
@[simp] theorem State.addPoison_due (s : State) (ls : List Nat) : (s.addPoison ls).due = s.due := rfl
@[simp] theorem State.addPoison_t (s : State) (ls : List Nat) : (s.addPoison ls).t = s.t := rfl
@[simp] theorem State.addPoison_g (s : State) (ls : List Nat) : (s.addPoison ls).g = s.g := rfl
@[simp] theorem State.addPoison_iss (s : State) (ls : List Nat) : (s.addPoison ls).iss = s.iss := rfl

/-! ### `setV` -/

@[simp] theorem Group.setV_id (g : Group) (m : Mask) (r : Fin 128) (f : Fin 32 → W32) : (g.setV m r f).id = g.id := rfl
@[simp] theorem Group.setV_quad (g : Group) (m : Mask) (r : Fin 128) (f : Fin 32 → W32) : (g.setV m r f).quad = g.quad := rfl
@[simp] theorem Group.setV_slot (g : Group) (m : Mask) (r : Fin 128) (f : Fin 32 → W32) : (g.setV m r f).slot = g.slot := rfl
@[simp] theorem Group.setV_n (g : Group) (m : Mask) (r : Fin 128) (f : Fin 32 → W32) : (g.setV m r f).n = g.n := rfl
@[simp] theorem Group.setV_blocks (g : Group) (m : Mask) (r : Fin 128) (f : Fin 32 → W32) : (g.setV m r f).blocks = g.blocks := rfl
@[simp] theorem Group.setV_cell (g : Group) (m : Mask) (r : Fin 128) (f : Fin 32 → W32) : (g.setV m r f).cell = g.cell := rfl
@[simp] theorem Group.setV_v (g : Group) (m : Mask) (r : Fin 128) (f : Fin 32 → W32) : (g.setV m r f).v = g.v.set r.val (laneUpd (g.v[r.val]) m f) := rfl
@[simp] theorem Group.setV_p (g : Group) (m : Mask) (r : Fin 128) (f : Fin 32 → W32) : (g.setV m r f).p = g.p := rfl
@[simp] theorem Group.setV_s (g : Group) (m : Mask) (r : Fin 128) (f : Fin 32 → W32) : (g.setV m r f).s = g.s := rfl
@[simp] theorem Group.setV_q (g : Group) (m : Mask) (r : Fin 128) (f : Fin 32 → W32) : (g.setV m r f).q = g.q := rfl
@[simp] theorem Group.setV_lpc (g : Group) (m : Mask) (r : Fin 128) (f : Fin 32 → W32) : (g.setV m r f).lpc = g.lpc := rfl
@[simp] theorem Group.setV_dep (g : Group) (m : Mask) (r : Fin 128) (f : Fin 32 → W32) : (g.setV m r f).dep = g.dep := rfl
@[simp] theorem Group.setV_yielded (g : Group) (m : Mask) (r : Fin 128) (f : Fin 32 → W32) : (g.setV m r f).yielded = g.yielded := rfl
@[simp] theorem Group.setV_lane (g : Group) (m : Mask) (r : Fin 128) (f : Fin 32 → W32) : (g.setV m r f).lane = g.lane := rfl
@[simp] theorem Group.setV_sr (g : Group) (m : Mask) (r : Fin 128) (f : Fin 32 → W32) : (g.setV m r f).sr = g.sr := rfl
@[simp] theorem Group.setV_gangr (g : Group) (m : Mask) (r : Fin 128) (f : Fin 32 → W32) : (g.setV m r f).gangr = g.gangr := rfl
@[simp] theorem Group.setV_fpctl (g : Group) (m : Mask) (r : Fin 128) (f : Fin 32 → W32) : (g.setV m r f).fpctl = g.fpctl := rfl
@[simp] theorem Group.setV_starve (g : Group) (m : Mask) (r : Fin 128) (f : Fin 32 → W32) : (g.setV m r f).starve = g.starve := rfl
@[simp] theorem Group.setV_lastKey (g : Group) (m : Mask) (r : Fin 128) (f : Fin 32 → W32) : (g.setV m r f).lastKey = g.lastKey := rfl
@[simp] theorem Group.setV_lastWait (g : Group) (m : Mask) (r : Fin 128) (f : Fin 32 → W32) : (g.setV m r f).lastWait = g.lastWait := rfl
@[simp] theorem Group.setV_status (g : Group) (m : Mask) (r : Fin 128) (f : Fin 32 → W32) : (g.setV m r f).status = g.status := rfl
@[simp] theorem Group.setV_ops (g : Group) (m : Mask) (r : Fin 128) (f : Fin 32 → W32) : (g.setV m r f).ops = g.ops := rfl
@[simp] theorem Group.setV_log (g : Group) (m : Mask) (r : Fin 128) (f : Fin 32 → W32) : (g.setV m r f).log = g.log := rfl
@[simp] theorem Group.setV_held (g : Group) (m : Mask) (r : Fin 128) (f : Fin 32 → W32) : (g.setV m r f).held = g.held := rfl
@[simp] theorem Group.setV_replay (g : Group) (m : Mask) (r : Fin 128) (f : Fin 32 → W32) : (g.setV m r f).replay = g.replay := rfl
@[simp] theorem Group.setV_fence (g : Group) (m : Mask) (r : Fin 128) (f : Fin 32 → W32) : (g.setV m r f).fence = g.fence := rfl
@[simp] theorem Group.setV_vbad (g : Group) (m : Mask) (r : Fin 128) (f : Fin 32 → W32) : (g.setV m r f).vbad = g.vbad.filter fun b => !(b.1 == r.val && m.getLsbD b.2) := rfl
@[simp] theorem Group.setV_sbad (g : Group) (m : Mask) (r : Fin 128) (f : Fin 32 → W32) : (g.setV m r f).sbad = g.sbad := rfl
@[simp] theorem Group.setV_lastIssue (g : Group) (m : Mask) (r : Fin 128) (f : Fin 32 → W32) : (g.setV m r f).lastIssue = g.lastIssue := rfl
@[simp] theorem Group.setV_watch (g : Group) (m : Mask) (r : Fin 128) (f : Fin 32 → W32) : (g.setV m r f).watch = g.noted m r.val := rfl
@[simp] theorem Group.setV_needLatch (g : Group) (m : Mask) (r : Fin 128) (f : Fin 32 → W32) : (g.setV m r f).needLatch = g.needLatch := rfl
@[simp] theorem Group.setV_needA (g : Group) (m : Mask) (r : Fin 128) (f : Fin 32 → W32) : (g.setV m r f).needA = g.needA := rfl
@[simp] theorem Group.setV_shrinkTo (g : Group) (m : Mask) (r : Fin 128) (f : Fin 32 → W32) : (g.setV m r f).shrinkTo = g.shrinkTo := rfl
@[simp] theorem Group.setV_starved (g : Group) (m : Mask) (r : Fin 128) (f : Fin 32 → W32) : (g.setV m r f).starved = g.starved := rfl
@[simp] theorem Group.setV_stop (g : Group) (m : Mask) (r : Fin 128) (f : Fin 32 → W32) : (g.setV m r f).stop = g.stop := rfl
@[simp] theorem Group.setV_retired (g : Group) (m : Mask) (r : Fin 128) (f : Fin 32 → W32) : (g.setV m r f).retired = g.retired := rfl
@[simp] theorem Group.setV_old (g : Group) (m : Mask) (r : Fin 128) (f : Fin 32 → W32) : (g.setV m r f).old = g.old := rfl

/-! ### `setS` -/

@[simp] theorem Group.setS_id (g : Group) (r : Fin 512) (x : W64) : (g.setS r x).id = g.id := rfl
@[simp] theorem Group.setS_quad (g : Group) (r : Fin 512) (x : W64) : (g.setS r x).quad = g.quad := rfl
@[simp] theorem Group.setS_slot (g : Group) (r : Fin 512) (x : W64) : (g.setS r x).slot = g.slot := rfl
@[simp] theorem Group.setS_n (g : Group) (r : Fin 512) (x : W64) : (g.setS r x).n = g.n := rfl
@[simp] theorem Group.setS_blocks (g : Group) (r : Fin 512) (x : W64) : (g.setS r x).blocks = g.blocks := rfl
@[simp] theorem Group.setS_cell (g : Group) (r : Fin 512) (x : W64) : (g.setS r x).cell = g.cell := rfl
@[simp] theorem Group.setS_v (g : Group) (r : Fin 512) (x : W64) : (g.setS r x).v = g.v := rfl
@[simp] theorem Group.setS_p (g : Group) (r : Fin 512) (x : W64) : (g.setS r x).p = g.p := rfl
@[simp] theorem Group.setS_s (g : Group) (r : Fin 512) (x : W64) : (g.setS r x).s = g.s.set r.val x := rfl
@[simp] theorem Group.setS_q (g : Group) (r : Fin 512) (x : W64) : (g.setS r x).q = g.q := rfl
@[simp] theorem Group.setS_lpc (g : Group) (r : Fin 512) (x : W64) : (g.setS r x).lpc = g.lpc := rfl
@[simp] theorem Group.setS_dep (g : Group) (r : Fin 512) (x : W64) : (g.setS r x).dep = g.dep := rfl
@[simp] theorem Group.setS_yielded (g : Group) (r : Fin 512) (x : W64) : (g.setS r x).yielded = g.yielded := rfl
@[simp] theorem Group.setS_lane (g : Group) (r : Fin 512) (x : W64) : (g.setS r x).lane = g.lane := rfl
@[simp] theorem Group.setS_sr (g : Group) (r : Fin 512) (x : W64) : (g.setS r x).sr = g.sr := rfl
@[simp] theorem Group.setS_gangr (g : Group) (r : Fin 512) (x : W64) : (g.setS r x).gangr = g.gangr := rfl
@[simp] theorem Group.setS_fpctl (g : Group) (r : Fin 512) (x : W64) : (g.setS r x).fpctl = g.fpctl := rfl
@[simp] theorem Group.setS_starve (g : Group) (r : Fin 512) (x : W64) : (g.setS r x).starve = g.starve := rfl
@[simp] theorem Group.setS_lastKey (g : Group) (r : Fin 512) (x : W64) : (g.setS r x).lastKey = g.lastKey := rfl
@[simp] theorem Group.setS_lastWait (g : Group) (r : Fin 512) (x : W64) : (g.setS r x).lastWait = g.lastWait := rfl
@[simp] theorem Group.setS_status (g : Group) (r : Fin 512) (x : W64) : (g.setS r x).status = g.status := rfl
@[simp] theorem Group.setS_ops (g : Group) (r : Fin 512) (x : W64) : (g.setS r x).ops = g.ops := rfl
@[simp] theorem Group.setS_log (g : Group) (r : Fin 512) (x : W64) : (g.setS r x).log = g.log := rfl
@[simp] theorem Group.setS_held (g : Group) (r : Fin 512) (x : W64) : (g.setS r x).held = g.held := rfl
@[simp] theorem Group.setS_replay (g : Group) (r : Fin 512) (x : W64) : (g.setS r x).replay = g.replay := rfl
@[simp] theorem Group.setS_fence (g : Group) (r : Fin 512) (x : W64) : (g.setS r x).fence = g.fence := rfl
@[simp] theorem Group.setS_vbad (g : Group) (r : Fin 512) (x : W64) : (g.setS r x).vbad = g.vbad := rfl
@[simp] theorem Group.setS_sbad (g : Group) (r : Fin 512) (x : W64) : (g.setS r x).sbad = g.sbad.filter fun b => b.1 != r.val := rfl
@[simp] theorem Group.setS_lastIssue (g : Group) (r : Fin 512) (x : W64) : (g.setS r x).lastIssue = g.lastIssue := rfl
@[simp] theorem Group.setS_watch (g : Group) (r : Fin 512) (x : W64) : (g.setS r x).watch = g.watch := rfl
@[simp] theorem Group.setS_needLatch (g : Group) (r : Fin 512) (x : W64) : (g.setS r x).needLatch = g.needLatch := rfl
@[simp] theorem Group.setS_needA (g : Group) (r : Fin 512) (x : W64) : (g.setS r x).needA = g.needA := rfl
@[simp] theorem Group.setS_shrinkTo (g : Group) (r : Fin 512) (x : W64) : (g.setS r x).shrinkTo = g.shrinkTo := rfl
@[simp] theorem Group.setS_starved (g : Group) (r : Fin 512) (x : W64) : (g.setS r x).starved = g.starved := rfl
@[simp] theorem Group.setS_stop (g : Group) (r : Fin 512) (x : W64) : (g.setS r x).stop = g.stop := rfl
@[simp] theorem Group.setS_retired (g : Group) (r : Fin 512) (x : W64) : (g.setS r x).retired = g.retired := rfl
@[simp] theorem Group.setS_old (g : Group) (r : Fin 512) (x : W64) : (g.setS r x).old = g.old := rfl

/-! ### `advance` -/

@[simp] theorem Group.advance_id (g : Group) (m : Mask) : (g.advance m).id = g.id := by simp only [Group.advance]
@[simp] theorem Group.advance_quad (g : Group) (m : Mask) : (g.advance m).quad = g.quad := by simp only [Group.advance]
@[simp] theorem Group.advance_slot (g : Group) (m : Mask) : (g.advance m).slot = g.slot := by simp only [Group.advance]
@[simp] theorem Group.advance_n (g : Group) (m : Mask) : (g.advance m).n = g.n := by simp only [Group.advance]
@[simp] theorem Group.advance_blocks (g : Group) (m : Mask) : (g.advance m).blocks = g.blocks := by simp only [Group.advance]
@[simp] theorem Group.advance_cell (g : Group) (m : Mask) : (g.advance m).cell = g.cell := by simp only [Group.advance]
@[simp] theorem Group.advance_v (g : Group) (m : Mask) : (g.advance m).v = g.v := by simp only [Group.advance]
@[simp] theorem Group.advance_p (g : Group) (m : Mask) : (g.advance m).p = g.p := by simp only [Group.advance]
@[simp] theorem Group.advance_s (g : Group) (m : Mask) : (g.advance m).s = g.s := by simp only [Group.advance]
@[simp] theorem Group.advance_q (g : Group) (m : Mask) : (g.advance m).q = g.q := by simp only [Group.advance]
@[simp] theorem Group.advance_lpc (g : Group) (m : Mask) : (g.advance m).lpc = laneUpd g.lpc m fun i => g.lpc[i] + 1#32 := by simp only [Group.advance]
@[simp] theorem Group.advance_dep (g : Group) (m : Mask) : (g.advance m).dep = g.dep := by simp only [Group.advance]
@[simp] theorem Group.advance_yielded (g : Group) (m : Mask) : (g.advance m).yielded = g.yielded := by simp only [Group.advance]
@[simp] theorem Group.advance_lane (g : Group) (m : Mask) : (g.advance m).lane = g.lane := by simp only [Group.advance]
@[simp] theorem Group.advance_sr (g : Group) (m : Mask) : (g.advance m).sr = g.sr := by simp only [Group.advance]
@[simp] theorem Group.advance_gangr (g : Group) (m : Mask) : (g.advance m).gangr = g.gangr := by simp only [Group.advance]
@[simp] theorem Group.advance_fpctl (g : Group) (m : Mask) : (g.advance m).fpctl = g.fpctl := by simp only [Group.advance]
@[simp] theorem Group.advance_starve (g : Group) (m : Mask) : (g.advance m).starve = g.starve := by simp only [Group.advance]
@[simp] theorem Group.advance_lastKey (g : Group) (m : Mask) : (g.advance m).lastKey = g.lastKey := by simp only [Group.advance]
@[simp] theorem Group.advance_lastWait (g : Group) (m : Mask) : (g.advance m).lastWait = g.lastWait := by simp only [Group.advance]
@[simp] theorem Group.advance_status (g : Group) (m : Mask) : (g.advance m).status = g.status := by simp only [Group.advance]
@[simp] theorem Group.advance_ops (g : Group) (m : Mask) : (g.advance m).ops = g.ops := by simp only [Group.advance]
@[simp] theorem Group.advance_log (g : Group) (m : Mask) : (g.advance m).log = g.log := by simp only [Group.advance]
@[simp] theorem Group.advance_held (g : Group) (m : Mask) : (g.advance m).held = g.held := by simp only [Group.advance]
@[simp] theorem Group.advance_replay (g : Group) (m : Mask) : (g.advance m).replay = g.replay := by simp only [Group.advance]
@[simp] theorem Group.advance_fence (g : Group) (m : Mask) : (g.advance m).fence = g.fence := by simp only [Group.advance]
@[simp] theorem Group.advance_vbad (g : Group) (m : Mask) : (g.advance m).vbad = g.vbad := by simp only [Group.advance]
@[simp] theorem Group.advance_sbad (g : Group) (m : Mask) : (g.advance m).sbad = g.sbad := by simp only [Group.advance]
@[simp] theorem Group.advance_lastIssue (g : Group) (m : Mask) : (g.advance m).lastIssue = g.lastIssue := by simp only [Group.advance]
@[simp] theorem Group.advance_watch (g : Group) (m : Mask) : (g.advance m).watch = g.watch := by simp only [Group.advance]
@[simp] theorem Group.advance_needLatch (g : Group) (m : Mask) : (g.advance m).needLatch = g.needLatch := by simp only [Group.advance]
@[simp] theorem Group.advance_needA (g : Group) (m : Mask) : (g.advance m).needA = g.needA := by simp only [Group.advance]
@[simp] theorem Group.advance_shrinkTo (g : Group) (m : Mask) : (g.advance m).shrinkTo = g.shrinkTo := by simp only [Group.advance]
@[simp] theorem Group.advance_starved (g : Group) (m : Mask) : (g.advance m).starved = g.starved := by simp only [Group.advance]
@[simp] theorem Group.advance_stop (g : Group) (m : Mask) : (g.advance m).stop = g.stop := by simp only [Group.advance]
@[simp] theorem Group.advance_retired (g : Group) (m : Mask) : (g.advance m).retired = g.retired := by simp only [Group.advance]
@[simp] theorem Group.advance_old (g : Group) (m : Mask) : (g.advance m).old = g.old := by simp only [Group.advance]

/-! ### `jump` -/

@[simp] theorem Group.jump_id (g : Group) (m : Mask) (f : Fin 32 → W32) : (g.jump m f).id = g.id := by simp only [Group.jump]
@[simp] theorem Group.jump_quad (g : Group) (m : Mask) (f : Fin 32 → W32) : (g.jump m f).quad = g.quad := by simp only [Group.jump]
@[simp] theorem Group.jump_slot (g : Group) (m : Mask) (f : Fin 32 → W32) : (g.jump m f).slot = g.slot := by simp only [Group.jump]
@[simp] theorem Group.jump_n (g : Group) (m : Mask) (f : Fin 32 → W32) : (g.jump m f).n = g.n := by simp only [Group.jump]
@[simp] theorem Group.jump_blocks (g : Group) (m : Mask) (f : Fin 32 → W32) : (g.jump m f).blocks = g.blocks := by simp only [Group.jump]
@[simp] theorem Group.jump_cell (g : Group) (m : Mask) (f : Fin 32 → W32) : (g.jump m f).cell = g.cell := by simp only [Group.jump]
@[simp] theorem Group.jump_v (g : Group) (m : Mask) (f : Fin 32 → W32) : (g.jump m f).v = g.v := by simp only [Group.jump]
@[simp] theorem Group.jump_p (g : Group) (m : Mask) (f : Fin 32 → W32) : (g.jump m f).p = g.p := by simp only [Group.jump]
@[simp] theorem Group.jump_s (g : Group) (m : Mask) (f : Fin 32 → W32) : (g.jump m f).s = g.s := by simp only [Group.jump]
@[simp] theorem Group.jump_q (g : Group) (m : Mask) (f : Fin 32 → W32) : (g.jump m f).q = g.q := by simp only [Group.jump]
@[simp] theorem Group.jump_lpc (g : Group) (m : Mask) (f : Fin 32 → W32) : (g.jump m f).lpc = laneUpd g.lpc m f := by simp only [Group.jump]
@[simp] theorem Group.jump_dep (g : Group) (m : Mask) (f : Fin 32 → W32) : (g.jump m f).dep = g.dep := by simp only [Group.jump]
@[simp] theorem Group.jump_yielded (g : Group) (m : Mask) (f : Fin 32 → W32) : (g.jump m f).yielded = g.yielded := by simp only [Group.jump]
@[simp] theorem Group.jump_lane (g : Group) (m : Mask) (f : Fin 32 → W32) : (g.jump m f).lane = g.lane := by simp only [Group.jump]
@[simp] theorem Group.jump_sr (g : Group) (m : Mask) (f : Fin 32 → W32) : (g.jump m f).sr = g.sr := by simp only [Group.jump]
@[simp] theorem Group.jump_gangr (g : Group) (m : Mask) (f : Fin 32 → W32) : (g.jump m f).gangr = g.gangr := by simp only [Group.jump]
@[simp] theorem Group.jump_fpctl (g : Group) (m : Mask) (f : Fin 32 → W32) : (g.jump m f).fpctl = g.fpctl := by simp only [Group.jump]
@[simp] theorem Group.jump_starve (g : Group) (m : Mask) (f : Fin 32 → W32) : (g.jump m f).starve = g.starve := by simp only [Group.jump]
@[simp] theorem Group.jump_lastKey (g : Group) (m : Mask) (f : Fin 32 → W32) : (g.jump m f).lastKey = g.lastKey := by simp only [Group.jump]
@[simp] theorem Group.jump_lastWait (g : Group) (m : Mask) (f : Fin 32 → W32) : (g.jump m f).lastWait = g.lastWait := by simp only [Group.jump]
@[simp] theorem Group.jump_status (g : Group) (m : Mask) (f : Fin 32 → W32) : (g.jump m f).status = g.status := by simp only [Group.jump]
@[simp] theorem Group.jump_ops (g : Group) (m : Mask) (f : Fin 32 → W32) : (g.jump m f).ops = g.ops := by simp only [Group.jump]
@[simp] theorem Group.jump_log (g : Group) (m : Mask) (f : Fin 32 → W32) : (g.jump m f).log = g.log := by simp only [Group.jump]
@[simp] theorem Group.jump_held (g : Group) (m : Mask) (f : Fin 32 → W32) : (g.jump m f).held = g.held := by simp only [Group.jump]
@[simp] theorem Group.jump_replay (g : Group) (m : Mask) (f : Fin 32 → W32) : (g.jump m f).replay = g.replay := by simp only [Group.jump]
@[simp] theorem Group.jump_fence (g : Group) (m : Mask) (f : Fin 32 → W32) : (g.jump m f).fence = g.fence := by simp only [Group.jump]
@[simp] theorem Group.jump_vbad (g : Group) (m : Mask) (f : Fin 32 → W32) : (g.jump m f).vbad = g.vbad := by simp only [Group.jump]
@[simp] theorem Group.jump_sbad (g : Group) (m : Mask) (f : Fin 32 → W32) : (g.jump m f).sbad = g.sbad := by simp only [Group.jump]
@[simp] theorem Group.jump_lastIssue (g : Group) (m : Mask) (f : Fin 32 → W32) : (g.jump m f).lastIssue = g.lastIssue := by simp only [Group.jump]
@[simp] theorem Group.jump_watch (g : Group) (m : Mask) (f : Fin 32 → W32) : (g.jump m f).watch = g.watch := by simp only [Group.jump]
@[simp] theorem Group.jump_needLatch (g : Group) (m : Mask) (f : Fin 32 → W32) : (g.jump m f).needLatch = g.needLatch := by simp only [Group.jump]
@[simp] theorem Group.jump_needA (g : Group) (m : Mask) (f : Fin 32 → W32) : (g.jump m f).needA = g.needA := by simp only [Group.jump]
@[simp] theorem Group.jump_shrinkTo (g : Group) (m : Mask) (f : Fin 32 → W32) : (g.jump m f).shrinkTo = g.shrinkTo := by simp only [Group.jump]
@[simp] theorem Group.jump_starved (g : Group) (m : Mask) (f : Fin 32 → W32) : (g.jump m f).starved = g.starved := by simp only [Group.jump]
@[simp] theorem Group.jump_stop (g : Group) (m : Mask) (f : Fin 32 → W32) : (g.jump m f).stop = g.stop := by simp only [Group.jump]
@[simp] theorem Group.jump_retired (g : Group) (m : Mask) (f : Fin 32 → W32) : (g.jump m f).retired = g.retired := by simp only [Group.jump]
@[simp] theorem Group.jump_old (g : Group) (m : Mask) (f : Fin 32 → W32) : (g.jump m f).old = g.old := by simp only [Group.jump]

/-! ### `setLane` -/

@[simp] theorem Group.setLane_id (g : Group) (m : Mask) (st : LaneState) : (g.setLane m st).id = g.id := by simp only [Group.setLane]
@[simp] theorem Group.setLane_quad (g : Group) (m : Mask) (st : LaneState) : (g.setLane m st).quad = g.quad := by simp only [Group.setLane]
@[simp] theorem Group.setLane_slot (g : Group) (m : Mask) (st : LaneState) : (g.setLane m st).slot = g.slot := by simp only [Group.setLane]
@[simp] theorem Group.setLane_n (g : Group) (m : Mask) (st : LaneState) : (g.setLane m st).n = g.n := by simp only [Group.setLane]
@[simp] theorem Group.setLane_blocks (g : Group) (m : Mask) (st : LaneState) : (g.setLane m st).blocks = g.blocks := by simp only [Group.setLane]
@[simp] theorem Group.setLane_cell (g : Group) (m : Mask) (st : LaneState) : (g.setLane m st).cell = g.cell := by simp only [Group.setLane]
@[simp] theorem Group.setLane_v (g : Group) (m : Mask) (st : LaneState) : (g.setLane m st).v = g.v := by simp only [Group.setLane]
@[simp] theorem Group.setLane_p (g : Group) (m : Mask) (st : LaneState) : (g.setLane m st).p = g.p := by simp only [Group.setLane]
@[simp] theorem Group.setLane_s (g : Group) (m : Mask) (st : LaneState) : (g.setLane m st).s = g.s := by simp only [Group.setLane]
@[simp] theorem Group.setLane_q (g : Group) (m : Mask) (st : LaneState) : (g.setLane m st).q = g.q := by simp only [Group.setLane]
@[simp] theorem Group.setLane_lpc (g : Group) (m : Mask) (st : LaneState) : (g.setLane m st).lpc = g.lpc := by simp only [Group.setLane]
@[simp] theorem Group.setLane_dep (g : Group) (m : Mask) (st : LaneState) : (g.setLane m st).dep = g.dep := by simp only [Group.setLane]
@[simp] theorem Group.setLane_yielded (g : Group) (m : Mask) (st : LaneState) : (g.setLane m st).yielded = g.yielded := by simp only [Group.setLane]
@[simp] theorem Group.setLane_lane (g : Group) (m : Mask) (st : LaneState) : (g.setLane m st).lane = laneUpd g.lane m fun _ => st := by simp only [Group.setLane]
@[simp] theorem Group.setLane_sr (g : Group) (m : Mask) (st : LaneState) : (g.setLane m st).sr = g.sr := by simp only [Group.setLane]
@[simp] theorem Group.setLane_gangr (g : Group) (m : Mask) (st : LaneState) : (g.setLane m st).gangr = g.gangr := by simp only [Group.setLane]
@[simp] theorem Group.setLane_fpctl (g : Group) (m : Mask) (st : LaneState) : (g.setLane m st).fpctl = g.fpctl := by simp only [Group.setLane]
@[simp] theorem Group.setLane_starve (g : Group) (m : Mask) (st : LaneState) : (g.setLane m st).starve = g.starve := by simp only [Group.setLane]
@[simp] theorem Group.setLane_lastKey (g : Group) (m : Mask) (st : LaneState) : (g.setLane m st).lastKey = g.lastKey := by simp only [Group.setLane]
@[simp] theorem Group.setLane_lastWait (g : Group) (m : Mask) (st : LaneState) : (g.setLane m st).lastWait = g.lastWait := by simp only [Group.setLane]
@[simp] theorem Group.setLane_status (g : Group) (m : Mask) (st : LaneState) : (g.setLane m st).status = g.status := by simp only [Group.setLane]
@[simp] theorem Group.setLane_ops (g : Group) (m : Mask) (st : LaneState) : (g.setLane m st).ops = g.ops := by simp only [Group.setLane]
@[simp] theorem Group.setLane_log (g : Group) (m : Mask) (st : LaneState) : (g.setLane m st).log = g.log := by simp only [Group.setLane]
@[simp] theorem Group.setLane_held (g : Group) (m : Mask) (st : LaneState) : (g.setLane m st).held = g.held := by simp only [Group.setLane]
@[simp] theorem Group.setLane_replay (g : Group) (m : Mask) (st : LaneState) : (g.setLane m st).replay = g.replay := by simp only [Group.setLane]
@[simp] theorem Group.setLane_fence (g : Group) (m : Mask) (st : LaneState) : (g.setLane m st).fence = g.fence := by simp only [Group.setLane]
@[simp] theorem Group.setLane_vbad (g : Group) (m : Mask) (st : LaneState) : (g.setLane m st).vbad = g.vbad := by simp only [Group.setLane]
@[simp] theorem Group.setLane_sbad (g : Group) (m : Mask) (st : LaneState) : (g.setLane m st).sbad = g.sbad := by simp only [Group.setLane]
@[simp] theorem Group.setLane_lastIssue (g : Group) (m : Mask) (st : LaneState) : (g.setLane m st).lastIssue = g.lastIssue := by simp only [Group.setLane]
@[simp] theorem Group.setLane_watch (g : Group) (m : Mask) (st : LaneState) : (g.setLane m st).watch = g.watch := by simp only [Group.setLane]
@[simp] theorem Group.setLane_needLatch (g : Group) (m : Mask) (st : LaneState) : (g.setLane m st).needLatch = g.needLatch := by simp only [Group.setLane]
@[simp] theorem Group.setLane_needA (g : Group) (m : Mask) (st : LaneState) : (g.setLane m st).needA = g.needA := by simp only [Group.setLane]
@[simp] theorem Group.setLane_shrinkTo (g : Group) (m : Mask) (st : LaneState) : (g.setLane m st).shrinkTo = g.shrinkTo := by simp only [Group.setLane]
@[simp] theorem Group.setLane_starved (g : Group) (m : Mask) (st : LaneState) : (g.setLane m st).starved = g.starved := by simp only [Group.setLane]
@[simp] theorem Group.setLane_stop (g : Group) (m : Mask) (st : LaneState) : (g.setLane m st).stop = g.stop := by simp only [Group.setLane]
@[simp] theorem Group.setLane_retired (g : Group) (m : Mask) (st : LaneState) : (g.setLane m st).retired = g.retired := by simp only [Group.setLane]
@[simp] theorem Group.setLane_old (g : Group) (m : Mask) (st : LaneState) : (g.setLane m st).old = g.old := by simp only [Group.setLane]

/-! ### `raise` -/

@[simp] theorem Group.raise_id (g : Group) (x : Flags) : (g.raise x).id = g.id := rfl
@[simp] theorem Group.raise_quad (g : Group) (x : Flags) : (g.raise x).quad = g.quad := rfl
@[simp] theorem Group.raise_slot (g : Group) (x : Flags) : (g.raise x).slot = g.slot := rfl
@[simp] theorem Group.raise_n (g : Group) (x : Flags) : (g.raise x).n = g.n := rfl
@[simp] theorem Group.raise_blocks (g : Group) (x : Flags) : (g.raise x).blocks = g.blocks := rfl
@[simp] theorem Group.raise_cell (g : Group) (x : Flags) : (g.raise x).cell = g.cell := rfl
@[simp] theorem Group.raise_v (g : Group) (x : Flags) : (g.raise x).v = g.v := rfl
@[simp] theorem Group.raise_p (g : Group) (x : Flags) : (g.raise x).p = g.p := rfl
@[simp] theorem Group.raise_s (g : Group) (x : Flags) : (g.raise x).s = g.s := rfl
@[simp] theorem Group.raise_q (g : Group) (x : Flags) : (g.raise x).q = g.q := rfl
@[simp] theorem Group.raise_lpc (g : Group) (x : Flags) : (g.raise x).lpc = g.lpc := rfl
@[simp] theorem Group.raise_dep (g : Group) (x : Flags) : (g.raise x).dep = g.dep := rfl
@[simp] theorem Group.raise_yielded (g : Group) (x : Flags) : (g.raise x).yielded = g.yielded := rfl
@[simp] theorem Group.raise_lane (g : Group) (x : Flags) : (g.raise x).lane = g.lane := rfl
@[simp] theorem Group.raise_sr (g : Group) (x : Flags) : (g.raise x).sr = g.sr := rfl
@[simp] theorem Group.raise_gangr (g : Group) (x : Flags) : (g.raise x).gangr = g.gangr := rfl
@[simp] theorem Group.raise_fpctl (g : Group) (x : Flags) : (g.raise x).fpctl = g.fpctl ||| x.zeroExtend 32 := rfl
@[simp] theorem Group.raise_starve (g : Group) (x : Flags) : (g.raise x).starve = g.starve := rfl
@[simp] theorem Group.raise_lastKey (g : Group) (x : Flags) : (g.raise x).lastKey = g.lastKey := rfl
@[simp] theorem Group.raise_lastWait (g : Group) (x : Flags) : (g.raise x).lastWait = g.lastWait := rfl
@[simp] theorem Group.raise_status (g : Group) (x : Flags) : (g.raise x).status = g.status := rfl
@[simp] theorem Group.raise_ops (g : Group) (x : Flags) : (g.raise x).ops = g.ops := rfl
@[simp] theorem Group.raise_log (g : Group) (x : Flags) : (g.raise x).log = g.log := rfl
@[simp] theorem Group.raise_held (g : Group) (x : Flags) : (g.raise x).held = g.held := rfl
@[simp] theorem Group.raise_replay (g : Group) (x : Flags) : (g.raise x).replay = g.replay := rfl
@[simp] theorem Group.raise_fence (g : Group) (x : Flags) : (g.raise x).fence = g.fence := rfl
@[simp] theorem Group.raise_vbad (g : Group) (x : Flags) : (g.raise x).vbad = g.vbad := rfl
@[simp] theorem Group.raise_sbad (g : Group) (x : Flags) : (g.raise x).sbad = g.sbad := rfl
@[simp] theorem Group.raise_lastIssue (g : Group) (x : Flags) : (g.raise x).lastIssue = g.lastIssue := rfl
@[simp] theorem Group.raise_watch (g : Group) (x : Flags) : (g.raise x).watch = g.watch := rfl
@[simp] theorem Group.raise_needLatch (g : Group) (x : Flags) : (g.raise x).needLatch = g.needLatch := rfl
@[simp] theorem Group.raise_needA (g : Group) (x : Flags) : (g.raise x).needA = g.needA := rfl
@[simp] theorem Group.raise_shrinkTo (g : Group) (x : Flags) : (g.raise x).shrinkTo = g.shrinkTo := rfl
@[simp] theorem Group.raise_starved (g : Group) (x : Flags) : (g.raise x).starved = g.starved := rfl
@[simp] theorem Group.raise_stop (g : Group) (x : Flags) : (g.raise x).stop = g.stop := rfl
@[simp] theorem Group.raise_retired (g : Group) (x : Flags) : (g.raise x).retired = g.retired := rfl
@[simp] theorem Group.raise_old (g : Group) (x : Flags) : (g.raise x).old = g.old := rfl

/-! ### `setP`, `setQ`, `setPair` -/

@[simp] theorem Group.setP_id (g : Group) (m : Mask) (r : BitVec 7) (x : Mask) : (g.setP m r x).id = g.id := by
  unfold Group.setP; split <;> rfl
@[simp] theorem Group.setP_quad (g : Group) (m : Mask) (r : BitVec 7) (x : Mask) : (g.setP m r x).quad = g.quad := by
  unfold Group.setP; split <;> rfl
@[simp] theorem Group.setP_slot (g : Group) (m : Mask) (r : BitVec 7) (x : Mask) : (g.setP m r x).slot = g.slot := by
  unfold Group.setP; split <;> rfl
@[simp] theorem Group.setP_n (g : Group) (m : Mask) (r : BitVec 7) (x : Mask) : (g.setP m r x).n = g.n := by
  unfold Group.setP; split <;> rfl
@[simp] theorem Group.setP_blocks (g : Group) (m : Mask) (r : BitVec 7) (x : Mask) : (g.setP m r x).blocks = g.blocks := by
  unfold Group.setP; split <;> rfl
@[simp] theorem Group.setP_cell (g : Group) (m : Mask) (r : BitVec 7) (x : Mask) : (g.setP m r x).cell = g.cell := by
  unfold Group.setP; split <;> rfl
@[simp] theorem Group.setP_v (g : Group) (m : Mask) (r : BitVec 7) (x : Mask) : (g.setP m r x).v = g.v := by
  unfold Group.setP; split <;> rfl
@[simp] theorem Group.setP_s (g : Group) (m : Mask) (r : BitVec 7) (x : Mask) : (g.setP m r x).s = g.s := by
  unfold Group.setP; split <;> rfl
@[simp] theorem Group.setP_q (g : Group) (m : Mask) (r : BitVec 7) (x : Mask) : (g.setP m r x).q = g.q := by
  unfold Group.setP; split <;> rfl
@[simp] theorem Group.setP_lpc (g : Group) (m : Mask) (r : BitVec 7) (x : Mask) : (g.setP m r x).lpc = g.lpc := by
  unfold Group.setP; split <;> rfl
@[simp] theorem Group.setP_dep (g : Group) (m : Mask) (r : BitVec 7) (x : Mask) : (g.setP m r x).dep = g.dep := by
  unfold Group.setP; split <;> rfl
@[simp] theorem Group.setP_yielded (g : Group) (m : Mask) (r : BitVec 7) (x : Mask) : (g.setP m r x).yielded = g.yielded := by
  unfold Group.setP; split <;> rfl
@[simp] theorem Group.setP_lane (g : Group) (m : Mask) (r : BitVec 7) (x : Mask) : (g.setP m r x).lane = g.lane := by
  unfold Group.setP; split <;> rfl
@[simp] theorem Group.setP_sr (g : Group) (m : Mask) (r : BitVec 7) (x : Mask) : (g.setP m r x).sr = g.sr := by
  unfold Group.setP; split <;> rfl
@[simp] theorem Group.setP_gangr (g : Group) (m : Mask) (r : BitVec 7) (x : Mask) : (g.setP m r x).gangr = g.gangr := by
  unfold Group.setP; split <;> rfl
@[simp] theorem Group.setP_fpctl (g : Group) (m : Mask) (r : BitVec 7) (x : Mask) : (g.setP m r x).fpctl = g.fpctl := by
  unfold Group.setP; split <;> rfl
@[simp] theorem Group.setP_starve (g : Group) (m : Mask) (r : BitVec 7) (x : Mask) : (g.setP m r x).starve = g.starve := by
  unfold Group.setP; split <;> rfl
@[simp] theorem Group.setP_lastKey (g : Group) (m : Mask) (r : BitVec 7) (x : Mask) : (g.setP m r x).lastKey = g.lastKey := by
  unfold Group.setP; split <;> rfl
@[simp] theorem Group.setP_lastWait (g : Group) (m : Mask) (r : BitVec 7) (x : Mask) : (g.setP m r x).lastWait = g.lastWait := by
  unfold Group.setP; split <;> rfl
@[simp] theorem Group.setP_status (g : Group) (m : Mask) (r : BitVec 7) (x : Mask) : (g.setP m r x).status = g.status := by
  unfold Group.setP; split <;> rfl
@[simp] theorem Group.setP_ops (g : Group) (m : Mask) (r : BitVec 7) (x : Mask) : (g.setP m r x).ops = g.ops := by
  unfold Group.setP; split <;> rfl
@[simp] theorem Group.setP_log (g : Group) (m : Mask) (r : BitVec 7) (x : Mask) : (g.setP m r x).log = g.log := by
  unfold Group.setP; split <;> rfl
@[simp] theorem Group.setP_held (g : Group) (m : Mask) (r : BitVec 7) (x : Mask) : (g.setP m r x).held = g.held := by
  unfold Group.setP; split <;> rfl
@[simp] theorem Group.setP_replay (g : Group) (m : Mask) (r : BitVec 7) (x : Mask) : (g.setP m r x).replay = g.replay := by
  unfold Group.setP; split <;> rfl
@[simp] theorem Group.setP_fence (g : Group) (m : Mask) (r : BitVec 7) (x : Mask) : (g.setP m r x).fence = g.fence := by
  unfold Group.setP; split <;> rfl
@[simp] theorem Group.setP_vbad (g : Group) (m : Mask) (r : BitVec 7) (x : Mask) : (g.setP m r x).vbad = g.vbad := by
  unfold Group.setP; split <;> rfl
@[simp] theorem Group.setP_sbad (g : Group) (m : Mask) (r : BitVec 7) (x : Mask) : (g.setP m r x).sbad = g.sbad := by
  unfold Group.setP; split <;> rfl
@[simp] theorem Group.setP_lastIssue (g : Group) (m : Mask) (r : BitVec 7) (x : Mask) : (g.setP m r x).lastIssue = g.lastIssue := by
  unfold Group.setP; split <;> rfl
@[simp] theorem Group.setP_watch (g : Group) (m : Mask) (r : BitVec 7) (x : Mask) : (g.setP m r x).watch = g.watch := by
  unfold Group.setP; split <;> rfl
@[simp] theorem Group.setP_needLatch (g : Group) (m : Mask) (r : BitVec 7) (x : Mask) : (g.setP m r x).needLatch = g.needLatch := by
  unfold Group.setP; split <;> rfl
@[simp] theorem Group.setP_needA (g : Group) (m : Mask) (r : BitVec 7) (x : Mask) : (g.setP m r x).needA = g.needA := by
  unfold Group.setP; split <;> rfl
@[simp] theorem Group.setP_shrinkTo (g : Group) (m : Mask) (r : BitVec 7) (x : Mask) : (g.setP m r x).shrinkTo = g.shrinkTo := by
  unfold Group.setP; split <;> rfl
@[simp] theorem Group.setP_starved (g : Group) (m : Mask) (r : BitVec 7) (x : Mask) : (g.setP m r x).starved = g.starved := by
  unfold Group.setP; split <;> rfl
@[simp] theorem Group.setP_stop (g : Group) (m : Mask) (r : BitVec 7) (x : Mask) : (g.setP m r x).stop = g.stop := by
  unfold Group.setP; split <;> rfl
@[simp] theorem Group.setP_retired (g : Group) (m : Mask) (r : BitVec 7) (x : Mask) : (g.setP m r x).retired = g.retired := by
  unfold Group.setP; split <;> rfl
@[simp] theorem Group.setP_old (g : Group) (m : Mask) (r : BitVec 7) (x : Mask) : (g.setP m r x).old = g.old := by
  unfold Group.setP; split <;> rfl
@[simp] theorem Group.setQ_id (g : Group) (q : BitVec 4) (b : Bool) : (g.setQ q b).id = g.id := by
  unfold Group.setQ; split <;> rfl
@[simp] theorem Group.setQ_quad (g : Group) (q : BitVec 4) (b : Bool) : (g.setQ q b).quad = g.quad := by
  unfold Group.setQ; split <;> rfl
@[simp] theorem Group.setQ_slot (g : Group) (q : BitVec 4) (b : Bool) : (g.setQ q b).slot = g.slot := by
  unfold Group.setQ; split <;> rfl
@[simp] theorem Group.setQ_n (g : Group) (q : BitVec 4) (b : Bool) : (g.setQ q b).n = g.n := by
  unfold Group.setQ; split <;> rfl
@[simp] theorem Group.setQ_blocks (g : Group) (q : BitVec 4) (b : Bool) : (g.setQ q b).blocks = g.blocks := by
  unfold Group.setQ; split <;> rfl
@[simp] theorem Group.setQ_cell (g : Group) (q : BitVec 4) (b : Bool) : (g.setQ q b).cell = g.cell := by
  unfold Group.setQ; split <;> rfl
@[simp] theorem Group.setQ_v (g : Group) (q : BitVec 4) (b : Bool) : (g.setQ q b).v = g.v := by
  unfold Group.setQ; split <;> rfl
@[simp] theorem Group.setQ_p (g : Group) (q : BitVec 4) (b : Bool) : (g.setQ q b).p = g.p := by
  unfold Group.setQ; split <;> rfl
@[simp] theorem Group.setQ_s (g : Group) (q : BitVec 4) (b : Bool) : (g.setQ q b).s = g.s := by
  unfold Group.setQ; split <;> rfl
@[simp] theorem Group.setQ_lpc (g : Group) (q : BitVec 4) (b : Bool) : (g.setQ q b).lpc = g.lpc := by
  unfold Group.setQ; split <;> rfl
@[simp] theorem Group.setQ_dep (g : Group) (q : BitVec 4) (b : Bool) : (g.setQ q b).dep = g.dep := by
  unfold Group.setQ; split <;> rfl
@[simp] theorem Group.setQ_yielded (g : Group) (q : BitVec 4) (b : Bool) : (g.setQ q b).yielded = g.yielded := by
  unfold Group.setQ; split <;> rfl
@[simp] theorem Group.setQ_lane (g : Group) (q : BitVec 4) (b : Bool) : (g.setQ q b).lane = g.lane := by
  unfold Group.setQ; split <;> rfl
@[simp] theorem Group.setQ_sr (g : Group) (q : BitVec 4) (b : Bool) : (g.setQ q b).sr = g.sr := by
  unfold Group.setQ; split <;> rfl
@[simp] theorem Group.setQ_gangr (g : Group) (q : BitVec 4) (b : Bool) : (g.setQ q b).gangr = g.gangr := by
  unfold Group.setQ; split <;> rfl
@[simp] theorem Group.setQ_fpctl (g : Group) (q : BitVec 4) (b : Bool) : (g.setQ q b).fpctl = g.fpctl := by
  unfold Group.setQ; split <;> rfl
@[simp] theorem Group.setQ_starve (g : Group) (q : BitVec 4) (b : Bool) : (g.setQ q b).starve = g.starve := by
  unfold Group.setQ; split <;> rfl
@[simp] theorem Group.setQ_lastKey (g : Group) (q : BitVec 4) (b : Bool) : (g.setQ q b).lastKey = g.lastKey := by
  unfold Group.setQ; split <;> rfl
@[simp] theorem Group.setQ_lastWait (g : Group) (q : BitVec 4) (b : Bool) : (g.setQ q b).lastWait = g.lastWait := by
  unfold Group.setQ; split <;> rfl
@[simp] theorem Group.setQ_status (g : Group) (q : BitVec 4) (b : Bool) : (g.setQ q b).status = g.status := by
  unfold Group.setQ; split <;> rfl
@[simp] theorem Group.setQ_ops (g : Group) (q : BitVec 4) (b : Bool) : (g.setQ q b).ops = g.ops := by
  unfold Group.setQ; split <;> rfl
@[simp] theorem Group.setQ_log (g : Group) (q : BitVec 4) (b : Bool) : (g.setQ q b).log = g.log := by
  unfold Group.setQ; split <;> rfl
@[simp] theorem Group.setQ_held (g : Group) (q : BitVec 4) (b : Bool) : (g.setQ q b).held = g.held := by
  unfold Group.setQ; split <;> rfl
@[simp] theorem Group.setQ_replay (g : Group) (q : BitVec 4) (b : Bool) : (g.setQ q b).replay = g.replay := by
  unfold Group.setQ; split <;> rfl
@[simp] theorem Group.setQ_fence (g : Group) (q : BitVec 4) (b : Bool) : (g.setQ q b).fence = g.fence := by
  unfold Group.setQ; split <;> rfl
@[simp] theorem Group.setQ_vbad (g : Group) (q : BitVec 4) (b : Bool) : (g.setQ q b).vbad = g.vbad := by
  unfold Group.setQ; split <;> rfl
@[simp] theorem Group.setQ_sbad (g : Group) (q : BitVec 4) (b : Bool) : (g.setQ q b).sbad = g.sbad := by
  unfold Group.setQ; split <;> rfl
@[simp] theorem Group.setQ_lastIssue (g : Group) (q : BitVec 4) (b : Bool) : (g.setQ q b).lastIssue = g.lastIssue := by
  unfold Group.setQ; split <;> rfl
@[simp] theorem Group.setQ_watch (g : Group) (q : BitVec 4) (b : Bool) : (g.setQ q b).watch = g.watch := by
  unfold Group.setQ; split <;> rfl
@[simp] theorem Group.setQ_needLatch (g : Group) (q : BitVec 4) (b : Bool) : (g.setQ q b).needLatch = g.needLatch := by
  unfold Group.setQ; split <;> rfl
@[simp] theorem Group.setQ_needA (g : Group) (q : BitVec 4) (b : Bool) : (g.setQ q b).needA = g.needA := by
  unfold Group.setQ; split <;> rfl
@[simp] theorem Group.setQ_shrinkTo (g : Group) (q : BitVec 4) (b : Bool) : (g.setQ q b).shrinkTo = g.shrinkTo := by
  unfold Group.setQ; split <;> rfl
@[simp] theorem Group.setQ_starved (g : Group) (q : BitVec 4) (b : Bool) : (g.setQ q b).starved = g.starved := by
  unfold Group.setQ; split <;> rfl
@[simp] theorem Group.setQ_stop (g : Group) (q : BitVec 4) (b : Bool) : (g.setQ q b).stop = g.stop := by
  unfold Group.setQ; split <;> rfl
@[simp] theorem Group.setQ_retired (g : Group) (q : BitVec 4) (b : Bool) : (g.setQ q b).retired = g.retired := by
  unfold Group.setQ; split <;> rfl
@[simp] theorem Group.setQ_old (g : Group) (q : BitVec 4) (b : Bool) : (g.setQ q b).old = g.old := by
  unfold Group.setQ; split <;> rfl
@[simp] theorem Group.setPair_id (g : Group) (m : Mask) (r : BitVec 7) (f : Fin 32 → W64) : (g.setPair m r f).id = g.id := by simp [Group.setPair]
@[simp] theorem Group.setPair_quad (g : Group) (m : Mask) (r : BitVec 7) (f : Fin 32 → W64) : (g.setPair m r f).quad = g.quad := by simp [Group.setPair]
@[simp] theorem Group.setPair_slot (g : Group) (m : Mask) (r : BitVec 7) (f : Fin 32 → W64) : (g.setPair m r f).slot = g.slot := by simp [Group.setPair]
@[simp] theorem Group.setPair_n (g : Group) (m : Mask) (r : BitVec 7) (f : Fin 32 → W64) : (g.setPair m r f).n = g.n := by simp [Group.setPair]
@[simp] theorem Group.setPair_blocks (g : Group) (m : Mask) (r : BitVec 7) (f : Fin 32 → W64) : (g.setPair m r f).blocks = g.blocks := by simp [Group.setPair]
@[simp] theorem Group.setPair_cell (g : Group) (m : Mask) (r : BitVec 7) (f : Fin 32 → W64) : (g.setPair m r f).cell = g.cell := by simp [Group.setPair]
@[simp] theorem Group.setPair_p (g : Group) (m : Mask) (r : BitVec 7) (f : Fin 32 → W64) : (g.setPair m r f).p = g.p := by simp [Group.setPair]
@[simp] theorem Group.setPair_s (g : Group) (m : Mask) (r : BitVec 7) (f : Fin 32 → W64) : (g.setPair m r f).s = g.s := by simp [Group.setPair]
@[simp] theorem Group.setPair_q (g : Group) (m : Mask) (r : BitVec 7) (f : Fin 32 → W64) : (g.setPair m r f).q = g.q := by simp [Group.setPair]
@[simp] theorem Group.setPair_lpc (g : Group) (m : Mask) (r : BitVec 7) (f : Fin 32 → W64) : (g.setPair m r f).lpc = g.lpc := by simp [Group.setPair]
@[simp] theorem Group.setPair_dep (g : Group) (m : Mask) (r : BitVec 7) (f : Fin 32 → W64) : (g.setPair m r f).dep = g.dep := by simp [Group.setPair]
@[simp] theorem Group.setPair_yielded (g : Group) (m : Mask) (r : BitVec 7) (f : Fin 32 → W64) : (g.setPair m r f).yielded = g.yielded := by simp [Group.setPair]
@[simp] theorem Group.setPair_lane (g : Group) (m : Mask) (r : BitVec 7) (f : Fin 32 → W64) : (g.setPair m r f).lane = g.lane := by simp [Group.setPair]
@[simp] theorem Group.setPair_sr (g : Group) (m : Mask) (r : BitVec 7) (f : Fin 32 → W64) : (g.setPair m r f).sr = g.sr := by simp [Group.setPair]
@[simp] theorem Group.setPair_gangr (g : Group) (m : Mask) (r : BitVec 7) (f : Fin 32 → W64) : (g.setPair m r f).gangr = g.gangr := by simp [Group.setPair]
@[simp] theorem Group.setPair_fpctl (g : Group) (m : Mask) (r : BitVec 7) (f : Fin 32 → W64) : (g.setPair m r f).fpctl = g.fpctl := by simp [Group.setPair]
@[simp] theorem Group.setPair_starve (g : Group) (m : Mask) (r : BitVec 7) (f : Fin 32 → W64) : (g.setPair m r f).starve = g.starve := by simp [Group.setPair]
@[simp] theorem Group.setPair_lastKey (g : Group) (m : Mask) (r : BitVec 7) (f : Fin 32 → W64) : (g.setPair m r f).lastKey = g.lastKey := by simp [Group.setPair]
@[simp] theorem Group.setPair_lastWait (g : Group) (m : Mask) (r : BitVec 7) (f : Fin 32 → W64) : (g.setPair m r f).lastWait = g.lastWait := by simp [Group.setPair]
@[simp] theorem Group.setPair_status (g : Group) (m : Mask) (r : BitVec 7) (f : Fin 32 → W64) : (g.setPair m r f).status = g.status := by simp [Group.setPair]
@[simp] theorem Group.setPair_ops (g : Group) (m : Mask) (r : BitVec 7) (f : Fin 32 → W64) : (g.setPair m r f).ops = g.ops := by simp [Group.setPair]
@[simp] theorem Group.setPair_log (g : Group) (m : Mask) (r : BitVec 7) (f : Fin 32 → W64) : (g.setPair m r f).log = g.log := by simp [Group.setPair]
@[simp] theorem Group.setPair_held (g : Group) (m : Mask) (r : BitVec 7) (f : Fin 32 → W64) : (g.setPair m r f).held = g.held := by simp [Group.setPair]
@[simp] theorem Group.setPair_replay (g : Group) (m : Mask) (r : BitVec 7) (f : Fin 32 → W64) : (g.setPair m r f).replay = g.replay := by simp [Group.setPair]
@[simp] theorem Group.setPair_fence (g : Group) (m : Mask) (r : BitVec 7) (f : Fin 32 → W64) : (g.setPair m r f).fence = g.fence := by simp [Group.setPair]
@[simp] theorem Group.setPair_sbad (g : Group) (m : Mask) (r : BitVec 7) (f : Fin 32 → W64) : (g.setPair m r f).sbad = g.sbad := by simp [Group.setPair]
@[simp] theorem Group.setPair_lastIssue (g : Group) (m : Mask) (r : BitVec 7) (f : Fin 32 → W64) : (g.setPair m r f).lastIssue = g.lastIssue := by simp [Group.setPair]
@[simp] theorem Group.setPair_needLatch (g : Group) (m : Mask) (r : BitVec 7) (f : Fin 32 → W64) : (g.setPair m r f).needLatch = g.needLatch := by simp [Group.setPair]
@[simp] theorem Group.setPair_needA (g : Group) (m : Mask) (r : BitVec 7) (f : Fin 32 → W64) : (g.setPair m r f).needA = g.needA := by simp [Group.setPair]
@[simp] theorem Group.setPair_shrinkTo (g : Group) (m : Mask) (r : BitVec 7) (f : Fin 32 → W64) : (g.setPair m r f).shrinkTo = g.shrinkTo := by simp [Group.setPair]
@[simp] theorem Group.setPair_starved (g : Group) (m : Mask) (r : BitVec 7) (f : Fin 32 → W64) : (g.setPair m r f).starved = g.starved := by simp [Group.setPair]
@[simp] theorem Group.setPair_stop (g : Group) (m : Mask) (r : BitVec 7) (f : Fin 32 → W64) : (g.setPair m r f).stop = g.stop := by simp [Group.setPair]
@[simp] theorem Group.setPair_retired (g : Group) (m : Mask) (r : BitVec 7) (f : Fin 32 → W64) : (g.setPair m r f).retired = g.retired := by simp [Group.setPair]
@[simp] theorem Group.setPair_old (g : Group) (m : Mask) (r : BitVec 7) (f : Fin 32 → W64) : (g.setPair m r f).old = g.old := by simp [Group.setPair]

end Sys2Proof.Machine
end

