-- ==== Sys2Proof/Laws/Lanes.lean ====
section
/-! SUPPORT. Masks, lanes and registers: what a lane, a register or a predicate reads after a write. -/

namespace Sys2Proof.Machine

/-- A bit of a mask made lane by lane. -/
theorem laneUpd_get {α : Type} (old : Vector α 32) (m : Mask) (f : Fin 32 → α) (l : Fin 32) :
    (laneUpd old m f)[l] = if m.getLsbD l.val then f l else old[l] := by simp [laneUpd]

@[simp] theorem laneUpd_none {α : Type} (old : Vector α 32) (f : Fin 32 → α) : laneUpd old 0#32 f = old := by
  ext i hi; simp [laneUpd]

/-- A register of a lane after a write: the new value in the written register and lanes. -/
theorem Group.vr_setV (g : Group) (m : Mask) (d r : Fin 128) (f : Fin 32 → W32) (l : Fin 32) :
    (g.setV m d f).vr r l = if r = d ∧ m.getLsbD l.val = true then f l else g.vr r l := by
  simp only [Group.vr, Group.setV_v]
  by_cases h : r = d
  · subst h
    have := laneUpd_get (g.v[r.val]) m f l
    simp_all
  · have hv : ¬ d.val = r.val := fun e => h (Fin.ext e.symm)
    simp [h, Vector.getElem_set_ne _ _ hv]

/-- A scalar register after a write. -/
theorem Group.sr64_setS (g : Group) (d r : Fin 512) (x : W64) :
    (g.setS d x).sr64 r = if r = d then x else g.sr64 r := by
  simp only [Group.sr64, Group.setS_s]
  by_cases h : r = d
  · subst h; simp
  · have hv : ¬ d.val = r.val := fun e => h (Fin.ext e.symm)
    simp [h, Vector.getElem_set_ne _ _ hv]

/-- p0 reads true in every lane (R44). -/
@[simp] theorem Group.pred_zero (g : Group) : g.pred 0#7 = BitVec.allOnes 32 := by simp [Group.pred]

/-- q0 reads true (R44). -/
@[simp] theorem Group.qp_zero (g : Group) : g.qp 0#4 = true := by simp [Group.qp]

theorem Group.setP_p (g : Group) (m x : Mask) (d : BitVec 7) (h : d ≠ 0#7) :
    (g.setP m d x).p = g.p.set (reg7 d).val ((g.p[(reg7 d).val] &&& ~~~m) ||| (x &&& m)) := by
  unfold Group.setP; rw [if_neg h]

@[simp] theorem Group.setP_zero (g : Group) (m x : Mask) : g.setP m 0#7 x = g := by
  unfold Group.setP; rw [if_pos rfl]

/-- A predicate after a write: the new bits in the lanes of the mask, unless it is p0 (R44). -/
theorem Group.pred_setP (g : Group) (m x : Mask) (d r : BitVec 7) (l : Fin 32) :
    ((g.setP m d x).pred r).getLsbD l.val =
      if r ≠ 0#7 ∧ r = d ∧ m.getLsbD l.val = true then x.getLsbD l.val else (g.pred r).getLsbD l.val := by
  by_cases hr : r = 0#7
  · subst hr; simp
  · by_cases hd : d = 0#7
    · subst hd; simp [hr]
    · simp only [Group.pred, if_neg hr, Group.setP_p g m x d hd]
      by_cases h : r = d
      · subst h
        by_cases hm : m[l.val] = true <;> simp [hm, hr]
      · have hv : ¬ (reg7 d).val = (reg7 r).val := by
          intro e; apply h; apply BitVec.eq_of_toNat_eq; exact e.symm
        simp [h, Vector.getElem_set_ne _ _ hv]

/-- A scalar predicate after a write, unless it is q0 (R44). -/
theorem Group.qp_setQ (g : Group) (d r : BitVec 4) (b : Bool) :
    (g.setQ d b).qp r = if r ≠ 0#4 ∧ r = d then b else g.qp r := by
  by_cases hr : r = 0#4
  · subst hr; simp
  · by_cases hd : d = 0#4
    · subst hd; simp [Group.setQ, hr]
    · by_cases h : r = d
      · subst h
        have := r.isLt
        cases b <;> simp [Group.qp, Group.setQ, hr] <;> omega
      · have hn : ¬ r.toNat = d.toNat := fun e => h (BitVec.eq_of_toNat_eq e)
        have this' : r.toNat < 16 := r.isLt
        rcases Nat.lt_or_ge r.toNat d.toNat with hl | hl
        · cases b <;> simp [Group.qp, Group.setQ, hd, h, hl, this']
        · have hk : r.toNat - d.toNat ≠ 0 := by omega
          cases b <;> simp [Group.qp, Group.setQ, hd, h, hk, this']

/-- LPC after the issuing lanes advance (R17). -/
theorem Group.advance_lpc_get (g : Group) (m : Mask) (l : Fin 32) :
    (g.advance m).lpc[l] = if m.getLsbD l.val = true then g.lpc[l] + 1#32 else g.lpc[l] := by
  rw [Group.advance_lpc, laneUpd_get]

theorem Group.jump_lpc_get (g : Group) (m : Mask) (f : Fin 32 → W32) (l : Fin 32) :
    (g.jump m f).lpc[l] = if m.getLsbD l.val = true then f l else g.lpc[l] := by
  rw [Group.jump_lpc, laneUpd_get]

theorem Group.setLane_lane_get (g : Group) (m : Mask) (st : LaneState) (l : Fin 32) :
    (g.setLane m st).lane[l] = if m.getLsbD l.val = true then st else g.lane[l] := by
  rw [Group.setLane_lane, laneUpd_get]

/-! ### Older scratchpad values (R91, R99, R102) -/

@[simp] theorem Group.forgetAll_old (g : Group) : g.forgetAll.old = [] := rfl

/-- After an acquire no lane reads anything older. -/
@[simp] theorem Group.forgetAll_oldByte (g : Group) (k : Mask) (a : Nat) : g.forgetAll.oldByte k a = none := rfl

/-- After its own write a lane, and every read that it takes part in, reads nothing older there. -/
theorem Group.forget_oldByte (g : Group) (m k : Mask) (ws : List Nat) (a : Nat) (hm : m &&& k ≠ 0#32)
    (ha : ws.contains (a / 4) = true) : (g.forget m ws).oldByte k a = none := by
  simp only [Group.oldByte, Group.forget, Option.map_eq_none_iff, List.find?_eq_none]
  intro w hw
  obtain ⟨x, -, rfl⟩ := List.mem_map.mp hw
  by_cases hx : ws.contains x.word = true
  · have hk : x.lanes &&& ~~~m &&& k ≠ k := by
      intro e
      refine hm ?_
      ext i hi
      have := congrArg (fun z : Mask => z[i]) e
      simp only [BitVec.getElem_and, BitVec.getElem_not] at this
      simp only [BitVec.getElem_and, BitVec.getElem_zero]
      revert this
      cases m[i] <;> cases k[i] <;> simp
    simp only [hx, if_true]
    simp [hk]
  · have hne : x.word ≠ a / 4 := fun e => hx (e ▸ ha)
    simp only [hx]
    simp [hne]

/-- What a lane may still read is some of what it could before. -/
theorem Group.forget_old (g : Group) (m : Mask) (ws : List Nat) (w : OldWord) (h : w ∈ (g.forget m ws).old) :
    ∃ x ∈ g.old, w.word = x.word ∧ w.val = x.val ∧ w.lanes &&& ~~~x.lanes = 0#32 := by
  obtain ⟨x, hx, rfl⟩ := List.mem_map.mp h
  refine ⟨x, hx, ?_⟩
  split
  · refine ⟨rfl, rfl, ?_⟩
    ext i hi
    simp
    tauto
  · refine ⟨rfl, rfl, ?_⟩
    ext i hi
    simp

end Sys2Proof.Machine
end

