-- ==== Sys2Proof/Laws/Memory.lean ====
section
/-! SUPPORT. Memory: a byte read after a write, the canonical form kept by every memory operation, equal memories are
equal lists, and the writes at a home. -/

namespace Sys2Proof.Machine

/-- Nothing is listed at or below the bound of a well-formed rest. -/
theorem Memory.get_below (m : Memory) (lo a : Nat) (h : Memory.wfFrom (some lo) m = true) (ha : a ≤ lo) :
    m.get a = Config.initByte a := by
  induction m generalizing lo with
  | nil => rfl
  | cons x r ih =>
    obtain ⟨k, b⟩ := x
    simp only [Memory.wfFrom, Bool.and_eq_true, decide_eq_true_eq] at h
    have hk : k ≠ a := by omega
    simp only [Memory.get, if_neg hk]
    exact ih k h.2 (by omega)

/-- A byte read after one byte is written: the written one at its address, the old one elsewhere. -/
theorem Memory.get_put_from (m : Memory) (lo : Option Nat) (a c : Nat) (b : Byte) (h : Memory.wfFrom lo m = true) :
    (m.put a b).get c = if c = a then b else m.get c := by
  induction m generalizing lo with
  | nil =>
    unfold Memory.put
    by_cases hb : b = Config.initByte a
    · rw [if_pos hb]
      by_cases hc : c = a
      · subst hc; rw [if_pos rfl, hb]; rfl
      · rw [if_neg hc]
    · rw [if_neg hb]
      by_cases hc : c = a
      · subst hc; simp only [Memory.get, if_true]
      · simp only [Memory.get, if_neg hc, if_neg (Ne.symm hc)]
  | cons x r ih =>
    obtain ⟨k, d⟩ := x
    simp only [Memory.wfFrom, Bool.and_eq_true] at h
    have hr := h.2
    unfold Memory.put
    split
    · rename_i hak
      have hb : Memory.get ((k, d) :: r) a = Config.initByte a := by
        simp only [Memory.get, if_neg (by omega : ¬ k = a)]
        exact Memory.get_below r k a hr (by omega)
      split
      · rename_i hi
        by_cases hc : c = a
        · subst hc; rw [if_pos rfl, hb, hi]
        · rw [if_neg hc]
      · by_cases hc : c = a
        · simp [Memory.get, hc]
        · simp [Memory.get, hc, Ne.symm hc]
    · split
      · rename_i _ hak
        subst hak
        split
        · rename_i hi
          by_cases hc : c = a
          · subst hc; rw [if_pos rfl, hi]; exact Memory.get_below r c c hr (le_refl c)
          · simp [Memory.get, hc, Ne.symm hc]
        · by_cases hc : c = a
          · simp [Memory.get, hc]
          · simp [Memory.get, hc, Ne.symm hc]
      · rename_i h1 h2
        by_cases hk : k = c
        · subst hk; simp [Memory.get, Ne.symm h2]
        · simp only [Memory.get, if_neg hk]; exact ih (some k) hr

theorem Memory.get_put (m : Memory) (a c : Nat) (b : Byte) (h : m.wf = true) :
    (m.put a b).get c = if c = a then b else m.get c := Memory.get_put_from m none a c b h

/-- A write keeps the canonical form. -/
theorem Memory.wfFrom_put (m : Memory) (lo : Option Nat) (a : Nat) (b : Byte) (h : Memory.wfFrom lo m = true)
    (hlo : ∀ l, lo = some l → l < a) : Memory.wfFrom lo (m.put a b) = true := by
  induction m generalizing lo with
  | nil =>
    unfold Memory.put
    split
    · rfl
    · rename_i hb
      cases lo <;> simp_all [Memory.wfFrom]
  | cons x r ih =>
    obtain ⟨k, d⟩ := x
    simp only [Memory.wfFrom, Bool.and_eq_true, bne_iff_ne] at h
    unfold Memory.put
    split
    · rename_i hak
      split
      · simp only [Memory.wfFrom, Bool.and_eq_true, bne_iff_ne]; exact h
      · rename_i hb
        simp only [Memory.wfFrom, Bool.and_eq_true, bne_iff_ne, decide_eq_true_eq]
        refine ⟨⟨?_, hb⟩, ⟨hak, h.1.2⟩, h.2⟩
        cases lo <;> simp_all
    · split
      · rename_i h1 hak
        subst hak
        split
        · cases lo with
          | none =>
            have := h.2
            cases r with
            | nil => rfl
            | cons y r => simp only [Memory.wfFrom, Bool.and_eq_true] at this ⊢; exact ⟨⟨trivial, this.1.2⟩, this.2⟩
          | some l =>
            have h2 := h.2
            have hl := hlo l rfl
            cases r with
            | nil => rfl
            | cons y r =>
              simp only [Memory.wfFrom, Bool.and_eq_true, decide_eq_true_eq] at h2 ⊢
              exact ⟨⟨by omega, h2.1.2⟩, h2.2⟩
        · rename_i hb
          simp only [Memory.wfFrom, Bool.and_eq_true, bne_iff_ne]
          exact ⟨⟨h.1.1, hb⟩, h.2⟩
      · rename_i h1 h2
        simp only [Memory.wfFrom, Bool.and_eq_true, bne_iff_ne]
        exact ⟨h.1, ih (some k) h.2 (by intro l hl; cases hl; omega)⟩

theorem Memory.wf_put (m : Memory) (a : Nat) (b : Byte) (h : m.wf = true) : (m.put a b).wf = true :=
  Memory.wfFrom_put m none a b h (by simp)

theorem Memory.wf_putList (bs : List Byte) (m : Memory) (a : Nat) (h : m.wf = true) : (m.putList a bs).wf = true := by
  induction bs generalizing m a with
  | nil => exact h
  | cons b r ih => exact ih _ _ (Memory.wf_put m a b h)

theorem Memory.wf_putCells (cs : List Host.Cell) (m : Memory) (h : m.wf = true) : (m.putCells cs).wf = true := by
  induction cs generalizing m with
  | nil => exact h
  | cons c r ih => exact ih _ (Memory.wf_put m c.1 c.2 h)

/-- A byte read after bytes are written at rising addresses. -/
theorem Memory.get_putList (bs : List Byte) (m : Memory) (a c : Nat) (h : m.wf = true) :
    (m.putList a bs).get c = if hc : a ≤ c ∧ c < a + bs.length then bs[c - a]'(by omega) else m.get c := by
  induction bs generalizing m a with
  | nil => simp [Memory.putList]
  | cons b r ih =>
    rw [Memory.putList, ih _ _ (Memory.wf_put m a b h), Memory.get_put m a c b h]
    by_cases hc : c = a
    · subst hc; simp
    · by_cases h1 : a + 1 ≤ c ∧ c < a + 1 + r.length
      · rw [dif_pos h1, dif_pos (by simp only [List.length_cons]; omega)]
        obtain ⟨n, hn⟩ : ∃ n, c - a = n + 1 := ⟨c - a - 1, by omega⟩
        simp only [hn, List.getElem_cons_succ]
        congr 1; omega
      · rw [dif_neg h1, if_neg hc, dif_neg (by simp only [List.length_cons]; omega)]

/-- A byte that no cell names reads as before. -/
theorem Memory.get_putCells_ne (cs : List Host.Cell) (m : Memory) (c : Nat) (h : m.wf = true) (hc : ∀ x ∈ cs, x.1 ≠ c) :
    (m.putCells cs).get c = m.get c := by
  induction cs generalizing m with
  | nil => rfl
  | cons x r ih =>
    have := ih _ (Memory.wf_put m x.1 x.2 h) (fun y hy => hc y (List.mem_cons_of_mem _ hy))
    rw [Memory.putCells, List.foldl_cons]
    rw [Memory.putCells] at this
    rw [this, Memory.get_put m x.1 c x.2 h, if_neg (Ne.symm (hc x List.mem_cons_self))]

/-- Equal memories are equal data. -/
theorem Memory.ext_from (m n : Memory) (lo : Option Nat) (hm : Memory.wfFrom lo m = true) (hn : Memory.wfFrom lo n = true)
    (h : ∀ a, m.get a = n.get a) : m = n := by
  induction m generalizing n lo with
  | nil =>
    cases n with
    | nil => rfl
    | cons y r =>
      obtain ⟨k, b⟩ := y
      simp only [Memory.wfFrom, Bool.and_eq_true, bne_iff_ne] at hn
      exact absurd (h k).symm (by simpa [Memory.get] using hn.1.2)
  | cons x r ih =>
    obtain ⟨k, b⟩ := x
    cases n with
    | nil =>
      simp only [Memory.wfFrom, Bool.and_eq_true, bne_iff_ne] at hm
      exact absurd (h k) (by simpa [Memory.get] using hm.1.2)
    | cons y q =>
      obtain ⟨j, c⟩ := y
      simp only [Memory.wfFrom, Bool.and_eq_true, bne_iff_ne] at hm hn
      have hkj : k = j := by
        rcases Nat.lt_trichotomy k j with hlt | heq | hgt
        · have := h k
          simp only [Memory.get, if_true, if_neg (by omega : ¬ j = k)] at this
          rw [Memory.get_below q j k hn.2 (by omega)] at this
          exact absurd this hm.1.2
        · exact heq
        · have := h j
          simp only [Memory.get, if_true, if_neg (by omega : ¬ k = j)] at this
          rw [Memory.get_below r k j hm.2 (by omega)] at this
          exact absurd this.symm hn.1.2
      subst hkj
      have hbc : b = c := by simpa [Memory.get] using h k
      subst hbc
      congr 1
      refine ih q (some k) hm.2 hn.2 fun a => ?_
      by_cases hak : k = a
      · subst hak; rw [Memory.get_below r k k hm.2 (le_refl k), Memory.get_below q k k hn.2 (le_refl k)]
      · simpa [Memory.get, hak] using h a

theorem Memory.ext_get (m n : Memory) (hm : m.wf = true) (hn : n.wf = true) (h : ∀ a, m.get a = n.get a) : m = n :=
  Memory.ext_from m n none hm hn h

/-! ### Writes at a home -/

theorem State.retag_wf (s : State) (pa : Nat) (h : s.mem.wf = true) : (s.retag pa).mem.wf = true := by
  unfold State.retag
  by_cases h1 : s.here pa = true
  · rw [if_pos h1]
    cases s.keyOf pa with
    | none => exact h
    | some k =>
      simp only
      split
      · simp only; exact h
      · simp only; exact Memory.wf_putList _ _ _ h
  · rw [if_neg h1]; exact h

theorem State.retag_foldl_wf (ls : List Nat) (s : State) (h : s.mem.wf = true) :
    (ls.foldl (fun s l => s.retag l) s).mem.wf = true := by
  induction ls generalizing s with
  | nil => exact h
  | cons l r ih => exact ih _ (State.retag_wf s l h)

/-- The one writer of memory keeps its canonical form. -/
theorem State.homeWrite_wf (s : State) (own : Option Nat) (cs : List Host.Cell) (h : s.mem.wf = true) :
    (s.homeWrite own cs).mem.wf = true := by
  unfold State.homeWrite
  exact Memory.wf_putCells _ _ (State.retag_foldl_wf _ s h)

theorem State.hwWrite_wf (s : State) (pa : Nat) (bs : List Byte) (h : s.mem.wf = true) : (s.hwWrite pa bs).mem.wf = true :=
  State.homeWrite_wf s none _ h

theorem State.wrN_wf (s : State) (pa n x : Nat) (h : s.mem.wf = true) : (s.wrN pa n x).mem.wf = true :=
  State.hwWrite_wf s pa _ h

theorem State.reset_wf : State.reset.mem.wf = true := rfl

/-- A line under its current key, and a line of another package, are not rewritten. -/
theorem State.retag_mem (s : State) (pa : Nat)
    (h : s.here pa = true → ∀ k, s.keyOf pa = some k →
      ((s.tags.find? fun t => t.1 = lineOf pa).map fun t => (t.2.1, t.2.2)).getD (k, 0) = (k, s.genOf k)) :
    (s.retag pa).mem = s.mem := by
  unfold State.retag
  split
  · rename_i hh
    split
    · rfl
    · rename_i k hk
      dsimp only
      rw [if_pos (h hh k hk)]
  · rfl

end Sys2Proof.Machine
end

