-- ==== Sys2Proof/Laws/Issue.lean ====
section
/-! SUPPORT. What each form of issue can do, said once: without power it stops; beyond the allocation it traps as illegal;
with a bad register it reports the lanes; else it has the word's own effect. -/

namespace Sys2Proof.Machine

/-- A word of a module without power. -/
theorem State.issueWord_off (s : State) (i : Instr) (f : State → State) (h : s.power = .off) :
    s.issueWord i f = .fault .moduleOff := by unfold State.issueWord; rw [if_pos h]

/-- A word that executes has the effect it is given. -/
theorem State.issueWord_on (s : State) (i : Instr) (f : State → State) (h : s.power ≠ .off) (ha : s.g.inAlloc i = true) :
    s.issueWord i f = .next (f s) := by unfold State.issueWord; rw [if_neg h, if_pos ha]

/-- A register beyond the allocation is the illegal-instruction fault (R41). -/
theorem State.issueWord_illegal (s : State) (i : Instr) (f : State → State) (h : s.power ≠ .off)
    (ha : s.g.inAlloc i = false) : s.issueWord i f = .next s.illegal := by
  unfold State.issueWord; rw [if_neg h, if_neg (by simp [ha])]

/-- A vector word (R17, R153). -/
theorem State.vec_next (s : State) (i : Instr) (guard : BitVec 7) (f : Mask → Group → Group)
    (h : s.power ≠ .off) (ha : s.g.inAlloc i = true) (hb : s.g.badLanes i (s.iss.mask &&& s.g.pred guard) = 0#32) :
    s.vec i guard f =
      .next (s.commit.setG ((f (s.iss.mask &&& s.g.pred guard) s.commit.g).advance s.iss.mask)) := by
  unfold State.vec
  rw [State.issueWord_on s i _ h ha]
  simp only [hb, if_true]
  have hz : ∀ m : Mask, m &&& ~~~(0#32) = m := fun m => BitVec.and_allOnes
  rw [hz, hz]

/-- A vector word whose effect reaches beyond the group. -/
theorem State.vecThen_next (s : State) (i : Instr) (guard : BitVec 7) (f : Mask → State → State)
    (h : s.power ≠ .off) (ha : s.g.inAlloc i = true) (hb : s.g.badLanes i (s.iss.mask &&& s.g.pred guard) = 0#32) :
    s.vecThen i guard f =
      .next (f (s.iss.mask &&& s.g.pred guard) (s.commit.setG (s.commit.g.advance s.iss.mask))) := by
  unfold State.vecThen
  rw [State.issueWord_on s i _ h ha]
  simp only [hb, if_true]
  have hz : ∀ m : Mask, m &&& ~~~(0#32) = m := fun m => BitVec.and_allOnes
  rw [hz, hz]

/-- A word that acts once for the group, with an active lane. -/
theorem State.once_next (s : State) (i : Instr) (guard : BitVec 7) (f : Mask → State → State)
    (h : s.power ≠ .off) (ha : s.g.inAlloc i = true) (hn : s.iss.mask &&& s.g.pred guard ≠ 0#32)
    (hb : s.g.badLanes i (s.iss.mask &&& s.g.pred guard) = 0#32) :
    s.once i guard f = .next (f (s.iss.mask &&& s.g.pred guard) s) := by
  unfold State.once
  rw [State.issueWord_on s i _ h ha]
  simp only [hb, if_true, if_neg hn]

/-- Without an active lane it only advances (R235, R243). -/
theorem State.once_nop (s : State) (i : Instr) (guard : BitVec 7) (f : Mask → State → State)
    (h : s.power ≠ .off) (ha : s.g.inAlloc i = true) (hn : s.iss.mask &&& s.g.pred guard = 0#32) :
    s.once i guard f = .next (s.commit.setG (s.commit.g.advance s.iss.mask)) := by
  unfold State.once
  rw [State.issueWord_on s i _ h ha]
  simp only [hn, if_true, State.commit_iss_mask]

/-- A cross-lane word (R208). -/
theorem State.cross_next (s : State) (i : Instr) (guard : BitVec 7) (f : Mask → Group → Group)
    (h : s.power ≠ .off) (ha : s.g.inAlloc i = true) (hb : s.g.badLanes i (s.iss.mask &&& s.g.pred guard) = 0#32) :
    s.cross i guard f =
      .next (s.commit.setG ((f (s.iss.mask &&& s.g.pred guard) s.commit.g).advance s.iss.mask)) := by
  unfold State.cross
  rw [State.issueWord_on s i _ h ha]
  simp only [hb, if_true, State.commit_iss_mask]

/-- A scalar-unit word whose guard, after negation, is true (R138). -/
theorem State.unit_next (s : State) (i : Instr) (q : BitVec 4) (neg : Bool) (f : State → State)
    (h : s.power ≠ .off) (ha : s.g.inAlloc i = true) (hq : s.g.qp q ≠ neg) (hb : s.g.badLanes i s.iss.mask = 0#32) :
    s.unit i q neg f = .next (f s) := by
  unfold State.unit
  rw [State.issueWord_on s i _ h ha]
  simp only [hb, if_true, bne_iff_ne, ne_eq, if_pos hq]

/-- With a false guard it only advances (R138). -/
theorem State.unit_nop (s : State) (i : Instr) (q : BitVec 4) (neg : Bool) (f : State → State)
    (h : s.power ≠ .off) (ha : s.g.inAlloc i = true) (hq : s.g.qp q = neg) :
    s.unit i q neg f = .next (s.commit.setG (s.commit.g.advance s.iss.mask)) := by
  unfold State.unit
  rw [State.issueWord_on s i _ h ha]
  simp [hq]

/-- A scalar-unit word whose effect is on the group alone. -/
theorem State.unitG_next (s : State) (i : Instr) (q : BitVec 4) (neg : Bool) (f : Group → Group)
    (h : s.power ≠ .off) (ha : s.g.inAlloc i = true) (hq : s.g.qp q ≠ neg) (hb : s.g.badLanes i s.iss.mask = 0#32) :
    s.unitG i q neg f = .next (s.commit.setG ((f s.commit.g).advance s.iss.mask)) :=
  State.unit_next s i q neg _ h ha hq hb

/-- A control word (R168). -/
theorem State.flow_next (s : State) (i : Instr) (guard : BitVec 7) (f : Mask → Group → Group)
    (h : s.power ≠ .off) (ha : s.g.inAlloc i = true) (hb : s.g.badLanes i (s.iss.mask &&& s.g.pred guard) = 0#32) :
    s.flow i guard f =
      .next (s.commit.setG (f (s.iss.mask &&& s.g.pred guard)
        (s.commit.g.advance (s.iss.mask &&& ~~~(s.iss.mask &&& s.g.pred guard))))) := by
  unfold State.flow
  rw [State.issueWord_on s i _ h ha]
  simp only [hb, if_true]
  have hz : ∀ m : Mask, m &&& ~~~(0#32) = m := fun m => BitVec.and_allOnes
  rw [hz]

/-- A vector memory word with an active lane, whose checks pass (R379). -/
theorem State.vmem_next (s : State) (i : Instr) (guard : BitVec 7) (check : State → Fin 32 → List (BitVec 8 × W64))
    (f : Mask → State → State) (h : s.power ≠ .off) (ha : s.g.inAlloc i = true)
    (hb : s.g.badLanes i (s.iss.mask &&& s.g.pred guard) = 0#32) (hn : s.iss.mask &&& s.g.pred guard ≠ 0#32)
    (hc : failedCheck (s.iss.mask &&& s.g.pred guard) (check s) = none) :
    s.vmem i guard check f =
      .next (f (s.iss.mask &&& s.g.pred guard) (s.commit.setG (s.commit.g.advance s.iss.mask))) := by
  unfold State.vmem
  rw [State.issueWord_on s i _ h ha]
  have hz : ∀ m : Mask, m &&& ~~~(0#32) = m := fun m => BitVec.and_allOnes
  simp only [hb, hz, hc, if_true, if_neg hn, State.commit_iss_mask]

/-- A group-level memory word with an active lane, whose checks pass (R235, R379). -/
theorem State.gmem_next (s : State) (i : Instr) (guard : BitVec 7) (check : State → List (BitVec 8 × W64))
    (f : Mask → State → State) (h : s.power ≠ .off) (ha : s.g.inAlloc i = true)
    (hn : s.iss.mask &&& s.g.pred guard ≠ 0#32) (hb : s.g.badLanes i (s.iss.mask &&& s.g.pred guard) = 0#32)
    (hc : failedCheck (s.iss.mask &&& s.g.pred guard) (fun _ => check s) = none) :
    s.gmem i guard check f = .next (f (s.iss.mask &&& s.g.pred guard) s.commit) := by
  unfold State.gmem
  rw [State.once_next s i guard _ h ha hn hb]
  simp only [hc]

/-- An event of a module with power. -/
theorem State.ev_next (s : State) (f : State → State) (h : s.power ≠ .off) : s.ev f = .next (f s) := by
  unfold State.ev; rw [if_neg h]

theorem State.ev_off (s : State) (f : State → State) (h : s.power = .off) : s.ev f = .fault .moduleOff := by
  unfold State.ev; rw [if_pos h]

/-- A register file without an error reports no lane (R369). -/
theorem Group.badLanes_clean (g : Group) (i : Instr) (m : Mask) (h : g.clean = true) : g.badLanes i m = 0#32 := by
  unfold Group.badLanes; rw [if_pos h]

/-- An event about a group, with no group current: the group is taken, changed, and put back. -/
theorem State.withGroup_idle (s f : State) (r : GroupRef) (op : State → State) (hs : s.storeFocus = s)
    (hl : s.loadFocus r = some f) (ho : (op f).storeFocus.loadFocus ⟨s.t.tid, s.g.id⟩ = none) :
    s.withGroup r op = (op f).settle := by
  unfold State.withGroup State.settle
  simp only [hs, hl, ho]

end Sys2Proof.Machine
end

