-- ==== Sys2Proof/Laws/Fabric.lean ====
section
/-! SUPPORT. What the shared operations of the fabric, of the homes and of the record in flash do: packets leave unless their
package is dead; what waits is tried again, and nothing happens where nothing waits; the wear section is written whole. -/

namespace Sys2Proof.Machine

/-- A change that meets no element leaves a list as it is. -/
theorem updWhere_none {α : Type} (p : α → Bool) (f : α → α) (l : List α) (h : ∀ x ∈ l, p x = false) : updWhere p f l = l := by
  unfold updWhere
  conv => rhs; rw [← List.map_id l]
  exact List.map_congr_left fun x hx => by simp [h x hx]

/-- A packet to a package of no dead cell leaves (R364). -/
theorem State.send_live (s : State) (p : Packet) (h : s.deadPkg p.dst.toNat = false) : s.send p = s.emit p := by
  unfold State.send; rw [if_neg (by simp [h])]

/-- Nothing goes to a dead cell (R364). -/
theorem State.send_dead (s : State) (p : Packet) (h : s.deadPkg p.dst.toNat = true) : s.send p = s := by
  unfold State.send; rw [if_pos h]

/-- While no cell is dead, every package can be sent to. -/
theorem State.deadPkg_none (s : State) (pkg : Nat) (h : s.dead = []) : s.deadPkg pkg = false := by
  unfold State.deadPkg; rw [h]; rfl

/-- An answer leaves while no cell is dead. -/
theorem State.answer_live (s : State) (p : Packet) (typ op flags : BitVec 8) (data : List Byte) (h : s.dead = []) :
    s.answer p typ op flags data = s.emit (s.answerTo p typ op flags data) :=
  s.send_live _ (s.deadPkg_none _ h)

/-- A request to a dead cell is neither sent nor kept (R364). -/
theorem State.request_dead (s : State) (p : Packet) (purpose : Purpose) (strong : Bool) (h : s.deadPkg p.dst.toNat = true) :
    s.request p purpose strong = s := by
  unfold State.request; rw [if_pos h]

/-- A weak request is kept and sent as it is (R350). -/
theorem State.request_weak (s : State) (p : Packet) (purpose : Purpose) (h : s.deadPkg p.dst.toNat = false) :
    s.request p purpose false =
      State.emit { s with reqs := s.reqs ++ [⟨p.tag, p, purpose, .sent, 0, none, [], none, false, false⟩], nextId := s.nextId + 1 } p := by
  unfold State.request; rw [if_neg (by simp [h])]; rfl

/-- Where no team's resume counter can be found at 0 anew, none is (R311). -/
theorem State.latchResume_quiet (s : State) (ht : ∀ x, x ∈ s.teams ∨ x = s.t → x.raised = true → x.zeroed = true)
    (hv : ∀ v ∈ s.saved, v.eligible = true ∨ v.zeroed = true) : s.latchResume = s := by
  have h1 : ∀ x, x ∈ s.teams ∨ x = s.t →
      (x.raised && !x.zeroed && x.area.isSome && s.rd (x.area.getD 0) 8 == 0) = false := by
    intro x hx
    cases hr : x.raised
    · simp
    · simp [ht x hx hr]
  have h2 : ∀ v ∈ s.saved, (!v.eligible && !v.zeroed && s.rd v.area 8 == 0) = false := by
    intro v hm
    rcases hv v hm with h | h <;> simp [h]
  unfold State.latchResume
  dsimp only
  have h3 : (s.teams.filter fun t => t.raised && !t.zeroed && t.area.isSome && s.rd (t.area.getD 0) 8 == 0) = [] :=
    List.filter_eq_nil_iff.mpr fun x hx => by simp [h1 x (.inl hx)]
  have h4 : (s.saved.filter fun v => !v.eligible && !v.zeroed && s.rd v.area 8 == 0) = [] :=
    List.filter_eq_nil_iff.mpr fun v hm => by simp [h2 v hm]
  rw [updWhere_none _ _ _ fun x hx => h1 x (.inl hx), updWhere_none _ _ _ h2, h3, h4]
  have h5 := h1 s.t (.inr rfl)
  simp only [h5, Bool.false_eq_true, if_false, List.map_nil, List.append_nil]

/-- Where no flow holds a request back, none leaves (R350). -/
theorem State.sendHeld_quiet (s : State) (h : ∀ r ∈ s.reqs, r.phase ≠ .held) : s.sendHeld = s := by
  have : (s.reqs.filter fun r => r.phase = .held) = [] := List.filter_eq_nil_iff.mpr fun r hr => by simp [h r hr]
  unfold State.sendHeld; rw [this]; rfl

/-- Where nothing waits at a home, at the bridge or at a tile, and no flow is full, another try changes nothing (R254, R311,
R350, R357). -/
theorem State.pump_quiet (s : State) (hq : ∀ r ∈ s.reqs, r.phase ≠ .held) (hr : ∀ r ∈ s.replies, r.reply ≠ none ∨ r.passed = true) (ha : s.adds = [])
    (hh : s.hostq = []) (hx : ∀ x ∈ s.tiles, x.closing = false)
    (ht : ∀ x, x ∈ s.teams ∨ x = s.t → x.raised = true → x.zeroed = true)
    (hv : ∀ v ∈ s.saved, v.eligible = true ∨ v.zeroed = true) : s.pump = s := by
  have hw : s.waiters none = [] := by
    have : (s.replies.filter fun r => r.reply.isNone && !r.passed) = [] :=
      List.filter_eq_nil_iff.mpr fun r hm => by
        rcases hr r hm with h | h
        · cases hq : r.reply
          · exact absurd hq h
          · simp
        · simp [h]
    unfold State.waiters; rw [this, ha, hh]; rfl
  have hc : ∀ ids : List Nat, ids.foldl State.closeReady s = s := by
    intro ids
    induction ids with
    | nil => rfl
    | cons k r ih =>
      have : s.closeReady k = s := by
        unfold State.closeReady
        split
        · rfl
        · next t hf => simp [hx t (List.mem_of_find?_eq_some hf)]
      rw [List.foldl_cons, this, ih]
  unfold State.pump State.pumpLine
  simp only [s.sendHeld_quiet hq, hw, List.foldl_nil, hc]
  exact s.latchResume_quiet ht hv

/-- The wear section keeps what the change gives it, and is signed (R376). -/
@[simp] theorem State.wear_spares (s : State) (f : Spares → Spares) : (s.wear f).spares = { f s.spares with valid := true } := rfl

@[simp] theorem State.wear_mem (s : State) (f : Spares → Spares) : (s.wear f).mem = s.mem := rfl

@[simp] theorem State.wear_teams (s : State) (f : Spares → Spares) : (s.wear f).teams = s.teams := rfl

end Sys2Proof.Machine
end

