-- ==== Sys2Proof/Laws/PerInstr.lean ====
section
/-! SUPPORT. Per instruction: a row of the table that is an instruction word has an encoding, and an event has none. -/

namespace Sys2Proof.Laws.Words

/-- The instruction has an encoding exactly when it is a word. -/
def Statement (i : Instr) : Prop := (encode i).isSome = i.isWord

theorem iadd (w : WBin) : Statement (.iadd w) := rfl
theorem iaddIs (w : WImm) : Statement (.iaddIs w) := rfl
theorem isub (w : WBin) : Statement (.isub w) := rfl
theorem iaddc (w : WBinP) : Statement (.iaddc w) := rfl
theorem imulLo (w : WBin) : Statement (.imulLo w) := rfl
theorem imulHi (w : WBin) : Statement (.imulHi w) := rfl
theorem imulHiU (w : WBin) : Statement (.imulHiU w) := rfl
theorem imad (w : WTri) : Statement (.imad w) := rfl
theorem imadw (w : WTri) : Statement (.imadw w) := rfl
theorem imadwU (w : WTri) : Statement (.imadwU w) := rfl
theorem imin (w : WBin) : Statement (.imin w) := rfl
theorem iminU (w : WBin) : Statement (.iminU w) := rfl
theorem imax (w : WBin) : Statement (.imax w) := rfl
theorem imaxU (w : WBin) : Statement (.imaxU w) := rfl
theorem iabs (w : WUn) : Statement (.iabs w) := rfl
theorem ineg (w : WUn) : Statement (.ineg w) := rfl
theorem shl (w : WBin) : Statement (.shl w) := rfl
theorem shlIu (w : WImm) : Statement (.shlIu w) := rfl
theorem shr (w : WBin) : Statement (.shr w) := rfl
theorem shrIu (w : WImm) : Statement (.shrIu w) := rfl
theorem sar (w : WBin) : Statement (.sar w) := rfl
theorem sarIu (w : WImm) : Statement (.sarIu w) := rfl
theorem rol (w : WBin) : Statement (.rol w) := rfl
theorem rolIu (w : WImm) : Statement (.rolIu w) := rfl
theorem dshl (w : WTri) : Statement (.dshl w) := rfl
theorem dshr (w : WTri) : Statement (.dshr w) := rfl
theorem and (w : WBin) : Statement (.and w) := rfl
theorem andIu (w : WImm) : Statement (.andIu w) := rfl
theorem or (w : WBin) : Statement (.or w) := rfl
theorem orIu (w : WImm) : Statement (.orIu w) := rfl
theorem xor (w : WBin) : Statement (.xor w) := rfl
theorem xorIu (w : WImm) : Statement (.xorIu w) := rfl
theorem andn (w : WBin) : Statement (.andn w) := rfl
theorem lgc3 (w : WLgc) : Statement (.lgc3 w) := rfl
theorem popc (w : WUn) : Statement (.popc w) := rfl
theorem clz (w : WUn) : Statement (.clz w) := rfl
theorem brev (w : WUn) : Statement (.brev w) := rfl
theorem bfx (w : WBin) : Statement (.bfx w) := rfl
theorem bfxS (w : WBin) : Statement (.bfxS w) := rfl
theorem bfi (w : WTri) : Statement (.bfi w) := rfl
theorem bperm (w : WTri) : Statement (.bperm w) := rfl
theorem sel (w : WBinP) : Statement (.sel w) := rfl
theorem mov (w : WUn) : Statement (.mov w) := rfl
theorem movi (w : WConst) : Statement (.movi w) := rfl
theorem movhi (w : WImm) : Statement (.movhi w) := rfl
theorem icmpEq (w : WCmp) : Statement (.icmpEq w) := rfl
theorem icmpLt (w : WCmp) : Statement (.icmpLt w) := rfl
theorem icmpLe (w : WCmp) : Statement (.icmpLe w) := rfl
theorem icmpLtU (w : WCmp) : Statement (.icmpLtU w) := rfl
theorem icmpLeU (w : WCmp) : Statement (.icmpLeU w) := rfl
theorem iadd64 (w : WBin) : Statement (.iadd64 w) := rfl
theorem isub64 (w : WBin) : Statement (.isub64 w) := rfl
theorem shl64 (w : WBin) : Statement (.shl64 w) := rfl
theorem shr64 (w : WBin) : Statement (.shr64 w) := rfl
theorem sar64 (w : WBin) : Statement (.sar64 w) := rfl
theorem lea (w : WTri) : Statement (.lea w) := rfl
theorem faddF64 (w : WRnd) : Statement (.faddF64 w) := rfl
theorem faddF32 (w : WRnd) : Statement (.faddF32 w) := rfl
theorem faddF16x2 (w : WRnd) : Statement (.faddF16x2 w) := rfl
theorem faddBf16x2 (w : WRnd) : Statement (.faddBf16x2 w) := rfl
theorem fsubF64 (w : WRnd) : Statement (.fsubF64 w) := rfl
theorem fsubF32 (w : WRnd) : Statement (.fsubF32 w) := rfl
theorem fsubF16x2 (w : WRnd) : Statement (.fsubF16x2 w) := rfl
theorem fsubBf16x2 (w : WRnd) : Statement (.fsubBf16x2 w) := rfl
theorem fmulF64 (w : WRnd) : Statement (.fmulF64 w) := rfl
theorem fmulF32 (w : WRnd) : Statement (.fmulF32 w) := rfl
theorem fmulF16x2 (w : WRnd) : Statement (.fmulF16x2 w) := rfl
theorem fmulBf16x2 (w : WRnd) : Statement (.fmulBf16x2 w) := rfl
theorem ffmaF64 (w : WTri) : Statement (.ffmaF64 w) := rfl
theorem ffmaF32 (w : WTri) : Statement (.ffmaF32 w) := rfl
theorem ffmaF16x2 (w : WTri) : Statement (.ffmaF16x2 w) := rfl
theorem ffmaBf16x2 (w : WTri) : Statement (.ffmaBf16x2 w) := rfl
theorem fminF64 (w : WBin) : Statement (.fminF64 w) := rfl
theorem fminF32 (w : WBin) : Statement (.fminF32 w) := rfl
theorem fminF16x2 (w : WBin) : Statement (.fminF16x2 w) := rfl
theorem fminBf16x2 (w : WBin) : Statement (.fminBf16x2 w) := rfl
theorem fmaxF64 (w : WBin) : Statement (.fmaxF64 w) := rfl
theorem fmaxF32 (w : WBin) : Statement (.fmaxF32 w) := rfl
theorem fmaxF16x2 (w : WBin) : Statement (.fmaxF16x2 w) := rfl
theorem fmaxBf16x2 (w : WBin) : Statement (.fmaxBf16x2 w) := rfl
theorem fabsF64 (w : WUn) : Statement (.fabsF64 w) := rfl
theorem fabsF32 (w : WUn) : Statement (.fabsF32 w) := rfl
theorem fabsX2 (w : WUn) : Statement (.fabsX2 w) := rfl
theorem fnegF64 (w : WUn) : Statement (.fnegF64 w) := rfl
theorem fnegF32 (w : WUn) : Statement (.fnegF32 w) := rfl
theorem fnegX2 (w : WUn) : Statement (.fnegX2 w) := rfl
theorem fcmpEqF64 (w : WCmp) : Statement (.fcmpEqF64 w) := rfl
theorem fcmpLtF64 (w : WCmp) : Statement (.fcmpLtF64 w) := rfl
theorem fcmpLeF64 (w : WCmp) : Statement (.fcmpLeF64 w) := rfl
theorem fcmpEqF32 (w : WCmp) : Statement (.fcmpEqF32 w) := rfl
theorem fcmpLtF32 (w : WCmp) : Statement (.fcmpLtF32 w) := rfl
theorem fcmpLeF32 (w : WCmp) : Statement (.fcmpLeF32 w) := rfl
theorem fclassF64 (w : WCmp) : Statement (.fclassF64 w) := rfl
theorem fclassF32 (w : WCmp) : Statement (.fclassF32 w) := rfl
theorem fdivF64 (w : WBin) (la : BitVec 4) : Statement (.fdivF64 w la) := rfl
theorem fsqrtF64 (w : WUn) (la : BitVec 4) : Statement (.fsqrtF64 w la) := rfl
theorem fdivF32 (w : WBin) (la : BitVec 4) : Statement (.fdivF32 w la) := rfl
theorem fsqrtF32 (w : WUn) (la : BitVec 4) : Statement (.fsqrtF32 w la) := rfl
theorem frcp (w : WUn) (la : BitVec 4) : Statement (.frcp w la) := rfl
theorem frsq (w : WUn) (la : BitVec 4) : Statement (.frsq w la) := rfl
theorem fexp2 (w : WUn) (la : BitVec 4) : Statement (.fexp2 w la) := rfl
theorem flog2 (w : WUn) (la : BitVec 4) : Statement (.flog2 w la) := rfl
theorem fsin (w : WUn) (la : BitVec 4) : Statement (.fsin w la) := rfl
theorem fcos (w : WUn) (la : BitVec 4) : Statement (.fcos w la) := rfl
theorem fcvt (w : WCvt) : Statement (.fcvt w) := rfl
theorem fcvtSeed (w : WSeed) : Statement (.fcvtSeed w) := rfl
theorem i2f (w : WCvt) : Statement (.i2f w) := rfl
theorem f2i (w : WCvt) : Statement (.f2i w) := rfl
theorem frnd (w : WCvt) : Statement (.frnd w) := rfl
theorem fscale (w : WCvt2) : Statement (.fscale w) := rfl
theorem fpack (w : WCvt2) : Statement (.fpack w) := rfl
theorem fdot2F16x2 (w : WTri) : Statement (.fdot2F16x2 w) := rfl
theorem fdot2Bf16x2 (w : WTri) : Statement (.fdot2Bf16x2 w) := rfl
theorem voteAll (w : WVote) : Statement (.voteAll w) := rfl
theorem voteAny (w : WVote) : Statement (.voteAny w) := rfl
theorem voteBal (w : WBallot) : Statement (.voteBal w) := rfl
theorem eqmask (w : WUn) : Statement (.eqmask w) := rfl
theorem equni (w : WUni) : Statement (.equni w) := rfl
theorem eqmask64 (w : WUn) : Statement (.eqmask64 w) := rfl
theorem equni64 (w : WUni) : Statement (.equni64 w) := rfl
theorem reduce (w : WReduce) : Statement (.reduce w) := rfl
theorem scanInc (w : WScan) : Statement (.scanInc w) := rfl
theorem scanExc (w : WScan) : Statement (.scanExc w) := rfl
theorem lanemask (w : WMask) : Statement (.lanemask w) := rfl
theorem ppopc (w : WBallot) : Statement (.ppopc w) := rfl
theorem pand (w : WPred) : Statement (.pand w) := rfl
theorem por (w : WPred) : Statement (.por w) := rfl
theorem pxor (w : WPred) : Statement (.pxor w) := rfl
theorem pmov (w : WPred1) : Statement (.pmov w) := rfl
theorem firstlane (w : WFirst) : Statement (.firstlane w) := rfl
theorem ldv (m : MLoad) : Statement (.ldv m) := rfl
theorem stv (m : MStore) : Statement (.stv m) := rfl
theorem lds (m : MLoad) : Statement (.lds m) := rfl
theorem sts (m : MStore) : Statement (.sts m) := rfl
theorem prefetch (m : MPrefetch) : Statement (.prefetch m) := rfl
theorem atom (m : MAtom) : Statement (.atom m) := rfl
theorem red (m : MAtom) : Statement (.red m) := rfl
theorem atoms (m : MAtom) : Statement (.atoms m) := rfl
theorem casw (m : MCasw) : Statement (.casw m) := rfl
theorem enq (m : MEnq) : Statement (.enq m) := rfl
theorem chld (m : MChld) : Statement (.chld m) := rfl
theorem stc (m : MStc) : Statement (.stc m) := rfl
theorem fence (g : GFence) : Statement (.fence g) := rfl
theorem acp (m : MAcp) : Statement (.acp m) := rfl
theorem cinc (g : GCtr) : Statement (.cinc g) := rfl
theorem cdec (g : GCtr) : Statement (.cdec g) := rfl
theorem cwait (g : GCtr) : Statement (.cwait g) := rfl
theorem cread (g : GRead) : Statement (.cread g) := rfl
theorem binit (g : GBar) : Statement (.binit g) := rfl
theorem barrive (g : GArrive) : Statement (.barrive g) := rfl
theorem bwait (g : GBar) : Statement (.bwait g) := rfl
theorem grow (g : GGrow) : Statement (.grow g) := rfl
theorem shrink (g : GShrink) : Statement (.shrink g) := rfl
theorem gang (e : EGang) : Statement (.gang e) := rfl
theorem mrdy (e : EMrdy) : Statement (.mrdy e) := rfl
theorem mma (e : EMma) : Statement (.mma e) := rfl
theorem mwait (e : EGuard) : Statement (.mwait e) := rfl
theorem accopen (e : EAccOpen) : Statement (.accopen e) := rfl
theorem accclose (e : EAccClose) : Statement (.accclose e) := rfl
theorem tcopy (e : ETcopy) : Statement (.tcopy e) := rfl
theorem glaunch (e : ELaunch) : Statement (.glaunch e) := rfl
theorem tlaunch (e : ETLaunch) : Statement (.tlaunch e) := rfl
theorem cresv (e : ELaunch) : Statement (.cresv e) := rfl
theorem crel (e : EGang) : Statement (.crel e) := rfl
theorem nop (w : EGuard) : Statement (.nop w) := rfl
theorem bra (w : WBranch) : Statement (.bra w) := rfl
theorem brx (w : WIndirect) : Statement (.brx w) := rfl
theorem call (w : WCall) : Statement (.call w) := rfl
theorem callx (w : WUn) : Statement (.callx w) := rfl
theorem ret (w : WIndirect) : Statement (.ret w) := rfl
theorem exit (w : EGuard) : Statement (.exit w) := rfl
theorem yield (w : EGuard) : Statement (.yield w) := rfl
theorem bpt (w : WBpt) : Statement (.bpt w) := rfl
theorem svc (w : WSvc) : Statement (.svc w) := rfl
theorem hWord (slot0 slot1 : Half) : Statement (.hWord slot0 slot1) := rfl
theorem sadd (u : UBin) : Statement (.sadd u) := rfl
theorem saddIs (u : UImm) : Statement (.saddIs u) := rfl
theorem ssub (u : UBin) : Statement (.ssub u) := rfl
theorem smul (u : UBin) : Statement (.smul u) := rfl
theorem smad (u : UBin) : Statement (.smad u) := rfl
theorem sand (u : UBin) : Statement (.sand u) := rfl
theorem sandIu (u : UImm) : Statement (.sandIu u) := rfl
theorem sor (u : UBin) : Statement (.sor u) := rfl
theorem sorIu (u : UImm) : Statement (.sorIu u) := rfl
theorem sxor (u : UBin) : Statement (.sxor u) := rfl
theorem sxorIu (u : UImm) : Statement (.sxorIu u) := rfl
theorem sshl (u : UBin) : Statement (.sshl u) := rfl
theorem sshlIu (u : UImm) : Statement (.sshlIu u) := rfl
theorem sshr (u : UBin) : Statement (.sshr u) := rfl
theorem sshrIu (u : UImm) : Statement (.sshrIu u) := rfl
theorem ssar (u : UBin) : Statement (.ssar u) := rfl
theorem ssarIu (u : UImm) : Statement (.ssarIu u) := rfl
theorem smovi (u : UConst) : Statement (.smovi u) := rfl
theorem smovhi (u : UImm) : Statement (.smovhi u) := rfl
theorem scmpEq (u : UCmp) : Statement (.scmpEq u) := rfl
theorem scmpLt (u : UCmp) : Statement (.scmpLt u) := rfl
theorem scmpLe (u : UCmp) : Statement (.scmpLe u) := rfl
theorem scmpLtU (u : UCmp) : Statement (.scmpLtU u) := rfl
theorem scmpLeU (u : UCmp) : Statement (.scmpLeU u) := rfl
theorem ssel (u : USel) : Statement (.ssel u) := rfl
theorem sbra (u : UBranch) : Statement (.sbra u) := rfl
theorem sld (u : ULoad) : Statement (.sld u) := rfl
theorem sst (u : UStore) : Statement (.sst u) := rfl
theorem sread (u : URead) : Statement (.sread u) := rfl
theorem sreadW (u : UReadW) : Statement (.sreadW u) := rfl
theorem speer (u : UPeer) : Statement (.speer u) := rfl
theorem ctxctlSuspend (ctx : BitVec 10) : Statement (.ctxctlSuspend ctx) := rfl
theorem ctxctlResume (ctx : BitVec 10) : Statement (.ctxctlResume ctx) := rfl
theorem ctxctlTerminate (ctx : BitVec 10) : Statement (.ctxctlTerminate ctx) := rfl
theorem ctxctlFlush (ctx : BitVec 10) : Statement (.ctxctlFlush ctx) := rfl
theorem ctxctlInvalidCommand (cmd : W64) : Statement (.ctxctlInvalidCommand cmd) := rfl
theorem splitDataReturn (at_ : GroupRef) (op : Nat) (lanes : Mask) : Statement (.splitDataReturn at_ op lanes) := rfl
theorem longLatencyComplete (at_ : GroupRef) (op : Nat) (lanes : Mask) : Statement (.longLatencyComplete at_ op lanes) := rfl
theorem faultTaken (at_ : GroupRef) : Statement (.faultTaken at_) := rfl
theorem faultQueueRoom (at_ : GroupRef) : Statement (.faultQueueRoom at_) := rfl
theorem faultMergeEntry (at_ : GroupRef) : Statement (.faultMergeEntry at_) := rfl
theorem heldFaultDelivery (at_ : GroupRef) : Statement (.heldFaultDelivery at_) := rfl
theorem operandLogReplay (at_ : GroupRef) : Statement (.operandLogReplay at_) := rfl
theorem starvationTrap (at_ : GroupRef) : Statement (.starvationTrap at_) := rfl
theorem groupRetire (at_ : GroupRef) : Statement (.groupRetire at_) := rfl
theorem registrationAck (id : Nat) : Statement (.registrationAck id) := rfl
theorem fenceComplete (at_ : GroupRef) : Statement (.fenceComplete at_) := rfl
theorem cwaitWake (at_ : GroupRef) : Statement (.cwaitWake at_) := rfl
theorem bwaitWake (at_ : GroupRef) : Statement (.bwaitWake at_) := rfl
theorem growGrant (core : Nat) : Statement (.growGrant core) := rfl
theorem growDeadlockFail (core : Nat) : Statement (.growDeadlockFail core) := rfl
theorem shrinkRelease (at_ : GroupRef) : Statement (.shrinkRelease at_) := rfl
theorem enginePlaceFree (core : Nat) : Statement (.enginePlaceFree core) := rfl
theorem mmaLatchEvent (core : Nat) : Statement (.mmaLatchEvent core) := rfl
theorem mmaContributionSend (core : Nat) : Statement (.mmaContributionSend core) := rfl
theorem tileContributionArrival (id : Nat) : Statement (.tileContributionArrival id) := rfl
theorem engineResend (id : Nat) : Statement (.engineResend id) := rfl
theorem tileTimeout (tile : Nat) : Statement (.tileTimeout tile) := rfl
theorem tcopyStart (core : Nat) (elements : Nat) : Statement (.tcopyStart core elements) := rfl
theorem tcopyComplete (core : Nat) (cmd : Nat) : Statement (.tcopyComplete core cmd) := rfl
theorem tcopyWalkFault (core : Nat) (cmd : Nat) : Statement (.tcopyWalkFault core cmd) := rfl
theorem acpComplete (id : Nat) : Statement (.acpComplete id) := rfl
theorem stcLanding (id : Nat) : Statement (.stcLanding id) := rfl
theorem teamPlacement (level : Nat) : Statement (.teamPlacement level) := rfl
theorem preemption (level : Nat) : Statement (.preemption level) := rfl
theorem teamSave (team : Nat) : Statement (.teamSave team) := rfl
theorem teamResume (team : Nat) : Statement (.teamResume team) := rfl
theorem movedRetry (at_ : GroupRef) : Statement (.movedRetry at_) := rfl
theorem recoveryComplete (cell : BitVec 21) : Statement (.recoveryComplete cell) := rfl
theorem privilegedRegisterWrite (sel : BitVec 8) (val : W64) : Statement (.privilegedRegisterWrite sel val) := rfl
theorem hostLaunch (h : HostLaunch) : Statement (.hostLaunch h) := rfl
theorem hostRead (h : HostAccess) : Statement (.hostRead h) := rfl
theorem hostWrite (h : HostAccess) : Statement (.hostWrite h) := rfl
theorem hostAtomic (h : HostAccess) : Statement (.hostAtomic h) := rfl
theorem hostRegisterRead (h : HostReg) : Statement (.hostRegisterRead h) := rfl
theorem hostRegisterWrite (h : HostReg) : Statement (.hostRegisterWrite h) := rfl
theorem tcqTailAdvance : Statement (.tcqTailAdvance) := rfl
theorem inval : Statement (.inval) := rfl
theorem resolve : Statement (.resolve) := rfl
theorem finalCmd : Statement (.finalCmd) := rfl
theorem moveCmd : Statement (.moveCmd) := rfl
theorem moveCopyTimeout : Statement (.moveCopyTimeout) := rfl
theorem thaw : Statement (.thaw) := rfl
theorem carve : Statement (.carve) := rfl
theorem tcqInvalidCommand : Statement (.tcqInvalidCommand) := rfl
theorem genkey : Statement (.genkey) := rfl
theorem retire : Statement (.retire) := rfl
theorem keyInvalidCommand : Statement (.keyInvalidCommand) := rfl
theorem cellDeadCommand : Statement (.cellDeadCommand) := rfl
theorem cellLiveCommand : Statement (.cellLiveCommand) := rfl
theorem cellInvalidCommand : Statement (.cellInvalidCommand) := rfl
theorem recallTimeout (pkg : BitVec 21) (line : Nat) : Statement (.recallTimeout pkg line) := rfl
theorem rd (p : Packet) : Statement (.rd p) := rfl
theorem wr (p : Packet) : Statement (.wr p) := rfl
theorem atomPacket (p : Packet) : Statement (.atomPacket p) := rfl
theorem step (p : Packet) : Statement (.step p) := rfl
theorem stcPacket (p : Packet) : Statement (.stcPacket p) := rfl
theorem coh (p : Packet) : Statement (.coh p) := rfl
theorem cohack (p : Packet) : Statement (.cohack p) := rfl
theorem resp (p : Packet) : Statement (.resp p) := rfl
theorem retry (p : Packet) : Statement (.retry p) := rfl
theorem retryResend (tag : Nat) : Statement (.retryResend tag) := rfl
theorem ack (p : Packet) : Statement (.ack p) := rfl
theorem notice (p : Packet) : Statement (.notice p) := rfl
theorem abort (p : Packet) : Statement (.abort p) := rfl
theorem abortack (p : Packet) : Statement (.abortack p) := rfl
theorem mgmt (p : Packet) : Statement (.mgmt p) := rfl
theorem hostPacket (p : Packet) : Statement (.hostPacket p) := rfl
theorem requestTimerResend (tag : Nat) : Statement (.requestTimerResend tag) := rfl
theorem requestTimeout (tag : Nat) : Statement (.requestTimeout tag) := rfl
theorem abortTimeout (tag : Nat) : Statement (.abortTimeout tag) := rfl
theorem ucieModuleRetire (pair : Nat) : Statement (.ucieModuleRetire pair) := rfl
theorem fabricLaneSpare (port : Nat) : Statement (.fabricLaneSpare port) := rfl
theorem linkAuthFailure (port : Nat) : Statement (.linkAuthFailure port) := rfl
theorem scrubRowPass (row : RowRef) (corrected : Nat) (uncorrectable : Option Nat) : Statement (.scrubRowPass row corrected uncorrectable) := rfl
theorem rowRemapSwitch (row : RowRef) : Statement (.rowRemapSwitch row) := rfl
theorem coreSpareSwap (core : Nat) : Statement (.coreSpareSwap core) := rfl
theorem sliceSpareSwap (die slice : Nat) : Statement (.sliceSpareSwap die slice) := rfl
theorem sramRowSpare (die slice row : Nat) : Statement (.sramRowSpare die slice row) := rfl
theorem attestationRequest (nonce : List Byte) : Statement (.attestationRequest nonce) := rfl
theorem packageReset : Statement (.packageReset) := rfl
theorem thermalThrottle : Statement (.thermalThrottle) := rfl
theorem thermalShutdown : Statement (.thermalShutdown) := rfl
theorem flitCrcReplay (pair : Nat) : Statement (.flitCrcReplay pair) := rfl

end Sys2Proof.Laws.Words
end

