-- ==== Sys2Proof/Tests/Slice0.lean ====
section
/-! SUPPORT. Tests: ill-formed words that the checks refuse, words written out from the layouts of the spec, single steps,
and for every statement with hypotheses a state and operands that meet them. -/

open Sys2Proof Sys2Proof.Machine Sys2Proof.Claims

namespace Sys2Proof.Tests

/-! ### Ill-formed terms: one for each check of `Instr.wf` -/

/-- Lane `v r` itself; a rotation; a scalar's low half; its high half. -/
def own (r : BitVec 7) : VSrc := ⟨r, .own⟩
def rot (r : BitVec 7) : VSrc := ⟨r, .rot 1#5⟩
def scal (r : BitVec 7) : VSrc := ⟨r, .scalar 0#2 false⟩
def scalHi (r : BitVec 7) : VSrc := ⟨r, .scalar 0#2 true⟩
def addr0 : MAddr := ⟨own 2#7, 0#5, false⟩
def wide3 : MAddr := ⟨own 3#7, 0#5, true⟩

theorem test_wf_two_routes : (Instr.imad ⟨0#7, 1#7, own 2#7, rot 3#7, rot 4#7⟩).wf = false := by decide
theorem test_wf_imadw_odd : (Instr.imadw ⟨0#7, 1#7, own 2#7, own 3#7, own 4#7⟩).wf = false := by decide
theorem test_wf_lea_odd_base : (Instr.lea ⟨0#7, 2#7, own 3#7, own 4#7, own 5#7⟩).wf = false := by decide
theorem test_wf_ffma64_high_half : (Instr.ffmaF64 ⟨0#7, 2#7, scalHi 4#7, own 6#7, own 8#7⟩).wf = false := by decide
theorem test_wf_shift_by_32 : (Instr.shlIu ⟨0#7, 1#7, own 2#7, 32#23⟩).wf = false := by decide
theorem test_wf_movhi_wide : (Instr.movhi ⟨0#7, 1#7, own 2#7, 65536#23⟩).wf = false := by decide
theorem test_wf_iadd64_odd : (Instr.iadd64 ⟨0#7, 2#7, own 3#7, own 4#7⟩).wf = false := by decide
theorem test_wf_shl64_odd_d : (Instr.shl64 ⟨0#7, 3#7, own 2#7, own 5#7⟩).wf = false := by decide
theorem test_wf_fadd64_odd : (Instr.faddF64 ⟨0#7, 2#7, own 4#7, own 5#7, .fpctl⟩).wf = false := by decide
theorem test_wf_fabs64_odd : (Instr.fabsF64 ⟨0#7, 1#7, own 4#7⟩).wf = false := by decide
theorem test_wf_fcmp64_odd : (Instr.fcmpEqF64 ⟨0#7, 1#7, 2#7, own 3#7, own 4#7⟩).wf = false := by decide
theorem test_wf_fclass64_odd : (Instr.fclassF64 ⟨0#7, 1#7, 2#7, own 3#7, own 4#7⟩).wf = false := by decide
theorem test_wf_fdiv64_odd : (Instr.fdivF64 ⟨0#7, 2#7, own 4#7, own 7#7⟩ 0#4).wf = false := by decide
theorem test_wf_fsqrt64_odd : (Instr.fsqrtF64 ⟨0#7, 2#7, own 7#7⟩ 0#4).wf = false := by decide
theorem test_wf_fcvt_same : (Instr.fcvt ⟨0#7, 1#7, own 2#7, .f32, .f32, .sel .rne⟩).wf = false := by decide
theorem test_wf_fcvt_sr_f32 : (Instr.fcvt ⟨0#7, 1#7, own 2#7, .f32, .f64, .sr⟩).wf = false := by decide
theorem test_wf_i2f_float : (Instr.i2f ⟨0#7, 1#7, own 2#7, .f32, .f32, .sel .rne⟩).wf = false := by decide
theorem test_wf_f2i_sr : (Instr.f2i ⟨0#7, 1#7, own 2#7, .si32, .f32, .sr⟩).wf = false := by decide
theorem test_wf_frnd_f16 : (Instr.frnd ⟨0#7, 1#7, own 2#7, .f16, .f16, .sel .rne⟩).wf = false := by decide
theorem test_wf_fscale_f16 : (Instr.fscale ⟨0#7, 1#7, own 2#7, 3#7, .f16, .f16, .sel .rne⟩).wf = false := by decide
theorem test_wf_fpack_f16 : (Instr.fpack ⟨0#7, 1#7, own 2#7, 3#7, .e4m3, .f16, .sel .rne⟩).wf = false := by decide
theorem test_wf_eqmask64_odd : (Instr.eqmask64 ⟨0#7, 1#7, own 3#7⟩).wf = false := by decide
theorem test_wf_equni64_odd : (Instr.equni64 ⟨0#7, 1#4, own 3#7⟩).wf = false := by decide
theorem test_wf_reduce64_odd : (Instr.reduce ⟨0#7, 1#9, own 3#7, .addF64⟩).wf = false := by decide
theorem test_wf_scan64_odd : (Instr.scanInc ⟨0#7, 3#7, own 2#7, .add64⟩).wf = false := by decide
theorem test_wf_ldv_quad : (Instr.ldv ⟨0#7, 0#4, 6#7, addr0, .b16, .wk, false, false⟩).wf = false := by decide
theorem test_wf_ldv_release : (Instr.ldv ⟨0#7, 0#4, 4#7, addr0, .b4, .strong .rel .die, false, false⟩).wf = false := by decide
theorem test_wf_ldv_split_acquire : (Instr.ldv ⟨0#7, 0#4, 4#7, addr0, .b4, .strong .acq .die, true, false⟩).wf = false := by decide
theorem test_wf_ldv_sx_word : (Instr.ldv ⟨0#7, 0#4, 4#7, addr0, .b4, .wk, false, true⟩).wf = false := by decide
theorem test_wf_ldv_odd_offset : (Instr.ldv ⟨0#7, 0#4, 4#7, wide3, .b4, .wk, false, false⟩).wf = false := by decide
theorem test_wf_lds_split : (Instr.lds ⟨0#7, 0#4, 4#7, addr0, .b4, .wk, true, false⟩).wf = false := by decide
theorem test_wf_stv_acquire : (Instr.stv ⟨0#7, 4#7, addr0, .b4, .strong .acq .die⟩).wf = false := by decide
theorem test_wf_sts_pair : (Instr.sts ⟨0#7, 5#7, addr0, .b8, .wk⟩).wf = false := by decide
theorem test_wf_prefetch_odd : (Instr.prefetch ⟨0#7, wide3, false⟩).wf = false := by decide
theorem test_wf_atom_pair : (Instr.atom ⟨0#7, 0#4, 4#7, addr0, 5#7, .add, true, .st, .dev⟩).wf = false := by decide
theorem test_wf_atoms_pair : (Instr.atoms ⟨0#7, 0#4, 5#7, addr0, 4#7, .add, true, .st, .team⟩).wf = false := by decide
theorem test_wf_red_dest : (Instr.red ⟨0#7, 0#4, 1#7, addr0, 4#7, .add, false, .st, .dev⟩).wf = false := by decide
theorem test_wf_casw_quad : (Instr.casw ⟨0#7, 0#4, 4#7, addr0, 12#7, false, .st, .dev⟩).wf = false := by decide
theorem test_wf_enq_pair : (Instr.enq ⟨0#7, 0#4, 4#7, addr0, 7#7, 0#4, .st, .dev⟩).wf = false := by decide
theorem test_wf_chld_release : (Instr.chld ⟨0#7, 0#4, 4#7, addr0, 40#7, .rel, .dev⟩).wf = false := by decide
theorem test_wf_stc_small : (Instr.stc ⟨0#7, 4#7, addr0, 40#7, .b2, .st, .dev⟩).wf = false := by decide
theorem test_wf_acp_small : (Instr.acp ⟨0#7, 0#4, 4#7, addr0, 40#7, .b1, false, false, .dev⟩).wf = false := by decide
theorem test_wf_cinc_acquire : (Instr.cinc ⟨0#7, 40#7, 41#7, false, .acq, .dev⟩).wf = false := by decide
theorem test_wf_cwait_strong : (Instr.cwait ⟨0#7, 40#7, 41#7, false, .st, .dev⟩).wf = false := by decide
theorem test_wf_cread_release : (Instr.cread ⟨0#7, 0#4, 4#7, 40#7, false, .rel, .dev⟩).wf = false := by decide
theorem test_wf_mma_base : (Instr.mma ⟨0#7, 0#4, 8#7, 5#7, 40#7, .bf16, false, false⟩).wf = false := by decide
theorem test_wf_mrdy_base : (Instr.mrdy ⟨0#7, 8#7⟩).wf = false := by decide
theorem test_wf_accopen_seven :
    (Instr.accopen ⟨0#7, 0#4, 4#7, 5#7, 6#7, 7#7, .dev, .f32, false, true, 7#3⟩).wf = false := by decide
theorem test_wf_hword_bank :
    (Instr.hWord ⟨.iadd, 0#3, 4#7, own 5#7⟩ ⟨.iadd, 0#3, 8#7, own 6#7⟩).wf = false := by decide
theorem test_wf_hword_two_fp :
    (Instr.hWord ⟨.faddF32, 0#3, 4#7, own 5#7⟩ ⟨.fmulF32, 0#3, 6#7, own 7#7⟩).wf = false := by decide
theorem test_wf_hword_shift :
    (Instr.hWord ⟨.shlI, 0#3, 4#7, own 32#7⟩ ⟨.nop, 0#3, 0#7, own 0#7⟩).wf = false := by decide
theorem test_wf_hword_nop_field :
    (Instr.hWord ⟨.nop, 1#3, 0#7, own 0#7⟩ ⟨.nop, 0#3, 0#7, own 0#7⟩).wf = false := by decide
theorem test_wf_sshl_64 : (Instr.sshlIu ⟨0#4, false, 4#9, 5#9, 64#20⟩).wf = false := by decide
theorem test_wf_sld_16 : (Instr.sld ⟨0#4, false, 0#4, 4#9, 5#9, .b16, .wk, false, false, 0#9⟩).wf = false := by decide
theorem test_wf_sst_acquire : (Instr.sst ⟨0#4, false, 4#9, 5#9, .b8, .strong .acq .die, false, 0#9⟩).wf = false := by decide
theorem test_wf_sread_hole : (Instr.sread ⟨0#4, false, 4#9, 0x18#8⟩).wf = false := by decide
theorem test_wf_sread_vector_high : (Instr.sread ⟨0#4, false, 128#9, 0x40#8⟩).wf = false := by decide
theorem test_wf_sreadw_read_only : (Instr.sreadW ⟨0#4, false, 4#9, 5#9, 0x81#8⟩).wf = false := by decide
theorem test_wf_speer_last : (Instr.speer ⟨0#4, false, 4#9, 5#9, 511#9, 0#20⟩).wf = false := by decide

end Sys2Proof.Tests

/-! ### Words written out field by field from the layouts of R126, R129, R131, R137-R139, R216-R238 and R243-R264 -/

namespace Sys2Proof.Tests

/-- A W-form word (R126): opcode, guard, LA, dest, A, route A, B, C, route X, target. -/
def wWord (op : BitVec 8) (g : BitVec 7) (la : BitVec 4) (d a : BitVec 7) (ra : BitVec 8) (b c : BitVec 7) (x : BitVec 9) : W64 :=
  op ++ g ++ la ++ d ++ a ++ ra ++ b ++ c ++ x

/-- A W-form word with an immediate (R128). -/
def wImm (op : BitVec 8) (g d a : BitVec 7) (ra : BitVec 8) (imm : BitVec 23) : W64 := op ++ g ++ 0#4 ++ d ++ a ++ ra ++ imm

/-- A vector memory word (R216): opcode, guard, LA, D, X, route, S, W, E, control. -/
def mWord (op : BitVec 8) (g : BitVec 7) (la : BitVec 4) (d x : BitVec 7) (r : BitVec 8) (s : BitVec 5) (w : BitVec 1) (e : BitVec 7)
    (c : BitVec 10) : W64 := op ++ g ++ la ++ d ++ x ++ r ++ s ++ w ++ e ++ c

/-- A group-level word (R235): opcode, guard, LA, D, A, reserved, E, control. -/
def gWord (op : BitVec 8) (g : BitVec 7) (la : BitVec 4) (d a e : BitVec 7) (c : BitVec 10) : W64 :=
  op ++ g ++ la ++ d ++ a ++ 0#14 ++ e ++ c

/-- An engine word (R243): opcode, guard, LA, D, A, B, C, control. -/
def eWord (op : BitVec 8) (g : BitVec 7) (la : BitVec 4) (d a b c : BitVec 7) (k : BitVec 17) : W64 :=
  op ++ g ++ la ++ d ++ a ++ b ++ c ++ k

/-- A U-form word (R137): opcode, guard, negate, LA, dest, A, B, immediate. -/
def uWord (op : BitVec 8) (q : BitVec 4) (n : BitVec 1) (la : BitVec 4) (d a b : BitVec 9) (imm : BitVec 20) : W64 :=
  op ++ q ++ n ++ la ++ d ++ a ++ b ++ imm

theorem test_decode_iadd_is : decode (wImm 0x01#8 0#7 1#7 2#7 0#8 (-1#23)) = some (.iaddIs ⟨0#7, 1#7, own 2#7, -1#23⟩) := by decide
theorem test_decode_imad_routed_c :
    decode (wWord 0x07#8 0#7 0#4 1#7 2#7 0#8 3#7 4#7 (2#3 ++ 7#5 ++ 1#1)) =
      some (.imad ⟨0#7, 1#7, own 2#7, own 3#7, ⟨4#7, .bcast 7#5⟩⟩) := by decide
theorem test_decode_sel : decode (wWord 0x29#8 0#7 0#4 1#7 2#7 0#8 3#7 9#7 0#9) = some (.sel ⟨0#7, 1#7, own 2#7, own 3#7, 9#7⟩) := by
  decide
theorem test_decode_shl_indexed :
    decode (wWord 0x10#8 0#7 0#4 1#7 2#7 (4#3 ++ 6#5) 3#7 0#7 0#9) = some (.shl ⟨0#7, 1#7, ⟨2#7, .idx 6#5⟩, own 3#7⟩) := by decide
theorem test_decode_fdiv_lookahead :
    decode (wWord 0x60#8 0#7 5#4 1#7 2#7 0#8 3#7 0#7 0#9) = some (.fdivF32 ⟨0#7, 1#7, own 2#7, own 3#7⟩ 5#4) := by decide
theorem test_decode_f2i :
    decode (wWord 0x6A#8 0#7 0#4 1#7 2#7 0#8 0#7 (0xC#4 ++ 0#3) (1#1 ++ 2#3 ++ 0#5)) =
      some (.f2i ⟨0#7, 1#7, own 2#7, .si32, .f32, .sel .rtz⟩) := by decide
theorem test_decode_seed :
    decode (wWord 0x68#8 0#7 0#4 0#7 2#7 0#8 0#7 0#7 (0#1 ++ 6#3 ++ 0#5)) = some (.fcvtSeed ⟨0#7, own 2#7⟩) := by decide
theorem test_decode_vote_all : decode (wWord 0x70#8 0#7 0#4 3#7 9#7 0#8 0#7 0#7 0#9) = some (.voteAll ⟨0#7, 3#4, 9#7⟩) := by decide
theorem test_decode_ballot_high :
    decode (wWord 0x72#8 0#7 0#4 5#7 9#7 0#8 0#7 (0#5 ++ 2#2) 0#9) = some (.voteBal ⟨0#7, 261#9, 9#7⟩) := by decide
theorem test_decode_reduce :
    decode (wWord 0x77#8 0#7 0#4 5#7 2#7 0#8 0#7 (9#5 ++ 1#2) 0#9) = some (.reduce ⟨0#7, 133#9, own 2#7, .addF32⟩) := by decide
theorem test_decode_scan : decode (wWord 0x79#8 0#7 0#4 4#7 2#7 0#8 0#7 (8#5 ++ 0#2) 0#9) = some (.scanExc ⟨0#7, 4#7, own 2#7, .add64⟩) := by
  decide
theorem test_decode_lanemask : decode (wImm 0x7A#8 0#7 1#7 0#7 0#8 5#23) = some (.lanemask ⟨0#7, 1#7, .act⟩) := by decide
theorem test_decode_pand : decode (wWord 0x7C#8 0#7 0#4 1#7 3#7 0#8 4#7 2#7 0#9) = some (.pand ⟨0#7, 1#7, 2#7, 3#7, 4#7⟩) := by decide
theorem test_decode_ldv_split :
    decode (mWord 0x90#8 0#7 3#4 8#7 2#7 0#8 4#5 0#1 0#7 (2#3 ++ 1#3 ++ 2#3 ++ 1#1)) =
      some (.ldv ⟨0#7, 3#4, 8#7, ⟨own 2#7, 4#5, false⟩, .b4, .strong .st .dev, true, false⟩) := by decide
theorem test_decode_lds_signed :
    decode (mWord 0x92#8 0#7 0#4 8#7 2#7 0#8 0#5 0#1 1#7 (1#3 ++ 1#3 ++ 0#3 ++ 0#1)) =
      some (.lds ⟨0#7, 0#4, 8#7, addr0, .b2, .strong .st .team, false, true⟩) := by decide
theorem test_decode_stv :
    decode (mWord 0x91#8 0#7 0#4 8#7 2#7 0#8 0#5 1#1 0#7 (4#3 ++ 3#3 ++ 4#3 ++ 0#1)) =
      some (.stv ⟨0#7, 8#7, ⟨own 2#7, 0#5, true⟩, .b16, .strong .rel .sys⟩) := by decide
theorem test_decode_fence : decode (gWord 0x9C#8 0#7 0#4 0#7 0#7 0#7 (0#6 ++ 3#3 ++ 0#1)) = some (.fence ⟨0#7, .cell⟩) := by decide
theorem test_decode_cdec :
    decode (gWord 0x9F#8 0#7 0#4 0#7 10#7 11#7 (1#1 ++ 0#2 ++ 3#3 ++ 1#3 ++ 0#1)) =
      some (.cdec ⟨0#7, 10#7, 11#7, true, .rel, .die⟩) := by decide
theorem test_decode_cread :
    decode (gWord 0xA1#8 0#7 2#4 12#7 10#7 0#7 (0#1 ++ 0#2 ++ 2#3 ++ 2#3 ++ 0#1)) =
      some (.cread ⟨0#7, 2#4, 12#7, 10#7, false, .acq, .dev⟩) := by decide
theorem test_decode_barrive : decode (gWord 0xA3#8 0#7 0#4 12#7 10#7 0#7 0#10) = some (.barrive ⟨0#7, 12#7, 10#7⟩) := by decide
theorem test_decode_grow : decode (gWord 0xA5#8 0#7 0#4 3#7 0#7 0#7 7#10) = some (.grow ⟨0#7, 3#4, 7#3⟩) := by decide
theorem test_decode_accopen :
    decode (eWord 0xB4#8 0#7 0#4 4#7 5#7 6#7 7#7 (0#7 ++ 2#3 ++ 1#1 ++ 0#1 ++ 1#2 ++ 2#3)) =
      some (.accopen ⟨0#7, 0#4, 4#7, 5#7, 6#7, 7#7, .dev, .f32, false, true, 2#3⟩) := by decide
theorem test_decode_tcopy :
    decode (eWord 0xB6#8 0#7 0#4 0#7 5#7 0#7 7#7 (8#17 ||| 1#17)) = some (.tcopy ⟨0#7, 0#4, 5#7, 7#7, .die, true⟩) := by decide
theorem test_decode_tlaunch :
    decode (eWord 0xB8#8 0#7 0#4 4#7 5#7 6#7 0#7 4#17) = some (.tlaunch ⟨0#7, 0#4, 4#7, 5#7, 6#7, .sys⟩) := by decide
theorem test_decode_bra : decode (wImm 0xC1#8 2#7 0#7 0#7 0#8 (-3#23)) = some (.bra ⟨2#7, -3#23⟩) := by decide
theorem test_decode_call : decode (wImm 0xC3#8 0#7 9#7 0#7 0#8 100#23) = some (.call ⟨0#7, 9#7, 100#23⟩) := by decide
theorem test_decode_bpt : decode (wImm 0xC8#8 0#7 0#7 0#7 0#8 0x1234#23) = some (.bpt ⟨0#7, 0x1234#16⟩) := by decide
theorem test_decode_sadd_is : decode (uWord 0xD1#8 0#4 0#1 0#4 4#9 5#9 0#9 (-8#20)) = some (.saddIs ⟨0#4, false, 4#9, 5#9, -8#20⟩) := by
  decide
theorem test_decode_scmp :
    decode (uWord 0xE4#8 0#4 0#1 0#4 (0#1 ++ 2#4 ++ 1#4) 5#9 6#9 0#20) = some (.scmpLt ⟨0#4, false, 1#4, 2#4, 5#9, 6#9⟩) := by decide
theorem test_decode_sld :
    decode (uWord 0xEA#8 0#4 0#1 0#4 20#9 4#9 0#9 (3#3 ++ 2#3 ++ 4#3 ++ 0#1 ++ 0#1 ++ 16#9)) =
      some (.sld ⟨0#4, false, 0#4, 20#9, 4#9, .b8, .strong .acq .sys, false, false, 16#9⟩) := by decide
theorem test_decode_sst_sp :
    decode (uWord 0xEB#8 0#4 0#1 0#4 21#9 8#9 0#9 (2#3 ++ 1#3 ++ 0#3 ++ 0#1 ++ 1#1 ++ (-4#9))) =
      some (.sst ⟨0#4, false, 21#9, 8#9, .b4, .strong .st .team, true, -4#9⟩) := by decide
theorem test_decode_sread_w : decode (uWord 0xEC#8 0#4 0#1 0#4 4#9 5#9 0#9 (1#1 ++ 0#11 ++ 0x13#8)) = some (.sreadW ⟨0#4, false, 4#9, 5#9, 0x13#8⟩) := by
  decide
theorem test_decode_ssel : decode (uWord 0xE8#8 0#4 0#1 0#4 4#9 5#9 6#9 3#20) = some (.ssel ⟨0#4, false, 4#9, 5#9, 6#9, 3#4⟩) := by decide
/-- A reserved bit of the conversion control makes the word illegal (R131, R132). -/
theorem test_decode_reserved_bit : decode (wWord 0x68#8 0#7 0#4 1#7 2#7 0#8 0#7 (3#4 ++ 0#3) (1#1 ++ 1#3 ++ 1#5)) = none := by decide
/-- A lookahead on IADD is reserved (R132). -/
theorem test_decode_la_on_iadd : decode (wWord 0x00#8 0#7 1#4 1#7 2#7 0#8 3#7 0#7 0#9) = none := by decide

end Sys2Proof.Tests

/-! ### Small states -/

namespace Sys2Proof.Tests

/- The kernel evaluates the checks below one after another. -/
section
set_option Elab.async false
set_option maxRecDepth 100000

/-- The leaf that maps virtual address 0 to the carve-out window of die 0. -/
def leaf0 : Leaf := fetchLeaf State.reset

/-- A team of two groups with 16 scratchpad rows. -/
def teamA : Team :=
  { Team.blank with
    tid := 1, grid := 1, rows := 16, groupCount := 2, groups := [fetchGroup, { fetchGroup with id := 1, quad := 1 }] }

/-- Between instructions: that team resident, its first 2 MiB mapped. -/
def sI : State :=
  { State.reset with
    carve := State.reset.carve.set 0 1, tlb := [(.core 0, leaf0), (.die 0, leaf0), (.engine 0, leaf0)], grids := [fetchGrid]
    teams := [teamA], nextId := 2 }

/-- Group 0 is the current one. -/
def sF : State := { sI with t := teamA, g := fetchGroup }

/-- Lane 0 issues. -/
def sA : State := { sF with iss := ⟨1#32, ⟨0#8, 0#32⟩, 0#64, 0#32, 0#32, []⟩ }

/-- Every lane issues. -/
def sAll : State := { sF with iss := ⟨0xFFFF_FFFF#32, ⟨0#8, 0#32⟩, 0#64, 0#32, 0#32, []⟩ }

/-- The same with a scalar register set. -/
def withS (s : State) (r : Fin 512) (x : W64) : State := { s with g := { s.g with s := s.g.s.set r.val x } }

/-- The same with a vector register of lane 0 set. -/
def withV (s : State) (r : Fin 128) (x : W32) : State := { s with g := { s.g with v := s.g.v.set r.val ((s.g.v[r]).set 0 x) } }

/-- The same with a number in memory. -/
def withMem (s : State) (a n x : Nat) : State := { s with mem := s.mem.putList a (toBytes n x) }

theorem settledOf {s : State} {pa n : Nat}
    (h : s.mem.wf = true ∧ (∀ k, k < n → lineOf (pa + k) = lineOf pa) ∧ (∀ k, k < n → s.here (pa + k) = true) ∧
      s.here (lineOf pa) = true ∧ s.frozen (lineOf pa) = false ∧ s.poison.contains (lineOf pa) = false)
    (hr : s.recalls = []) (hd : s.dir = []) (hz : s.hazes = []) (ht : s.tiles = []) (hp : s.posted = []) (hg : s.tags = [])
    (hk : s.keyGen = []) : Settled s pa n :=
  ⟨h.1, h.2.1, h.2.2.1, h.2.2.2.1, h.2.2.2.2.1, by simp [hr], by simp [hd], h.2.2.2.2.2, by simp [State.hazeByte, hz], by simp [ht],
    by simp [hp], by simp [hg, State.genOf, hk, lookupD]⟩

theorem hwOf {s : State} {a n : Nat}
    (h : ∀ k, k < n → s.here (a + k) = true ∧ ¬ (s.fcb + 72 ≤ a + k ∧ a + k < s.fcb + 80) ∧
      ¬ (s.rdRaw (s.fcb + 72) 8 ≤ a + k ∧ a + k < s.rdRaw (s.fcb + 72) 8 + 2 ^ 24) ∧
      ¬ (s.ctxtab.toNat ≤ a + k ∧ a + k < s.ctxtab.toNat + 2 ^ 18))
    (hg : s.tags = []) (hk : s.keyGen = []) : HwWritable s a n :=
  fun k hk' => ⟨(h k hk').1, (h k hk').2.1, (h k hk').2.2.1, (h k hk').2.2.2, by simp [hg, State.genOf, hk, lookupD]⟩

theorem lineFreeOf {s : State} {line : Nat} (h : s.mem.wf = true ∧ s.frozen line = false) (ha : line % 128 = 0)
    (hl : line < 2 ^ 41) (hz : s.pkg = 0) (hr : s.recalls = []) (hd : s.dir = []) (hg : s.tags = []) (hk : s.keyGen = []) :
    LineFree s line :=
  ⟨h.1, ha, by simp [State.here, pkgOf, hz]; omega, h.2, by simp [hr], by simp [hd], fun a he => by
    refine ⟨?_, by simp [hg, State.genOf, hk, lookupD]⟩
    simp only [lineOf] at he
    simp [State.here, pkgOf, hz]; omega⟩

theorem idleOf {s : State} (ho : s.g.ops = []) (hs : s.g.draining = false) (hp : s.posted = []) : Idle s :=
  ⟨by simp [ho], by simp [ho], hs, by simp [hp]⟩

theorem atI : At sI ⟨1, 0⟩ sF := ⟨by decide, by decide, by decide, rfl⟩

theorem useLeafOf {s : State} {l : Leaf} {v : Nat} {a : Access} {pa : Nat}
    (h : leafPa l.entry.toNat l.companion.toNat v = some pa ∧ (s.reservedPa pa || s.inRegion pa) = false ∧ ¬ (a = .store ∧ (!l.entry.getLsbD 2) = true) ∧
      ¬ (a = .fetch ∧ (!l.entry.getLsbD 3) = true) ∧ (s.here pa && (s.keyOf pa).isNone) = false) : s.useLeaf l v a = .ok s pa := by
  obtain ⟨h1, h2, h3, h4, h5⟩ := h
  simp only [State.useLeaf, h1, h2, if_neg h3, if_neg h4, h5, Bool.false_eq_true, if_false]

theorem heldOf {s : State} {va : W64} {a : Access} {pa : Nat}
    (h : canonical va = true ∧ s.tlbFind [.core s.t.core, .die (dieOfCore s.t.core)] s.t.ctx (vaNum va) = some leaf0 ∧
      (∀ x ∈ [TlbSite.core s.t.core, TlbSite.die (dieOfCore s.t.core)], s.tlb.contains (x, leaf0) = true) ∧
      leafPa leaf0.entry.toNat leaf0.companion.toNat (vaNum va) = some pa ∧ (s.reservedPa pa || s.inRegion pa) = false ∧
      ¬ (a = .store ∧ (!leaf0.entry.getLsbD 2) = true) ∧ ¬ (a = .fetch ∧ (!leaf0.entry.getLsbD 3) = true) ∧
      (s.here pa && (s.keyOf pa).isNone) = false) : Held s va a pa :=
  ⟨h.1, leaf0, h.2.1, h.2.2.1, useLeafOf h.2.2.2⟩

/-! ### For each statement, a state and operands that meet its hypotheses: words of the vector and scalar units -/

theorem wit_two_source : ∃ s w r, r ∈ twoSource w ∧ Runs s r.1 w.guard :=
  ⟨sAll, ⟨0#7, 5#7, rot 2#7, scalHi 3#7⟩, _, List.mem_cons_self, by decide, by decide, by decide +kernel⟩
theorem wit_immediate : ∃ s w r, r ∈ immediate w ∧ Runs s r.1 w.guard :=
  ⟨sAll, ⟨0#7, 5#7, own 2#7, 7#23⟩, _, List.mem_cons_self, by decide, by decide, by decide +kernel⟩
theorem wit_one_source : ∃ s w r, r ∈ oneSource w ∧ Runs s r.1 w.guard :=
  ⟨sAll, ⟨0#7, 5#7, own 2#7⟩, _, List.mem_cons_self, by decide, by decide, by decide +kernel⟩
theorem wit_three_source : ∃ s w r, r ∈ threeSource w ∧ Runs s r.1 w.guard :=
  ⟨sAll, ⟨0#7, 5#7, own 2#7, own 3#7, own 4#7⟩, _, List.mem_cons_self, by decide, by decide, by decide +kernel⟩
theorem wit_pairs_three : ∃ s w r, r ∈ pairWords3 w ∧ Runs s r.1 w.guard :=
  ⟨sAll, ⟨0#7, 6#7, own 2#7, own 3#7, own 4#7⟩, _, List.mem_cons_self, by decide, by decide, by decide +kernel⟩
theorem wit_pairs_two : ∃ s w r, r ∈ pairWords2 w ∧ Runs s r.1 w.guard :=
  ⟨sAll, ⟨0#7, 6#7, own 2#7, own 4#7⟩, _, List.mem_cons_self, by decide, by decide, by decide +kernel⟩
theorem wit_lgc3 : ∃ s w, Runs s (.lgc3 w) w.guard :=
  ⟨sAll, ⟨0#7, 1#7, own 2#7, 3#7, 4#7, 0x96#8⟩, by decide, by decide, by decide +kernel⟩
theorem wit_iaddc : ∃ s w, Runs s (.iaddc w) w.guard :=
  ⟨sAll, ⟨0#7, 5#7, own 2#7, own 3#7, 9#7⟩, by decide, by decide, by decide +kernel⟩
theorem wit_sel : ∃ s w, Runs s (.sel w) w.guard :=
  ⟨sAll, ⟨0#7, 5#7, own 2#7, own 3#7, 0#7⟩, by decide, by decide, by decide +kernel⟩
theorem wit_movi : ∃ s w, Runs s (.movi w) w.guard := ⟨sAll, ⟨0#7, 5#7, 7#23⟩, by decide, by decide, by decide +kernel⟩
theorem wit_compares : ∃ s w r, r ∈ compares w ∧ Runs s r.1 w.guard :=
  ⟨sAll, ⟨0#7, 5#7, 6#7, own 2#7, own 3#7⟩, _, List.mem_cons_self, by decide, by decide, by decide +kernel⟩
theorem wit_float_two : ∃ s w r, r ∈ floatTwo w ∧ Runs s r.1 w.guard :=
  ⟨sAll, ⟨0#7, 6#7, own 2#7, own 4#7, .rup⟩, _, List.mem_cons_self, by decide, by decide, by decide +kernel⟩
theorem wit_float_three : ∃ s w r, r ∈ floatThree w ∧ Runs s r.1 w.guard :=
  ⟨sAll, ⟨0#7, 6#7, own 2#7, own 4#7, own 8#7⟩, _, List.mem_cons_self, by decide, by decide, by decide +kernel⟩
theorem wit_float_minmax : ∃ s w r, r ∈ floatMinMax w ∧ Runs s r.1 w.guard :=
  ⟨sAll, ⟨0#7, 6#7, own 2#7, own 4#7⟩, _, List.mem_cons_self, by decide, by decide, by decide +kernel⟩
theorem wit_float_sign : ∃ s w r, r ∈ floatSign w ∧ Runs s r.1 w.guard :=
  ⟨sAll, ⟨0#7, 6#7, own 2#7⟩, _, List.mem_cons_self, by decide, by decide, by decide +kernel⟩
theorem wit_fabs_x2 : ∃ s w, Runs s (.fabsX2 w) w.guard ∧ Runs s (.fnegX2 w) w.guard :=
  ⟨sAll, ⟨0#7, 6#7, own 2#7⟩, ⟨by decide, by decide, by decide +kernel⟩, by decide, by decide, by decide +kernel⟩
theorem wit_float_compare : ∃ s w r, r ∈ floatCompare w ∧ Runs s r.1 w.guard :=
  ⟨sAll, ⟨0#7, 6#7, 7#7, own 2#7, own 4#7⟩, _, List.mem_cons_self, by decide, by decide, by decide +kernel⟩
theorem wit_fclass : ∃ s w, Runs s (.fclassF32 w) w.guard :=
  ⟨sAll, ⟨0#7, 6#7, 7#7, own 2#7, own 4#7⟩, by decide, by decide, by decide +kernel⟩
/-- Without lookahead, and with the longest. -/
theorem wit_long_latency : (∃ s w r, r ∈ longOne w 0#4 ∧ Runs s r.1 w.guard) ∧ ∃ s w r, r ∈ longTwo w 15#4 ∧ Runs s r.1 w.guard :=
  ⟨⟨sAll, ⟨0#7, 6#7, own 2#7⟩, _, List.mem_cons_self, by decide, by decide, by decide +kernel⟩,
   sAll, ⟨0#7, 6#7, own 2#7, own 4#7⟩, _, List.mem_cons_self, by decide, by decide, by decide +kernel⟩
theorem wit_fcvt : ∃ s w, w.mode = .sel .rne ∧ Runs s (.fcvt w) w.guard ∧ Instr.wf (.fcvt w) = true :=
  ⟨sAll, ⟨0#7, 6#7, own 2#7, .f32, .f64, .sel .rne⟩, rfl, ⟨by decide, by decide, by decide +kernel⟩, by decide⟩
theorem wit_fcvt_sr : ∃ s w, w.mode = .sr ∧ Runs s (.fcvt w) w.guard ∧ Instr.wf (.fcvt w) = true :=
  ⟨sAll, ⟨0#7, 6#7, own 2#7, .bf16, .f32, .sr⟩, rfl, ⟨by decide, by decide, by decide +kernel⟩, by decide⟩
theorem wit_seed : ∃ s w, Runs s (.fcvtSeed w) w.guard := ⟨sAll, ⟨0#7, own 2#7⟩, by decide, by decide, by decide +kernel⟩
theorem wit_fpack : ∃ s w, Runs s (.fpack w) w.guard :=
  ⟨sAll, ⟨0#7, 6#7, own 2#7, 4#7, .e4m3, .f32, .sr⟩, by decide, by decide, by decide +kernel⟩
theorem wit_i2f : ∃ s w, Runs s (.i2f w) w.guard :=
  ⟨sAll, ⟨0#7, 6#7, own 2#7, .f32, .si64, .sel .rne⟩, by decide, by decide, by decide +kernel⟩
theorem wit_f2i : ∃ s w, cvtPacked w.src = false ∧ Runs s (.f2i w) w.guard :=
  ⟨sAll, ⟨0#7, 6#7, own 2#7, .ui8, .f32, .sel .rtz⟩, by decide, by decide, by decide, by decide +kernel⟩
theorem wit_frnd : ∃ s w, Runs s (.frnd w) w.guard ∧ Instr.wf (.frnd w) = true :=
  ⟨sAll, ⟨0#7, 6#7, own 2#7, .f16x2, .f16x2, .sel .rdn⟩, ⟨by decide, by decide, by decide +kernel⟩, by decide⟩
theorem wit_fscale : ∃ s w, Runs s (.fscale w) w.guard ∧ Instr.wf (.fscale w) = true :=
  ⟨sAll, ⟨0#7, 6#7, own 2#7, 4#7, .f32, .f32, .sel .rne⟩, ⟨by decide, by decide, by decide +kernel⟩, by decide⟩
theorem wit_fdot2 : ∃ s w, Runs s (.fdot2Bf16x2 w) w.guard :=
  ⟨sAll, ⟨0#7, 6#7, own 2#7, own 3#7, own 4#7⟩, by decide, by decide, by decide +kernel⟩
theorem wit_hword : ∃ (s : State) (x y : Half), s.power ≠ .off ∧ s.g.inAlloc (.hWord x y) = true ∧ Instr.wf (.hWord x y) = true ∧
    s.g.halfBad x (s.actLanes (x.guard.zeroExtend 7)) = 0#32 ∧ s.g.halfBad y (s.actLanes (y.guard.zeroExtend 7)) = 0#32 :=
  ⟨sAll, ⟨.iadd, 0#3, 4#7, own 5#7⟩, ⟨.faddF32, 0#3, 6#7, own 7#7⟩, by decide, by decide, by decide, by decide +kernel, by decide +kernel⟩
theorem wit_rounding : ∃ x neg m e, x < 2 ^ fmtF16.width ∧ fmtF16.decode x = .num neg m e := ⟨0x3C00, false, _, _, by decide, rfl⟩
theorem wit_nan : (fmtF32.decode 0x7F800001).isNan = true := by decide
theorem wit_votes : ∃ s w, Runs s (.voteAll w) w.guard ∧ Runs s (.voteAny w) w.guard ∧ s.actLanes w.guard ≠ 0#32 :=
  ⟨sAll, ⟨0#7, 3#4, 9#7⟩, ⟨by decide, by decide, by decide +kernel⟩, ⟨by decide, by decide, by decide +kernel⟩, by decide +kernel⟩
theorem wit_equni : ∃ s w, Runs s (.equni64 w) w.guard ∧ s.actLanes w.guard ≠ 0#32 :=
  ⟨sAll, ⟨0#7, 3#4, own 2#7⟩, ⟨by decide, by decide, by decide +kernel⟩, by decide +kernel⟩
theorem wit_ballot : ∃ s, Runs s (.voteBal ⟨0#7, 300#9, 9#7⟩) 0#7 ∧ Runs s (.firstlane ⟨0#7, 300#9⟩) 0#7 ∧ s.actLanes 0#7 ≠ 0#32 :=
  ⟨sAll, ⟨by decide, by decide, by decide +kernel⟩, ⟨by decide, by decide, by decide +kernel⟩, by decide +kernel⟩
theorem wit_lanemask : ∃ s w, Runs s (.lanemask w) w.guard := ⟨sAll, ⟨0#7, 6#7, .run⟩, by decide, by decide, by decide +kernel⟩
theorem wit_eqmask : ∃ s w, Runs s (.eqmask64 w) w.guard := ⟨sAll, ⟨0#7, 6#7, own 2#7⟩, by decide, by decide, by decide +kernel⟩
/-- With lanes active, and with none. -/
theorem wit_reduce : (∃ s w, Runs s (.reduce w) w.guard ∧ s.actLanes w.guard ≠ 0#32) ∧
    ∃ s w, Runs s (.reduce w) w.guard ∧ s.actLanes w.guard = 0#32 :=
  ⟨⟨sAll, ⟨0#7, 300#9, own 2#7, .addF32⟩, ⟨by decide, by decide, by decide +kernel⟩, by decide +kernel⟩,
   sAll, ⟨5#7, 300#9, own 2#7, .addF32⟩, ⟨by decide, by decide, by decide +kernel⟩, by decide +kernel⟩
theorem wit_reduce_fold : ∃ f, intOp .minU = some f := ⟨_, rfl⟩
theorem wit_scan : ∃ s w f, intOp w.op = some f ∧ Runs s (.scanExc w) w.guard :=
  ⟨sAll, ⟨0#7, 6#7, own 2#7, .add64⟩, _, rfl, by decide, by decide, by decide +kernel⟩
theorem wit_pand : ∃ s w, Runs s (.pand w) w.guard ∧ Runs s (.pxor w) w.guard :=
  ⟨sAll, ⟨0#7, 6#7, 7#7, 8#7, 9#7⟩, ⟨by decide, by decide, by decide +kernel⟩, by decide, by decide, by decide +kernel⟩
theorem wit_pmov : ∃ s w, Runs s (.pmov w) w.guard := ⟨sAll, ⟨0#7, 6#7, 7#7, 8#7⟩, by decide, by decide, by decide +kernel⟩
theorem wit_nop : ∃ s : State, s.power ≠ .off ∧ s.g.inAlloc (.nop ⟨0#7⟩) = true ∧ s.g.inAlloc (.yield ⟨0#7⟩) = true ∧
    s.g.inAlloc (.exit ⟨0#7⟩) = true := ⟨sAll, by decide, by decide, by decide, by decide⟩
theorem wit_branches : ∃ s, Runs s (.bra ⟨0#7, -3#23⟩) 0#7 ∧ Runs s (.brx ⟨0#7, own 2#7⟩) 0#7 ∧ RunsU s (.sbra ⟨0#4, false, 5#20⟩) 0#4 false :=
  ⟨sAll, ⟨by decide, by decide, by decide +kernel⟩, ⟨by decide, by decide, by decide +kernel⟩,
   ⟨by decide, by decide, by decide +kernel⟩, by decide⟩
theorem wit_call : ∃ s, Runs s (.call ⟨0#7, 9#7, 100#23⟩) 0#7 ∧ Runs s (.callx ⟨0#7, 9#7, own 2#7⟩) 0#7 ∧
    ∀ l : Fin 32, (s.actLanes 0#7).getLsbD l.val = true → s.g.dep[l] ≠ 255#8 :=
  ⟨sAll, ⟨by decide, by decide, by decide +kernel⟩, ⟨by decide, by decide, by decide +kernel⟩, by decide +kernel⟩
theorem wit_ret : ∃ s, Runs s (.ret ⟨0#7, own 2#7⟩) 0#7 ∧
    ∀ l : Fin 32, (s.actLanes 0#7).getLsbD l.val = true → s.g.dep[l] ≠ 0#8 :=
  ⟨{ sAll with g := { sAll.g with dep := Vector.replicate 32 255#8 } }, ⟨by decide, by decide, by decide +kernel⟩, by decide +kernel⟩

/-! Scalar-unit words. -/

theorem wit_scalar_false : ∃ s : State, s.power ≠ .off ∧ s.g.inAlloc (.sadd ⟨0#4, true, 4#9, 5#9, 6#9⟩) = true ∧ s.g.qp 0#4 = true :=
  ⟨sAll, by decide, by decide, by decide⟩
theorem wit_scalar_two : ∃ s u r, r ∈ scalarTwo u ∧ RunsU s r.1 u.q u.neg :=
  ⟨sAll, ⟨0#4, false, 4#9, 5#9, 6#9⟩, _, List.mem_cons_self, ⟨by decide, by decide, by decide +kernel⟩, by decide⟩
theorem wit_scalar_immediate : ∃ s u r, r ∈ scalarImmediate u ∧ RunsU s r.1 u.q u.neg :=
  ⟨sAll, ⟨3#4, true, 4#9, 5#9, 6#20⟩, _, List.mem_cons_self, ⟨by decide, by decide, by decide +kernel⟩, by decide⟩
theorem wit_smovi : ∃ s u, RunsU s (.smovi u) u.q u.neg :=
  ⟨sAll, ⟨0#4, false, 4#9, 5#20⟩, ⟨by decide, by decide, by decide +kernel⟩, by decide⟩
theorem wit_scalar_compare : ∃ s u r, r ∈ scalarCompares u ∧ RunsU s r.1 u.q u.neg :=
  ⟨sAll, ⟨0#4, false, 1#4, 2#4, 5#9, 6#9⟩, _, List.mem_cons_self, ⟨by decide, by decide, by decide +kernel⟩, by decide⟩
theorem wit_ssel : ∃ s u, RunsU s (.ssel u) u.q u.neg :=
  ⟨sAll, ⟨0#4, false, 4#9, 5#9, 6#9, 3#4⟩, ⟨by decide, by decide, by decide +kernel⟩, by decide⟩
/-- The last pair that SPEER may name. -/
theorem wit_speer : ∃ s u, u.b.toNat < 511 ∧ u.b.toNat = 510 ∧ RunsU s (.speer u) u.q u.neg :=
  ⟨sAll, ⟨0#4, false, 4#9, 5#9, 510#9, -1#20⟩, by decide, by decide, ⟨by decide, by decide, by decide +kernel⟩, by decide⟩
theorem wit_sread : ∃ s u gr x, s.myGrid = some gr ∧ (u.sel, x) ∈ specials s gr ∧ RunsU s (.sread u) u.q u.neg :=
  ⟨sAll, ⟨0#4, false, 4#9, 0x00#8⟩, fetchGrid, 0, rfl, by unfold specials; exact List.mem_cons_self,
   ⟨by decide, by decide, by decide +kernel⟩, by decide⟩
theorem wit_sread_privileged : ∃ s u x, (u.sel, x) ∈ privileges s ∧ s.t.ctx = s.supctx ∧ RunsU s (.sread u) u.q u.neg :=
  ⟨sAll, ⟨0#4, false, 4#9, 0x80#8⟩, 0, by unfold privileges; exact List.mem_cons_self, by decide,
   ⟨by decide, by decide, by decide +kernel⟩, by decide⟩
theorem wit_sread_vector : ∃ s u, 0x40 ≤ u.sel.toNat ∧ u.sel.toNat = 0x43 ∧ RunsU s (.sread u) u.q u.neg :=
  ⟨sAll, ⟨0#4, false, 4#9, 0x43#8⟩, by decide, by decide, ⟨by decide, by decide, by decide +kernel⟩, by decide⟩
theorem wit_sreadw : ∃ s u x, RunsU s (.sreadW u) u.q u.neg ∧ (u.sel, x) ∈ privileges s ∧ s.t.ctx = s.supctx ∧ writableSel u.sel = true :=
  ⟨sAll, ⟨0#4, false, 4#9, 5#9, 0x80#8⟩, 0, ⟨⟨by decide, by decide, by decide +kernel⟩, by decide⟩,
   by unfold privileges; exact List.mem_cons_self, by decide, by decide⟩
theorem wit_sread_refused : ∃ s : State, s.power ≠ .off ∧ s.t.ctx ≠ s.supctx := ⟨{ sAll with supctx := 5#10 }, by decide, by decide⟩

/-! ### The same for memory, synchronisation and allocation -/

theorem heldA (a : Access) (h : a = .load ∨ a = .store) : Held sA 0#64 a (2 ^ 40) :=
  by rcases h with rfl | rfl <;> exact heldOf (by decide +kernel)

theorem settledA : Settled sA (2 ^ 40) 128 := settledOf (by decide +kernel) rfl rfl rfl rfl rfl rfl rfl

theorem settledPart {n : Nat} (h : n ≤ 128) : Settled sA (2 ^ 40) n :=
  { settledA with line := fun k hk => settledA.line k (by omega), here := fun k hk => settledA.here k (by omega), known := fun k hk => settledA.known k (by omega) }

theorem wit_ldv : ∃ (s : State) (m : MLoad) (l : Fin 32) (pa : Nat), m.la = 0#4 ∧
    OneLane s (.ldv m) m.guard l (s.g.ea m.addr l) m.size.bytes ∧ Held s (s.g.ea m.addr l) .load pa ∧
    Settled s pa m.size.bytes ∧ s.corePoison s.t.core pa m.size.bytes = false ∧
    (m.split = true → s.inL1 s.t.core pa m.size.bytes (dieUp m.acc.scope) = true ∧ m.acc.isAcq = false) :=
  ⟨sA, ⟨0#7, 0#4, 8#7, addr0, .b16, .strong .acq .sys, false, false⟩, 0, 2 ^ 40, rfl,
   ⟨⟨by decide, by decide, by decide +kernel⟩, by decide +kernel, by decide +kernel, idleOf rfl rfl rfl⟩, heldA _ (.inl rfl),
   settledPart (by decide), by decide +kernel, by decide⟩

/-- A `.split` load that the L1 serves. -/
theorem wit_ldv_split : ∃ (s : State) (m : MLoad) (l : Fin 32) (pa : Nat), m.la = 0#4 ∧ m.split = true ∧
    OneLane s (.ldv m) m.guard l (s.g.ea m.addr l) m.size.bytes ∧ Held s (s.g.ea m.addr l) .load pa ∧
    Settled s pa m.size.bytes ∧ s.corePoison s.t.core pa m.size.bytes = false ∧
    s.inL1 s.t.core pa m.size.bytes (dieUp m.acc.scope) = true ∧ m.acc.isAcq = false :=
  ⟨{ sA with l1 := [⟨0, 2 ^ 38, 7#32, false, false⟩] }, ⟨0#7, 0#4, 8#7, addr0, .b4, .wk, true, false⟩, 0, 2 ^ 40, rfl, rfl,
   ⟨⟨by decide, by decide, by decide +kernel⟩, by decide +kernel, by decide +kernel, idleOf rfl rfl rfl⟩,
   heldOf (by decide +kernel),
   settledOf (by decide +kernel) rfl rfl rfl rfl rfl rfl rfl, by decide +kernel, by decide +kernel, by decide⟩

/-- The last bytes of the scratchpad. -/
theorem wit_lds : ∃ (s : State) (m : MLoad) (l : Fin 32), m.la = 0#4 ∧ (s.g.ea m.addr l).toNat + m.size.bytes = 1536 * s.t.rows ∧
    OneScratch s (.lds m) m.guard l (s.g.ea m.addr l) m.size.bytes :=
  ⟨withV sA 2 24572#32, ⟨0#7, 0#4, 8#7, addr0, .b4, .strong .st .team, false, false⟩, 0, rfl, by decide +kernel,
   ⟨⟨⟨by decide, by decide, by decide +kernel⟩, by decide +kernel, by decide +kernel, idleOf rfl rfl rfl⟩, by decide +kernel, by decide +kernel⟩⟩

theorem wit_sld : ∃ (s : State) (u : ULoad) (x pa : Nat), u.la = 0#4 ∧ RunsU s (.sld u) u.q u.neg ∧
    OneForGroup s (.sld u) s.iss.mask (s.g.sr64 (reg9 u.a) + u.disp.signExtend 64) u.size.bytes ∧ u.sp = false ∧
    Held s (s.g.sr64 (reg9 u.a) + u.disp.signExtend 64) .load pa ∧ Settled s pa u.size.bytes ∧
    s.corePoison s.t.core pa u.size.bytes = false ∧ x = seen s u.acc pa u.size.bytes :=
  ⟨sA, ⟨0#4, false, 0#4, 20#9, 4#9, .b8, .wk, false, false, 0#9⟩, _, 2 ^ 40, rfl,
   ⟨⟨by decide, by decide, by decide +kernel⟩, by decide⟩, ⟨⟨by decide, by decide, by decide +kernel⟩, by decide, by decide +kernel, idleOf rfl rfl rfl⟩,
   rfl, heldA _ (.inl rfl), settledPart (by decide), by decide +kernel, rfl⟩

theorem wit_sld_sp : ∃ (s : State) (u : ULoad), u.la = 0#4 ∧ RunsU s (.sld u) u.q u.neg ∧
    OneForGroup s (.sld u) s.iss.mask (s.g.sr64 (reg9 u.a) + u.disp.signExtend 64) u.size.bytes ∧ u.sp = true ∧
    ScratchRange s (s.g.sr64 (reg9 u.a) + u.disp.signExtend 64) u.size.bytes :=
  ⟨sA, ⟨0#4, false, 0#4, 20#9, 4#9, .b4, .wk, true, true, 8#9⟩, rfl, ⟨⟨by decide, by decide, by decide +kernel⟩, by decide⟩,
   ⟨⟨by decide, by decide, by decide +kernel⟩, by decide, by decide +kernel, idleOf rfl rfl rfl⟩, rfl, by decide +kernel, by decide +kernel⟩

theorem wit_stv : ∃ (s : State) (m : MStore) (l : Fin 32) (pa : Nat), OneLane s (.stv m) m.guard l (s.g.ea m.addr l) m.size.bytes ∧
    Held s (s.g.ea m.addr l) .store pa ∧ Settled s pa m.size.bytes ∧ s.recalls = [] ∧ KeyMapApart s pa m.size.bytes pa ∧
    ∀ e ∈ s.posted, e.id < s.nextId :=
  ⟨sA, ⟨0#7, 8#7, addr0, .b16, .strong .rel .sys⟩, 0, 2 ^ 40,
   ⟨⟨by decide, by decide, by decide +kernel⟩, by decide +kernel, by decide +kernel, idleOf rfl rfl rfl⟩, heldA _ (.inr rfl),
   settledPart (by decide), rfl, by unfold KeyMapApart; decide +kernel, by decide⟩

theorem wit_sst : ∃ (s : State) (u : UStore) (pa : Nat), u.sp = false ∧ Instr.wf (.sst u) = true ∧ RunsU s (.sst u) u.q u.neg ∧
    OneForGroup s (.sst u) s.iss.mask (s.g.sr64 (reg9 u.a) + u.disp.signExtend 64) u.size.bytes ∧
    Held s (s.g.sr64 (reg9 u.a) + u.disp.signExtend 64) .store pa :=
  ⟨sA, ⟨0#4, false, 20#9, 4#9, .b8, .wk, false, 0#9⟩, 2 ^ 40, rfl, by decide, ⟨⟨by decide, by decide, by decide +kernel⟩, by decide⟩,
   ⟨⟨by decide, by decide, by decide +kernel⟩, by decide, by decide +kernel, idleOf rfl rfl rfl⟩, heldA _ (.inr rfl)⟩

/-- A strong store of 16 bytes, which acts by halves, at the end of the scratchpad. -/
theorem wit_sts_halves : ∃ (s : State) (m : MStore) (l : Fin 32), (∀ e ∈ s.posted, e.core ≠ s.t.core) ∧
    OneLane s (.sts m) m.guard l (s.g.ea m.addr l) m.size.bytes ∧ isHalved m.size.bytes m.acc = true ∧
    (s.g.ea m.addr l).toNat + m.size.bytes = 1536 * s.t.rows ∧ (s.g.ea m.addr l).toNat < 2 ^ 21 :=
  ⟨withV sA 2 24560#32, ⟨0#7, 8#7, addr0, .b16, .strong .rel .sys⟩, 0, by decide,
   ⟨⟨by decide, by decide, by decide +kernel⟩, by decide +kernel, by decide +kernel, idleOf rfl rfl rfl⟩, rfl, by decide +kernel,
   by decide +kernel⟩

theorem wit_sst_sp : ∃ (s : State) (u : UStore), u.sp = true ∧ Instr.wf (.sst u) = true ∧ RunsU s (.sst u) u.q u.neg ∧
    (∀ e ∈ s.posted, e.core ≠ s.t.core) ∧
    OneForGroup s (.sst u) s.iss.mask (s.g.sr64 (reg9 u.a) + u.disp.signExtend 64) u.size.bytes ∧
    (s.g.sr64 (reg9 u.a) + u.disp.signExtend 64).toNat + u.size.bytes ≤ 1536 * s.t.rows :=
  ⟨sA, ⟨0#4, false, 20#9, 4#9, .b8, .wk, true, 0#9⟩, rfl, by decide, ⟨⟨by decide, by decide, by decide +kernel⟩, by decide⟩, by decide,
   ⟨⟨by decide, by decide, by decide +kernel⟩, by decide, by decide +kernel, idleOf rfl rfl rfl⟩, by decide +kernel⟩

/-- A weak load of 16 bytes: one access. -/
theorem wit_ldv_weak : ∃ (s : State) (m : MLoad) (l : Fin 32) (pa : Nat), m.la = 0#4 ∧ isHalved m.size.bytes m.acc = false ∧
    OneLane s (.ldv m) m.guard l (s.g.ea m.addr l) m.size.bytes ∧ Held s (s.g.ea m.addr l) .load pa ∧
    Settled s pa m.size.bytes ∧ s.corePoison s.t.core pa m.size.bytes = false ∧ m.split = false :=
  ⟨sA, ⟨0#7, 0#4, 8#7, addr0, .b16, .wk, false, false⟩, 0, 2 ^ 40, rfl, rfl,
   ⟨⟨by decide, by decide, by decide +kernel⟩, by decide +kernel, by decide +kernel, idleOf rfl rfl rfl⟩, heldA _ (.inl rfl),
   settledPart (by decide), by decide +kernel, rfl⟩

theorem wit_sts : ∃ (s : State) (m : MStore) (l : Fin 32), (∀ e ∈ s.posted, e.core ≠ s.t.core) ∧
    OneLane s (.sts m) m.guard l (s.g.ea m.addr l) m.size.bytes ∧
    (s.g.ea m.addr l).toNat + m.size.bytes ≤ 1536 * s.t.rows ∧ (s.g.ea m.addr l).toNat < 2 ^ 21 :=
  ⟨sA, ⟨0#7, 8#7, addr0, .b8, .wk⟩, 0, by decide,
   ⟨⟨by decide, by decide, by decide +kernel⟩, by decide +kernel, by decide +kernel, idleOf rfl rfl rfl⟩, by decide +kernel, by decide +kernel⟩

theorem wit_atom : ∃ (s : State) (m : MAtom) (l : Fin 32) (pa : Nat), m.la = 0#4 ∧ OneLane s (.atom m) m.guard l (s.g.ea m.addr l) 8 ∧
    m.wide8 = true ∧ Held s (s.g.ea m.addr l) .store pa ∧ Settled s pa 8 ∧ s.recalls = [] :=
  ⟨sA, ⟨0#7, 0#4, 8#7, addr0, 10#7, .fadd, true, .ar, .sys⟩, 0, 2 ^ 40, rfl,
   ⟨⟨by decide, by decide, by decide +kernel⟩, by decide +kernel, by decide +kernel, idleOf rfl rfl rfl⟩, rfl, heldA _ (.inr rfl), settledPart (by decide), rfl⟩

theorem wit_red : ∃ (s : State) (m : MAtom) (l : Fin 32) (pa : Nat), OneLane s (.red m) m.guard l (s.g.ea m.addr l) 4 ∧
    m.wide8 = false ∧ Held s (s.g.ea m.addr l) .store pa ∧ Settled s pa 4 ∧ s.recalls = [] :=
  ⟨sA, ⟨0#7, 0#4, 0#7, addr0, 10#7, .min, false, .rel, .die⟩, 0, 2 ^ 40,
   ⟨⟨by decide, by decide, by decide +kernel⟩, by decide +kernel, by decide +kernel, idleOf rfl rfl rfl⟩, rfl, heldA _ (.inr rfl), settledPart (by decide), rfl⟩

theorem wit_casw : ∃ (s : State) (m : MCasw) (l : Fin 32) (pa : Nat), m.la = 0#4 ∧ OneLane s (.casw m) m.guard l (s.g.ea m.addr l) 32 ∧
    m.wide32 = true ∧ Held s (s.g.ea m.addr l) .store pa ∧ Settled s pa 32 ∧ s.recalls = [] :=
  ⟨sA, ⟨0#7, 0#4, 8#7, addr0, 16#7, true, .ar, .sys⟩, 0, 2 ^ 40, rfl,
   ⟨⟨by decide, by decide, by decide +kernel⟩, by decide +kernel, by decide +kernel, idleOf rfl rfl rfl⟩, rfl, heldA _ (.inr rfl), settledPart (by decide), rfl⟩

theorem wit_atoms : ∃ (s : State) (m : MAtom) (l : Fin 32), m.la = 0#4 ∧ (∀ e ∈ s.posted, e.core ≠ s.t.core) ∧ m.wide8 = false ∧
    OneScratch s (.atoms m) m.guard l (s.g.ea m.addr l) 4 :=
  ⟨sA, ⟨0#7, 0#4, 8#7, addr0, 10#7, .add, false, .st, .team⟩, 0, rfl, by decide, rfl,
   ⟨⟨⟨by decide, by decide, by decide +kernel⟩, by decide +kernel, by decide +kernel, idleOf rfl rfl rfl⟩, by decide +kernel, by decide +kernel⟩⟩

/-- A queue whose tail is the node at 0x200, to which the node at 0x100 is added. -/
def sQueue : State := withV (withMem sA (2 ^ 40 + 8) 8 0x200) 10 0x100#32

theorem wit_enq : ∃ (s : State) (m : MEnq) (l : Fin 32) (pa lpa : Nat), m.la = 0#4 ∧ OneLane s (.enq m) m.guard l (s.g.ea m.addr l) 16 ∧
    Held s (s.g.ea m.addr l) .store pa ∧ Settled s pa 16 ∧ s.recalls = [] ∧ ((s.g.vpair m.e l).toNat + 8 * m.link.toNat) % 8 = 0 ∧
    s.g.vpair m.e l ≠ 0#64 ∧ numAt s (pa + 8) 8 ≠ 0 ∧
    (let link := BitVec.ofNat 64 (numAt s (pa + 8) 8) + BitVec.ofNat 64 (8 * m.link.toNat)
     link.toNat % 8 = 0 ∧ HeldAtHome s pa link .store lpa ∧ Settled s lpa 8 ∧ KeyMapApart s (pa + 8) 8 lpa ∧
       (lpa + 8 ≤ pa ∨ pa + 16 ≤ lpa)) :=
  ⟨sQueue, ⟨0#7, 0#4, 8#7, addr0, 10#7, 2#4, .rel, .sys⟩, 0, 2 ^ 40, 2 ^ 40 + 0x210, rfl,
   ⟨⟨by decide, by decide, by decide +kernel⟩, by decide +kernel, by decide +kernel, idleOf rfl rfl rfl⟩,
   heldOf (by decide +kernel),
   settledOf (by decide +kernel) rfl rfl rfl rfl rfl rfl rfl, rfl, by decide +kernel, by decide +kernel, by decide +kernel, by decide +kernel,
   ⟨by decide +kernel, leaf0, by decide +kernel, useLeafOf (by decide +kernel)⟩, settledOf (by decide +kernel) rfl rfl rfl rfl rfl rfl rfl, by unfold KeyMapApart; decide +kernel, by decide⟩

/-- A chain of one step: the pointer word at 0 leads to 0x180, whose 16 bytes are the datum. -/
def sChain : State := withS (withS (withMem sA (2 ^ 40) 8 0x180) 40 0x41#64) 43 (BitVec.allOnes 64)

theorem wit_chld : ∃ (s : State) (m : MChld) (l : Fin 32) (x : Nat), m.la = 0#4 ∧ OneLane s (.chld m) m.guard l 0#64 1 ∧
    chainOk (s.g.sr64 (sreg7 m.e)) m.d s.g.n = true ∧ s.g.badChain m.e = none ∧
    (s.g.sbad.any fun b => b.1 == m.e.toNat) = false ∧
    ChainPath s (s.g.chainRecord m.e) (chainSteps (s.g.chainRecord m.e)) (s.g.ea m.addr l) none x :=
  ⟨sChain, ⟨0#7, 0#4, 8#7, addr0, 40#7, .acq, .sys⟩, 0, _, rfl,
   ⟨⟨by decide, by decide, by decide +kernel⟩, by decide +kernel, by decide, idleOf rfl rfl rfl⟩, by decide +kernel, by decide +kernel, by decide,
   (⟨2 ^ 40, heldOf (by decide +kernel), by decide +kernel, settledOf (by decide +kernel) rfl rfl rfl rfl rfl rfl rfl,
    2 ^ 40 + 0x180, ⟨by decide +kernel, leaf0, by decide +kernel, useLeafOf (by decide +kernel)⟩, by decide +kernel, settledOf (by decide +kernel) rfl rfl rfl rfl rfl rfl rfl, rfl⟩ :
     ChainPath sChain _ 1 _ none _)⟩

theorem wit_prefetch : ∃ s, Runs s (.prefetch ⟨0#7, addr0, true⟩) 0#7 := ⟨sA, by decide, by decide, by decide +kernel⟩
/-- With lanes active, and with none. -/
theorem wit_fence : ∃ s, Runs s (.fence ⟨0#7, .sys⟩) 0#7 ∧ s.actLanes 0#7 ≠ 0#32 ∧ Runs s (.fence ⟨5#7, .sys⟩) 5#7 ∧ s.actLanes 5#7 = 0#32 :=
  ⟨sA, ⟨by decide, by decide, by decide +kernel⟩, by decide +kernel, ⟨by decide, by decide, by decide +kernel⟩, by decide +kernel⟩

/-- Scalar 40 holds the address 0x200 of a counter. -/
def sCtr : State := withS sA 40 0x200#64

theorem heldC (a : Access) (h : a = .load ∨ a = .store) : Held sCtr 0x200#64 a (2 ^ 40 + 0x200) :=
  by rcases h with rfl | rfl <;> exact heldOf (by decide +kernel)

theorem wit_stc : ∃ (s : State) (m : MStc) (l : Fin 32) (pa cpa : Nat), OneLane s (.stc m) m.guard l (s.g.ea m.addr l) m.size.bytes ∧
    Held s (s.g.ea m.addr l) .store pa ∧ (s.g.sr64 (sreg7 m.e)).toNat % 8 = 0 ∧ Held s (s.g.sr64 (sreg7 m.e)) .store cpa :=
  ⟨sCtr, ⟨0#7, 8#7, addr0, 40#7, .b16, .rel, .sys⟩, 0, 2 ^ 40, 2 ^ 40 + 0x200,
   ⟨⟨by decide, by decide, by decide +kernel⟩, by decide +kernel, by decide +kernel, idleOf rfl rfl rfl⟩,
   heldOf (by decide +kernel), by decide +kernel, heldC _ (.inr rfl)⟩

/-- The counter in memory, and in scratchpad. -/
theorem wit_acp : ∃ (s : State) (m : MAcp) (l : Fin 32) (pa cpa : Nat), OneLane s (.acp m) m.guard l (s.g.ea m.addr l) m.size.bytes ∧
    Held s (s.g.ea m.addr l) (if m.toGlobal then .store else .load) pa ∧
    (let a := (s.g.vr (reg7 m.d) l).toNat
     let ctr := s.g.sr64 (sreg7 m.e)
     a % m.size.bytes = 0 ∧ a + m.size.bytes ≤ 1536 * s.t.rows ∧ a < 2 ^ 21 ∧ ctr.toNat % 8 = 0 ∧
     (ctr.toNat + 8 ≤ 1536 * s.t.rows ∧ ctr.toNat < 2 ^ 21) ∧ Held s ctr .store cpa) :=
  ⟨sCtr, ⟨0#7, 0#4, 8#7, addr0, 40#7, .b16, true, false, .sys⟩, 0, 2 ^ 40, 2 ^ 40 + 0x200,
   ⟨⟨by decide, by decide, by decide +kernel⟩, by decide +kernel, by decide +kernel, idleOf rfl rfl rfl⟩,
   heldOf (by decide +kernel),
   by decide +kernel, by decide +kernel, by decide +kernel, by decide +kernel, by decide +kernel, heldC _ (.inr rfl)⟩

theorem wit_cinc : ∃ (s : State) (g : GCtr) (pa : Nat), OneForGroup s (.cinc g) (s.actLanes g.guard) (s.g.sr64 (sreg7 g.a)) 8 ∧
    (∀ e ∈ s.posted, e.core ≠ s.t.core) ∧ g.sp = false ∧ Held s (s.g.sr64 (sreg7 g.a)) .store pa ∧ Settled s pa 8 ∧ s.recalls = [] ∧
    (∀ x ∈ s.triggers, x.addr ≠ pa) :=
  ⟨sCtr, ⟨0#7, 40#7, 41#7, false, .rel, .sys⟩, 2 ^ 40 + 0x200,
   ⟨⟨by decide, by decide, by decide +kernel⟩, by decide +kernel, by decide +kernel, idleOf rfl rfl rfl⟩, by decide, rfl, heldC _ (.inr rfl),
   settledOf (by decide +kernel) rfl rfl rfl rfl rfl rfl rfl, rfl, by decide⟩

theorem wit_cdec_sp : ∃ (s : State) (g : GCtr), OneForGroup s (.cdec g) (s.actLanes g.guard) (s.g.sr64 (sreg7 g.a)) 8 ∧
    (∀ e ∈ s.posted, e.core ≠ s.t.core) ∧ g.sp = true ∧ ScratchRange s (s.g.sr64 (sreg7 g.a)) 8 :=
  ⟨sCtr, ⟨0#7, 40#7, 41#7, true, .rel, .sys⟩, ⟨⟨by decide, by decide, by decide +kernel⟩, by decide +kernel, by decide +kernel, idleOf rfl rfl rfl⟩,
   by decide, rfl, by decide +kernel, by decide +kernel⟩

theorem wit_cread : ∃ (s : State) (g : GRead) (pa : Nat), g.la = 0#4 ∧
    OneForGroup s (.cread g) (s.actLanes g.guard) (s.g.sr64 (sreg7 g.a)) 8 ∧ g.sp = false ∧ Held s (s.g.sr64 (sreg7 g.a)) .load pa ∧
    Settled s pa 8 ∧ s.corePoison s.t.core pa 8 = false :=
  ⟨sCtr, ⟨0#7, 0#4, 12#7, 40#7, false, .acq, .sys⟩, 2 ^ 40 + 0x200, rfl,
   ⟨⟨by decide, by decide, by decide +kernel⟩, by decide +kernel, by decide +kernel, idleOf rfl rfl rfl⟩, rfl, heldC _ (.inl rfl),
   settledOf (by decide +kernel) rfl rfl rfl rfl rfl rfl rfl, by decide +kernel⟩

/-- At the operand, and one below it. -/
theorem wit_cwait : ∃ (s u : State) (g : GCtr), OneForGroup s (.cwait g) (s.actLanes g.guard) (s.g.sr64 (sreg7 g.a)) 8 ∧
    OneForGroup u (.cwait g) (u.actLanes g.guard) (u.g.sr64 (sreg7 g.a)) 8 ∧ g.sp = true ∧
    ScratchRange s (s.g.sr64 (sreg7 g.a)) 8 ∧ ScratchRange u (u.g.sr64 (sreg7 g.a)) 8 ∧
    (s.g.sr64 (sreg7 g.e)).toNat = scrNum s (s.g.sr64 (sreg7 g.a)).toNat 8 ∧
    (u.g.sr64 (sreg7 g.e)).toNat = scrNum u (u.g.sr64 (sreg7 g.a)).toNat 8 + 1 :=
  ⟨{ sCtr with t := { sCtr.t with scr := (List.range 8).map fun k => (0x200 + k, 0#8) } },
   withS { sCtr with t := { sCtr.t with scr := (List.range 8).map fun k => (0x200 + k, 0#8) } } 41 1#64,
   ⟨0#7, 40#7, 41#7, true, .acq, .sys⟩, ⟨⟨by decide, by decide, by decide +kernel⟩, by decide +kernel, by decide +kernel, idleOf rfl rfl rfl⟩,
   ⟨⟨by decide, by decide, by decide +kernel⟩, by decide +kernel, by decide +kernel, idleOf rfl rfl rfl⟩, rfl,
   ⟨by decide +kernel, by decide +kernel⟩, ⟨by decide +kernel, by decide +kernel⟩, by decide +kernel, by decide +kernel⟩

/-- A barrier in scratchpad that expects two arrivals, of which `k` have come. -/
def sBar (k : Nat) (goal : W64) : State :=
  withS { sCtr with t := { sCtr.t with scr := (toBytes 4 k ++ toBytes 4 2 ++ toBytes 8 0).mapIdx fun j b => (0x200 + j, b) } } 41 goal

/-- The first arrival, and the last. -/
theorem wit_barrier : ∃ (s u : State), OneForGroup s (.binit ⟨0#7, 40#7, 41#7⟩) (s.actLanes 0#7) (s.g.sr64 (sreg7 40#7)) 16 ∧
    OneForGroup s (.barrive ⟨0#7, 12#7, 40#7⟩) (s.actLanes 0#7) (s.g.sr64 (sreg7 40#7)) 16 ∧
    OneForGroup u (.barrive ⟨0#7, 12#7, 40#7⟩) (u.actLanes 0#7) (u.g.sr64 (sreg7 40#7)) 16 ∧
    ScratchRange s (s.g.sr64 (sreg7 40#7)) 16 ∧ ScratchRange u (u.g.sr64 (sreg7 40#7)) 16 ∧
    scrNum s 0x200 4 + 1 < scrNum s 0x204 4 ∧ scrNum u 0x200 4 + 1 = scrNum u 0x204 4 :=
  ⟨sBar 0 0#64, sBar 1 0#64, ⟨⟨by decide, by decide, by decide +kernel⟩, by decide +kernel, by decide +kernel, idleOf rfl rfl rfl⟩,
   ⟨⟨by decide, by decide, by decide +kernel⟩, by decide +kernel, by decide +kernel, idleOf rfl rfl rfl⟩,
   ⟨⟨by decide, by decide, by decide +kernel⟩, by decide +kernel, by decide +kernel, idleOf rfl rfl rfl⟩,
   ⟨by decide +kernel, by decide +kernel⟩, ⟨by decide +kernel, by decide +kernel⟩, by decide +kernel, by decide +kernel⟩

/-- The farthest target that passes, and the nearest that waits. -/
theorem wit_bwait : ∃ (s u : State), OneForGroup s (.bwait ⟨0#7, 40#7, 41#7⟩) (s.actLanes 0#7) (s.g.sr64 (sreg7 40#7)) 16 ∧
    OneForGroup u (.bwait ⟨0#7, 40#7, 41#7⟩) (u.actLanes 0#7) (u.g.sr64 (sreg7 40#7)) 16 ∧
    ScratchRange s (s.g.sr64 (sreg7 40#7)) 16 ∧ ScratchRange u (u.g.sr64 (sreg7 40#7)) 16 ∧
    (scrNum s 0x208 4 + 2 ^ 32 - (s.g.sr64 (sreg7 41#7)).toNat % 2 ^ 32) % 2 ^ 32 = 2 ^ 31 - 1 ∧
    (scrNum u 0x208 4 + 2 ^ 32 - (u.g.sr64 (sreg7 41#7)).toNat % 2 ^ 32) % 2 ^ 32 = 2 ^ 32 - 1 :=
  ⟨sBar 0 0x8000_0001#64, sBar 0 1#64, ⟨⟨by decide, by decide, by decide +kernel⟩, by decide +kernel, by decide +kernel, idleOf rfl rfl rfl⟩,
   ⟨⟨by decide, by decide, by decide +kernel⟩, by decide +kernel, by decide +kernel, idleOf rfl rfl rfl⟩,
   ⟨by decide +kernel, by decide +kernel⟩, ⟨by decide +kernel, by decide +kernel⟩, by decide +kernel, by decide +kernel⟩

/-- A group of 16 registers: a GROW to what it has, one that the core allows, and one that its 256 blocks do not. -/
def sGrow (used : Nat) : State :=
  { sA with
    g := { sA.g with n := 16 }
    teams := [{ teamA with groups := [{ fetchGroup with n := 16 }] },
              { teamA with tid := 2, groups := (List.range used).map fun k => { fetchGroup with id := k } }] }

theorem wit_grow : Runs (sGrow 0) (.grow ⟨0#7, 3#4, 0#3⟩) 0#7 ∧ Runs (sGrow 30) (.grow ⟨0#7, 3#4, 7#3⟩) 0#7 ∧
    Runs (sGrow 31) (.grow ⟨0#7, 3#4, 7#3⟩) 0#7 ∧ (sGrow 30).actLanes 0#7 ≠ 0#32 ∧
    (sGrow 30).commit.growWaiting 0 = false ∧ (sGrow 30).commit.usedBlocks 0 + 7 ≤ 256 ∧ 256 < (sGrow 31).commit.usedBlocks 0 + 7 :=
  ⟨⟨by decide, by decide, by decide +kernel⟩, ⟨by decide, by decide, by decide +kernel⟩, ⟨by decide, by decide, by decide +kernel⟩,
   by decide +kernel, by decide +kernel, by decide +kernel, by decide +kernel⟩

/-- A SHRINK to what the group has, and to less. -/
theorem wit_shrink : Runs sA (.shrink ⟨0#7, 7#3⟩) 0#7 ∧ Runs sA (.shrink ⟨0#7, 0#3⟩) 0#7 ∧ sA.actLanes 0#7 ≠ 0#32 ∧
    sA.commit.g.clearAbove 16 = true :=
  ⟨⟨by decide, by decide, by decide +kernel⟩, ⟨by decide, by decide, by decide +kernel⟩, by decide +kernel, by decide +kernel⟩

theorem wit_windows : ∃ (s : State) (m : MLoad), m.la ≠ 0#4 ∧ Runs s (.ldv m) m.guard ∧ s.actLanes m.guard ≠ 0#32 ∧ m.split = false ∧
    ∀ l : Fin 32, (s.actLanes m.guard).getLsbD l.val = true → (s.g.ea m.addr l).toNat % m.size.bytes = 0 :=
  ⟨sAll, ⟨0#7, 15#4, 8#7, addr0, .b16, .wk, false, false⟩, by decide, ⟨by decide, by decide, by decide +kernel⟩, by decide +kernel, rfl,
   by decide +kernel⟩
theorem wit_window_chld : ∃ (s : State) (m : MChld), m.la ≠ 0#4 ∧ Runs s (.chld m) m.guard ∧ s.actLanes m.guard ≠ 0#32 ∧
    chainOk (s.g.sr64 (sreg7 m.e)) m.d s.g.n = true ∧ s.g.badChain m.e = none ∧
    ∀ l : Fin 32, (s.actLanes m.guard).getLsbD l.val = true →
      (chainRead (s.g.chainRecord m.e) 0 (s.g.ea m.addr l)).1.toNat % (chainRead (s.g.chainRecord m.e) 0 (s.g.ea m.addr l)).2 = 0 :=
  ⟨sChain, ⟨0#7, 1#4, 8#7, addr0, 40#7, .acq, .sys⟩, by decide, ⟨by decide, by decide, by decide +kernel⟩, by decide +kernel,
   by decide +kernel, by decide +kernel, by decide +kernel⟩
theorem wit_window_sld : ∃ (s : State) (u : ULoad), RunsU s (.sld u) u.q u.neg ∧ u.la ≠ 0#4 ∧ s.iss.mask ≠ 0#32 ∧ u.sp = true ∧
    (let va := s.g.sr64 (reg9 u.a) + u.disp.signExtend 64
     va.toNat % u.size.bytes = 0 ∧ va.toNat + u.size.bytes ≤ 1536 * s.t.rows ∧ va.toNat < 2 ^ 21) :=
  ⟨sA, ⟨0#4, false, 3#4, 20#9, 4#9, .b8, .wk, false, true, 8#9⟩, ⟨⟨by decide, by decide, by decide +kernel⟩, by decide⟩, by decide,
   by decide, rfl, by decide +kernel, by decide +kernel, by decide +kernel⟩
theorem wit_window_cread : ∃ (s : State) (g : GRead), Executes s (.cread g) (s.actLanes g.guard) ∧ g.la ≠ 0#4 ∧
    s.actLanes g.guard ≠ 0#32 ∧ (s.g.sr64 (sreg7 g.a)).toNat % 8 = 0 :=
  ⟨sCtr, ⟨0#7, 2#4, 12#7, 40#7, false, .acq, .sys⟩, ⟨by decide, by decide, by decide +kernel⟩, by decide, by decide +kernel, by decide +kernel⟩
theorem wit_split_parks : ∃ (s : State) (m : MLoad) (pa : Nat), m.split = true ∧ Runs s (.ldv m) m.guard ∧ s.actLanes m.guard ≠ 0#32 ∧
    (∀ o ∈ s.g.ops, o.isOpen = true ∧ o.id ≤ s.nextId) ∧
    (∀ l : Fin 32, (s.actLanes m.guard).getLsbD l.val = true → (s.g.ea m.addr l).toNat % m.size.bytes = 0) ∧
    Held s (s.g.ea m.addr 0) .load pa ∧ s.inL1 s.t.core pa m.size.bytes (dieUp m.acc.scope) = false ∧ s.actLanes m.guard = oneLane 0 :=
  ⟨sA, ⟨0#7, 0#4, 8#7, addr0, .b4, .strong .st .dev, true, false⟩, 2 ^ 40, rfl, ⟨by decide, by decide, by decide +kernel⟩, by decide +kernel,
   by decide, by decide +kernel, heldA _ (.inl rfl), by decide +kernel, by decide +kernel⟩

/-! ### The same for gangs, tiles, copies, launches and staging -/

/-- Groups 0 and 1 form a gang; scalar 10 holds a gang mask. -/
def sGang (m : W64) : State :=
  withS { sAll with
    t := { teamA with groups := teamA.groups.map fun g => { g with gangr := 3#32 } }, g := { fetchGroup with gangr := 3#32 } } 10 m

/-- A mask of both groups, and one of group 0 alone. -/
theorem wit_gang : Acts (sGang 3#64) (.gang ⟨0#7, 10#7⟩) 0#7 ∧ EngineQuiet (sGang 3#64) ∧ Acts (sGang 1#64) (.gang ⟨0#7, 10#7⟩) 0#7 ∧
    membersOf 3#32 = [0, 1] ∧ membersOf 1#32 = [0] :=
  ⟨⟨⟨by decide, by decide, by decide +kernel⟩, by decide +kernel⟩, ⟨rfl, rfl⟩, ⟨⟨by decide, by decide, by decide +kernel⟩, by decide +kernel⟩,
   by decide +kernel, by decide +kernel⟩
theorem wit_mrdy : Acts sAll (.mrdy ⟨0#7, 112#7⟩) 0#7 ∧ Acts sAll (.mwait ⟨0#7⟩) 0#7 :=
  ⟨⟨⟨by decide, by decide, by decide +kernel⟩, by decide +kernel⟩, ⟨by decide, by decide, by decide +kernel⟩, by decide +kernel⟩

theorem gangWaits : GangWaits (sGang 3#64) :=
  ⟨⟨teamA, List.mem_cons_self, rfl⟩, rfl, fun k hk => by
      rw [show membersOf (sGang 3#64).g.gangr = [0, 1] by decide +kernel] at hk
      rcases List.mem_cons.1 hk with rfl | hk
      · exact ⟨_, rfl, fun h => absurd rfl h⟩
      · rw [List.mem_singleton] at hk
        subst hk
        exact ⟨_, rfl, fun _ => ⟨rfl, rfl⟩⟩, rfl,
    ⟨1, by decide +kernel, by decide⟩⟩

theorem wit_mma : ∃ (s : State) (e : EMma) (pa : Nat), Runs s (.mma e) e.guard ∧ s.g.gangr ≠ 0#32 ∧
    s.actLanes e.guard = BitVec.allOnes 32 ∧ s.g.badA e.a = none ∧ EngineQuiet s ∧ GangWaits s ∧
    (let b := s.g.sr64 (sreg7 e.b)
     let c : W64 := s.g.sr64 ⟨(e.c.toNat + 0) % 512, Nat.mod_lt _ (by decide)⟩
     b.toNat % 128 = 0 ∧ b.toNat + 8192 ≤ 1536 * s.t.rows ∧ b.toNat < 2 ^ 21 ∧ c.toNat % (64 * e.fmt.tile.bytes) = 0 ∧ Held s c .store pa) :=
  ⟨sGang 3#64, ⟨0#7, 4#4, 16#7, 5#7, 40#7, .bf16, false, true⟩, 2 ^ 40, ⟨by decide, by decide, by decide +kernel⟩, by decide +kernel,
   by decide +kernel, by decide +kernel, ⟨rfl, rfl⟩, gangWaits, by decide +kernel, by decide +kernel, by decide +kernel, by decide +kernel,
   heldOf (by decide +kernel)⟩

/-- No gang; and a gang, with an inactive lane. -/
theorem wit_mma_traps : sAll.g.inAlloc (.mma ⟨0#7, 0#4, 16#7, 5#7, 40#7, .bf16, false, false⟩) = true ∧ sAll.g.gangr = 0#32 ∧
    ({ sGang 3#64 with iss := sA.iss }).actLanes 0#7 ≠ BitVec.allOnes 32 := ⟨by decide, by decide, by decide +kernel⟩

/-- The lines of a tile of two members at virtual address 0. -/
def lines0 : List Nat := (List.range 64).map fun k => 2 ^ 40 + 128 * k

/-- An open tile on them. -/
def tile0 : Tile :=
  { id := 9, ctx := 0#10, base := 2 ^ 40, va := 0#64, die := 0, slice := homeSlice (2 ^ 40), frames := lines0, fmt := .f32, free := false
    rows := 32, scope := .dev, ctr := 0#64, next := 0#16, n := 1, merged := 0, elems := List.replicate 2048 0#64, kept := []
    refusedBy := [], refusedFar := [], tagError := false, closing := false, poisoned := [], touched := [] }

/-- An open tile elsewhere on the same slice. -/
def tileFar (k : Nat) : Tile := { tile0 with id := k, base := 2 ^ 40 + 4096 * k + 1, frames := [] }

def eOpen : EAccOpen := ⟨0#7, 0#4, 12#7, 5#7, 6#7, 7#7, .dev, .f32, false, true, 2#3⟩

theorem linesHeld {s : State} (h : ∀ k, k < 64 →
    canonical (0#64 + BitVec.ofNat 64 (128 * k)) = true ∧
      s.tlbFind [.core s.t.core, .die (dieOfCore s.t.core)] s.t.ctx (vaNum (0#64 + BitVec.ofNat 64 (128 * k))) = some leaf0 ∧
      (∀ x ∈ [TlbSite.core s.t.core, TlbSite.die (dieOfCore s.t.core)], s.tlb.contains (x, leaf0) = true) ∧
      leafPa leaf0.entry.toNat leaf0.companion.toNat (vaNum (0#64 + BitVec.ofNat 64 (128 * k))) = some (lines0.getD k 0) ∧
      (s.reservedPa (lines0.getD k 0) || s.inRegion (lines0.getD k 0)) = false ∧
      ¬ (Access.store = .store ∧ (!leaf0.entry.getLsbD 2) = true) ∧ ¬ (Access.store = .fetch ∧ (!leaf0.entry.getLsbD 3) = true) ∧
      (s.here (lines0.getD k 0) && (s.keyOf (lines0.getD k 0)).isNone) = false) : LinesHeld s 0#64 lines0 :=
  fun k hk => heldOf (h k hk)

theorem linesSettled : LinesSettled sA lines0 := by
  intro f hf
  obtain ⟨k, hk, rfl⟩ := List.mem_map.1 hf
  rw [List.mem_range] at hk
  refine ⟨⟨by rfl, ?_, ?_, ?_, rfl, by simp [sA, sF, sI, State.reset], by simp [sA, sF, sI, State.reset], rfl,
    fun _ _ => rfl, by simp [sA, sF, sI, State.reset], by simp [sA, sF, sI, State.reset], fun _ _ _ _ => rfl⟩, by omega⟩
  · intro j hj; simp only [lineOf]; omega
  · intro j hj
    show ((2 ^ 40 + 128 * k + j) / 2 ^ 41 == 0) = true
    rw [Nat.div_eq_of_lt (by omega)]; rfl
  · show ((2 ^ 40 + 128 * k) / 128 * 128 / 2 ^ 41 == 0) = true
    rw [Nat.div_eq_of_lt (by omega)]; rfl

/-- What an ACCOPEN of that tile asks of a state. -/
def OpenWitness (s : State) : Prop :=
  let base := lines0.headD 0
  Acts s (.accopen eOpen) eOpen.guard ∧ Idle s ∧ (s.g.sr64 (sreg7 eOpen.a)).toNat % 256 = 0 ∧
    s.g.sr64 (sreg7 eOpen.c) = 0#64 ∧ lines0.length = 8 * eOpen.gsize.toNat * eOpen.fmt.bytes ∧ LinesHeld s 0#64 lines0 ∧
    s.here base = true ∧
    ((∀ x ∈ s.tiles, x.base ≠ base) →
      (s.tiles.filter fun x => x.die = homeDie base ∧ x.slice = homeSlice base).length < 8 → LinesSettled s lines0)

/-- A free slice; the tile open already; eight other tiles on the slice. -/
theorem wit_accopen_free : OpenWitness sA :=
  ⟨⟨⟨by decide, by decide, by decide +kernel⟩, by decide +kernel⟩, idleOf rfl rfl rfl, by decide +kernel, by decide +kernel, by decide,
   linesHeld (by decide +kernel), by decide +kernel, fun _ _ => linesSettled⟩
theorem wit_accopen_taken : OpenWitness { sA with tiles := [tile0] } :=
  ⟨⟨⟨by decide, by decide, by decide +kernel⟩, by decide +kernel⟩, idleOf rfl rfl rfl, by decide +kernel, by decide +kernel, by decide,
   linesHeld (by decide +kernel), by decide +kernel, fun h _ => absurd rfl (h tile0 List.mem_cons_self)⟩
theorem wit_accopen_full : OpenWitness { sA with tiles := (List.range 8).map tileFar } :=
  ⟨⟨⟨by decide, by decide, by decide +kernel⟩, by decide +kernel⟩, idleOf rfl rfl rfl, by decide +kernel, by decide +kernel, by decide,
   linesHeld (by decide +kernel), by decide +kernel, fun _ h => absurd h (by decide +kernel)⟩

/-- No tile; one that waits for its last contribution; one that has it; one whose close is pending. -/
theorem wit_accclose :
    Held ({ sA with tiles := [tile0] } : State) 0#64 .load (2 ^ 40) ∧
    ∀ s ∈ [sA, { sA with tiles := [tile0] }, { sA with tiles := [{ tile0 with merged := 1 }] }, { sA with tiles := [{ tile0 with closing := true }] }],
      (s.power ≠ .off ∧ s.g.inAlloc (.accclose ⟨0#7, 0#4, 12#7, 5#7⟩) = true ∧ s.g.badLanes (.accclose ⟨0#7, 0#4, 12#7, 5#7⟩) (s.actLanes 0#7) = 0#32 ∧
       s.actLanes 0#7 ≠ 0#32) ∧ (s.g.ops = [] ∧ s.g.draining = false ∧ s.posted = []) ∧ s.g.sr64 5 = 0#64 ∧ s.here (2 ^ 40) = true :=
  ⟨heldOf (by decide +kernel), by decide +kernel⟩

/-- The complete tile is written where nothing else stands. -/
theorem wit_accclose_writes : ∃ x : Tile, x.merged = x.n ∧ x.ctr = 0#64 ∧ x.touched = [] ∧ Canonical sA ∧ x.frames.Nodup ∧
    LinesKeyed sA x.frames ∧ x.elems.length * x.fmt.bytes = 128 * x.frames.length := by
  refine ⟨{ tile0 with merged := 1 }, rfl, rfl, rfl, rfl, by decide +kernel, ?_, by decide +kernel⟩
  intro f hf
  obtain ⟨k, hk, rfl⟩ := List.mem_map.1 hf
  rw [List.mem_range] at hk
  have h1 : sA.fcb = 0x50000 := by decide +kernel
  have h2 : sA.rdRaw (sA.fcb + 72) 8 = 0 := by decide +kernel
  refine ⟨by omega, ?_, ?_, fun a ha hb => by rw [h2, h1]; omega, fun _ _ _ _ => rfl⟩
  · show ((2 ^ 40 + 128 * k) / 2 ^ 41 == 0) = true
    rw [Nat.div_eq_of_lt (by omega)]; rfl
  · have h3 : sA.regionBase + sA.policy.saveBytes = 2 ^ 39 := by decide
    unfold State.inRegion
    rw [h3, Bool.and_eq_false_iff]
    exact .inr (by simp; omega)

/-- A shape record at virtual address 0: one dimension of 4-byte elements. -/
def sCopy : State := withS (withMem sA (2 ^ 40 + 38) 1 10) 41 0x200#64

theorem wit_tcopy : ∃ (s : State) (e : ETcopy) (pa : Nat) (h : Shape), Acts s (.tcopy e) e.guard ∧
    (s.copies.filter fun c => c.core = s.t.core).length < 8 ∧ (s.g.sr64 (sreg7 e.a)).toNat % 64 = 0 ∧
    Held s (s.g.sr64 (sreg7 e.a)) .load pa ∧ Idle s ∧ Settled s pa 64 ∧
    parseShape ((List.range 64).map fun k => s.mem.get (pa + k)) = some h ∧ s.shapeChecks h (s.g.sr64 (sreg7 e.c)) e.sp = [] :=
  ⟨sCopy, ⟨0#7, 0#4, 5#7, 41#7, .die, true⟩, 2 ^ 40, _, ⟨⟨by decide, by decide, by decide +kernel⟩, by decide +kernel⟩, by decide +kernel,
   by decide +kernel, heldOf (by decide +kernel), idleOf rfl rfl rfl, settledOf (by decide +kernel) rfl rfl rfl rfl rfl rfl rfl, rfl,
   by decide +kernel⟩

/-- An accepted copy of one 4-byte element from virtual address 0 to scratchpad 0, its counter at 0x200. -/
def copy0 : CopyCmd :=
  { id := 7, instr := .tcopy ⟨0#7, 0#4, 5#7, 41#7, .die, true⟩, active := 1#32, core := 0, team := 1, group := 0, ctx := 0#10, lpc := 0#32, waitm := 0#32
    recAddr := 0#64, shape := ⟨0#64, [0, 0, 0, 0, 0], [1, 1, 1, 1, 1], 4, 1, false, 0, [0, 0, 0, 0, 0], []⟩, ctr := 0x200#64, ctrSp := true
    scope := .die, started := false, done := 0, after := [], behind := [], clear := false, covered := [], sources := [], freed := [], lost := []
    stuck := none }

/-- All eight places taken. -/
theorem wit_tcopy_full : ∃ s : State, Acts s (.tcopy ⟨0#7, 0#4, 5#7, 41#7, .die, true⟩) 0#7 ∧
    (s.copies.filter fun c => c.core = s.t.core).length = 8 :=
  ⟨{ sCopy with copies := List.replicate 8 copy0 }, ⟨⟨by decide, by decide, by decide +kernel⟩, by decide +kernel⟩, by decide +kernel⟩

/-- A launch record at virtual address 0: one team of one group. -/
def sLaunch : State := withS (withMem (withMem sA (2 ^ 40 + 12) 1 1) (2 ^ 40 + 20) 1 1) 41 0x200#64

theorem wit_launch_other : Acts { sA with g := { sA.g with id := 1 } } (.glaunch ⟨0#7, 0#4, 12#7, 5#7⟩) 0#7 ∧
    Acts { sA with g := { sA.g with id := 1 } } (.tlaunch ⟨0#7, 0#4, 12#7, 5#7, 41#7, .sys⟩) 0#7 :=
  ⟨⟨⟨by decide, by decide, by decide +kernel⟩, by decide +kernel⟩, ⟨by decide, by decide, by decide +kernel⟩, by decide +kernel⟩

theorem launchReady (s : State) (h : s = { sLaunch with mem := s.mem, grids := s.grids })
    (hm : s.mem.wf = true) (hg : ∀ g ∈ s.grids, g.gid < 2) : Settled s (2 ^ 40) 64 ∧ ∀ g ∈ s.grids, g.gid < s.nextId := by
  refine ⟨?_, ?_⟩
  · have h1 := settledPart (n := 64) (by decide)
    rw [h]
    exact ⟨hm, h1.line, h1.here, h1.hereLine, by rfl, h1.quiet, h1.mine, by rfl, fun _ _ => rfl, h1.plain, h1.landed, fun _ _ _ _ => rfl⟩
  · rw [h] at hg ⊢; exact hg

/-- A valid record below the limit; an invalid one; nesting level 10; and the limit reached. -/
theorem wit_glaunch :
    (parseLaunch ((List.range 64).map fun k => sLaunch.mem.get (2 ^ 40 + k))).isSome = true ∧ sLaunch.gridLimit 0#10 = false ∧
    (∀ s ∈ [sLaunch, { sLaunch with grids := [{ fetchGrid with nest := 10 }] },
        withMem { sLaunch with grids := [{ fetchGrid with placedAll := false }] } 18 2 1],
      Acts s (.glaunch ⟨0#7, 0#4, 12#7, 5#7⟩) 0#7 ∧ s.g.id = 0 ∧ s.myGrid.isSome = true ∧ (s.g.sr64 5).toNat % 64 = 0 ∧
      (Settled s (2 ^ 40) 64 ∧ ∀ g ∈ s.grids, g.gid < s.nextId) ∧ Idle s ∧ s.recalls = []) ∧
    Held sLaunch (sLaunch.g.sr64 5) .load (2 ^ 40) ∧
    (parseLaunch ((List.range 64).map fun k => sA.mem.get (2 ^ 40 + k))) = none ∧
    (withMem { sLaunch with grids := [{ fetchGrid with placedAll := false }] } 18 2 1).gridLimit 0#10 = true := by
  refine ⟨by decide +kernel, by decide +kernel, ?_, heldOf (by decide +kernel), by decide +kernel, by decide +kernel⟩
  intro s hs
  rcases List.mem_cons.1 hs with rfl | hs
  · exact ⟨⟨⟨by decide, by decide, by decide +kernel⟩, by decide +kernel⟩, rfl, rfl, by decide +kernel, launchReady _ rfl (by decide +kernel) (by decide +kernel),
      idleOf rfl rfl rfl, rfl⟩
  rcases List.mem_cons.1 hs with rfl | hs
  · exact ⟨⟨⟨by decide, by decide, by decide +kernel⟩, by decide +kernel⟩, rfl, rfl, by decide +kernel, launchReady _ rfl (by decide +kernel) (by decide +kernel),
      idleOf rfl rfl rfl, rfl⟩
  rw [List.mem_singleton] at hs
  subst hs
  exact ⟨⟨⟨by decide, by decide, by decide +kernel⟩, by decide +kernel⟩, rfl, rfl, by decide +kernel, launchReady _ rfl (by decide +kernel) (by decide +kernel),
      idleOf rfl rfl rfl, rfl⟩

theorem wit_tlaunch : Acts sLaunch (.tlaunch ⟨0#7, 0#4, 12#7, 5#7, 41#7, .sys⟩) 0#7 ∧ (sLaunch.g.sr64 41).toNat % 8 = 0 ∧
    Held sLaunch (sLaunch.g.sr64 41) .store (2 ^ 40 + 0x200) ∧ Settled sLaunch (2 ^ 40 + 0x200) 8 ∧
    (sLaunch.triggers.filter fun x => homeUnit x.addr = homeUnit (2 ^ 40 + 0x200)).length < 4096 :=
  ⟨⟨⟨by decide, by decide, by decide +kernel⟩, by decide +kernel⟩, by decide +kernel, heldOf (by decide +kernel),
   settledOf (by decide +kernel) rfl rfl rfl rfl rfl rfl rfl, by decide +kernel⟩

theorem wit_parse_launch : ∃ r, parseLaunch ((List.range 64).map fun k => sLaunch.mem.get (2 ^ 40 + k)) = some r :=
  Option.isSome_iff_exists.1 (by decide +kernel)

/-- The records of these launches have no counter; one whose counter stands at 0x200, translated. -/
theorem wit_launch_counter :
    (∀ s ∈ [sLaunch, { sLaunch with grids := [{ fetchGrid with nest := 10 }] },
        withMem { sLaunch with grids := [{ fetchGrid with placedAll := false }] } 18 2 1],
      ((parseLaunch ((List.range 64).map fun k => s.mem.get (2 ^ 40 + k))).all fun r => r.ctr == 0#64) = true) ∧
    (let s := withMem sLaunch (2 ^ 40 + 48) 8 0x200
     ((parseLaunch ((List.range 64).map fun k => s.mem.get (2 ^ 40 + k))).map fun r => r.ctr) = some 0x200#64 ∧
     Held s 0x200#64 .store (2 ^ 40 + 0x200)) :=
  ⟨by decide +kernel, by decide +kernel, heldOf (by decide +kernel)⟩
/-- 4,096 triggers stand at one home unit; a trigger counter that has not reached 0. -/
theorem wit_tlaunch_full : (∃ s : State, 4096 ≤ (s.triggers.filter fun x => homeUnit x.addr = homeUnit (2 ^ 40 + 0x200)).length) ∧
    numAt (withMem sLaunch (2 ^ 40 + 0x200) 8 1) (2 ^ 40 + 0x200) 8 ≠ 0 ∧ numAt sLaunch (2 ^ 40 + 0x200) 8 = 0 :=
  ⟨⟨{ sLaunch with triggers := List.replicate 4096 ⟨2 ^ 40 + 0x200, 0, 0#10, 1, .sys⟩ }, by
    simp⟩, by decide +kernel, by decide +kernel⟩
/-- An ACCOPEN with a counter, whose page is translated. -/
theorem wit_accopen_counter : (withS sA 7 0x200#64).g.sr64 (sreg7 eOpen.c) = 0x200#64 ∧ Held (withS sA 7 0x200#64) 0x200#64 .store (2 ^ 40 + 0x200) :=
  ⟨by decide +kernel, heldOf (by decide +kernel)⟩
theorem wit_accclose_unheld : ∀ f ∈ tile0.frames, LineUnheld sA f := fun f hf =>
  ⟨by have := (linesSettled f hf).1.here 0 (by decide); simpa using this, rfl, by simp [sA, sF, sI, State.reset], by simp [sA, sF, sI, State.reset]⟩

/-- The pages of staging unit `u` are held by the core; the pool stands at virtual address 0. -/
theorem unitHeld {s : State} {u : Nat} (h : ∀ k, k < 16 →
    (let va := BitVec.ofNat 64 (s.descField s.t.ctx 24 8 + 65536 * u + 4096 * k)
     canonical va = true ∧ s.tlbFind [.core s.t.core, .die (dieOfCore s.t.core)] s.t.ctx (vaNum va) = some leaf0 ∧
      (∀ x ∈ [TlbSite.core s.t.core, TlbSite.die (dieOfCore s.t.core)], s.tlb.contains (x, leaf0) = true) ∧
      leafPa leaf0.entry.toNat leaf0.companion.toNat (vaNum va) = some (2 ^ 40 + 65536 * u + 4096 * k) ∧
      (s.reservedPa (2 ^ 40 + 65536 * u + 4096 * k) || s.inRegion (2 ^ 40 + 65536 * u + 4096 * k)) = false ∧
      ¬ (Access.load = .store ∧ (!leaf0.entry.getLsbD 2) = true) ∧ ¬ (Access.load = .fetch ∧ (!leaf0.entry.getLsbD 3) = true) ∧
      (s.here (2 ^ 40 + 65536 * u + 4096 * k) && (s.keyOf (2 ^ 40 + 65536 * u + 4096 * k)).isNone) = false)) : UnitsHeld s u 1 :=
  fun k hk => ⟨_, heldOf (h k (by omega))⟩

/-- A request for one unit of a pool of two, of which the first is taken or neither; for 256 units of a pool of 255; for none and for
257; with 1,024 reservations held. -/
def sResv (pool k : Nat) (held : List Staging) : State := { withS (withMem sA 20 2 pool) 5 (BitVec.ofNat 64 k) with staging := held }
theorem wit_cresv : ∀ s ∈ [sResv 1 1 [], sResv 2 1 [⟨0#10, 7, 0, 1⟩], sResv 255 256 [], sResv 256 0 [], sResv 512 257 [],
      sResv 0 1 (List.replicate 1024 ⟨0#10, 1, 0, 1⟩)],
    Acts s (.cresv ⟨0#7, 0#4, 12#7, 5#7⟩) 0#7 ∧ (∀ h ∈ s.nextHandle, 1 ≤ h.2 ∧ h.2 < 65536) ∧
    (let k := (s.g.sr64 (sreg7 5#7)).toNat % 512
     ∀ a, a + k ≤ min 4096 (s.descField s.t.ctx 20 2) →
       (∀ h ∈ s.staging.filter (fun h => h.ctx = s.t.ctx), a + k ≤ h.first ∨ h.first + h.count ≤ a) → 0 < k → k ≤ 256 → UnitsHeld s a k) := by
  have hz : ∀ (pool k : Nat) (hs : List Staging), (∀ h ∈ (sResv pool k hs).nextHandle, 1 ≤ h.2 ∧ h.2 < 65536) := by
    intro pool k hs; simp [sResv, withS, withMem, sA, sF, sI, State.reset]
  simp only [List.forall_mem_cons]
  refine ⟨⟨⟨⟨by decide, by decide, by decide +kernel⟩, by decide +kernel⟩, hz _ _ _, fun a ha hf _ _ => ?_⟩,
    ⟨⟨⟨by decide, by decide, by decide +kernel⟩, by decide +kernel⟩, hz _ _ _, fun a ha hf _ _ => ?_⟩,
    ⟨⟨⟨by decide, by decide, by decide +kernel⟩, by decide +kernel⟩, hz _ _ _, fun a ha hf _ _ => ?_⟩,
    ⟨⟨⟨by decide, by decide, by decide +kernel⟩, by decide +kernel⟩, hz _ _ _, fun a ha hf h0 _ => ?_⟩,
    ⟨⟨⟨by decide, by decide, by decide +kernel⟩, by decide +kernel⟩, hz _ _ _, fun a ha hf _ h1 => ?_⟩,
    ⟨⟨⟨by decide, by decide, by decide +kernel⟩, by decide +kernel⟩, hz _ _ _, fun a ha hf _ _ => ?_⟩, by simp⟩
  · rw [show min 4096 ((sResv 1 1 []).descField (sResv 1 1 []).t.ctx 20 2) = 1 by decide +kernel] at ha
    rw [show (BitVec.toNat ((sResv 1 1 []).g.sr64 (sreg7 5#7))) % 512 = 1 by decide +kernel] at ha ⊢
    obtain rfl : a = 0 := by omega
    exact unitHeld (by decide +kernel)
  · rw [show min 4096 ((sResv 2 1 [⟨0#10, 7, 0, 1⟩]).descField (sResv 2 1 [⟨0#10, 7, 0, 1⟩]).t.ctx 20 2) = 2 by decide +kernel] at ha
    have h := hf ⟨0#10, 7, 0, 1⟩ (by decide +kernel)
    rw [show (BitVec.toNat ((sResv 2 1 [⟨0#10, 7, 0, 1⟩]).g.sr64 (sreg7 5#7))) % 512 = 1 by decide +kernel] at ha h ⊢
    simp only at h
    obtain rfl : a = 1 := by omega
    exact unitHeld (by decide +kernel)
  · rw [show min 4096 ((sResv 255 256 []).descField (sResv 255 256 []).t.ctx 20 2) = 255 by decide +kernel] at ha
    rw [show (BitVec.toNat ((sResv 255 256 []).g.sr64 (sreg7 5#7))) % 512 = 256 by decide +kernel] at ha
    omega
  · exact absurd h0 (by decide +kernel)
  · exact absurd h1 (by decide +kernel)
  · rw [show min 4096 ((sResv 0 1 (List.replicate 1024 ⟨0#10, 1, 0, 1⟩)).descField (sResv 0 1 (List.replicate 1024 ⟨0#10, 1, 0, 1⟩)).t.ctx 20 2) = 0 by
      decide +kernel] at ha
    rw [show (BitVec.toNat ((sResv 0 1 (List.replicate 1024 ⟨0#10, 1, 0, 1⟩)).g.sr64 (sreg7 5#7))) % 512 = 1 by decide +kernel] at ha
    omega
/-- A release of a handle that the context holds, and of one that it does not. -/
theorem wit_crel : ∀ s ∈ [sResv 2 7 [⟨0#10, 7, 1, 1⟩], sResv 2 8 [⟨0#10, 7, 1, 1⟩]], Acts s (.crel ⟨0#7, 5#7⟩) 0#7 ∧
    ∀ x ∈ s.staging, UnitsHeld s x.first x.count := by
  simp only [List.forall_mem_cons]
  refine ⟨⟨⟨⟨by decide, by decide, by decide +kernel⟩, by decide +kernel⟩, fun x hx => ?_⟩,
    ⟨⟨⟨by decide, by decide, by decide +kernel⟩, by decide +kernel⟩, fun x hx => ?_⟩, by simp⟩ <;>
  · obtain rfl := List.mem_singleton.1 hx
    exact unitHeld (by decide +kernel)

/-! ### The same for faults, traps and what is in flight -/

theorem hwHigh {s : State} {a n : Nat}
    (h : s.fcb + 80 ≤ 2 ^ 24 ∧ s.rdRaw (s.fcb + 72) 8 = 0 ∧ s.ctxtab.toNat + 2 ^ 18 ≤ 2 ^ 24) (ha : 2 ^ 24 ≤ a) (hn : a + n ≤ 2 ^ 41)
    (hz : s.pkg = 0) (hg : s.tags = []) (hk : s.keyGen = []) : HwWritable s a n :=
  hwOf (fun k hk' => ⟨by
    show (pkgOf (a + k) == s.pkg) = true
    rw [hz, show pkgOf (a + k) = (a + k) / 2 ^ 41 from rfl, Nat.div_eq_of_lt (by omega)]; rfl, by omega, by rw [h.2.1]; omega, by omega⟩) hg hk

theorem unheldOf {s : State} {f : Nat} (h : s.here f = true ∧ s.frozen f = false) (hr : s.recalls = []) (hd : s.dir = []) : LineUnheld s f :=
  ⟨h.1, h.2, by simp [hr], by simp [hd]⟩

/-- A fault queue at 0x200_0000, of which `tail` records are taken, the team's resume counter at 0x300_0000. -/
def sTrap (tail : Nat) : State :=
  { withMem (withMem sF 32 8 0x200_0000) 0x200_0000 8 tail with t := { teamA with area := some 0x300_0000 } }

/-- The same with the context's descriptor read. -/
def dTrap (tail : Nat) : State := (sTrap tail).readDesc 0#10

theorem queueHere (tail : Nat) (h : tail = 0 ∨ tail = 63 ∨ tail = 64) : QueueHere (dTrap tail) := by
  rcases h with rfl | rfl | rfl <;>
  exact ⟨by decide +kernel, unheldOf (by decide +kernel) rfl rfl, unheldOf (by decide +kernel) rfl rfl, unheldOf (by decide +kernel) rfl rfl⟩
theorem queueOpen (tail : Nat) (h : tail = 0 ∨ tail = 63) : QueueOpen (dTrap tail) := by
  rcases h with rfl | rfl <;>
  exact ⟨queueHere _ (by simp), by show _ = true; decide +kernel, by decide +kernel,
    hwHigh (by decide +kernel) (by decide +kernel) (by decide +kernel) rfl rfl rfl,
    hwHigh (by decide +kernel) (by decide +kernel) (by decide +kernel) rfl rfl rfl⟩
theorem noFinal (tail : Nat) : NoFinal (sTrap tail) := by
  intro g hg
  have h : g = fetchGroup ∨ g = { fetchGroup with id := 1, quad := 1 } := by
    rcases hg with hg | ⟨x, hx, hg⟩
    · simpa [sTrap, withMem, teamA] using hg
    · rw [show (sTrap tail).teams = [teamA] from rfl, List.mem_singleton] at hx
      subst hx
      simpa [teamA] using hg
  rcases h with rfl | rfl <;> exact ⟨by decide, fun i k e => by cases e⟩

/-- A fault found at issue, of code `c` at address 0. -/
def fault0 (c : BitVec 8) : FaultInfo := ⟨c, 0#8, 0#32, 1#32, 1#32, 0#32, 0#64, 0#64, 0#64⟩

/-- The queue's last free place. -/
theorem wit_trap_entry : QueueOpen (dTrap 63) ∧ ResumeAt (dTrap 63) 0x300_0000 ∧ NoFinal (sTrap 63) ∧
    (dTrap 63).disposition 0#10 0x01#8 ≤ 1 ∧ (dTrap 63).descField 0#10 48 8 = 0 ∧ (dTrap 63).descField 0#10 56 8 = 0 :=
  ⟨queueOpen 63 (.inr rfl), ⟨rfl, hwHigh (by decide +kernel) (by decide) (by decide) rfl rfl rfl, .inl (by decide +kernel), .inl (by decide +kernel)⟩,
    noFinal 63, by decide +kernel, by decide +kernel, by decide +kernel⟩
/-- A descriptor that gives code 1 disposition 2. -/
def sTrap2 : State := withMem (sTrap 0) 44 4 8
/-- No queue; disposition 2; a full queue. -/
theorem wit_trap_ends : queueBase (sF.readDesc 0#10) = 0 ∧ QueueHere (sTrap2.readDesc 0#10) ∧ NoFinal sTrap2 ∧
    (sTrap2.readDesc 0#10).queueRoom = true ∧ (sTrap2.readDesc 0#10).disposition 0#10 0x01#8 = 2 ∧
    QueueHere (dTrap 64) ∧ (dTrap 64).queueRoom = false :=
  ⟨by decide +kernel, ⟨by decide +kernel, unheldOf (by decide +kernel) rfl rfl, unheldOf (by decide +kernel) rfl rfl, unheldOf (by decide +kernel) rfl rfl⟩,
   noFinal 0, by decide +kernel, by decide +kernel, queueHere 64 (by simp), by decide +kernel⟩

/-- An operation of lane 0 in flight. -/
def op0 : Op :=
  { id := 1, instr := .ldv ⟨0#7, 3#4, 8#7, addr0, .b4, .wk, false, false⟩, lpc := 0#32, issue := 1#32, active := 1#32, waitm := 0#32, win := 3
    pend := 1#32, parked := 0#32, sent := 0#32, after := [], late := [], moved := false, fails := [], lanes := Vector.replicate 32 LaneOp.zero
    gops := [], cover := ([], []) }

theorem wit_issue_fault : (∃ s : State, ∃ o ∈ s.g.ops, o.isOpen = true) ∧ ∃ s : State, NoneOpen s :=
  ⟨⟨{ sA with g := { sA.g with ops := [op0] } }, op0, List.mem_cons_self, by decide⟩, sA, by simp [NoneOpen, sA, sF, fetchGroup, Group.blank]⟩
theorem wit_bad_register : ∃ (s : State) (i : Instr) (w : WBin) (f : W32 → W32 → Int), (i, f) ∈ twoSource w ∧ s.power ≠ .off ∧
    s.g.inAlloc i = true ∧ s.g.badLanes i (s.actLanes w.guard) ≠ 0#32 :=
  ⟨{ sAll with g := { sAll.g with vbad := [(2, 5)] } }, _, ⟨0#7, 5#7, own 2#7, own 3#7⟩, _, List.mem_cons_self, by decide, by decide, by decide +kernel⟩
/-- With lanes active, and with none. -/
theorem wit_bpt : sA.power ≠ .off ∧ sA.g.inAlloc (.bpt ⟨0#7, 5#16⟩) = true ∧ sA.actLanes 0#7 ≠ 0#32 ∧
    sA.g.inAlloc (.bpt ⟨5#7, 5#16⟩) = true ∧ sA.actLanes 5#7 = 0#32 := ⟨by decide, by decide, by decide +kernel, by decide, by decide +kernel⟩

/-- A call ring of 64 slots at 0x200_0000, of which `tail` are taken. -/
def sRing (tail : Nat) : State :=
  { withMem (withMem sAll 64 8 0x200_0000) 0x200_0000 8 tail with t := { teamA with area := some 0x300_0000 } }

/-- The same with the context's descriptor read. -/
def dRing (tail : Nat) : State := (sRing tail).readDesc 0#10
theorem ringHere (tail : Nat) (h : tail = 32 ∨ tail = 33) : RingHere (dRing tail) 32 := by
  rcases h with rfl | rfl <;> exact ⟨unheldOf (by decide +kernel) rfl rfl, fun k hk => unheldOf (by revert k hk; decide +kernel) rfl rfl⟩
/-- No ring; one slot too few for the 32 lanes; just enough. -/
theorem wit_svc : (∀ s ∈ [sAll, sRing 32, sRing 33], Acts s (.svc ⟨0#7, 8#7, 16#7⟩) 0#7 ∧ (lanesOf (s.actLanes 0#7)).length = 32) ∧
    (sAll.readDesc 0#10).ringBase 0#10 = 0 ∧ (dRing 33).ringBase 0#10 ≠ 0 ∧ RingHere (dRing 33) 32 ∧
    (BitVec.ofNat 64 ((dRing 33).rd ((dRing 33).ringBase 0#10) 8) - BitVec.ofNat 64 ((dRing 33).rd ((dRing 33).ringBase 0#10 + 8) 8)).toNat + 32 >
      (dRing 33).ringSize 0#10 :=
  ⟨fun s hs => by
    rcases List.mem_cons.1 hs with rfl | hs
    · exact ⟨⟨⟨by decide, by decide +kernel, by decide +kernel⟩, by decide +kernel⟩, by decide +kernel⟩
    rcases List.mem_cons.1 hs with rfl | hs
    · exact ⟨⟨⟨by decide, by decide +kernel, by decide +kernel⟩, by decide +kernel⟩, by decide +kernel⟩
    rw [List.mem_singleton.1 hs]
    exact ⟨⟨⟨by decide, by decide +kernel, by decide +kernel⟩, by decide +kernel⟩, by decide +kernel⟩,
   by decide +kernel, by decide +kernel, ringHere 33 (.inr rfl), by decide +kernel⟩
theorem wit_svc_taken : (let s := sRing 32
    let d := dRing 32
    let base := d.ringBase s.t.ctx
    let size := d.ringSize s.t.ctx
    Canonical s ∧ (∀ e ∈ s.posted, e.core ≠ s.t.core) ∧ s.t.area = some 0x300_0000 ∧ d.descField s.t.ctx 72 8 = 0 ∧ base ≠ 0 ∧
    (BitVec.ofNat 64 (d.rd base 8) - BitVec.ofNat 64 (d.rd (base + 8) 8)).toNat + (lanesOf (s.actLanes 0#7)).length = size ∧
    RingHere d 32 ∧ HwWritable d base (128 + 128 * size) ∧ HwWritable d 0x300_0000 8 ∧ Apart base (128 + 128 * size) 0x300_0000 8 ∧ Idle s ∧ s.recalls = [] ∧ NoCalls s) :=
  ⟨by show _ = true; decide +kernel, by decide, rfl, by decide +kernel, by decide +kernel, by decide +kernel, ringHere 32 (.inl rfl),
   hwHigh (by decide +kernel) (by decide +kernel) (by decide +kernel) rfl rfl rfl, hwHigh (by decide +kernel) (by decide +kernel) (by decide +kernel) rfl rfl rfl,
   .inl (by decide +kernel), idleOf rfl rfl rfl, rfl,
   fun x hx _ g hg o ho => by
     rw [(by decide +kernel : ∀ x ∈ (sRing 32).storeFocus.teams, ∀ g ∈ x.groups, g.ops = []) x hx g hg] at ho; cases ho⟩

/-- A page already entered; a full table; an empty one. -/
theorem wit_merge : (∃ s : State, ∃ m ∈ s.merge, m.die = s.t.core / 48 ∧ m.ctx = s.t.ctx ∧ m.page = (fault0 0x06#8).addr.toNat % 2 ^ 57 / 4096) ∧
    (∃ s : State, (s.merge.filter fun m => m.die = s.t.core / 48).length = 256) ∧ QueueOpen (dTrap 0) ∧ (sTrap 0).merge = [] :=
  ⟨⟨{ sTrap 0 with merge := [⟨0, 0#10, 0, [⟨9, 0⟩]⟩] }, _, List.mem_cons_self, by decide +kernel⟩,
   ⟨{ sTrap 0 with merge := (List.range 256).map fun k => ⟨0, 0#10, k + 1, []⟩ }, by decide +kernel⟩, queueOpen 0 (.inl rfl), rfl⟩

/-- The idle package whose group 0 is `g`, and the same with group 0 taken as the current one. -/
def sWith (g : Group) : State := { sI with teams := [{ teamA with groups := [g, { fetchGroup with id := 1, quad := 1 }] }] }
def fWith (g : Group) : State := { sWith g with t := { teamA with groups := [g, { fetchGroup with id := 1, quad := 1 }] }, g := g }

theorem atWith (g : Group) (h : g.id = 0) : At (sWith g) ⟨1, 0⟩ (fWith g) :=
  ⟨by simp [sWith, sI, State.reset], rfl, fun x hx => by rw [List.mem_singleton.1 hx]; exact ⟨by simp [teamA], rfl⟩, by
    simp [State.loadFocus, sWith, fWith, teamA, h]⟩

def failed0 : Op := { op0 with pend := 0#32, fails := [⟨0, 0x06#8, 0#64, 0#64⟩] }
def log0 (c : BitVec 8) (a : BitVec 8) : LogEntry := ⟨op0, { fault0 c with pos := 1#8 }, a⟩

theorem wit_fault_taken : ∀ g ∈ [{ fetchGroup with ops := [failed0] }, { fetchGroup with ops := [failed0], log := some (log0 6#8 0#8) }],
    At (sWith g) ⟨1, 0⟩ (fWith g) ∧ (fWith g).g.ops = failed0 :: [] ∧ failed0.pend = 0#32 ∧ failed0.late = [] ∧ failed0.fails ≠ [] ∧ failed0.instr.isMma = false ∧ failed0.unread = false ∧
    (fWith g).g.exited ≠ BitVec.allOnes 32 := by
  intro g hg
  rcases List.mem_cons.1 hg with rfl | hg
  · exact ⟨atWith _ rfl, rfl, rfl, rfl, by decide, by decide, by decide, by decide +kernel⟩
  rw [List.mem_singleton] at hg
  subst hg
  exact ⟨atWith _ rfl, rfl, rfl, rfl, by decide, by decide, by decide, by decide +kernel⟩

/-- The waiting record of a context whose queue has room. -/
def sWait (k : WaitKind) : State := withMem (sWith { fetchGroup with status := .queueWait (fault0 0x06#8) k }) 32 8 0x200_0000
def fWait (k : WaitKind) : State := withMem (fWith { fetchGroup with status := .queueWait (fault0 0x06#8) k }) 32 8 0x200_0000
theorem wit_queue_room : ∀ k ∈ [WaitKind.final, .entered, .resolved], At (sWait k) ⟨1, 0⟩ (fWait k) ∧
    (fWait k).g.status = .queueWait (fault0 0x06#8) k ∧ QueueHere ((fWait k).readDesc 0#10) ∧ ((fWait k).readDesc 0#10).queueRoom = true :=
  fun k hk => ⟨⟨by simp [sWait, withMem, sWith, sI, State.reset], rfl, (by have := (atWith { fetchGroup with status := .queueWait (fault0 0x06#8) k } rfl).teams; exact this), rfl⟩, rfl,
    ⟨by revert k hk; decide +kernel, unheldOf (by revert k hk; decide +kernel) rfl rfl, unheldOf (by revert k hk; decide +kernel) rfl rfl,
     unheldOf (by revert k hk; decide +kernel) rfl rfl⟩, by revert k hk; decide +kernel⟩
theorem wit_merge_room : ∃ (s f : State), At s ⟨1, 0⟩ f ∧ f.g.status = .mergeFull (fault0 0x07#8) :=
  ⟨_, _, atWith { fetchGroup with status := .mergeFull (fault0 0x07#8) } rfl, rfl⟩
theorem wit_held : ∃ (s f : State), At s ⟨1, 0⟩ f ∧ f.g.held = log0 0x09#8 0#8 :: [] ∧ f.g.log = none ∧ f.g.status = .running ∧ NoneOpen f :=
  ⟨_, _, atWith { fetchGroup with held := [log0 0x09#8 0#8] } rfl, rfl, rfl, rfl, by simp [NoneOpen, fWith, fetchGroup, Group.blank]⟩
/-- At the threshold. -/
theorem wit_starved : ∃ (s f : State), At s ⟨1, 0⟩ f ∧ (f.threshold f.t.ctx).toNat = f.g.starve.toNat ∧ f.g.status = .running ∧ NoneOpen f ∧
    f.g.shrinkTo = none ∧ f.g.log = none ∧ f.g.held = [] ∧ f.g.stop = none ∧ f.t.saving = none :=
  ⟨_, _, atWith { fetchGroup with starve := 0x100_0000#64 } rfl, by decide +kernel, rfl, by simp [NoneOpen, fWith, fetchGroup, Group.blank], rfl, rfl, rfl,
   rfl, rfl⟩

/-- A group whose lanes have all exited, in a team with another group; its grid has two live teams. -/
def gExit : Group := { fetchGroup with lane := Vector.replicate 32 .exited }
theorem wit_retire : ∃ (s f : State), At s ⟨1, 0⟩ f ∧ f.g.exited = BitVec.allOnes 32 ∧ f.g.retired = false ∧ f.g.ops = [] ∧ f.g.fence = none ∧ f.g.log = none ∧
    f.g.held = [] ∧ f.g.stop = none ∧ f.g.status = .running ∧ f.contributes = false ∧ f.commands = false ∧ f.mma = [] ∧ (f.engine f.t.core).held = [] ∧
    (∀ p ∈ f.posted, ¬ (p.team = f.t.tid ∧ p.group = f.g.id)) ∧ (f.t.groups.filter fun g => g.id = f.g.id) = [f.g] ∧
    (f.teams.filter fun x => x.tid = f.t.tid) = [f.t] ∧ (∀ gr ∈ s.grids, gr.gid = f.t.grid → 2 ≤ gr.live) ∧
    f.t.groups.filter (fun g => g.id ≠ f.g.id) ≠ [] :=
  ⟨{ sWith gExit with grids := [{ fetchGrid with live := 2 }] }, { fWith gExit with grids := [{ fetchGrid with live := 2 }] },
   ⟨by decide, by decide, by decide, rfl⟩, by decide +kernel, rfl, rfl, rfl, rfl, rfl, rfl, rfl, by decide +kernel, by decide +kernel, rfl,
   by decide +kernel, by decide, rfl, rfl, by decide +kernel, by decide +kernel⟩
/-- The last group of its team. -/
theorem wit_retire_last : ∃ (s f : State), At s ⟨1, 0⟩ f ∧ f.g.exited = BitVec.allOnes 32 ∧ f.t.groups = [f.g] ∧ f.teams = [f.t] ∧
    ∀ gr ∈ s.grids, gr.gid = f.t.grid → gr.live = 2 :=
  ⟨{ sI with teams := [{ teamA with groups := [gExit] }], grids := [{ fetchGrid with live := 2 }] },
   { sI with teams := [{ teamA with groups := [gExit] }], grids := [{ fetchGrid with live := 2 }], t := { teamA with groups := [gExit] }, g := gExit },
   ⟨by decide, by decide, by decide, rfl⟩, by decide +kernel, rfl, rfl, by decide +kernel⟩

/-! Accesses in flight. -/

/-- A load in flight, parked or in its window. -/
def gLoad (parked : Mask) (sz : Size) : Group :=
  { fetchGroup with ops := [{ op0 with parked := parked, instr := .ldv ⟨0#7, 3#4, 8#7, addr0, sz, .wk, false, false⟩ }] }

theorem inFlight (parked : Mask) (sz : Size) (h : parked = 0#32 ∨ parked = 1#32) (hs : sz = Size.b4 ∨ sz = .b8) :
    InFlight (fWith (gLoad parked sz)) { op0 with parked := parked, instr := .ldv ⟨0#7, 3#4, 8#7, addr0, sz, .wk, false, false⟩ } (oneLane 0) :=
  ⟨List.mem_cons_self, by simp [fWith, gLoad], by simp [fWith, gLoad]; rfl, rfl, rfl, rfl, by
    rcases h with rfl | rfl <;> rcases hs with rfl | rfl <;> decide +kernel, by rcases h with rfl | rfl <;> rcases hs with rfl | rfl <;> decide +kernel⟩

/-- A parked lane; a lane in its window, of one register and of two. -/
theorem wit_load_binds : ∀ p ∈ [(1#32, Size.b4), (0#32, .b4), (0#32, .b8)], ∃ (s f : State) (o : Op) (pa : Nat), At s ⟨1, 0⟩ f ∧ InFlight f o (oneLane 0) ∧
    o.parked = p.1 ∧ isHalved p.2.bytes .wk = false ∧ Held f (o.lanes[(0 : Fin 32)]).addr .load pa ∧ Settled f pa p.2.bytes ∧
    f.corePoison f.t.core pa p.2.bytes = false := by
  intro p hp
  rcases List.mem_cons.1 hp with rfl | hp
  · exact ⟨_, _, _, 2 ^ 40, atWith (gLoad 1#32 .b4) rfl, inFlight _ _ (.inr rfl) (.inl rfl), rfl, rfl,
      heldOf (by decide +kernel), settledOf (by decide +kernel) rfl rfl rfl rfl rfl rfl rfl, by decide +kernel⟩
  rcases List.mem_cons.1 hp with rfl | hp
  · exact ⟨_, _, _, 2 ^ 40, atWith (gLoad 0#32 .b4) rfl, inFlight _ _ (.inl rfl) (.inl rfl), rfl, rfl,
      heldOf (by decide +kernel), settledOf (by decide +kernel) rfl rfl rfl rfl rfl rfl rfl, by decide +kernel⟩
  rw [List.mem_singleton] at hp
  subst hp
  exact ⟨_, _, _, 2 ^ 40, atWith (gLoad 0#32 .b8) rfl, inFlight _ _ (.inl rfl) (.inr rfl), rfl, rfl,
      heldOf (by decide +kernel), settledOf (by decide +kernel) rfl rfl rfl rfl rfl rfl rfl, by decide +kernel⟩
/-- A load of which two registers still wait, at the window's end. -/
def oLate : Op := { op0 with win := 0, pend := 0#32, late := [(0, 8, 1#32), (0, 127, 2#32)] }
theorem wit_load_lands : ∃ (s f : State), At s ⟨1, 0⟩ f ∧ oLate ∈ f.g.ops ∧ (∀ x ∈ f.g.ops, x.id = oLate.id → x = oLate) ∧
    (∀ x ∈ f.g.ops, x.isOpen = true) ∧ f.gate oLate = true ∧ f.g.draining = false ∧
    (∀ x ∈ oLate.late, (1#32).getLsbD x.1.val = true ∧ x.2.1 < 128) ∧ (oLate.late.map fun x => (x.1, x.2.1)).Nodup :=
  ⟨_, _, atWith { fetchGroup with ops := [oLate] } rfl, List.mem_cons_self, by simp [fWith], by simp [fWith]; decide, by decide +kernel, by decide +kernel,
   by decide, by decide⟩
/-- A division to two registers and one to a register, each with its window closed and open. -/
def oDiv (wide : Bool) (win : Nat) : Op :=
  if wide then { op0 with win := win, instr := .fdivF64 ⟨0#7, 6#7, own 2#7, own 4#7⟩ 3#4 } else { op0 with win := win, instr := .fdivF32 ⟨0#7, 6#7, own 2#7, own 4#7⟩ 3#4 }
theorem wit_float_binds : ∀ p ∈ [(true, 0), (true, 3), (false, 0), (false, 3)], ∃ (s f : State), At s ⟨1, 0⟩ f ∧ oDiv p.1 p.2 ∈ f.g.ops ∧
    (∀ x ∈ f.g.ops, x.id = (oDiv p.1 p.2).id → x = oDiv p.1 p.2) ∧ f.g.draining = false ∧ (oDiv p.1 p.2).fails = [] ∧ (oDiv p.1 p.2).late = [] ∧
    (oDiv p.1 p.2).parked = 0#32 :=
  fun p hp => ⟨_, _, atWith { fetchGroup with ops := [oDiv p.1 p.2] } rfl, List.mem_cons_self, by simp [fWith], by revert p hp; decide +kernel,
    by revert p hp; decide, by revert p hp; decide, by revert p hp; decide⟩

/-- A posted store of four bytes. -/
def post0 : Posted :=
  { id := 5, batch := 5, core := 0, team := 1, group := 0, ctx := 0#10, flow := 0#16, va := 0#64, part := (1, 0), release := true, strong := true, scope := .sys
    bytes := cellsAt (2 ^ 40) [1#8, 2#8, 3#8, 4#8], whole := [], moved := false, again := false, pair := false }
theorem wit_ack : ∃ (s : State) (e : Posted) (pa : Nat) (bs : List Byte), s.power ≠ .off ∧ (s.posted.filter fun x => x.id = e.id) = [e] ∧
    e.bytes = cellsAt pa bs ∧ bs ≠ [] ∧ (∀ k, k < bs.length → lineOf (pa + k) = lineOf pa) ∧ LineFree s (lineOf pa) ∧
    Unheld s e ∧ (∀ x ∈ s.posted, e.pair = true → x.batch = e.batch → x.part = e.part → Unheld s x) ∧
    (e.release = true → cellUp e.scope = true → s.recalls = []) :=
  ⟨{ sI with posted := [post0] }, post0, 2 ^ 40, _, by decide, by decide +kernel, rfl, by decide, by decide +kernel,
   lineFreeOf (by decide +kernel) (by decide +kernel) (by decide +kernel) rfl rfl rfl rfl rfl, by unfold Unheld; decide +kernel,
   fun _ _ h => absurd h (by decide), fun _ _ => rfl⟩
/-- A release of 16 bytes: its two halves. -/
def sPair : State :=
  { sI with posted := [{ post0 with id := 6, batch := 6, part := (2, 0), pair := true, bytes := cellsAt (2 ^ 40 + 256) (List.replicate 8 1#8) },
                       { post0 with id := 7, batch := 6, part := (2, 0), pair := true, bytes := cellsAt (2 ^ 40 + 264) (List.replicate 8 2#8) }] }
theorem wit_ack_pair : ∀ e ∈ sPair.posted, e.pair = true ∧ Unheld sPair e := by
  have h : ∀ e ∈ sPair.posted, e.pair = true ∧ ∀ x ∈ sPair.posted, x.moved = false ∧ (x.core = e.core → x.id < e.id →
      ¬ (x.batch = e.batch ∧ x.part = e.part) → ¬ (e.release = true ∧ dieUp e.scope = true) ∧ ∀ c ∈ x.bytes, ∀ d ∈ e.bytes, c.1 ≠ d.1) := by
    decide +kernel
  exact h
theorem wit_fence_complete : ∃ (s f : State), At s ⟨1, 0⟩ f ∧ f.g.fence = some (.sys, [3]) ∧ f.g.ops = [] ∧ f.g.log = none ∧ f.recalls = [] ∧
    (∀ x ∈ f.posted, x.id ∉ [3]) :=
  ⟨_, _, atWith { fetchGroup with fence := some (.sys, [3]) } rfl, rfl, rfl, rfl, rfl, by simp [fWith, sWith, sI, State.reset]⟩

/-! Waits. -/

def gWait (sp : Bool) (goal : W64) : Group :=
  { fetchGroup with status := .cwait (.cwait ⟨0#7, 40#7, 41#7, sp, .acq, .sys⟩) 1#32 0#64 goal }
theorem idleWith (g : Group) (ho : g.ops = []) (hs : (fWith g).g.draining = false) : Idle (fWith g) := idleOf ho hs rfl
/-- Reached, and not reached; the counter in memory, and in the scratchpad. -/
theorem wit_cwait_wake : ∀ b : Bool, ∃ (s f : State) (pa : Nat), At s ⟨1, 0⟩ f ∧ Idle f ∧
    f.g.status = .cwait (.cwait ⟨0#7, 40#7, 41#7, false, .acq, .sys⟩) 1#32 0#64 (if b then 0#64 else 1#64) ∧ Held f 0#64 .load pa ∧ Settled f pa 8 ∧
    f.corePoison f.t.core pa 8 = false :=
  fun b => ⟨_, _, 2 ^ 40, atWith (gWait false (if b then 0#64 else 1#64)) rfl, idleWith _ rfl (by revert b; decide +kernel), rfl,
    heldOf (by revert b; decide +kernel), settledOf (by revert b; decide +kernel) rfl rfl rfl rfl rfl rfl rfl, by revert b; decide +kernel⟩
theorem wit_cwait_sp : ∀ b : Bool, ∃ (s f : State), At s ⟨1, 0⟩ f ∧ Idle f ∧
    f.g.status = .cwait (.cwait ⟨0#7, 40#7, 41#7, true, .acq, .sys⟩) 1#32 0#64 (if b then 0#64 else 1#64) ∧ ScratchRange f 0#64 8 :=
  fun b => ⟨_, _, atWith (gWait true (if b then 0#64 else 1#64)) rfl, idleWith _ rfl (by revert b; decide +kernel), rfl, by
    cases b <;> exact ⟨by decide +kernel, by decide +kernel⟩⟩
theorem wit_bwait_wake : ∀ b : Bool, ∃ (s f : State), At s ⟨1, 0⟩ f ∧ Idle f ∧
    f.g.status = .bwait (.bwait ⟨0#7, 40#7, 41#7⟩) 1#32 0#64 (if b then 0#32 else 1#32) ∧ f.scrPoisoned 0 12 = false :=
  fun b => ⟨_, _, atWith { fetchGroup with status := .bwait (.bwait ⟨0#7, 40#7, 41#7⟩) 1#32 0#64 (if b then 0#32 else 1#32) } rfl,
    idleWith _ rfl (by revert b; decide +kernel), rfl, by rfl⟩

/-- Group 0 waits for 128 registers; `used` groups of 128 stand beside it. -/
def gGrow : Group := { fetchGroup with n := 16, status := .grow 1#32 128 3#4 0 }
def teamGrow (used : Nat) : Team := { teamA with groups := gGrow :: (List.range used).map fun k => { fetchGroup with id := k + 1, lane := Vector.replicate 32 .parkedSplit } }
def sGrower (used : Nat) : State := { sI with teams := [teamGrow used] }
def fGrower (used : Nat) : State := { sGrower used with t := teamGrow used, g := gGrow }
theorem atGrower (used : Nat) : At (sGrower used) ⟨1, 0⟩ (fGrower used) :=
  ⟨by simp [sGrower, sI, State.reset], rfl, fun x hx => by rw [List.mem_singleton.1 hx]; exact ⟨by simp [teamGrow, teamA], rfl⟩, by
    simp [State.loadFocus, sGrower, fGrower, teamGrow, teamA, gGrow, fetchGroup, Group.blank]⟩

theorem loneGrower (used : Nat) : LoneGrower (sGrower used) ⟨1, 0⟩ (fGrower used) 1#32 128 3#4 :=
  ⟨atGrower used, ⟨0, rfl⟩, by simp [sGrower, fGrower], by
    simp [fGrower, teamGrow, gGrow, fetchGroup, Group.blank, List.filter_eq_nil_iff],
   fun x hx _ g hg hgs => by
    rw [List.mem_singleton.1 hx] at hg ⊢
    refine ⟨rfl, ?_⟩
    rcases List.mem_cons.1 hg with rfl | hg
    · rfl
    · obtain ⟨k, _, rfl⟩ := List.mem_map.1 hg
      obtain ⟨i, n, q, k', h⟩ := hgs
      simp [fetchGroup, Group.blank] at h, by simp [fGrower, gGrow]⟩

/-- The 31 groups beside it leave seven blocks; 32 leave none. -/
theorem wit_grow_events : LoneGrower (sGrower 31) ⟨1, 0⟩ (fGrower 31) 1#32 128 3#4 ∧ (sGrower 31).usedBlocks 0 + (128 - 16) / 16 = 256 ∧
    LoneGrower (sGrower 32) ⟨1, 0⟩ (fGrower 32) 1#32 128 3#4 ∧ 256 < (sGrower 32).usedBlocks 0 + (128 - 16) / 16 ∧
    ∀ x ∈ (sGrower 32).teams, ∀ g ∈ x.groups, g.id = 0 ∨ g.runnable = 0#32 ∧ g.exited ≠ BitVec.allOnes 32 :=
  ⟨loneGrower 31, by decide +kernel, loneGrower 32, by decide +kernel, by decide +kernel⟩
theorem wit_shrink_release : ∃ (s f : State), At s ⟨1, 0⟩ f ∧ f.g.shrinkTo = some 16 ∧ f.g.clearAbove 16 = true :=
  ⟨_, _, atWith { fetchGroup with shrinkTo := some 16 } rfl, rfl, by decide +kernel⟩

/-! ### The same for the matrix engine, tiles and copies in flight -/

/-- Groups 0 and 1 wait at the rendezvous; the tile stands at virtual address 0. -/
def mmaOp (k : Nat) : MmaOp :=
  { op := 20 + k, team := 1, group := k, gang := 3#32, fmt := .bf16, free := false, reuse := true, a := 16#7, b := 0, t := 0#64
    tile := 2 ^ 40, tag := 0#16, scale := 0#16, lpc := 0#32, waitm := 0#32, dirty := [] }

def gMma (k : Nat) : Group := { fetchGroup with id := k, quad := k, gangr := 3#32, status := .rendezvous, watch := some [] }
def teamMma : Team := { teamA with groups := [gMma 0, gMma 1] }

/-- The groups arrived in descending order. -/
def sRendezvous : State := { sI with teams := [teamMma], mma := [mmaOp 1, mmaOp 0] }

theorem betweenOf {s : State} (h : s.power ≠ .off ∧ s.t.tid = 0 ∧ ∀ x ∈ s.teams, x.tid ≠ 0 ∧ x.gone = false) : Between s := ⟨h.1, h.2.1, h.2.2⟩

theorem wit_gang_complete : GangComplete sRendezvous 0 1 3#32 :=
  { idle := betweenOf (by decide +kernel)
    some_ := by decide
    agree := by decide +kernel
    all := by decide +kernel
    team := ⟨teamMma, rfl, rfl, by decide +kernel, by decide +kernel⟩
    free := by decide +kernel
    held := rfl
    unheld := by decide +kernel }

/-- Both members stand in the first place of the engine. -/
def sPlaced (reuse : Bool) : State :=
  { sI with teams := [teamMma], engines := [⟨0, [⟨[{ mmaOp 0 with reuse := reuse }, { mmaOp 1 with reuse := reuse }]⟩], [], []⟩] }
theorem wit_latch : ∀ reuse : Bool, ∃ (h : MmaOp) (ms : List MmaOp), Between (sPlaced reuse) ∧ ((sPlaced reuse).engine 0).places = ⟨h :: ms⟩ :: [] ∧
    ((sPlaced reuse).engine 0).latched = [] ∧ (sPlaced reuse).stalled 0 = false ∧ ((sPlaced reuse).engine 0).held = [] ∧ h.dirty = [] ∧
    h.reuse = reuse ∧ ms.length = 1 ∧ ∀ m ∈ h :: ms, ∃ f, (sPlaced reuse).loadFocus ⟨m.team, m.group⟩ = some f ∧
      f.g.watch = some [] ∧ ∀ b ∈ f.g.vbad, ¬ (m.a.toNat ≤ b.1 ∧ b.1 < m.a.toNat + 16) := by
  intro b
  refine ⟨_, _, betweenOf (by cases b <;> decide +kernel), rfl, rfl, rfl, rfl, rfl, rfl, rfl, fun m hm => ?_⟩
  rcases List.mem_cons.1 hm with rfl | hm
  · exact ⟨_, rfl, rfl, by intro b hb; cases hb⟩
  rw [List.mem_singleton] at hm
  subst hm
  exact ⟨_, rfl, rfl, by intro b hb; cases hb⟩

/-- A contribution of both groups for the tile at `2 ^ 40`. -/
def contrib (tag : BitVec 16) : Contribution :=
  { id := 50 + tag.toNat, core := 0, ctx := 0#10, team := 1, members := [⟨0, 0#32, 0#32⟩, ⟨1, 0#32, 0#32⟩], fmt := .bf16, free := false, t := 0#64
    tile := 2 ^ 40, tag := tag, rows := 32, poison := false, elems := List.replicate 2048 0#64, refused := false, signalled := false }

theorem wit_send : ∃ (s : State) (c : Contribution), s.power ≠ .off ∧ (s.engine 0).latched = c :: [] ∧ s.stalled 0 = false ∧
    s.here c.tile = true ∧ s.mma = [] :=
  ⟨{ sI with engines := [⟨0, [], [contrib 0#16], []⟩] }, contrib 0#16, by decide, rfl, rfl, by decide +kernel, rfl⟩

/-- A tile of eight MMAs in order, and a contribution that comes to it. -/
def tile8 (kept : Nat) : Tile := { tile0 with n := 8, kept := (List.range kept).map fun k => contrib (BitVec.ofNat 16 (k + 1)) }
def sArrive (x : Tile) (c : Contribution) : State := { sI with tiles := [x], transit := [c] }

def Comes (x : Tile) (c : Contribution) : Prop :=
  (sArrive x c).power ≠ .off ∧ (sArrive x c).transit = c :: [] ∧ c.refused = false ∧ (sArrive x c).here c.tile = true ∧
    ((sArrive x c).tiles.find? fun y => y.base = c.tile) = some x ∧ ((sArrive x c).tiles.filter fun y => y.id = x.id) = [x] ∧
    x.closing = false ∧ x.refusedFar = []

/-- Another size; a tag past the end, the last tag in range and one that is held already; the next tag, and any tag in free mode;
ahead of its turn with three held, and with four. -/
theorem wit_arrivals :
    (Comes (tile8 0) { contrib 0#16 with rows := 16 } ∧ ({ contrib 0#16 with rows := 16 } : Contribution).rows ≠ (tile8 0).rows) ∧
    (Comes (tile8 0) (contrib 8#16) ∧ (tile8 0).n - (tile8 0).merged ≤ 8) ∧ (Comes (tile8 0) (contrib 7#16) ∧ ¬ (tile8 0).n - (tile8 0).merged ≤ 7) ∧
    (Comes (tile8 1) (contrib 1#16) ∧ ∃ k ∈ (tile8 1).kept, k.tag = (contrib 1#16).tag) ∧
    (Comes (tile8 0) (contrib 0#16) ∧ (tile8 0).kept = [] ∧ (contrib 0#16).fmt.tile = (tile8 0).fmt) ∧
    (Comes { tile8 0 with free := true } { contrib 9#16 with free := true }) ∧
    (Comes (tile8 3) (contrib 5#16) ∧ (tile8 3).kept.length < 4) ∧ (Comes (tile8 4) (contrib 5#16) ∧ ¬ (tile8 4).kept.length < 4) :=
  ⟨⟨by unfold Comes; decide +kernel, by decide⟩, ⟨by unfold Comes; decide +kernel, by decide⟩, ⟨by unfold Comes; decide +kernel, by decide⟩,
   ⟨by unfold Comes; decide +kernel, by decide⟩, ⟨by unfold Comes; decide +kernel, by decide⟩, by unfold Comes; decide +kernel,
   ⟨by unfold Comes; decide +kernel, by decide⟩, ⟨by unfold Comes; decide +kernel, by decide⟩⟩
/-- Signalled, and not signalled. -/
theorem wit_resend : ∀ b : Bool, ∃ (s : State) (c : Contribution), s.power ≠ .off ∧ (s.transit.filter fun x => x.id = c.id) = [c] ∧ c.refused = true ∧
    s.here c.tile = true ∧ ((∃ x ∈ s.tiles, c.id ∈ x.refusedBy) ↔ b = true) :=
  fun b => ⟨sArrive { tile8 4 with refusedBy := if b then [55] else [] } { contrib 5#16 with refused := true }, { contrib 5#16 with refused := true },
    by simp [sArrive, sI, State.reset], by cases b <;> decide +kernel, rfl, by cases b <;> decide +kernel, by cases b <;> decide +kernel⟩
theorem wit_tile_timeout : ∃ (s : State) (x : Tile), s.power ≠ .off ∧ (s.tiles.filter fun y => y.id = x.id) = [x] ∧ x.merged < x.n ∧ (x.closing = true ∨ x.free = false ∧ x.kept ≠ []) ∧
    x.ctr = 0#64 ∧ x.refusedFar = [] ∧ (∀ l ∈ x.frames, s.here l = true) ∧ (∀ c ∈ s.transit, c.tile = x.base → c.refused = false) :=
  ⟨sArrive (tile8 1) (contrib 0#16), tile8 1, by decide, by decide +kernel, by decide, by decide, rfl, rfl, by decide +kernel, by decide +kernel⟩

theorem engineOf {s : State} {core : Nat} {ctx : BitVec 10} {va : W64} {a : Access} {pa : Nat}
    (h : canonical va = true ∧ s.tlbFind [.engine core, .die (dieOfCore core)] ctx (vaNum va) = some leaf0 ∧
      (∀ x ∈ [TlbSite.engine core, TlbSite.die (dieOfCore core)], s.tlb.contains (x, leaf0) = true) ∧
      leafPa leaf0.entry.toNat leaf0.companion.toNat (vaNum va) = some pa ∧ (s.reservedPa pa || s.inRegion pa) = false ∧
      ¬ (a = .store ∧ (!leaf0.entry.getLsbD 2) = true) ∧ ¬ (a = .fetch ∧ (!leaf0.entry.getLsbD 3) = true) ∧
      (s.here pa && (s.keyOf pa).isNone) = false) : s.translateEngine core ctx va a = .ok s pa := by
  obtain ⟨h1, h2, h3, h4⟩ := h
  have e : s.tlbAdd [.engine core, .die (dieOfCore core)] leaf0 = s := by
    simp only [List.mem_cons, List.not_mem_nil, or_false, forall_eq_or_imp, forall_eq] at h3
    simp [State.tlbAdd, State.tlbPut, h3.1, h3.2, -List.contains_eq_mem]
  simp only [State.translateEngine, State.translateAt, h1, h2, e, Bool.not_true, Bool.false_eq_true, if_false]
  exact useLeafOf h4

/-- A copy that waits, and one that runs. -/
def sCopying (c : CopyCmd) : State := { sI with copies := [c] }
def fCopying (c : CopyCmd) : State := { sF with copies := [c] }
theorem atCopying (c : CopyCmd) : At (sCopying c) ⟨1, 0⟩ (fCopying c) :=
  ⟨by simp [sCopying, sI, State.reset], rfl, fun x hx => by rw [List.mem_singleton.1 hx]; exact ⟨by simp [teamA], rfl⟩, rfl⟩

theorem mayBegin {s f : State} {sc : Scope} (ho : f.g.ops = []) (hp : s.posted = []) (hr : s.recalls = []) : MayBegin s f ⟨1, 0⟩ sc [] [] :=
  ⟨by simp [ho], by simp [hp], fun _ => hr⟩
theorem wit_copy_start : At (sCopying copy0) ⟨1, 0⟩ (fCopying copy0) ∧ ((sCopying copy0).copies.filter fun x => x.id = copy0.id) = [copy0] ∧
    ((sCopying copy0).copies.find? fun x => x.core = copy0.core ∧ x.started = false) = some copy0 ∧
    ((sCopying copy0).copies.filter fun x => x.core = copy0.core ∧ x.started = true).length < 2 ∧ copy0.clear = false ∧
    MayBegin (sCopying copy0) (fCopying copy0) ⟨copy0.team, copy0.group⟩ copy0.scope copy0.behind copy0.after :=
  ⟨atCopying _, by decide +kernel, by decide +kernel, by decide +kernel, rfl, mayBegin rfl rfl rfl⟩
theorem wit_copy_complete : ∃ (c : CopyCmd) (pa : Nat → Nat), At (sCopying c) ⟨1, 0⟩ (fCopying c) ∧
    ((sCopying c).copies.filter fun x => x.id = c.id) = [c] ∧ c.started = true ∧ c.stuck = none ∧
    MayBegin (sCopying c) (fCopying c) ⟨c.team, c.group⟩ c.scope c.behind c.after ∧ c.ctrSp = true ∧
    c.shape.toGlobal = false ∧ (fCopying c).t.core = c.core ∧ (fCopying c).t.ctx = c.ctx ∧ c.done = 0 ∧ c.shape.count = 1 ∧
    (let n := c.shape.esize
     let f := fCopying c
     let a (q : Nat) : Nat := (c.shape.scratchAt (c.shape.vector q)).toNat
     (∀ q, q < 1 → f.translateEngine c.core c.ctx (c.shape.globalAt (c.shape.vector q)) .load = .ok f (pa q) ∧ Settled f (pa q) n) ∧
     (∀ q, q < 1 → Apart (a q) n c.ctr.toNat 8) ∧ f.scrPoisoned c.ctr.toNat 8 = false ∧ ∀ q, q < 1 → f.scrPoisoned (a q) n = false) := by
  refine ⟨{ copy0 with started := true }, fun _ => 2 ^ 40, atCopying _, by decide +kernel, rfl, rfl, mayBegin rfl rfl rfl, rfl, rfl, rfl, rfl, rfl, by decide,
    ?_, ?_,
    by decide +kernel, ?_⟩
  · intro q hq
    obtain rfl : q = 0 := by omega
    exact ⟨engineOf (by decide +kernel), settledOf (by decide +kernel) rfl rfl rfl rfl rfl rfl rfl⟩
  · intro q hq
    obtain rfl : q = 0 := by omega
    exact .inl (by decide +kernel)
  · intro q hq
    obtain rfl : q = 0 := by omega
    decide +kernel
theorem wit_walk_fault : ∃ c : CopyCmd, At (sCopying c) ⟨1, 0⟩ (fCopying c) ∧ ((sCopying c).copies.filter fun x => x.id = c.id) = [c] ∧
    c.stuck = some (0x06#8, 0#64, 0#64) ∧ ∀ v ∈ (sCopying c).saved, v.tid ≠ c.team :=
  ⟨{ copy0 with stuck := some (0x06#8, 0#64, 0#64) }, atCopying _, by decide +kernel, rfl, by simp [sCopying, sI, State.reset]⟩

/-- An asynchronous copy of four bytes from virtual address 0 to scratchpad 0. -/
def acp0 : AcpCmd :=
  { id := 7, instr := .acp ⟨0#7, 0#4, 5#7, addr0, 12#7, .b4, false, true, .die⟩, lpc := 0#32, waitm := 0#32, active := 1#32, core := 0, team := 1, group := 0
    ctx := 0#10, size := 4, toGlobal := false, moves := [⟨0, some (2 ^ 40), 0⟩], fails := [], lanes := Vector.replicate 32 LaneOp.zero, data := []
    badWords := [], whole := [], poisoned := [], freed := [], lost := [], bound := false, ctr := 0x200#64, ctrSp := true, scope := .die, total := 4
    after := [], behind := [], clear := false }
theorem wit_acp_complete : ∃ (s f : State), At s ⟨1, 0⟩ f ∧ (s.acps.filter fun x => x.id = acp0.id) = [acp0] ∧ acp0.toGlobal = false ∧ acp0.ctrSp = true ∧
    MayBegin s f ⟨acp0.team, acp0.group⟩ acp0.scope acp0.behind acp0.after ∧ (cellUp acp0.scope = true → s.recalls = []) ∧ acp0.fails = [] ∧ acp0.moves = [⟨0, some (2 ^ 40), 0⟩] ∧ Settled f (2 ^ 40) acp0.size ∧ f.scrPoisoned acp0.ctr.toNat 8 = false ∧
    Apart 0 acp0.size acp0.ctr.toNat 8 :=
  ⟨{ sI with acps := [acp0] }, { sF with acps := [acp0] }, ⟨by decide, by decide, by decide, rfl⟩, by decide +kernel, rfl, rfl, mayBegin rfl rfl rfl,
   fun _ => rfl, rfl, rfl,
   settledOf (by decide +kernel) rfl rfl rfl rfl rfl rfl rfl, by decide +kernel, .inl (by decide +kernel)⟩

/-- A storing counter word whose last act stands out: its counter is at virtual address 0x200. -/
def stc0 : StcCmd :=
  { id := 7, core := 0, team := 1, group := 0, op := 1, lane := 0, ctx := 0#10, amount := 4, kind := .rel, scope := .sys, ctr := 0x200#64, after := [] }
def gStc : Group := { fetchGroup with ops := [{ op0 with instr := .stc ⟨0#7, 8#7, addr0, 12#7, .b4, .rel, .sys⟩ }] }
theorem wit_stc_landing : ∃ (s f : State) (o : Op), At s ⟨1, 0⟩ f ∧ (s.stcs.filter fun x => x.id = stc0.id) = [stc0] ∧
    InFlight f o (oneLane (Fin.ofNat 32 stc0.lane)) ∧ o.id = stc0.op ∧ (∀ e ∈ s.posted, e.id ∉ stc0.after) ∧ Held f stc0.ctr .store (2 ^ 40 + 0x200) ∧
    Settled f (2 ^ 40 + 0x200) 8 ∧ KeyMapApart f (2 ^ 40 + 0x200) 8 (2 ^ 40 + 0x200) ∧
    (∀ x ∈ s.triggers, x.addr = 2 ^ 40 + 0x200 → x.pkg = s.pkg) ∧ (cellUp stc0.scope = true → s.recalls = []) :=
  ⟨{ sWith gStc with stcs := [stc0] }, { fWith gStc with stcs := [stc0] }, _, ⟨by decide, by decide, by decide, rfl⟩, by decide +kernel,
   ⟨List.mem_cons_self, by simp [fWith, gStc], by simp [fWith, gStc]; rfl, rfl, rfl, rfl, by decide +kernel, by decide +kernel⟩, rfl, by decide +kernel,
   heldOf (by decide +kernel), settledOf (by decide +kernel) rfl rfl rfl rfl rfl rfl rfl, by unfold KeyMapApart; decide +kernel, by decide, fun _ => rfl⟩

/-! ### The same for the scheduler and privileged commands -/

/-- Cores 0 and 1 are in service. A grid of six teams, of which one is dealt. -/
def gridW (order : Nat) : Grid :=
  { fetchGrid with record := { fetchRecord with ex := 2, ey := 3, rows := 4, order := order }, dealt := 1, placed := 1, placedAll := false }
def sPlace (order : Nat) : State :=
  { withMem sI 10 1 1 with
    grids := [gridW order], queues := State.reset.queues.set 1 [.grid 1]
    spares := { Spares.none with fenced := (List.range 190).map (· + 2) } }
theorem wit_placement : ∀ order ∈ [0, 1], ∃ core q0 row0 : Nat, (sPlace order).power ≠ .off ∧ (sPlace order).queues[(1 : Fin 4)] = .grid (gridW order).gid :: [] ∧
    (∀ k : Fin 4, 1 < k → (sPlace order).queues[k] = []) ∧ ((sPlace order).grids.find? fun x => x.gid = (gridW order).gid) = some (gridW order) ∧
    (sPlace order).active (gridW order).ctx = true ∧
    (let r := (gridW order).record
     (sPlace order).seatFor ⟨.grid (gridW order).gid, List.range r.groups, r.groups * (r.regs / 16), r.rows, (gridW order).dies, (gridW order).lastCore.map (· + 1)⟩ =
       some (core, q0, row0)) ∧ (gridW order).record.order = order ∧ (gridW order).dealt < 6 := by
  intro o ho
  rcases List.mem_cons.1 ho with rfl | ho
  · exact ⟨1, 0, 0, by decide, by decide +kernel, by decide +kernel, by decide +kernel, by decide +kernel, by decide +kernel, rfl, by decide⟩
  rw [List.mem_singleton] at ho
  subst ho
  exact ⟨1, 0, 0, by decide, by decide +kernel, by decide +kernel, by decide +kernel, by decide +kernel, by decide +kernel, rfl, by decide⟩

/-- Core 0 alone is in service; a team of level 0 whose groups have retired holds all its rows. -/
def sFull : State :=
  { sPlace 0 with teams := [{ teamA with rows := 1024, groups := [] }], spares := { Spares.none with fenced := (List.range 191).map (· + 1) } }
def teamFull : Team := { teamA with rows := 1024, groups := [] }
def sameWanted (x : Option Wanted) (w : Wanted) : Bool :=
  match x with
  | some v => decide (v.entry = w.entry) && decide (v.ids = w.ids) && decide (v.blocks = w.blocks) && decide (v.rows = w.rows) &&
      decide (v.dies = w.dies) && decide (v.start = w.start)
  | none => false
theorem headOf {x : Option Wanted} {w : Wanted} (h : sameWanted x w = true) : x = some w := by
  cases x with
  | none => simp [sameWanted] at h
  | some v => cases v; cases w; simp [sameWanted] at h; simp [h]
theorem wit_preemption : ∃ w : Wanted, sFull.power ≠ .off ∧ (sFull.teams.map (·.tid)).Nodup ∧
    (∀ c, (sFull.teams.filter fun y => y.core = c).length ≤ 64) ∧ sFull.head 1 = some w ∧ sFull.roomComing w = false ∧
    sFull.seatIn (sFull.coresOf w.dies) w = none ∧ Qualifies sFull w 1 0 [teamFull] ∧
    (sFull.reserveAreas (w.entry, sFull.headPlace w.entry) [teamFull]).isSome = true :=
  ⟨⟨.grid 1, [0], 8, 4, 0xF#4, some 1⟩, by decide, by decide, fun c => by
      refine Nat.le_trans (List.length_filter_le _ _) ?_; decide,
   headOf (by decide +kernel), by decide +kernel, by decide +kernel,
   ⟨by decide +kernel, by decide +kernel, by decide +kernel, by decide +kernel⟩, by decide +kernel⟩
/-- Fewer teams come first; then lower levels; then later placements; then the lower core. -/
theorem wit_victims : NoLater (5, [teamA]) (0, [teamA, teamA]) ∧ NoLater (5, [teamA]) (0, [{ teamA with level := 2 }]) ∧
    NoLater (5, [{ teamA with placed := 9 }]) (0, [{ teamA with placed := 3 }]) ∧ NoLater (4, [teamA]) (5, [teamA]) :=
  ⟨.inl (by decide), .inr ⟨rfl, .inl (by decide)⟩,
   .inr ⟨rfl, .inr ⟨by decide, fun m n hm hn => .inl (by
     obtain ⟨⟨y, hy, hym⟩, _⟩ := hm; obtain ⟨⟨z, hz, hzn⟩, _⟩ := hn
     rw [List.mem_singleton.1 hy] at hym; rw [List.mem_singleton.1 hz] at hzn; simp only at hym hzn; omega)⟩⟩,
   .inr ⟨rfl, .inr ⟨by decide, fun m n hm hn => .inr ⟨by
     obtain ⟨⟨y, hy, hym⟩, _⟩ := hm; obtain ⟨⟨z, hz, hzn⟩, _⟩ := hn
     rw [List.mem_singleton.1 hy] at hym; rw [List.mem_singleton.1 hz] at hzn; rw [← hym, ← hzn], by decide⟩⟩⟩⟩

def teamSaving : Team := { teamA with saving := some .suspend, area := some 0x300_0000 }
theorem wit_save : ∃ s : State, Between s ∧ Canonical s ∧ (s.teams.filter fun y => y.tid = teamSaving.tid) = [teamSaving] ∧
    s.teamDrained teamSaving = true ∧ teamSaving.header = false ∧ (∀ p ∈ s.posted, p.core ≠ teamSaving.core) ∧ s.recalls = [] ∧
    (teamSaving.groups.map (·.id)).Nodup ∧ (s.copies.filter fun c => c.team = teamSaving.tid) = [] ∧
    (∀ g ∈ teamSaving.groups, g.id < teamSaving.groupCount ∧ g.held.length ≤ 14 ∧ g.n ≤ 128) ∧ (∃ g ∈ teamSaving.groups, g.retired = false) ∧
    HwWritable s 0x300_0000 (4096 * areaUnits teamSaving.groupCount teamSaving.rows) :=
  ⟨{ sI with teams := [teamSaving] }, betweenOf (by decide), by rfl, rfl, by decide +kernel, rfl, by decide, rfl, by decide, by decide, by decide, by decide,
   hwHigh (by decide +kernel) (by decide) (by decide +kernel) rfl rfl rfl⟩

def saved0 : Saved :=
  { tid := 5, area := 0x300_0000, units := 40, ctx := 0#10, level := 1, core := 3, cause := .call, scrPoison := [], extra := [], copies := [], calls := []
    zeroed := true, eligible := false }
theorem wit_resume : ∃ s : State, s.power ≠ .off ∧ (s.saved.filter fun x => x.tid = saved0.tid) = [saved0] ∧ saved0.eligible = false ∧
    saved0.zeroed = true ∧ saved0.calls = [] ∧ saved0.level < 4 :=
  ⟨{ sPlace 0 with saved := [saved0] }, by decide, by decide +kernel, rfl, rfl, rfl, by decide⟩

/-- A store that its home has refused as moved; the die's pointers lead to a leaf at level 1, in a granule with a key. -/
def postM : Posted := { post0 with moved := true }
def sMoved : State :=
  { withMem (withMem sI 0x400_0000 8 leaf0.entry.toNat) 0x800 2 0x8005 with
    posted := [postM]
    ptrs := [⟨0, 0#10, 4, 0, 0x400_0000⟩, ⟨0, 0#10, 3, 0, 0x400_0000⟩, ⟨0, 0#10, 2, 0, 0x400_0000⟩] }
def okAt (x : Xlated) : Option Nat := match x with | .ok u pa => if u.frozen pa then none else some pa | _ => none
theorem okAtOf {x : Xlated} {pa : Nat} (h : okAt x = some pa) : ∃ u, x = .ok u pa ∧ u.frozen pa = false := by
  cases x with
  | ok u q =>
    cases hf : u.frozen q
    · obtain rfl : q = pa := by simpa [okAt, hf] using h
      exact ⟨u, rfl, hf⟩
    · simp [okAt, hf] at h
  | wait f => simp [okAt] at h
  | notPresent => simp [okAt] at h
  | permission => simp [okAt] at h
/-- No entry at hand is a leaf of several entries. -/
def noRun (s : State) (lvl table k j : Nat) : Bool :=
  match s.readyAt false 0#10 (unitFlow 0 0) (lineOf (table + 8 * k)) false with
  | .yes t => !isRun (ofBytes (t.homeBytes (table + 8 * k) 8)) lvl (2 ^ (1 + j))
  | _ => true
theorem servingOwn {s : State} {lvl table : Nat} (h : ∀ j < 8, ∀ k < 256, noRun s lvl table k j = true) :
    s.servingIdx 0 0#10 lvl table 0 = 0 := by
  have hj : (s.freeW 900001).toNat % 8 < 8 := Nat.mod_lt _ (by decide)
  unfold State.servingIdx
  generalize (s.freeW 900001).toNat % 8 = j at hj
  have hn : 0 < 2 ^ (1 + j) := Nat.two_pow_pos _
  have h8 : 2 ^ (1 + j) ≤ 256 := Nat.pow_le_pow_right (by decide) (by omega : 1 + j ≤ 8)
  have hk : (s.freeW 900002).toNat % 2 ^ (1 + j) < 256 := Nat.lt_of_lt_of_le (Nat.mod_lt _ hn) h8
  have := h j hj _ hk
  simp only [noRun, Nat.zero_div, Nat.zero_mul, Nat.zero_add] at this ⊢
  split <;> simp_all
theorem wit_moved : ∃ (f u : State) (c : Host.Cell) (cs : List Host.Cell) (pa : Nat), At sMoved ⟨1, 0⟩ f ∧
    (sMoved.posted.filter fun x => x.team = postM.team ∧ x.group = postM.group) = [postM] ∧
    (sMoved.posted.filter fun x => x.id = postM.id) = [postM] ∧ (∀ x ∈ sMoved.acps, ¬ (x.team = postM.team ∧ x.group = postM.group)) ∧
    f.g.ops = [] ∧ postM.bytes = c :: cs ∧ postM.moved = true ∧
    (sMoved.dropVa postM.core postM.ctx postM.va).translate postM.core postM.ctx postM.va .store = .ok u pa ∧ u.frozen pa = false := by
  have h1 := servingOwn (s := sMoved.dropVa 0 0#10 0#64) (lvl := 1) (table := 0x400_0000) (by decide +kernel)
  obtain ⟨u, hu⟩ := okAtOf (x := (sMoved.dropVa postM.core postM.ctx postM.va).translate postM.core postM.ctx postM.va .store) (pa := 2 ^ 40) (by
    have h2 : (sMoved.dropVa 0 0#10 0#64).tlbFind [.core 0, .die (dieOfCore 0)] 0#10 (vaNum 0#64) = none := by decide +kernel
    show okAt ((sMoved.dropVa 0 0#10 0#64).translateAt [.core 0, .die (dieOfCore 0)] (dieOfCore 0) 0#10 0#64 .store) = _
    simp only [State.translateAt, h2]
    have h3 : ∀ root, State.walk (dieOfCore 0) 0#10 (vaNum 0#64) 4 (sMoved.dropVa 0 0#10 0#64) root =
        State.walk 0 0#10 0 1 (sMoved.dropVa 0 0#10 0#64) 0x400_0000 := fun _ => rfl
    rw [h3]
    have h4 : (sMoved.dropVa 0 0#10 0#64).ptrs.find? (fun p => p.die = 0 ∧ p.ctx = 0#10 ∧ p.lvl = 0 + 1 ∧ p.idx = vaIdx 0 (0 + 1)) = none := by
      decide +kernel
    simp only [State.walk, h4, show vaIdx 0 (0 + 1) % 512 = 0 by decide, h1]
    decide +kernel)
  exact ⟨_, u, _, _, _, ⟨by decide, by decide, by decide, rfl⟩, by decide +kernel, by decide +kernel, by decide, rfl, rfl, rfl, hu.1, hu.2⟩

/-- Each command at the head of the queue, for context 0. -/
def sCtl (k : Nat) : State := { sI with ctxtab := 0x800_0000#64, ctxctlQueue := [⟨BitVec.ofNat 64 (4096 * k), false⟩] }
theorem wit_ctxctl : ∀ p ∈ [(1, Instr.ctxctlSuspend 0#10), (2, .ctxctlResume 0#10), (3, .ctxctlTerminate 0#10), (4, .ctxctlFlush 0#10),
      (5, .ctxctlInvalidCommand (BitVec.ofNat 64 (4096 * 5)))],
    (sCtl p.1).power ≠ .off ∧ (sCtl p.1).ctxctlQueue = ⟨BitVec.ofNat 64 (4096 * p.1), false⟩ :: [] ∧
    ctxctlEvent (BitVec.ofNat 64 (4096 * p.1)) = p.2 := by decide +kernel
theorem wit_ctxctl_memory : ∀ k, Canonical (sCtl k) ∧ (sCtl 4).posted = [] ∧ (sCtl 4).acps = [] ∧ (sCtl 4).transit = [] ∧ (sCtl 4).reqs = [] ∧ (sCtl 4).recalls = [] ∧ (sCtl 4).replies = [] ∧
    (sCtl 4).mma = [] ∧ ∀ e ∈ (sCtl 4).engines, e.latched = [] ∧ e.places = [] :=
  fun _ => ⟨rfl, rfl, rfl, rfl, rfl, rfl, rfl, rfl, by decide⟩

/-! ### The same for hosts, commands, keys and cells -/

/-- The tables stand at 0x800_0000; the bridge runs here; page 0x100_0000 has key 5. -/
def sHome : State :=
  { withMem (withMem sI 0x805_000C 1 1) 0x200 2 0x8005 with ctxtab := 0x800_0000#64 }

theorem wit_bridge : BridgeOpen sHome 0#12 := ⟨by decide, fun _ => rfl, by decide +kernel, by decide, by decide⟩
/-- The first and the last of the registers a host reads. -/
theorem wit_register : (0x0D#8, 0) ∈ hostRegisters sHome ∧ (0x84#8, 0) ∈ hostRegisters sHome ∧ sHome.pkg = 0 := by decide +kernel

theorem servableOf {s : State} {pa n : Nat} (h : (s.mem.wf = true ∧ s.frozen (lineOf pa) = false) ∧ s.homed pa = true ∧ pa % 128 + n ≤ 128 ∧
      s.poison.contains (lineOf pa) = false ∧ ∀ t ∈ s.tiles, lineOf pa ∉ t.frames) (hh : s.hazes = []) (hl : pa < 2 ^ 41) (hz : s.pkg = 0) (hr : s.recalls = [])
    (hd : s.dir = []) (hg : s.tags = []) (hk : s.keyGen = []) : Servable s pa n :=
  ⟨lineFreeOf h.1 (by simp only [lineOf]; omega) (by simp only [lineOf]; omega) hz hr hd hg hk, h.2.1, h.2.2.1, h.2.2.2.1, fun _ _ => by simp [State.hazeByte, hh], h.2.2.2.2⟩

theorem wit_host_access : ∀ n ∈ [4, 8], Servable sHome (2 ^ 40) n ∧ (List.replicate n 7#8).length = n := by
  intro n hn
  refine ⟨servableOf ?_ rfl (by decide) rfl rfl rfl rfl rfl, List.length_replicate⟩
  rcases List.mem_cons.1 hn with rfl | hn
  · decide +kernel
  rw [List.mem_singleton] at hn
  subst hn
  decide +kernel

/-- A command at the window's start, its launch record at 0x400 beyond, in an active context, below its limit of grids and at it. -/
def sHostLaunch (limit : Nat) : State :=
  { withMem (withMem (withMem (withMem (withMem sHome (2 ^ 40) 8 (2 ^ 40 + 0x400)) (2 ^ 40 + 0x40C) 1 1) (2 ^ 40 + 0x414) 1 1) 0x800_000A 1 1) 0x800_0012 2 limit with
    grids := [{ fetchGrid with placedAll := false }] }
theorem wit_host_launch : ∀ p ∈ [(0, false), (1, true)], Servable (sHostLaunch p.1) (2 ^ 40) 24 ∧
    numAt (sHostLaunch p.1) (2 ^ 40) 8 % 2 ^ 62 = 2 ^ 40 + 0x400 ∧ numAt (sHostLaunch p.1) (2 ^ 40 + 8) 2 = 0 ∧
    Servable (sHostLaunch p.1) (2 ^ 40 + 0x400) 64 ∧ (sHostLaunch p.1).active 0#10 = true ∧
    (parseLaunch (bytesAt (sHostLaunch p.1) (2 ^ 40 + 0x400) 64)).isSome = true ∧ (∀ g ∈ (sHostLaunch p.1).grids, g.gid < (sHostLaunch p.1).nextId) ∧
    (sHostLaunch p.1).gridLimit 0#10 = p.2 ∧ (∀ q ∈ (sHostLaunch p.1).hostq, q.job.writes = false) ∧
    BridgeOpen (sHostLaunch p.1) 0#12 := by
  intro p hp
  rcases List.mem_cons.1 hp with rfl | hp
  · exact ⟨servableOf (by decide +kernel) rfl (by decide) rfl rfl rfl rfl rfl, by decide +kernel, by decide +kernel,
      servableOf (by decide +kernel) rfl (by decide) rfl rfl rfl rfl rfl, by decide +kernel, by decide +kernel, by decide +kernel, by decide +kernel, by decide +kernel,
      by decide, fun _ => rfl, by decide +kernel, by decide, by decide⟩
  rw [List.mem_singleton] at hp
  subst hp
  exact ⟨servableOf (by decide +kernel) rfl (by decide) rfl rfl rfl rfl rfl, by decide +kernel, by decide +kernel,
    servableOf (by decide +kernel) rfl (by decide) rfl rfl rfl rfl rfl, by decide +kernel, by decide +kernel, by decide +kernel, by decide +kernel, by decide +kernel,
    by decide, fun _ => rfl, by decide +kernel, by decide, by decide⟩

/-! Translation commands: the command's fields lie in slot 0, and the tail is read as 1. -/

def put (s : State) (l : List (Nat × Nat × Nat)) : State := l.foldl (fun s x => withMem s x.1 x.2.1 x.2.2) s
def sCmd (s : State) (l : List (Nat × Nat × Nat)) : State := { put s (l.map fun x => (0x804_0040 + x.1, x.2)) with tcqTail := 1#64 }
def slot (s : State) : List Byte := s.mem.getList s.tcqSlot 64

theorem quietOf {s : State} (h : (∀ r ∈ s.replies, r.reply ≠ none ∨ r.passed = true) ∧ (∀ r ∈ s.reqs, r.phase ≠ .held) ∧
      (∀ x ∈ s.tiles, x.closing = false) ∧ (∀ x ∈ s.teams, x.raised = true → x.zeroed = true) ∧ (s.t.raised = true → s.t.zeroed = true) ∧
      ∀ v ∈ s.saved, v.eligible = true ∨ v.zeroed = true) (ha : s.adds = []) (hq : s.hostq = []) : HomesQuiet s :=
  ⟨h.1, ha, h.2.1, hq, h.2.2.1, fun x hx => by rcases hx with hx | rfl; exacts [h.2.2.2.1 x hx, h.2.2.2.2.1], h.2.2.2.2.2⟩

theorem unheldAt {s : State} {f : Nat} (h : s.here f = true ∧ s.frozen f = false ∧ (∀ r ∈ s.recalls, r.line ≠ f) ∧ ∀ e ∈ s.dir, e.line ≠ f) :
    LineUnheld s f := ⟨h.1, h.2.1, h.2.2.1, h.2.2.2⟩

theorem commandsOf {s : State} {e : Instr}
    (h : (s.power ≠ .off ∧ s.tcq = none ∧ s.tcqHead = some (slot s) ∧ s.tcqEvent (slot s) = e) ∧
      (∀ a ∈ [lineOf s.tcqBase, lineOf s.tcqSlot], s.here a = true ∧ s.frozen a = false ∧ (∀ r ∈ s.recalls, r.line ≠ a) ∧ ∀ e ∈ s.dir, e.line ≠ a) ∧
      (∀ r ∈ s.replies, r.reply ≠ none ∨ r.passed = true) ∧ (∀ r ∈ s.reqs, r.phase ≠ .held) ∧ (∀ x ∈ s.tiles, x.closing = false) ∧
      (∀ x ∈ s.teams, x.raised = true → x.zeroed = true) ∧ (s.t.raised = true → s.t.zeroed = true) ∧
      ∀ v ∈ s.saved, v.eligible = true ∨ v.zeroed = true)
    (ha : s.adds = []) (hq : s.hostq = []) : Commands s (slot s) e :=
  ⟨h.1.1, h.1.2.1, h.1.2.2.1, h.1.2.2.2, unheldAt (h.2.1 _ (by simp)), unheldAt (h.2.1 _ (by simp)), quietOf h.2.2 ha hq⟩

theorem wit_tcq_invalid : Commands (sCmd sHome [(0, 1, 9)]) (slot (sCmd sHome [(0, 1, 9)])) .tcqInvalidCommand := commandsOf (by decide +kernel) rfl rfl
theorem wit_tcq_end : Canonical (sCmd sHome []) ∧ HomesQuiet (sCmd sHome []) ∧ HwWritable (sCmd sHome []) ((sCmd sHome []).tcqBase + 8) 8 ∧
    HwWritable (sCmd sHome []) ((sCmd sHome []).tcqSlot + 1) 1 ∧ Apart ((sCmd sHome []).tcqSlot + 1) 1 ((sCmd sHome []).tcqBase + 8) 8 :=
  ⟨rfl, quietOf (by decide +kernel) rfl rfl, hwOf (by decide +kernel) rfl rfl, hwOf (by decide +kernel) rfl rfl, .inr (by decide +kernel)⟩
theorem wit_inval : Commands (sCmd sHome [(0, 1, 1), (16, 8, 4096)]) (slot (sCmd sHome [(0, 1, 1), (16, 8, 4096)])) .inval ∧
    NothingUnderWay (sCmd sHome [(0, 1, 1), (16, 8, 4096)]) ∧ (sCmd sHome [(0, 1, 1), (16, 8, 4096)]).tlb ≠ [] :=
  ⟨commandsOf (by decide +kernel) rfl rfl, ⟨rfl, rfl, rfl, rfl, rfl, by decide, rfl, by decide⟩, by decide⟩

/-- Group 0 waits on page 0. -/
def gMerged : Group := { fetchGroup with status := .merged (fault0 0x06#8), log := some (log0 0x06#8 0#8) }
def sMerged (op : Nat) : State := sCmd { put (sWith gMerged) [(0x805_000C, 1, 1)] with ctxtab := 0x800_0000#64, merge := [⟨0, 0#10, 0, [⟨1, 0⟩]⟩] } [(0, 1, op)]
theorem wit_resolve : ∀ p ∈ [(2, Instr.resolve), (3, .finalCmd)], ∃ f : State, At (sMerged p.1) ⟨1, 0⟩ f ∧ f.g.status = .merged (fault0 0x06#8) ∧
    NothingUnderWay (sMerged p.1) ∧ Commands (sMerged p.1) (slot (sMerged p.1)) p.2 ∧
    (let ctx : BitVec 10 := BitVec.ofNat 10 (fieldAt (slot (sMerged p.1)) 2 2)
     let page := fieldAt (slot (sMerged p.1)) 8 8 % 2 ^ 57 / 4096
     ((sMerged p.1).merge.filter fun x => x.ctx = ctx ∧ x.page = page) = [⟨0, 0#10, 0, [⟨1, 0⟩]⟩]) ∧
    ((sMerged p.1).teams.filter fun x => x.tid = f.t.tid) = [f.t] ∧ (f.t.groups.filter fun x => x.id = f.g.id) = [f.g] := by
  intro p hp
  rcases List.mem_cons.1 hp with rfl | hp
  · exact ⟨_, ⟨by decide, by decide, by decide, rfl⟩, rfl, ⟨rfl, rfl, rfl, rfl, rfl, by decide, rfl, by decide⟩, commandsOf (by decide +kernel) rfl rfl, by decide +kernel, rfl, rfl⟩
  rw [List.mem_singleton] at hp
  subst hp
  exact ⟨_, ⟨by decide, by decide, by decide, rfl⟩, rfl, ⟨rfl, rfl, rfl, rfl, rfl, by decide, rfl, by decide⟩, commandsOf (by decide +kernel) rfl rfl, by decide +kernel, rfl, rfl⟩
theorem wit_thaw : ∃ s : State, Commands s (slot s) .thaw ∧ ⟨cmdBase (slot s), cmdLen (slot s)⟩ ∈ s.freezes :=
  ⟨{ sCmd sHome [(0, 1, 5), (13, 1, 1), (16, 8, 4096)] with freezes := [⟨2 ^ 40, 4096⟩] }, commandsOf (by decide +kernel) rfl rfl, by decide +kernel⟩

/-- The last die's window. -/
theorem wit_carve : ∃ s : State, Commands s (slot s) .carve ∧ fieldAt (slot s) 2 2 = 3 ∧ s.tiles = [] ∧ s.triggers = [] ∧ s.freezes = [] ∧
    s.asks = [] ∧ s.dir = [] ∧ s.recalls = [] :=
  ⟨sCmd sHome [(0, 1, 6), (2, 2, 3), (16, 8, 16)], commandsOf (by decide +kernel) rfl rfl, by decide +kernel, rfl, rfl, rfl, by decide +kernel, rfl, rfl⟩

/-- A MOVE of the first 4096 bytes of the window of die 0 to the next 4096. -/
def sMove : State := sCmd sHome [(0, 1, 4), (13, 1, 1), (16, 8, 4096), (24, 8, 2 ^ 40 + 4096)]
theorem wit_move_open_tile : ∃ s : State, Commands s (slot s) .moveCmd ∧
    ∃ t ∈ s.tiles, ∃ l ∈ t.frames, cmdBase (slot s) ≤ l ∧ l < cmdBase (slot s) + cmdLen (slot s) :=
  ⟨{ sMove with tiles := [tile0] }, commandsOf (by decide +kernel) rfl rfl, tile0, List.mem_cons_self, 2 ^ 40, by decide +kernel, by decide +kernel⟩
theorem cmdMove : cmdBase (slot sMove) = 2 ^ 40 ∧ cmdLen (slot sMove) = 4096 ∧ cmdNew (slot sMove) = 2 ^ 40 + 4096 := by decide +kernel
/-- The new home unit holds 4,096 triggers, and one more would come; it holds 4,095. -/
def sMoveTriggers (n : Nat) : State :=
  { sMove with triggers := ⟨2 ^ 40, 0, 0#10, 1, .sys⟩ :: List.replicate n ⟨2 ^ 40 + 4096, 0, 0#10, 1, .sys⟩ }
theorem roomMove (n : Nat) : RoomForTriggers (sMoveTriggers n) (2 ^ 40) 4096 (2 ^ 40 + 4096) ↔ n + 1 ≤ 4096 := by
  simp [RoomForTriggers, sMoveTriggers]
theorem wit_move_triggers : Commands (sMoveTriggers 4096) (slot (sMoveTriggers 4096)) .moveCmd ∧ (sMoveTriggers 4096).tiles = [] ∧
    ¬ RoomForTriggers (sMoveTriggers 4096) (2 ^ 40) 4096 (2 ^ 40 + 4096) ∧ RoomForTriggers (sMoveTriggers 4095) (2 ^ 40) 4096 (2 ^ 40 + 4096) :=
  ⟨commandsOf (by decide +kernel) rfl rfl, rfl, by rw [roomMove]; decide, by rw [roomMove]⟩
theorem wit_move_freezes : ∃ s : State, Commands s (slot s) .moveCmd ∧ s.tiles = [] ∧
    RoomForTriggers s (cmdBase (slot s)) (cmdLen (slot s)) (cmdNew (slot s)) ∧ 64 ≤ s.freezes.length :=
  ⟨{ sMove with freezes := List.replicate 64 ⟨2 ^ 39, 4096⟩ }, commandsOf (by decide +kernel) rfl rfl, rfl,
   by intro x hx; simp [sMove, sCmd, put, sHome, withMem, sI, State.reset] at hx, by decide⟩
theorem servableMove (b : Nat) (hb : b = 2 ^ 40 ∨ b = 2 ^ 40 + 4096) (k : Nat) (hk : k < 32) : Servable sMove (b + 128 * k) 128 := by
  have h : ∀ k, k < 32 → (sMove.mem.wf = true ∧ sMove.frozen (lineOf (b + 128 * k)) = false) ∧ sMove.homed (b + 128 * k) = true ∧
      (b + 128 * k) % 128 + 128 ≤ 128 ∧ sMove.poison.contains (lineOf (b + 128 * k)) = false ∧ ∀ t ∈ sMove.tiles, lineOf (b + 128 * k) ∉ t.frames := by
    rcases hb with rfl | rfl <;> decide +kernel
  exact servableOf (h k hk) rfl (by omega) rfl rfl rfl rfl rfl
theorem keyedMove (b : Nat) (hb : b = 2 ^ 40 ∨ b = 2 ^ 40 + 4096) : LinesKeyed sMove ((List.range 32).map fun k => b + 128 * k) := by
  intro f hf
  obtain ⟨k, hk, rfl⟩ := List.mem_map.1 hf
  rw [List.mem_range] at hk
  have h1 : sMove.fcb = 0x805_0000 := by decide +kernel
  have h2 : sMove.rdRaw (sMove.fcb + 72) 8 = 0 := by decide +kernel
  have h3 : sMove.regionBase + sMove.policy.saveBytes = 2 ^ 39 := by decide +kernel
  refine ⟨by omega, ?_, ?_, fun a ha hb => by rw [h2, h1]; omega, fun _ _ _ _ => rfl⟩
  · show ((b + 128 * k) / 2 ^ 41 == 0) = true
    rw [Nat.div_eq_of_lt (by omega)]; rfl
  · unfold State.inRegion
    rw [h3, Bool.and_eq_false_iff]
    exact .inr (by simp; omega)
theorem wit_move : Commands sMove (slot sMove) .moveCmd ∧ sMove.reqs = [] ∧ sMove.tiles = [] ∧
    RoomForTriggers sMove (cmdBase (slot sMove)) (cmdLen (slot sMove)) (cmdNew (slot sMove)) ∧ sMove.freezes.length < 64 ∧
    sMove.dir = [] ∧ sMove.openFar = [] ∧ sMove.recalls = [] ∧ sMove.triggers = [] ∧ cmdBase (slot sMove) = 2 ^ 40 ∧ cmdLen (slot sMove) = 4096 ∧
    cmdNew (slot sMove) = 2 ^ 40 + 4096 ∧ sMove.here (2 ^ 40 + 4096) = true ∧ sMove.deadPkg sMove.pkg = false ∧
    Apart (2 ^ 40) 4096 (2 ^ 40 + 4096) 4096 ∧
    (∀ b, b = 2 ^ 40 ∨ b = 2 ^ 40 + 4096 → (∀ k, k < 32 → Servable sMove (b + 128 * k) 128) ∧
      LinesKeyed sMove ((List.range (4096 / 128)).map fun k => b + 128 * k)) :=
  ⟨commandsOf (by decide +kernel) rfl rfl, rfl, rfl, by intro x hx; simp [sMove, sCmd, put, sHome, withMem, sI, State.reset] at hx, by decide, rfl, rfl,
    rfl, rfl, by decide +kernel, by decide +kernel,
    by decide +kernel, by decide +kernel, by decide +kernel, .inl (by decide), fun b hb => ⟨servableMove b hb, keyedMove b hb⟩⟩
theorem wit_move_timeout : ∃ (s : State) (m : MoveState), s.power ≠ .off ∧ s.move = some m ∧ m.phase = .copying ∧ m.copied < m.len ∧ s.here m.dst = false ∧
    s.reqs = [] :=
  ⟨{ sMove with move := some ⟨.copying, 2 ^ 40, 4096, 2 ^ 41, 128⟩ }, _, by decide, rfl, rfl, by decide, by decide +kernel, rfl⟩

/-! Keys and cells. -/

def sKey (op : Nat) : State := put sHome [(0x806_0000, 1, op), (0x806_0002, 2, 5), (0x806_000F, 1, 1)]
theorem wit_key_commands : ∀ op ∈ [1, 2, 3], (sKey op).power ≠ .off ∧ (sKey op).keyCmd = some (op, 5) := by decide +kernel
/-- A line under key 5 as it stands. -/
theorem wit_genkey : ∃ s : State, s.keyCmd = some (1, 5) ∧ s.keyOf 0x100_0000 = some 5 ∧
    (s.tags.find? fun t => t.1 = lineOf 0x100_0000) = some (lineOf 0x100_0000, 5, 0) ∧ s.genOf 5 = 0 :=
  ⟨{ sKey 1 with tags := [(0x100_0000, 5, 0)] }, by decide +kernel, by decide +kernel, by decide +kernel, by decide +kernel⟩
/-- The key of an active context, and of none. -/
theorem wit_retire_key : (put (sKey 2) [(0x800_0008, 2, 5), (0x800_000A, 1, 1)]).keyCmd = some (2, 5) ∧
    (put (sKey 2) [(0x800_0008, 2, 5), (0x800_000A, 1, 1)]).keyInUse 5 = true ∧ (sKey 2).keyInUse 5 = false ∧ (sKey 2).dir = [] :=
  ⟨by decide +kernel, by decide +kernel, by decide +kernel, rfl⟩
theorem wit_key_end : Canonical (sKey 1) ∧ HwWritable (sKey 1) ((sKey 1).keyBox + 1) 1 ∧ HwWritable (sKey 1) ((sKey 1).keyBox + 15) 1 :=
  ⟨rfl, hwOf (by decide +kernel) rfl rfl, hwOf (by decide +kernel) rfl rfl⟩
def sCellCmd (k : Nat) (dead : List (BitVec 21)) : State := { put sHome [(0x805_0038, 8, k * 2 ^ 24 + 5)] with dead := dead }
/-- A cell declared dead; a live command for a cell that is alive, and for one that is dead. -/
theorem wit_cell : ∀ p ∈ [(1, [], Instr.cellDeadCommand), (2, [], .cellLiveCommand), (2, [5#21], .cellLiveCommand)],
    (sCellCmd p.1 p.2.1).cellEvent ((sCellCmd p.1 p.2.1).rd ((sCellCmd p.1 p.2.1).fcb + 56) 8) = p.2.2 ∧
    (sCellCmd p.1 p.2.1).cellTaken = false ∧ BitVec.ofNat 21 ((sCellCmd p.1 p.2.1).rd ((sCellCmd p.1 p.2.1).fcb + 56) 8) = 5#21 ∧
    (sCellCmd p.1 p.2.1).dir = [] ∧ (sCellCmd p.1 p.2.1).recalls = [] := by decide +kernel

/-! ### The same for packets -/

/-- A packet of package 9 of this cell for the first line of die 0's window. -/
def pkt (typ op flags : BitVec 8) : Packet :=
  { typ := typ, age := 0#8, dst := 0#24, src := 9#24, srcCell := 0#24, flags := flags, ctx := 0#16, seq := 0#16, tag := 4#32, flow := 3#16, op := op
    size := 5#8, addr := BitVec.ofNat 64 (2 ^ 40), payload := List.replicate 128 0#8 }

theorem arrivesOf {s : State} {ty : BitVec 8} {p : Packet} (h : s.power = .running ∧ p.typ = ty ∧ s.badPacket p = false ∧ s.joined = true)
    (hd : s.dead = []) : Arrives s ty p := ⟨h.1, h.2.1, h.2.2.1, h.2.2.2, hd⟩
theorem asksOf {s : State} {ty : BitVec 8} {p : Packet} (h : (s.power = .running ∧ p.typ = ty ∧ s.badPacket p = false ∧ s.joined = true) ∧
      s.flowOf p = ⟨p.src.toNat, p.flow, p.seq, none, []⟩) (hd : s.dead = []) (hr : s.replies = []) (hq : HomesQuiet s) : Asks s ty p :=
  ⟨arrivesOf h.1 hd, by simp [hr], by simp [hr], hq, fun _ => h.2⟩
theorem quietHome : HomesQuiet sHome := quietOf (by decide +kernel) rfl rfl

theorem servable128 : Servable sHome (2 ^ 40) 128 := servableOf (by decide +kernel) rfl (by decide) rfl rfl rfl rfl rfl
theorem servable8 : ∀ d ∈ [0, 8], Servable sHome (2 ^ 40 + d) 8 := by
  intro d hd
  rcases List.mem_cons.1 hd with rfl | hd
  · exact servableOf (by decide +kernel) rfl (by decide) rfl rfl rfl rfl rfl
  rw [List.mem_singleton] at hd
  subst hd
  exact servableOf (by decide +kernel) rfl (by decide) rfl rfl rfl rfl rfl

/-- A strong read, a read copy and a request for ownership; stores of all sizes from 1 byte to a line; an atomic of each width. -/
theorem wit_packet_reads : (∀ p ∈ [pkt 0x01#8 0#8 0x80#8, pkt 0x01#8 0#8 0#8, pkt 0x01#8 1#8 0#8, pkt 0x02#8 17#8 0x40#8, pkt 0x02#8 144#8 0x80#8,
      pkt 0x03#8 0#8 0x80#8, pkt 0x03#8 0x49#8 0#8, pkt 0x04#8 0#8 0#8, pkt 0x05#8 8#8 0#8, { pkt 0x0F#8 1#8 0#8 with addr := 0x80#64 }],
    (sHome.power = .running ∧ p.typ = p.typ ∧ sHome.badPacket p = false ∧ sHome.joined = true) ∧
      sHome.flowOf p = ⟨p.src.toNat, p.flow, p.seq, none, []⟩ ∧ sHome.mayWrite p.pa p.cell = true ∧ p.payload.length = 128) ∧
    (pkt 0x01#8 0#8 0#8).pa = 2 ^ 40 ∧ sHome.dir.length < 2 ^ 20 ∧ (0x80#64 : W64).toNat / 2 ^ 20 % 2 ^ 21 = sHome.pkg := by decide +kernel
theorem wit_asks : ∀ p : Packet, (sHome.power = .running ∧ p.typ = p.typ ∧ sHome.badPacket p = false ∧ sHome.joined = true) ∧
    sHome.flowOf p = ⟨p.src.toNat, p.flow, p.seq, none, []⟩ → Asks sHome p.typ p := fun _ h => asksOf h rfl rfl quietHome

/-- The last step of a chain; a step whose pointer is misaligned. -/
def pktStep (steps : Nat) : Packet := { pkt 0x04#8 0#8 0#8 with payload := toBytes 16 0 ++ toBytes 8 steps ++ toBytes 16 0 ++ List.replicate 88 0xFF#8 }
def sStep : State := put sHome [(2 ^ 40, 8, 4)]
theorem wit_step : Asks sHome 0x04#8 (pktStep 0) ∧ chainSteps (stepRecord (pktStep 0)) ≤ (pktStep 0).field 0 8 ∧
    (chainSize (stepRecord (pktStep 0))).bytes ≤ 128 ∧ (pktStep 0).pa = 2 ^ 40 :=
  ⟨asksOf (by decide +kernel) rfl rfl quietHome, by decide +kernel, by decide +kernel, by decide +kernel⟩
theorem wit_step_misaligned : Asks sStep 0x04#8 (pktStep 2) ∧ (pktStep 2).field 0 8 < chainSteps (stepRecord (pktStep 2)) ∧ Servable sStep (2 ^ 40) 8 ∧
    (chainRead (stepRecord (pktStep 2)) 1 (BitVec.ofNat 64 (numAt sStep (2 ^ 40) 8) &&& chainMask (stepRecord (pktStep 2)) 0)).1.toNat %
      (chainRead (stepRecord (pktStep 2)) 1 (BitVec.ofNat 64 (numAt sStep (2 ^ 40) 8) &&& chainMask (stepRecord (pktStep 2)) 0)).2 ≠ 0 :=
  ⟨asksOf (by decide +kernel) rfl rfl (quietOf (by decide +kernel) rfl rfl), by decide +kernel, servableOf (by decide +kernel) rfl (by decide) rfl rfl rfl rfl rfl, by decide +kernel⟩

/-- The counter stands in the next eight bytes. -/
def pktStc : Packet := { pkt 0x05#8 8#8 0#8 with payload := toBytes 8 8 ++ List.replicate 120 0#8 }
theorem wit_packet_stc : Asks sHome 0x05#8 pktStc ∧ sHome.mayWrite pktStc.pa pktStc.cell = true ∧ 8 + 8 ≤ pktStc.payload.length ∧
    HeldAtDie sHome (homeDie pktStc.pa) pktStc.context (BitVec.ofNat 64 (pktStc.field 0 8)) .store (2 ^ 40 + 8) ∧ KeyMapApart sHome pktStc.pa 8 (2 ^ 40 + 8) ∧
    Servable sHome (2 ^ 40 + 8) 8 ∧ sHome.mayWrite (2 ^ 40 + 8) pktStc.cell = true ∧ Apart pktStc.pa 8 (2 ^ 40 + 8) 8 ∧ ∀ x ∈ sHome.triggers, x.addr ≠ 2 ^ 40 + 8 :=
  ⟨asksOf (by decide +kernel) rfl rfl quietHome, by decide +kernel, by decide, ⟨by decide +kernel, leaf0, by rfl, useLeafOf (by decide +kernel)⟩,
   by unfold KeyMapApart; decide +kernel, servable8 8 (by decide), by decide +kernel, .inl (by decide +kernel), by decide⟩

/-- A packet for another package; one of a dead cell; one answered already; one that meets a full home unit. -/
theorem wit_bad_packet : sHome.badPacket { pkt 0x01#8 0#8 0#8 with dst := 1#24 } = true ∧ HwWritable sHome (sHome.fcb + 64) 8 ∧
    ArrivalOf { pkt 0x01#8 0#8 0#8 with dst := 1#24 } (.rd { pkt 0x01#8 0#8 0#8 with dst := 1#24 }) 0x01#8 :=
  ⟨by decide +kernel, hwOf (by decide +kernel) rfl rfl, List.mem_cons_self⟩
theorem wit_dead_packet : ∀ p ∈ [pkt 0x01#8 0#8 0#8, pkt 0x02#8 2#8 0#8, pkt 0x0C#8 0#8 0#8],
    ({ sHome with dead := [0#21] } : State).fromDead p = true ∧ ({ sHome with dead := [0#21] } : State).badPacket p = false := by decide +kernel
def replied (n : Nat) : State :=
  { sHome with replies := List.replicate n ⟨0, 8, 3#16, 4#32, pkt 0x02#8 17#8 0#8, some (0, [5#8]), false, false⟩ }
theorem quietReplied (n : Nat) : HomesQuiet (replied n) :=
  ⟨fun r hr => by rw [List.eq_of_mem_replicate hr]; simp, rfl, quietHome.sent, rfl, quietHome.tiles, quietHome.teams, quietHome.saved⟩
theorem wit_answered : ∃ (s : State) (p : Packet) (r : ReplyRec), Arrives s 0x02#8 p ∧ HomesQuiet s ∧ p.flags.getLsbD 7 = false ∧
    (s.replies.find? fun x => x.src == p.src.toNat && x.flow == p.flow && x.tag == p.tag) = some r ∧ r.reply = some (0, [5#8]) ∧ r.aborted = false :=
  ⟨replied 1, { pkt 0x02#8 17#8 0#8 with src := 8#24 }, _, arrivesOf (by decide +kernel) rfl, quietReplied 1, by decide, rfl, rfl, rfl⟩
theorem wit_full_home : ∃ (s : State) (p : Packet), Arrives s 0x02#8 p ∧ HomesQuiet s ∧ p.flags.getLsbD 7 = false ∧
    (∀ r ∈ s.replies, ¬ (r.src = p.src.toNat ∧ r.flow = p.flow ∧ r.tag = p.tag)) ∧
    4096 ≤ (s.replies.filter fun r => recordHome r.req = recordHome p).length :=
  ⟨replied 4096, pkt 0x02#8 17#8 0#8, arrivesOf (by decide +kernel) rfl, quietReplied 4096, by decide,
   fun r hr => by rw [List.eq_of_mem_replicate hr]; decide, by decide +kernel⟩

/-! Answers. Line 0x100 belongs to package 9. -/

def far : Nat := 9 * 2 ^ 41 + 0x100
def pktFar (typ op flags : BitVec 8) : Packet := { pkt typ op flags with addr := BitVec.ofNat 64 far }
def sHolds (st : LlcState) : State := { sHome with llc := [⟨far, st⟩] }
theorem wit_coh : ∀ st ∈ [LlcState.m, .o, .e, .s], ∀ op ∈ [0#8, 1#8, 2#8], Arrives (sHolds st) 0x06#8 (pktFar 0x06#8 op 0#8) ∧
    (sHolds st).llcState (lineOf (pktFar 0x06#8 op 0#8).pa) = some st ∧ (sHolds st).here far = false ∧ (sHolds st).tiles = [] ∧
    (sHolds st).poison.contains far = false ∧ (sHolds st).hazes = [] ∧ (sHolds st).reqs = [] := by
  have h : ∀ op ∈ [0#8, 1#8, 2#8], sHome.badPacket (pktFar 0x06#8 op 0#8) = false ∧ lineOf (pktFar 0x06#8 op 0#8).pa = far := by decide +kernel
  intro st _ op ho
  refine ⟨arrivesOf ⟨rfl, rfl, (h op ho).1, rfl⟩ rfl, ?_, by show sHome.here far = false; decide +kernel, rfl, rfl, rfl, rfl⟩
  rw [(h op ho).2]
  simp [State.llcState, sHolds]
theorem idling {s : State} (h : s.teams = sHome.teams ∧ s.posted = []) (hq : HomesQuiet s) : Idling s :=
  ⟨h.2, by rw [h.1]; decide, hq⟩
/-- A recall that takes a line away, one that discards it, and one that leaves it with an owner in M, in O and in E; with and
without data. -/
def sRecall (k : RecallKind) (dir : List DirEntry) : State := { sHome with recalls := [⟨2 ^ 40, k, [9]⟩], dir := dir }
theorem wit_cohack : ∀ k ∈ [(RecallKind.all, []), (.drop, []), (.down, [⟨2 ^ 40, .m, some 9, [], false, false⟩]),
      (.down, [⟨2 ^ 40, .o, some 9, [7], false, false⟩]), (.down, [⟨2 ^ 40, .e, some 9, [], false, false⟩])],
    (∀ d ∈ [[], List.replicate 128 0#8], Arrives (sRecall k.1 k.2) 0x07#8 { pkt 0x07#8 0#8 0#8 with payload := d }) ∧
    Idling (sRecall k.1 k.2) ∧ (sRecall k.1 k.2).recalls = [⟨lineOf (2 ^ 40), k.1, [9]⟩] ∧ Canonical (sRecall k.1 k.2) ∧
    HwWritable (sRecall k.1 k.2) (2 ^ 40) 128 := by
  have hb : ∀ d ∈ [[], List.replicate 128 0#8], sHome.badPacket { pkt 0x07#8 0#8 0#8 with payload := d } = false := by decide +kernel
  have hw : ∀ k ∈ [(RecallKind.all, []), (.drop, []), (.down, [⟨2 ^ 40, .m, some 9, [], false, false⟩]),
      (.down, [⟨2 ^ 40, .o, some 9, [7], false, false⟩]), (.down, [⟨2 ^ 40, .e, some 9, [], false, false⟩])],
      HwWritable (sRecall k.1 k.2) (2 ^ 40) 128 := by
    simp only [List.forall_mem_cons]
    exact ⟨hwOf (by decide +kernel) rfl rfl, hwOf (by decide +kernel) rfl rfl, hwOf (by decide +kernel) rfl rfl,
      hwOf (by decide +kernel) rfl rfl, hwOf (by decide +kernel) rfl rfl, by simp⟩
  intro k hk
  exact ⟨fun d hd => arrivesOf ⟨rfl, rfl, hb d hd, rfl⟩ rfl,
    idling ⟨rfl, rfl⟩ ⟨quietHome.answered, rfl, quietHome.sent, rfl, quietHome.tiles, quietHome.teams, quietHome.saved⟩, rfl, rfl, hw k hk⟩

/-- A request of this package with tag 4 on flow 3. -/
def req0 (purpose : Purpose) (phase : ReqPhase) (typ : BitVec 8) : Req := ⟨4#32, pktFar typ 0#8 0#8, purpose, phase, 0, none, [], none, false, false⟩
def sAsked (r : Req) : State := { sHome with reqs := [r] }
theorem quietAsked (r : Req) (h : r.phase ≠ .held) : HomesQuiet (sAsked r) :=
  ⟨quietHome.answered, rfl, fun q hq => by rw [List.mem_singleton.1 hq]; exact h, rfl, quietHome.tiles, quietHome.teams, quietHome.saved⟩
theorem outstanding (r : Req) (h : r.reply = none) : Outstanding (sAsked r) r :=
  ⟨List.mem_cons_self, h, fun _ hq _ => List.mem_singleton.1 hq⟩
theorem answered (u : Purpose) (ph : ReqPhase) (ty : BitVec 8) (typ op flags : BitVec 8) :
    AnsweredBy (sAsked (req0 u ph ty)) (req0 u ph ty) (pktFar typ op flags) := ⟨outstanding _ rfl, rfl, rfl⟩
theorem wit_resp_line : ∀ u ∈ [Purpose.fill far, .prefetch far none, .prefetch far (some 0), .own far], ∀ flags ∈ [0#8, 1#8, 0x40#8],
    Arrives (sAsked (req0 u .sent 0x01#8)) 0x08#8 (pktFar 0x08#8 0#8 flags) ∧ Idling (sAsked (req0 u .sent 0x01#8)) ∧
    Canonical (sAsked (req0 u .sent 0x01#8)) ∧ (sAsked (req0 u .sent 0x01#8)).here far = false ∧ far % 128 = 0 ∧
    SliceRoom (sAsked (req0 u .sent 0x01#8)) far := by
  intro u _ flags hf
  refine ⟨arrivesOf ⟨rfl, rfl, ?_, rfl⟩ rfl, idling ⟨rfl, rfl⟩ (quietAsked _ (by simp [req0])), rfl, by show sHome.here far = false; decide +kernel, by decide,
    by show SliceRoom sHome far; unfold SliceRoom; decide +kernel⟩
  exact (by decide +kernel : ∀ flags ∈ [0#8, 1#8, 0x40#8], sHome.badPacket (pktFar 0x08#8 0#8 flags) = false) flags hf
/-- A waiting access, whose chain two homes have passed on. -/
theorem wit_resp_lane : ∀ ph : ReqPhase, ph ≠ .held → ∃ r : Req, r = { req0 (.lane ⟨1, 0⟩ 1 0) ph 0x03#8 with passers := [9, 11] } ∧
    Arrives (sAsked r) 0x08#8 (pktFar 0x08#8 0#8 0#8) ∧ Arrives (sAsked r) 0x0D#8 (pktFar 0x0D#8 6#8 0#8) ∧
    AnsweredBy (sAsked r) r (pktFar 0x08#8 0#8 0#8) ∧ AnsweredBy (sAsked r) r (pktFar 0x0D#8 6#8 0#8) ∧ Idling (sAsked r) :=
  fun _ h => ⟨_, rfl, arrivesOf ⟨rfl, rfl, by show sHome.badPacket _ = false; decide +kernel, rfl⟩ rfl,
    arrivesOf ⟨rfl, rfl, by show sHome.badPacket _ = false; decide +kernel, rfl⟩ rfl, ⟨outstanding _ rfl, rfl, rfl⟩, ⟨outstanding _ rfl, rfl, rfl⟩,
    idling ⟨rfl, rfl⟩ (quietAsked _ h)⟩
theorem wit_plain_packets : Arrives sHome 0x08#8 (pktFar 0x08#8 0#8 0#8) ∧ sHome.reqs = [] ∧ Arrives (replied 1) 0x0A#8 { pkt 0x0A#8 0#8 0#8 with src := 8#24 } ∧
    Arrives (sAsked (req0 (.lane ⟨1, 0⟩ 1 0) .sent 0x04#8)) 0x0B#8 (pktFar 0x0B#8 0#8 0#8) ∧ Arrives sHome 0x0E#8 (pkt 0x0E#8 0#8 0#8) ∧
    Arrives sHome 0x0E#8 (pkt 0x0E#8 1#8 0#8) ∧ HwWritable sHome (sHome.fcb + 56) 8 :=
  ⟨arrivesOf (by decide +kernel) rfl, rfl, arrivesOf (by decide +kernel) rfl, arrivesOf (by decide +kernel) rfl, arrivesOf (by decide +kernel) rfl,
   arrivesOf (by decide +kernel) rfl, hwOf (by decide +kernel) rfl rfl⟩

/-- RETRY; the end of its delay, for a request of a flow with an earlier numbered request set aside and with none; the timer with no
and with three resends; the timeouts of a read and of an atomic. -/
def laneReq (ph : ReqPhase) (ty flags : BitVec 8) (tag : BitVec 32) : Req := ⟨tag, { pktFar ty 0#8 flags with tag := tag }, .lane ⟨1, 0⟩ 1 0, ph, 0, none, [], none, false, false⟩
theorem wit_timers : Arrives (sAsked (laneReq .sent 0x03#8 0#8 4#32)) 0x09#8 (pktFar 0x09#8 0#8 0#8) ∧
    AnsweredBy (sAsked (laneReq .sent 0x03#8 0#8 4#32)) (laneReq .sent 0x03#8 0#8 4#32) (pktFar 0x09#8 0#8 0#8) ∧
    Outstanding (sAsked { laneReq .sent 0x03#8 0#8 4#32 with resends := 3 }) { laneReq .sent 0x03#8 0#8 4#32 with resends := 3 } ∧
    (sAsked (laneReq .sent 0x03#8 0#8 4#32)).deadPkg (laneReq .sent 0x03#8 0#8 4#32).pkt.dst.toNat = false ∧
    ((laneReq .sent 0x01#8 0#8 4#32).pkt.typ = 0x01#8 ∧ (laneReq .sent 0x01#8 0#8 4#32).pkt.op ≠ 1#8) ∧
    ¬ ((laneReq .sent 0x03#8 0#8 4#32).pkt.typ = 0x01#8 ∧ (laneReq .sent 0x03#8 0#8 4#32).pkt.op ≠ 1#8 ∨
      (laneReq .sent 0x03#8 0#8 4#32).pkt.typ = 0x04#8) ∧ HomesQuiet (sAsked (laneReq .sent 0x01#8 0#8 4#32)) :=
  ⟨arrivesOf (by decide +kernel) rfl, ⟨outstanding _ rfl, rfl, rfl⟩, outstanding _ rfl, by decide +kernel, ⟨rfl, by decide⟩, by decide, quietAsked _ (by simp [laneReq])⟩
def sTwo (q r : Req) : State := { sHome with reqs := [q, r] }
theorem outstandingTwo (q r : Req) (h : q.tag ≠ r.tag) (hq : q.reply = none) (hr : r.reply = none) : Outstanding (sTwo q r) q ∧ Outstanding (sTwo q r) r := by
  have he : (sTwo q r).reqs = [q, r] := rfl
  constructor
  · exact ⟨by simp [he], hq, fun x hx ht => by
      simp only [he, List.mem_cons, List.not_mem_nil, or_false] at hx
      rcases hx with rfl | rfl
      exacts [rfl, absurd ht.symm h]⟩
  · exact ⟨by simp [he], hr, fun x hx ht => by
      simp only [he, List.mem_cons, List.not_mem_nil, or_false] at hx
      rcases hx with rfl | rfl
      exacts [absurd ht h, rfl]⟩
theorem deadTwo (q r : Req) (k : Nat) : (sTwo q r).deadPkg k = false :=
  (by simp [State.deadPkg, sHome, withMem, sI, State.reset] : sHome.deadPkg k = false)
theorem wit_retry_resend : ∀ flags ∈ [0#8, 0x80#8], ∃ (s : State) (q r : Req), s.reqs = [q, r] ∧ (Outstanding s q ∧ Outstanding s r) ∧ q.tag ≠ r.tag ∧
    q.phase = .backoff 2 ∧ r.phase = .backoff 5 ∧ r.pkt.flags = flags ∧ q.pkt.flow = r.pkt.flow ∧ q.pkt.dst = r.pkt.dst ∧ q.pkt.flags.getLsbD 7 = true ∧
    s.deadPkg r.pkt.dst.toNat = false :=
  fun flags _ => ⟨sTwo (laneReq (.backoff 2) 0x03#8 0x80#8 4#32) (laneReq (.backoff 5) 0x03#8 flags 5#32), _, _, rfl,
    outstandingTwo _ _ (by simp [laneReq]) rfl rfl, by simp [laneReq], rfl, rfl, rfl, rfl, rfl, (by decide : (0x80#8).getLsbD 7 = true),
    deadTwo _ _ _⟩

/-- The event ring has one free place. -/
def sEvents : State := put { sAsked (req0 (.lane ⟨1, 0⟩ 1 0) .aborting 0x03#8) with ctxtab := 0x800_0000#64 } [(0x805_0028, 8, 0xA00_0000), (0xA00_0000, 8, 255)]
theorem wit_abort_timeout : Outstanding sEvents (req0 (.lane ⟨1, 0⟩ 1 0) .aborting 0x03#8) ∧ HomesQuiet sEvents ∧ Canonical sEvents ∧
    (let base := sEvents.rd (sEvents.fcb + 40) 8
     let tail := sEvents.rd base 8
     let slot := base + 64 + 32 * (tail % 256)
     base ≠ 0 ∧ sEvents.rd (sEvents.fcb + 48) 8 = 0 ∧ tail - sEvents.rd (base + 8) 8 < 256 ∧ HwWritable sEvents slot 32 ∧ HwWritable sEvents base 8 ∧
     Apart slot 32 base 8) :=
  ⟨⟨List.mem_cons_self, rfl, fun _ hq _ => List.mem_singleton.1 hq⟩, quietOf (by decide +kernel) rfl rfl, rfl, by decide +kernel, by decide +kernel, by decide +kernel,
   hwOf (by decide +kernel) rfl rfl, hwOf (by decide +kernel) rfl rfl, .inr (by decide +kernel)⟩
/-- An ABORT of a request that has not come, of a finished one, and of one under way. -/
theorem wit_abort : Arrives sHome 0x0C#8 (pkt 0x0C#8 0#8 0#8) ∧ Arrives (replied 1) 0x0C#8 { pkt 0x0C#8 0#8 0#8 with src := 8#24 } ∧
    ((replied 1).replies.find? fun x => x.src == (8#24).toNat && x.flow == 3#16 && x.tag == 4#32).isSome = true ∧
    ∃ (s : State) (r : ReplyRec), Arrives s 0x0C#8 (pkt 0x0C#8 0#8 0#8) ∧ s.replies = [r] ∧ r.reply = none ∧ r.src = 9 ∧
      r.flow = 3#16 ∧ r.tag = 4#32 :=
  ⟨arrivesOf (by decide +kernel) rfl, arrivesOf (by decide +kernel) rfl, by decide +kernel,
   { sHome with replies := [⟨0, 9, 3#16, 4#32, pkt 0x02#8 17#8 0#8, none, false, false⟩] }, _, arrivesOf (by decide +kernel) rfl, rfl, rfl, rfl, rfl, rfl⟩

/-! ### The same for spares, power, issue and the step -/

def row0 : RowRef := ⟨0, 0, 0⟩
def sRow (n : Nat) (c : Option Nat) : State := { sI with rowStates := [⟨row0, n, c, none⟩] }
/-- Seven after the leak and one error more; eight, with a spare row left and with none; a copy under way. -/
theorem wit_rows : min 8 (((sRow 7 none).rowOf row0).count - 1 + 1) = 7 ∧ min 8 (((sRow 7 none).rowOf row0).count - 1 + 2) = 8 ∧
    ((sRow 7 none).rowOf row0).copying = none ∧ (((sRow 7 none).spares.rows.filter fun y => y = (0, 0))).length < 8 ∧
    ((sRow 7 (some 3)).rowOf row0).copying = some 3 ∧
    (∃ s : State, s.power ≠ .off ∧ 8 ≤ (s.spares.rows.filter fun y => y = (row0.stack, row0.bank)).length ∧ (s.rowOf row0).count = 7 ∧
      s.rd (s.fcb + 40) 8 = 0 ∧ s.rd (s.fcb + 48) 8 = 0) :=
  ⟨by decide +kernel, by decide +kernel, by decide +kernel, by decide +kernel, by decide +kernel,
   { sRow 7 none with spares := { Spares.none with rows := List.replicate 8 (0, 0) } }, by decide, by decide, by decide +kernel, by decide +kernel,
   by decide +kernel⟩
/-- The last spare of a core, a slice, a slice's rows, a lane and a die pair, and none left; seven failures of a port within 1 ms. -/
def sWorn (n : Nat) : State :=
  { sI with
    cycle := 3000000#64
    authFails := List.replicate n (47, 300001#64) ++ [(47, 300000#64)]
    spares := { Spares.none with
      cores := (List.range n).map (· + 48), slices := (List.range n).map fun k => (3, k), sramRows := (List.range (4 * n)).map fun k => (3, 63, k)
      fabricLanes := List.replicate (n + 1) 47, ucie := [(5, 4 * n)] } }
theorem wit_spares : ∀ n ∈ [3, 4], (sWorn n).power ≠ .off ∧ ((sWorn n).spares.cores.filter fun c => c / 48 = 95 / 48).length = n ∧
    ((sWorn n).spares.slices.filter fun x => x.1 = 3).length = n ∧
    ((sWorn n).spares.sramRows.filter fun x => x.1 = 3 ∧ x.2.1 = 63).length = 4 * n ∧ (sWorn n).spares.fabricLanes.count 47 = n + 1 ∧
    countOf (sWorn n).spares.ucie 5 = 4 * n ∧ (∀ x ∈ (sWorn n).tiles, ∀ l ∈ (sWorn n).llc, lineOf l.line ∉ x.frames) := by decide +kernel
theorem wit_auth : ((sWorn 6).authFails.filter fun x => recent (sWorn 6) x ∧ x.1 = 47).length = 6 ∧
    ((sWorn 7).authFails.filter fun x => recent (sWorn 7) x ∧ x.1 = 47).length + 1 = 8 := by decide +kernel
theorem wit_off : ∃ s : State, s.power = .off := ⟨{ sI with power := .off }, rfl⟩
theorem wit_on : ∃ (s : State) (nonce : List Byte), s.power ≠ .off ∧ nonce.length = 32 := ⟨sI, List.replicate 32 0#8, by decide, rfl⟩

/-- A word of reserved opcode 0x81; half-opcode 0x1A; route kind 6; a lookahead on opcode 0. -/
theorem wit_reserved : ((0x81#8 ++ 0#56).toNat / 2 ^ 56) ∈ (List.range' 0x81 15 ++ List.range' 0xA7 9 ++ List.range' 0xBB 5 ++ List.range' 0xCA 6 ++ [0xEE, 0xEF]) ∧
    ((0xF#4 ++ 0x1A#6 ++ 0#54).toNat / 2 ^ 54 % 64 ∈ List.range' 0x1A 6 ∧ 0xF0 ≤ (0xF#4 ++ 0x1A#6 ++ 0#54).toNat / 2 ^ 56) ∧
    ((0#33 ++ 6#3 ++ 0#28).toNat / 2 ^ 28 % 8 = 6 ∧ (0#33 ++ 6#3 ++ 0#28).toNat / 2 ^ 56 < 0x38) ∧ (0#15 ++ 1#4 ++ 0#45).toNat / 2 ^ 45 % 16 ≠ 0 ∧
    ∃ (w : BitVec 64) (i : Instr), decode w = some i := by
  refine ⟨by decide, by decide, by decide, by decide, 0xC000000000000000#64, .nop ⟨0#7⟩, by decide +kernel⟩
/-- FADD.F64 with route kind 6 on A; FADD.F64 with a lookahead; SADD with a nonzero bit of [50:47]. -/
theorem wit_reserved_wide : ((0x38#8 ++ 0#25 ++ 6#3 ++ 0#28).toNat / 2 ^ 28 % 8 = 6 ∧ (0x38#8 ++ 0#25 ++ 6#3 ++ 0#28).toNat / 2 ^ 56 = 0x38) ∧
    ((0x38#8 ++ 0#7 ++ 1#4 ++ 0#45).toNat / 2 ^ 45 % 16 ≠ 0 ∧ (0x38#8 ++ 0#7 ++ 1#4 ++ 0#45).toNat / 2 ^ 56 = 0x38) ∧
    ((0xD0#8 ++ 0#5 ++ 1#4 ++ 0#47).toNat / 2 ^ 47 % 16 ≠ 0 ∧ (0xD0#8 ++ 0#5 ++ 1#4 ++ 0#47).toNat / 2 ^ 56 = 0xD0) := by decide
theorem wit_key : ∃ (g : Group) (k : Key), g.selectKey = some k := ⟨fetchGroup, ⟨0#8, 0#32⟩, by decide +kernel⟩
theorem wit_quadrant : (sI.chooseGroup 0 0).isSome = true := by decide +kernel
theorem wit_encode : ∃ i : Instr, i.isWord = true ∧ i.wf = true := ⟨.nop ⟨0#7⟩, by decide, by decide⟩
theorem wit_canonical_step : ∃ s t : State, Canonical s ∧ step s = .next t :=
  ⟨{ sI with turns := [.idle] }, _, rfl, rfl⟩
theorem wit_event_step : ∃ (s t : State), s.power ≠ .off ∧ s.turns = .occur (.flitCrcReplay 0) :: [] ∧ Instr.isWord (.flitCrcReplay 0) = false ∧
    exec (.flitCrcReplay 0) (State.tick { s with turns := [] }) = .next t ∧ step s = .next t.settle :=
  ⟨{ sI with turns := [.occur (.flitCrcReplay 0)] }, _, by decide, rfl, rfl, rfl, rfl⟩

/-- A step of quadrant 0 from reset with a NOP placed, and with a reserved word. -/
def sNop (w : Nat) : State := { State.reset.withFetchWord 64 w with turns := [.issue 0 0] }
def fetchedWord : Fetched → Option W64 | .word _ w => some w | _ => none
def fetchedState (s : State) : Fetched → State | .word x _ => x | _ => s
theorem fetchedOf {x : Fetched} {w : W64} (s : State) (h : fetchedWord x = some w) : x = .word (fetchedState s x) w := by
  cases x <;> simp_all [fetchedWord, fetchedState]
def gotYes : Ready → Bool | .yes _ => true | _ => false
def fNop (w : Nat) : State := ((State.tick { sNop w with turns := [] }).loadFocus ⟨1, 0⟩).getD (sNop w)
def xNop (w : Nat) : Fetched := State.fetch { fNop w with g := { (fNop w).g with status := .running } } 0#32
theorem wit_step_word : ∀ w ∈ [0xC000000000000000, 0x8100000000000000],
    (sNop w).power ≠ .off ∧ (sNop w).turns = .issue 0 0 :: [] ∧ (sNop w).spares.fenced.contains 0 = false ∧ (State.tick { sNop w with turns := [] }).quadrant 0 0 = [⟨1, 0⟩] ∧
    ((State.tick { sNop w with turns := [] }).loadFocus ⟨1, 0⟩).isSome = true ∧ (fNop w).mayIssue = true ∧ (fNop w).g.selectKey = some ⟨0#8, 0#32⟩ ∧
    fetchedWord (xNop w) = some (BitVec.ofNat 64 w) := by decide +kernel
theorem wit_step_decodes : decode 0x8100000000000000#64 = none ∧ decode 0xC000000000000000#64 = some (.nop ⟨0#7⟩) ∧
    (let x := fetchedState (sNop 0) (xNop 0xC000000000000000)
     let y : State := { x with iss := ⟨x.g.atKey ⟨0#8, 0#32⟩, ⟨0#8, 0#32⟩, 0xC000000000000000#64, x.g.yielded, x.g.runnable &&& ~~~x.g.atKey ⟨0#8, 0#32⟩, []⟩ }
     y.wordReady (.nop ⟨0#7⟩) = true ∧ gotYes (y.recordReady (.nop ⟨0#7⟩)) = true) := by decide +kernel

/-! ### One step: expected results worked out by hand from the rules named -/

/-- What holds after one instruction; false where none answers. -/
def after (i : Instr) (s : State) (p : State → Bool) : Bool := match exec i s with | .next t => p t | _ => false
/-- v2, v3 and v4 of lane 0. -/
def in3 (a b c : W32) : State := withV (withV (withV sAll 2 a) 3 b) 4 c
/-- Lane 0 of a vector register. -/
def out (t : State) (r : Fin 128) : W32 := (t.g.v[r])[(0 : Fin 32)]

/-- Each kind of route has a field that it admits, the last scalar half included. -/
theorem wit_routing : ∀ k ∈ [(0#3, 0#5), (1#3, 31#5), (2#3, 0#5), (3#3, 31#5), (4#3, 31#5), (5#3, 7#5)], (srcOf 127#7 k.1 k.2).isSome = true := by decide +kernel
/-- Register 2 holds 100 + i in lane i, register 97 holds 33, scalar 130 a pair of words. -/
def gRoute : Group :=
  { fetchGroup with
    v := (fetchGroup.v.set 2 (Vector.ofFn fun i : Fin 32 => BitVec.ofNat 32 (100 + i.val))).set 97 (Vector.replicate 32 33#32)
    s := fetchGroup.s.set 130 0x0000_0007_0000_0005#64 }
/-- R133: lane 31 of v2 as it stands, rotated by 2, from lane 4, exchanged over 5, through v97, and s130 by halves. -/
theorem test_routes : (srcOf 2#7 0#3 0#5).map (gRoute.src · 31) = some 131#32 ∧ (srcOf 2#7 1#3 2#5).map (gRoute.src · 31) = some 101#32 ∧
    (srcOf 2#7 2#3 4#5).map (gRoute.src · 31) = some 104#32 ∧ (srcOf 2#7 3#3 5#5).map (gRoute.src · 31) = some 126#32 ∧
    (srcOf 2#7 4#3 1#5).map (gRoute.src · 31) = some 101#32 ∧ (srcOf 2#7 5#3 1#5).map (gRoute.src · 31) = some 5#32 ∧
    (srcOf 2#7 5#3 5#5).map (gRoute.src · 31) = some 7#32 := by decide +kernel
/-- R217: a 32-bit offset is sign-extended, and the sum wraps. -/
theorem test_ea : ({ fetchGroup with v := fetchGroup.v.set 3 (Vector.replicate 32 0xFFFF_FFF8#32), s := fetchGroup.s.set 4 3#64 } : Group).ea
    ⟨⟨3#7, .own⟩, 4#5, false⟩ 0 = 0xFFFF_FFFF_FFFF_FFFB#64 := by decide +kernel
/-- R155: the sum wraps. -/
theorem test_iadd_wraps : after (.iadd ⟨0#7, 5#7, own 2#7, own 3#7⟩) (in3 0xFFFF_FFFF#32 2#32 0#32) (fun t => out t 5 = 1#32) = true := by decide +kernel
/-- R155: a source is the destination, and the difference is negative. -/
theorem test_isub_same : after (.isub ⟨0#7, 2#7, own 2#7, own 3#7⟩) (in3 1#32 2#32 0#32) (fun t => out t 2 = 0xFFFF_FFFF#32) = true := by decide +kernel
/-- R155: IABS of the most negative number is itself. -/
theorem test_iabs_min : after (.iabs ⟨0#7, 5#7, own 2#7⟩) (in3 0x8000_0000#32 0#32 0#32) (fun t => out t 5 = 0x8000_0000#32) = true := by decide +kernel
/-- R157: (-1) * 1 has the high word -1 signed, 0 unsigned. -/
theorem test_imul_hi : after (.imulHi ⟨0#7, 5#7, own 2#7, own 3#7⟩) (in3 0xFFFF_FFFF#32 1#32 0#32) (fun t => out t 5 = 0xFFFF_FFFF#32) = true ∧
    after (.imulHiU ⟨0#7, 5#7, own 2#7, own 3#7⟩) (in3 0xFFFF_FFFF#32 1#32 0#32) (fun t => out t 5 = 0#32) = true := by decide +kernel
/-- R159: the amount is b[7:0]; SAR by 32 and more gives the sign. -/
theorem test_sar_all : after (.sar ⟨0#7, 5#7, own 2#7, own 3#7⟩) (in3 0x8000_0000#32 0x120#32 0#32) (fun t => out t 5 = 0xFFFF_FFFF#32) = true := by decide +kernel
theorem test_shl_32 : after (.shl ⟨0#7, 5#7, own 2#7, own 3#7⟩) (in3 1#32 32#32 0#32) (fun t => out t 5 = 0#32) = true ∧
    after (.shl ⟨0#7, 5#7, own 2#7, own 3#7⟩) (in3 1#32 0x100#32 0#32) (fun t => out t 5 = 1#32) = true := by decide +kernel
/-- R160: a supplies the high word; by 32 DSHL gives b. -/
theorem test_dshl : after (.dshl ⟨0#7, 5#7, own 2#7, own 3#7, own 4#7⟩) (in3 0x1111#32 0x8000_0000#32 1#32) (fun t => out t 5 = 0x2223#32) = true ∧
    after (.dshl ⟨0#7, 5#7, own 2#7, own 3#7, own 4#7⟩) (in3 0x1111#32 0x2222#32 32#32) (fun t => out t 5 = 0x2222#32) = true := by decide +kernel
/-- R162: table 0x96 is the exclusive or of three. -/
theorem test_lgc3_xor : after (.lgc3 ⟨0#7, 5#7, own 2#7, 3#7, 4#7, 0x96#8⟩) (in3 0xF0#32 0xCC#32 0xAA#32) (fun t => out t 5 = 0x96#32) = true := by decide +kernel
/-- R163. -/
theorem test_clz_zero : after (.clz ⟨0#7, 5#7, own 2#7⟩) (in3 0#32 0#32 0#32) (fun t => out t 5 = 32#32) = true := by decide +kernel
/-- R64, R66: 1.0 + 2.0 = 3.0; the sum of both infinities is the canonical NaN. -/
theorem test_fadd : after (.faddF32 ⟨0#7, 5#7, own 2#7, own 3#7, .rne⟩) (in3 0x3F80_0000#32 0x4000_0000#32 0#32) (fun t => out t 5 = 0x4040_0000#32) = true ∧
    after (.faddF32 ⟨0#7, 5#7, own 2#7, own 3#7, .rne⟩) (in3 0x7F80_0000#32 0xFF80_0000#32 0#32) (fun t => out t 5 = 0x7FC0_0000#32) = true := by decide +kernel
/-- R71: -0.75 converts to the unsigned integer 0 under `.rtz`. -/
theorem test_f2i : after (.f2i ⟨0#7, 5#7, own 2#7, .ui32, .f32, .sel .rtz⟩) (in3 0xBF40_0000#32 0#32 0#32) (fun t => out t 5 = 0#32) = true := by decide +kernel
/-- R70: 1000.0 converts to the E4M3 value 448. -/
theorem test_fcvt_saturates : after (.fcvt ⟨0#7, 5#7, own 2#7, .e4m3, .f32, .sel .rne⟩) (in3 0x447A_0000#32 0#32 0#32) (fun t => (out t 5).toNat % 256 = 0x7E) = true := by decide +kernel
/-- R69: a zero keeps its sign. -/
theorem test_fcvt_zero : after (.fcvt ⟨0#7, 6#7, own 2#7, .f64, .f32, .sel .rne⟩) (in3 0x8000_0000#32 0#32 0#32) (fun t => out t 6 = 0#32 && out t 7 = 0x8000_0000#32) = true := by decide +kernel
/-- R180: a scalar sum carries over bit 31 and wraps at 64. -/
theorem test_sadd : after (.sadd ⟨0#4, false, 7#9, 5#9, 6#9⟩) (withS (withS sAll 5 0xFFFF_FFFF_FFFF_FFFF#64) 6 2#64) (fun t => t.g.s[7] = 1#64) = true ∧
    after (.sadd ⟨0#4, false, 7#9, 5#9, 6#9⟩) (withS (withS sAll 5 0xFFFF_FFFF#64) 6 1#64) (fun t => t.g.s[7] = 0x1_0000_0000#64) = true := by decide +kernel
/-- R20, R171: CALL writes LPC + 1 and goes a level deeper. -/
theorem test_call : after (.call ⟨0#7, 9#7, 100#23⟩) sAll (fun t => out t 9 = 1#32 && t.g.dep[(0 : Fin 32)] = 1#8) = true := by decide +kernel
/-- R20, R172: RET at depth 0 leaves the lane, and takes the depth-overflow fault. -/
theorem test_ret_depth : after (.ret ⟨0#7, own 2#7⟩) sAll (fun t => t.g.dep[(0 : Fin 32)] = 0#8 && t.g.lpc[(0 : Fin 32)] = 0#32) = true := by decide +kernel
/-- R173: every lane leaves. -/
theorem test_exit : after (.exit ⟨0#7⟩) sAll (fun t => t.g.exited = BitVec.allOnes 32) = true := by decide +kernel
/-- R220: a load is little-endian and extends its sign on request. -/
theorem test_load_sign : after (.ldv ⟨0#7, 0#4, 8#7, addr0, .b2, .wk, false, true⟩) (withMem sA (2 ^ 40) 2 0x80FE)
    (fun t => out t 8 = 0xFFFF_80FE#32) = true := by decide +kernel
/-- R18, R19, R175, from reset with the word placed: one step of NOP moves every lane on by one word. -/
theorem test_step_nop : (match step (State.reset.withFetchWord 64 0xC000000000000000) with
    | .next t => t.teams.all fun x => x.groups.all fun g => g.lpc.toList.all fun l => decide (l = 1#32)
    | _ => false) = true := by decide +kernel
/-- R125: a reserved opcode leaves every lane at its word. -/
theorem test_step_reserved : (match step (State.reset.withFetchWord 64 0x8100000000000000) with
    | .next t => t.teams.all fun x => x.groups.all fun g => g.lpc.toList.all fun l => decide (l = 0#32)
    | _ => false) = true := by decide +kernel
/-- R91, R99: word 0 of the scratchpad, kept as 3 for the group's weak reads and now 5, after lane 1 has stored 5. -/
def sKept : State := { sA with
  t := { sA.t with scr := [(0, 5#8), (1, 0#8), (2, 0#8), (3, 0#8)] }
  g := Group.forget { sA.g with old := [⟨0, 3#32, BitVec.allOnes 32⟩] } (oneLane 1) [0] }
/-- R99, R273: lane 0's weak load may return 3, its strong one returns 5, and lane 1's weak one returns 5. -/
theorem test_lds_older : after (.lds ⟨0#7, 0#4, 8#7, addr0, .b4, .wk, false, false⟩) sKept (fun t => out t 8 = 3#32) = true ∧
    after (.lds ⟨0#7, 0#4, 8#7, addr0, .b4, .strong .st .team, false, false⟩) sKept (fun t => out t 8 = 5#32) = true ∧
    after (.lds ⟨0#7, 0#4, 8#7, addr0, .b4, .wk, false, false⟩) { sKept with iss := { sKept.iss with mask := 2#32 } }
      (fun t => (t.g.v[8])[(1 : Fin 32)] = 5#32) = true := by decide +kernel
/-- R91, R96: a line comes into a core's L1 as copies of what its home holds. -/
theorem test_spare_fill : (match step { withMem sA (2 ^ 40) 4 7 with turns := [.fillL1 3 (2 ^ 40)] } with
    | .next t => t.l1.any fun w => w == ⟨3, 2 ^ 38, 7#32, false, false⟩
    | _ => false) = true := by decide +kernel

/-! ### Float laws: an operand for each clause -/

theorem wit_nan_cases :
    (fmtF16.decode 0x7C00 = .inf false ∧ fmtF16.decode 0xFC00 = .inf true ∧ (fmtF16.decode 0x8000).isZero = true) ∧
    (∃ e, fmtF16.decode 0x8001 = .num true 1 e) ∧ (fmtBf16.decode 0x7F81).isSnan = true ∧
    (fmtE4m3.decode 0x7F).isNan = true ∧ (fmtF32.decode (fDot2 fmtF16 .rne 0x7C00 0x3C00 0xFF800000).1).isNan = true :=
  ⟨⟨by decide, by decide, by decide⟩, ⟨_, rfl⟩, by decide, by decide, by decide +kernel⟩

/-- A slot for every group of clauses about half-opcodes, with the largest shift among them. -/
theorem wit_half : (∃ (w : WBin) (h : Half) (r : Instr × (W32 → W32 → Int)), r ∈ twoSource w ∧ halfTwo w h.op = some r.1 ∧ halfShift h.op ∧
      h.b.reg.toNat < 32 ∧ halfImm h.op) ∧
    (∃ (w : WBin) (r : Instr × (W32 → W32 → Int)), r ∈ twoSource w ∧ halfTwo w .andn = some r.1 ∧ ¬ halfImm .andn) ∧
    ∃ (w : WRnd) (r : Instr × FKind × (Fmt → RMode → Nat → Nat → Nat × Flags)), r ∈ floatTwo w ∧ halfRound w .fmulBf16x2 = some r.1 :=
  ⟨⟨⟨0#7, 1#7, own 2#7, own 3#7⟩, ⟨.sarI, 0#3, 4#7, own 31#7⟩, (.sar ⟨0#7, 1#7, own 2#7, own 3#7⟩, _), .tail _ (.tail _ (.tail _ (.tail _ (.tail _
      (.tail _ (.tail _ (.tail _ (.tail _ (.tail _ (.tail _ (.head _))))))))))), rfl, by simp [halfShift], by decide, by simp [halfImm]⟩,
   ⟨⟨0#7, 1#7, own 2#7, own 3#7⟩, (.andn ⟨0#7, 1#7, own 2#7, own 3#7⟩, _), .tail _ (.tail _ (.tail _ (.tail _ (.tail _ (.tail _ (.tail _ (.tail _
      (.tail _ (.tail _ (.tail _ (.tail _ (.tail _ (.tail _ (.tail _ (.tail _ (.head _)))))))))))))))), rfl, by simp [halfImm]⟩,
   ⟨⟨0#7, 1#7, own 2#7, own 3#7, .fpctl⟩, (.fmulBf16x2 ⟨0#7, 1#7, own 2#7, own 3#7, .fpctl⟩, .bf16x2, fMul), by simp [floatTwo], rfl⟩⟩

/-- 1, the largest finite value and the smallest subnormal of F16 are finite values; so is a zero. -/
theorem finOne : FinVal fmtF16 0x3C00 1 := ⟨false, 1024, -10, by decide, by norm_num⟩
theorem finMax : FinVal fmtF16 0x7BFF 65504 := ⟨false, 2047, 5, by decide, by norm_num⟩
theorem finSmall : FinVal fmtF16 0x8001 (-(1 / 2 ^ 24)) := ⟨true, 1, -24, by decide, by norm_num⟩

/-- Sums and products of finite values that are nonzero, zero, and beyond the largest; 65,520 lies half way past it. -/
theorem wit_round_once : (∃ x y z : ℝ, FinVal fmtF16 0x7BFF x ∧ FinVal fmtF16 0x3C00 y ∧ FinVal fmtF16 0x8001 z ∧
      x + y ≠ 0 ∧ x - y ≠ 0 ∧ x * y + z ≠ 0 ∧ x - x = 0) ∧ Mag fmtF16 (fmtF16.maxBits + 1) 65536 ∧ Mag fmtF16 0x7BFF 65504 ∧
    Mag fmtF16 0x3C00 1 ∧ Mag fmtF16 0x3C01 (1 + 1 / 1024) ∧ Mag fmtF16 0 0 ∧ Mag fmtF16 1 (1 / 2 ^ 24) ∧
    FinVal fmtF32 0x80000000 0 := by
  refine ⟨⟨_, _, _, finMax, finOne, finSmall, by norm_num, by norm_num, by norm_num, by norm_num⟩, ?_, ?_, ?_, ?_, ?_, ?_, true, 0, -149, by decide, by norm_num⟩ <;>
    norm_num [Mag, fmtF16, Fmt.maxBits, Fmt.qmin, Fmt.emin, Fmt.infBits]

/-- Values that round to an integer in each mode, a tie among them. -/
theorem wit_int_rounded : IntRounded .rne (5 / 2) 2 ∧ IntRounded .rtz (-(5 / 2)) (-2) ∧ IntRounded .rdn (-(5 / 2)) (-3) ∧
    IntRounded .rup (5 / 2) 3 := by
  refine ⟨⟨by norm_num [abs_le], fun _ => by norm_num⟩, ?_, ?_, ?_⟩
  · have h : (⌈(-(5 / 2) : ℝ)⌉ : Int) = -2 := by rw [Int.ceil_eq_iff]; norm_num
    simp only [IntRounded, h]; norm_num
  · have h : (⌊(-(5 / 2) : ℝ)⌋ : Int) = -3 := by rw [Int.floor_eq_iff]; norm_num
    simp only [IntRounded, h]
  · have h : (⌈(5 / 2 : ℝ)⌉ : Int) = 3 := by rw [Int.ceil_eq_iff]; norm_num
    simp only [IntRounded, h]

/-- Lane 1 of 32 at the edge of its depth: CALL and CALLX at 255, RET at 0. -/
theorem wit_depth : (∃ s : State, Runs s (.call ⟨0#7, 9#7, 100#23⟩) 0#7 ∧ Runs s (.callx ⟨0#7, 9#7, own 2#7⟩) 0#7 ∧
      ∀ l : Fin 32, (2#32).getLsbD l.val = true ↔ (s.actLanes 0#7).getLsbD l.val = true ∧ s.g.dep[l] = 255#8) ∧
    ∃ s : State, Runs s (.ret ⟨0#7, own 2#7⟩) 0#7 ∧
      ∀ l : Fin 32, (2#32).getLsbD l.val = true ↔ (s.actLanes 0#7).getLsbD l.val = true ∧ s.g.dep[l] = 0#8 :=
  ⟨⟨{ sAll with g := { sAll.g with dep := sAll.g.dep.set 1 255#8 } }, ⟨by decide, by decide, by decide +kernel⟩,
      ⟨by decide, by decide, by decide +kernel⟩, by decide +kernel⟩,
   { sAll with g := { sAll.g with dep := (Vector.replicate 32 255#8).set 1 0#8 } }, ⟨by decide, by decide, by decide +kernel⟩, by decide +kernel⟩

/-! ### Several lanes: two of them, at one address -/

/-- Lanes 0 and 1 issue. -/
def sPairs : State := { sF with iss := ⟨3#32, ⟨0#8, 0#32⟩, 0#64, 0#32, 0#32, []⟩ }

/-- Stated of each active lane, from the lanes 0 and 1. -/
theorem twoLanes {P : Fin 32 → Prop} (h0 : P 0) (h1 : P 1) (l : Fin 32) (h : (3#32).getLsbD l.val = true) : P l := by
  have : l = 0 ∨ l = 1 := by revert h; revert l; decide
  rcases this with rfl | rfl <;> assumption

theorem heldTwo (a : Access) (h : a = .load ∨ a = .store) : Held sPairs 0#64 a (2 ^ 40) := by
  rcases h with rfl | rfl <;> exact heldOf (by decide +kernel)

theorem lanesTwo {a : Access} {n : Nat} (h : a = .load ∨ a = .store) (hn : n ≤ 16) :
    LanesHeld sPairs 3#32 (fun _ => 0#64) a (fun _ => 2 ^ 40) n :=
  have k : Settled sPairs (2 ^ 40) 16 := settledOf (by decide +kernel) rfl rfl rfl rfl rfl rfl rfl
  ⟨twoLanes ⟨heldTwo a h, { k with line := fun j hj => k.line j (by omega), here := fun j hj => k.here j (by omega)
                                   known := fun j hj => k.known j (by omega) }⟩
     ⟨heldTwo a h, { k with line := fun j hj => k.line j (by omega), here := fun j hj => k.here j (by omega)
                            known := fun j hj => k.known j (by omega) }⟩,
   fun l _ j hj => (by decide +kernel : ∀ j, j < 16 → sPairs.inRegion (2 ^ 40 + j) = false) j (by omega),
   fun l j _ _ i hi => (by decide +kernel : ∀ i, i < 16 → ¬ (sPairs.fcb + 72 ≤ 2 ^ 40 + i ∧ 2 ^ 40 + i < sPairs.fcb + 80) ∧
      ∀ j, j < 128 → ¬ (sPairs.rdRaw (sPairs.fcb + 72) 8 + 2 * bitsAt (localOf (lineOf (2 ^ 40) + j)) 16 23 ≤ 2 ^ 40 + i ∧
        2 ^ 40 + i < sPairs.rdRaw (sPairs.fcb + 72) 8 + 2 * bitsAt (localOf (lineOf (2 ^ 40) + j)) 16 23 + 2)) i (by omega)⟩

theorem wit_load_lanes : ∃ (s : State) (m : MLoad) (pa : Fin 32 → Nat), m.la = 0#4 ∧ m.split = false ∧ isHalved m.size.bytes m.acc = false ∧
    Lanes s (.ldv m) m.guard (s.g.ea m.addr) m.size.bytes ∧ s.actLanes m.guard = 3#32 ∧
    LanesHeld s (s.actLanes m.guard) (s.g.ea m.addr) .load pa m.size.bytes ∧
    ∀ l : Fin 32, (s.actLanes m.guard).getLsbD l.val = true → s.corePoison s.t.core (pa l) m.size.bytes = false ∧
      seen s m.acc (pa l) m.size.bytes = numAt s (pa l) m.size.bytes :=
  ⟨sPairs, ⟨0#7, 0#4, 8#7, addr0, .b16, .wk, false, false⟩, fun _ => 2 ^ 40, rfl, rfl, rfl,
   ⟨⟨by decide, by decide, by decide +kernel⟩, by decide +kernel, by decide +kernel, idleOf rfl rfl rfl⟩, by decide +kernel,
   (by decide +kernel : sPairs.actLanes 0#7 = 3#32) ▸ (by decide +kernel : sPairs.g.ea addr0 = fun _ => 0#64) ▸ lanesTwo (.inl rfl) (by decide),
   (by decide +kernel : sPairs.actLanes 0#7 = 3#32) ▸ fun l _ => ⟨(by decide +kernel : sPairs.corePoison 0 (2 ^ 40) 16 = false),
     (by decide +kernel : seen sPairs .wk (2 ^ 40) 16 = numAt sPairs (2 ^ 40) 16)⟩⟩

/-- Two lanes that read one word of the scratchpad. -/
theorem wit_lds_lanes : ∃ (s : State) (m : MLoad) (readers : Nat → Mask), m.la = 0#4 ∧ isHalved m.size.bytes m.acc = false ∧
    Lanes s (.lds m) m.guard (s.g.ea m.addr) m.size.bytes ∧
    (∀ (w : Nat) (l : Fin 32), (readers w).getLsbD l.val = true ↔ (s.actLanes m.guard).getLsbD l.val = true ∧
      ∃ k, k < m.size.bytes ∧ ((s.g.ea m.addr l).toNat + k) / 4 = w) ∧
    ∀ l : Fin 32, (s.actLanes m.guard).getLsbD l.val = true → ScratchRange s (s.g.ea m.addr l) m.size.bytes :=
  ⟨sPairs, ⟨0#7, 0#4, 8#7, addr0, .b4, .wk, false, false⟩, fun w => if w = 0 then 3#32 else 0#32, rfl, rfl,
   ⟨⟨by decide, by decide, by decide +kernel⟩, by decide +kernel, by decide +kernel, idleOf rfl rfl rfl⟩,
   fun w l => by
     rw [(by decide +kernel : sPairs.actLanes 0#7 = 3#32), (by decide +kernel : sPairs.g.ea addr0 = fun _ => 0#64)]
     constructor
     · intro h
       by_cases hw : w = 0
       · subst hw; exact ⟨by simpa using h, 0, by decide, by simp⟩
       · simp [hw] at h
     · rintro ⟨h, k, hk, e⟩
       have hw : w = 0 := by
         have : k < 4 := hk
         have e' : (0 + k) / 4 = w := e
         omega
       subst hw; simpa using h,
   fun l _ => (by decide +kernel : sPairs.g.ea addr0 = fun _ => 0#64) ▸
     (⟨by decide +kernel, by decide +kernel⟩ : ScratchRange sPairs 0#64 4)⟩

theorem wit_store_lanes : ∃ (s : State) (m : MStore) (pa : Fin 32 → Nat), Lanes s (.stv m) m.guard (s.g.ea m.addr) m.size.bytes ∧
    LanesHeld s (s.actLanes m.guard) (s.g.ea m.addr) .store pa m.size.bytes ∧ s.actLanes m.guard = 3#32 ∧ s.recalls = [] ∧
    ∀ e ∈ s.posted, e.id < s.nextId :=
  ⟨sPairs, ⟨0#7, 8#7, addr0, .b16, .strong .st .sys⟩, fun _ => 2 ^ 40,
   ⟨⟨by decide, by decide, by decide +kernel⟩, by decide +kernel, by decide +kernel, idleOf rfl rfl rfl⟩,
   (by decide +kernel : sPairs.actLanes 0#7 = 3#32) ▸ (by decide +kernel : sPairs.g.ea addr0 = fun _ => 0#64) ▸ lanesTwo (.inr rfl) (by decide),
   by decide +kernel, rfl, by decide⟩

/-- A release at system scope, with no recall in progress. -/
theorem wit_sts_lanes : ∃ (s : State) (m : MStore), Lanes s (.sts m) m.guard (s.g.ea m.addr) m.size.bytes ∧
    isHalved m.size.bytes m.acc = false ∧ (∀ e ∈ s.posted, e.core ≠ s.t.core) ∧ m.acc.isRelease = true ∧
    cellUp m.acc.scope = true ∧ s.recalls = [] ∧
    ∀ l : Fin 32, (s.actLanes m.guard).getLsbD l.val = true → (s.g.ea m.addr l).toNat + m.size.bytes ≤ 1536 * s.t.rows ∧
      (s.g.ea m.addr l).toNat < 2 ^ 21 :=
  ⟨sPairs, ⟨0#7, 8#7, addr0, .b8, .strong .rel .sys⟩, ⟨⟨by decide, by decide, by decide +kernel⟩, by decide +kernel, by decide +kernel, idleOf rfl rfl rfl⟩,
   rfl, by decide, rfl, rfl, rfl, by decide +kernel⟩

theorem wit_scratch_release : ∃ (s : State) (m : MStore) (a : MAtom) (c : GCtr) (l : Fin 32), (∀ e ∈ s.posted, e.core ≠ s.t.core) ∧
    OneLane s (.sts m) m.guard l (s.g.ea m.addr l) m.size.bytes ∧ m.acc.isRelease = true ∧ cellUp m.acc.scope = true ∧
    OneScratch s (.atoms a) a.guard l (s.g.ea a.addr l) 8 ∧ a.kind.releases = true ∧ cellUp a.scope = true ∧ a.wide8 = true ∧
    OneForGroup s (.cinc c) (s.actLanes c.guard) (s.g.sr64 (sreg7 c.a)) 8 ∧ ScratchRange s (s.g.sr64 (sreg7 c.a)) 8 ∧
    c.sp = true ∧ c.kind.releases = true ∧ cellUp c.scope = true ∧ s.recalls = [] :=
  ⟨sCtr, ⟨0#7, 8#7, addr0, .b4, .strong .rel .cell⟩, ⟨0#7, 0#4, 8#7, addr0, 10#7, .add, true, .ar, .sys⟩,
   ⟨0#7, 40#7, 41#7, true, .rel, .sys⟩, 0, by decide,
   ⟨⟨by decide, by decide, by decide +kernel⟩, by decide +kernel, by decide +kernel, idleOf rfl rfl rfl⟩, rfl, rfl,
   ⟨⟨⟨by decide, by decide, by decide +kernel⟩, by decide +kernel, by decide +kernel, idleOf rfl rfl rfl⟩, by decide +kernel, by decide +kernel⟩, rfl, rfl, rfl,
   ⟨⟨by decide, by decide, by decide +kernel⟩, by decide +kernel, by decide +kernel, idleOf rfl rfl rfl⟩, ⟨by decide +kernel, by decide +kernel⟩, rfl, rfl, rfl, rfl⟩

theorem wit_atom_lanes : ∃ (s : State) (m : MAtom) (pa : Fin 32 → Nat), m.la = 0#4 ∧ Lanes s (.atom m) m.guard (s.g.ea m.addr) 8 ∧
    Lanes s (.red m) m.guard (s.g.ea m.addr) 8 ∧ m.wide8 = true ∧ s.actLanes m.guard = 3#32 ∧
    LanesHeld s (s.actLanes m.guard) (s.g.ea m.addr) .store pa 8 ∧ s.recalls = [] :=
  ⟨sPairs, ⟨0#7, 0#4, 8#7, addr0, 10#7, .add, true, .st, .dev⟩, fun _ => 2 ^ 40, rfl,
   ⟨⟨by decide, by decide, by decide +kernel⟩, by decide +kernel, by decide +kernel, idleOf rfl rfl rfl⟩,
   ⟨⟨by decide, by decide, by decide +kernel⟩, by decide +kernel, by decide +kernel, idleOf rfl rfl rfl⟩, rfl, by decide +kernel,
   (by decide +kernel : sPairs.actLanes 0#7 = 3#32) ▸ (by decide +kernel : sPairs.g.ea addr0 = fun _ => 0#64) ▸ lanesTwo (.inr rfl) (by decide), rfl⟩

theorem wit_atoms_lanes : ∃ (s : State) (m : MAtom), m.la = 0#4 ∧ (∀ e ∈ s.posted, e.core ≠ s.t.core) ∧ m.kind.releases = true ∧
    cellUp m.scope = true ∧ s.recalls = [] ∧ m.wide8 = false ∧ Lanes s (.atoms m) m.guard (s.g.ea m.addr) 4 ∧
    ∀ l : Fin 32, (s.actLanes m.guard).getLsbD l.val = true → ScratchRange s (s.g.ea m.addr l) 4 :=
  ⟨sPairs, ⟨0#7, 0#4, 8#7, addr0, 10#7, .maxU, false, .rel, .cell⟩, rfl, by decide, rfl, rfl, rfl, rfl,
   ⟨⟨by decide, by decide, by decide +kernel⟩, by decide +kernel, by decide +kernel, idleOf rfl rfl rfl⟩,
   fun l _ => (by decide +kernel : sPairs.g.ea addr0 = fun _ => 0#64) ▸
     (⟨by decide +kernel, by decide +kernel⟩ : ScratchRange sPairs 0#64 4)⟩

/-! ### Faults -/

/-- The same queue, with NOTIFY at 0x310_0000 and HANDLER at 0x320_0000; `d` gives code 1 its disposition. -/
def sNotify (d : Nat) : State := withMem (withMem (withMem (sTrap 0) 44 4 d) 48 8 0x310_0000) 56 8 0x320_0000
def dNotify (d : Nat) : State := (sNotify d).readDesc 0#10

theorem counterHere {s : State} {a : Nat} (h : s.here (lineOf a) = true ∧ s.frozen (lineOf a) = false ∧ s.poisoned a = false) (hw : HwWritable s a 8)
    (hr : s.recalls = []) (hd : s.dir = []) (ht : s.triggers = []) (ha : s.adds = []) (hq : s.reqs = []) : CounterHere s a :=
  ⟨unheldOf ⟨h.1, h.2.1⟩ hr hd, hw, h.2.2, by simp [ht], by simp [ha], by simp [hq]⟩

theorem notifyHere (d : Nat) (h : d = 0 ∨ d = 4 ∨ d = 8) (a : Nat) (ha : a = 0x310_0000 ∨ a = 0x320_0000) : CounterHere (dNotify d) a := by
  rcases h with rfl | rfl | rfl <;> rcases ha with rfl | rfl <;>
  exact counterHere (by decide +kernel) (hwHigh (by decide +kernel) (by decide) (by decide) rfl rfl rfl) rfl rfl rfl rfl rfl

theorem notifyOpen (d : Nat) (h : d = 0 ∨ d = 4 ∨ d = 8) : QueueOpen (dNotify d) := by
  rcases h with rfl | rfl | rfl <;>
  exact ⟨⟨by decide +kernel, unheldOf (by decide +kernel) rfl rfl, unheldOf (by decide +kernel) rfl rfl, unheldOf (by decide +kernel) rfl rfl⟩,
    by show _ = true; decide +kernel, by decide +kernel, hwHigh (by decide +kernel) (by decide +kernel) (by decide +kernel) rfl rfl rfl,
    hwHigh (by decide +kernel) (by decide +kernel) (by decide +kernel) rfl rfl rfl⟩

/-- Disposition 1 with both counters, and disposition 2 with NOTIFY. -/
theorem wit_notify : (∃ x ∈ (sNotify 4).teams, x.ctx = (sNotify 4).t.ctx) ∧ NoFinal (sNotify 4) ∧ (dNotify 4).disposition 0#10 0x01#8 = 1 ∧
    (dNotify 4).descField 0#10 48 8 = 0x310_0000 ∧ (dNotify 4).descField 0#10 56 8 = 0x320_0000 ∧ QueueOpen (dNotify 4) ∧
    ResumeAt (dNotify 4) 0x300_0000 ∧ CounterHere (dNotify 4) 0x310_0000 ∧ CounterHere (dNotify 4) 0x320_0000 ∧
    (∀ a ∈ [0x310_0000, 0x320_0000], Apart a 8 0x300_0000 8 ∧ Apart a 8 (queueSlot (dNotify 4)) 256 ∧ Apart a 8 (queueBase (dNotify 4)) 8) ∧
    Apart 0x320_0000 8 0x310_0000 8 ∧ (dNotify 8).disposition 0#10 0x01#8 = 2 ∧ CounterHere (dNotify 8) 0x310_0000 ∧ QueueOpen (dNotify 8) ∧
    (dNotify 8).queueRoom = true :=
  ⟨by decide, noFinal 0, by decide +kernel, by decide +kernel, by decide +kernel, notifyOpen 4 (by simp),
   ⟨rfl, hwHigh (by decide +kernel) (by decide) (by decide) rfl rfl rfl, .inl (by decide +kernel), .inl (by decide +kernel)⟩,
   notifyHere 4 (by simp) _ (by simp), notifyHere 4 (by simp) _ (by simp),
   fun a ha => ⟨.inr (by revert a ha; decide), .inr (by revert a ha; decide +kernel), .inr (by revert a ha; decide +kernel)⟩, .inr (by decide),
   by decide +kernel, notifyHere 8 (by simp) _ (by simp), notifyOpen 8 (by simp), by decide +kernel⟩

/-- NOTIFY's line frozen, under each disposition. -/
theorem wit_notify_frozen : ∀ d ∈ [0, 4, 8], (let s : State := { sNotify d with freezes := [⟨0x310_0000, 128⟩] }
    let u := s.readDesc s.t.ctx
    u.here 0x310_0000 = true ∧ u.frozen (lineOf 0x310_0000) = true ∧ u.disposition 0#10 0x01#8 = d / 4) :=
  fun d hd => ⟨by revert d hd; decide +kernel, by revert d hd; decide +kernel, by revert d hd; decide +kernel⟩

/-- Lanes 0 and 1 issue, lane 0 at address 0, lane 1 at `a`. -/
def sLanes (a : W32) : State := { sPairs with g := { sPairs.g with v := sPairs.g.v.set 2 ((sPairs.g.v[2]).set 1 a) } }

/-- Lane 1 misaligned, and lane 1 beyond the scratchpad by one element. -/
theorem wit_checks : Runs (sLanes 2#32) (.ldv ⟨0#7, 0#4, 8#7, addr0, .b4, .wk, false, false⟩) 0#7 ∧
    Runs (sLanes 24576#32) (.lds ⟨0#7, 0#4, 8#7, addr0, .b4, .wk, false, false⟩) 0#7 ∧
    (∀ l : Fin 32, (2#32).getLsbD l.val = true ↔ ((sLanes 2#32).actLanes 0#7).getLsbD l.val = true ∧ ((sLanes 2#32).g.ea addr0 l).toNat % 4 ≠ 0) ∧
    (∀ l : Fin 32, (2#32).getLsbD l.val = true ↔ ((sLanes 24576#32).actLanes 0#7).getLsbD l.val = true ∧
      ¬ (((sLanes 24576#32).g.ea addr0 l).toNat + 4 ≤ 1536 * (sLanes 24576#32).t.rows ∧ ((sLanes 24576#32).g.ea addr0 l).toNat < 2 ^ 21)) ∧
    ∀ l : Fin 32, ((sLanes 24576#32).g.ea addr0 l).toNat % 4 = 0 :=
  ⟨⟨by decide, by decide, by decide +kernel⟩, ⟨by decide, by decide, by decide +kernel⟩, by decide +kernel, by decide +kernel, by decide +kernel⟩

/-- The operands that a lane's word needs beside its address: ENQ its link, STC its counter. -/
theorem wit_checks_more : Runs (sLanes 2#32) (.enq ⟨0#7, 0#4, 8#7, addr0, 10#7, 2#4, .rel, .sys⟩) 0#7 ∧
    (∀ l : Fin 32, ((sLanes 2#32).g.vpair 10#7 l).toNat % 8 = 0) ∧ Runs (sLanes 2#32) (.stc ⟨0#7, 8#7, addr0, 40#7, .b16, .rel, .sys⟩) 0#7 ∧
    Held (sLanes 2#32) ((sLanes 2#32).g.sr64 (sreg7 40#7)) .store (2 ^ 40) ∧ ((sLanes 2#32).g.sr64 (sreg7 40#7)).toNat % 8 = 0 :=
  ⟨⟨by decide, by decide, by decide +kernel⟩, by decide +kernel, ⟨by decide, by decide, by decide +kernel⟩, heldOf (by decide +kernel), by decide +kernel⟩

/-- A counter off its alignment, a barrier and a scalar load at the end of the scratchpad. -/
theorem wit_checks_group : Executes (withS sA 40 0x201#64) (.cinc ⟨0#7, 40#7, 41#7, false, .st, .dev⟩) ((withS sA 40 0x201#64).actLanes 0#7) ∧
    (withS sA 40 0x201#64).actLanes 0#7 ≠ 0#32 ∧
    Executes (withS sA 40 24576#64) (.binit ⟨0#7, 40#7, 41#7⟩) ((withS sA 40 24576#64).actLanes 0#7) ∧
    RunsU (withS sA 20 0#64) (.sld ⟨0#4, false, 0#4, 20#9, 4#9, .b8, .wk, true, false, 4#9⟩) 0#4 false ∧
    (0x201#64).toNat % 8 ≠ 0 ∧ (24576#64).toNat % 16 = 0 ∧ ¬ ((24576#64).toNat + 16 ≤ 1536 * sA.t.rows) :=
  ⟨⟨by decide, by decide, by decide +kernel⟩, by decide +kernel, ⟨by decide, by decide, by decide +kernel⟩, ⟨⟨by decide, by decide, by decide +kernel⟩, by decide⟩,
   by decide, by decide, by decide⟩

/-- A shape record at virtual address 0 for 4-byte elements of one dimension: its base, its scratchpad base and its extent, less
one, and the counter of the word. -/
def sShape (base side ext : Nat) (ctr : W64) : State :=
  withS (withMem (withMem (withMem (withMem sA (2 ^ 40) 8 base) (2 ^ 40 + 28) 2 ext) (2 ^ 40 + 38) 1 10) (2 ^ 40 + 40) 4 side) 41 ctr

/-- A record off its alignment; each fault of a good record in its order; and the last scratchpad byte, which is none. -/
theorem wit_tcopy_faults :
    (∀ x ∈ [(2, 0, 0, 0x200#64), (0, 2, 0, 0x200#64), (0, 0, 0, 0x201#64), (0, 24576, 0, 0x200#64), (0, 0, 6143, 24576#64)],
      (let s := sShape x.1 x.2.1 x.2.2.1 x.2.2.2
       Acts s (.tcopy ⟨0#7, 0#4, 5#7, 41#7, .die, true⟩) 0#7 ∧ Idle s ∧ (s.copies.filter fun c => c.core = s.t.core).length < 8 ∧
       Held s (s.g.sr64 (sreg7 5#7)) .load (2 ^ 40) ∧ Settled s (2 ^ 40) 64 ∧
       (∃ h, parseShape ((List.range 64).map fun k => s.mem.get (2 ^ 40 + k)) = some h ∧ h.base.toNat = x.1 ∧ h.sbase = x.2.1 ∧
         h.reach.2 = x.2.1 + 4 * x.2.2.1))) ∧
    parseShape ((List.range 64).map fun k => sA.mem.get (2 ^ 40 + k)) = none ∧
    Held (withS sA 5 0x20#64) 0x20#64 .load (2 ^ 40 + 0x20) := by
  refine ⟨fun x hx => ?_, by decide +kernel, heldOf (by decide +kernel)⟩
  simp only [List.mem_cons, List.not_mem_nil, or_false] at hx
  rcases hx with rfl | rfl | rfl | rfl | rfl <;>
  exact ⟨⟨⟨by decide, by decide, by decide +kernel⟩, by decide +kernel⟩, idleOf rfl rfl rfl, by decide +kernel, heldOf (by decide +kernel),
    settledOf (by decide +kernel) rfl rfl rfl rfl rfl rfl rfl, _, rfl, by decide +kernel, by decide +kernel, by decide +kernel⟩

/-- An earlier acquire that has not bound. -/
def opAcq : Op := { op0 with instr := .ldv ⟨0#7, 0#4, 8#7, addr0, .b4, .strong .acq .sys, false, false⟩, win := 0 }

/-- Behind it the record of a TCOPY and of a GLAUNCH is read in flight. -/
theorem wit_record_waits : (let s : State := { sCopy with g := { sCopy.g with ops := [opAcq] } }
    Acts s (.tcopy ⟨0#7, 0#4, 5#7, 41#7, .die, true⟩) 0#7 ∧ Held s (s.g.sr64 (sreg7 5#7)) .load (2 ^ 40) ∧
    s.gate (s.recordOp (.tcopy ⟨0#7, 0#4, 5#7, 41#7, .die, true⟩) (s.g.sr64 (sreg7 5#7)) (s.g.sr64 (sreg7 41#7))) = false) ∧
    (let s : State := { sLaunch with g := { sLaunch.g with ops := [opAcq] } }
     Acts s (.glaunch ⟨0#7, 0#4, 12#7, 5#7⟩) 0#7 ∧ s.g.id = 0 ∧ s.myGrid = some fetchGrid ∧ fetchGrid.nest ≠ 10 ∧
     Held s (s.g.sr64 (sreg7 5#7)) .load (2 ^ 40) ∧
     s.gate (s.recordOp (.glaunch ⟨0#7, 0#4, 12#7, 5#7⟩) (s.g.sr64 (sreg7 5#7)) 0#64) = false) :=
  ⟨⟨⟨⟨by decide, by decide, by decide +kernel⟩, by decide +kernel⟩, heldOf (by decide +kernel), by decide +kernel⟩,
   ⟨⟨by decide, by decide, by decide +kernel⟩, by decide +kernel⟩, by decide, by decide +kernel, by decide, heldOf (by decide +kernel), by decide +kernel⟩

/-- A call of the other group has reserved a slot of the ring that is not written yet. -/
theorem wit_svc_reserved : (let op : Op := { op0 with instr := .svc ⟨0#7, 8#7, 16#7⟩, gops := [0#64] }
    let t : Team := { (sRing 31).t with groups := [fetchGroup, { fetchGroup with id := 1, quad := 1, ops := [op] }] }
    let s : State := { sRing 31 with teams := [t], t := t }
    let d := s.readDesc s.t.ctx
    Acts s (.svc ⟨0#7, 8#7, 16#7⟩) 0#7 ∧ d.ringBase s.t.ctx ≠ 0 ∧ d.reserved s.t.ctx = 1 ∧ RingHere d 32 ∧
    (BitVec.ofNat 64 (d.rd (d.ringBase s.t.ctx) 8 + d.reserved s.t.ctx) - BitVec.ofNat 64 (d.rd (d.ringBase s.t.ctx + 8) 8)).toNat + 32 =
      d.ringSize s.t.ctx) :=
  ⟨⟨⟨by decide, by decide +kernel, by decide +kernel⟩, by decide +kernel⟩, by decide +kernel, by decide +kernel,
   ⟨unheldOf (by decide +kernel) rfl rfl, fun k hk => unheldOf (by revert k hk; decide +kernel) rfl rfl⟩, by decide +kernel⟩

/-! ### The operand log -/

/-- A group about to perform a log of operation `o` with this ACTION. -/
def gReplay (o : Op) (action : BitVec 8) : Group := { fetchGroup with log := some ⟨o, { fault0 6#8 with pos := 1#8 }, action⟩, replay := true }

theorem replays (o : Op) (action : BitVec 8) (h : o.parked = 0#32) :
    Replays (sWith (gReplay o action)) (fWith (gReplay o action)) ⟨1, 0⟩ ⟨o, { fault0 6#8 with pos := 1#8 }, action⟩ :=
  ⟨atWith _ rfl, rfl, rfl, rfl, h⟩

/-- Discard, and a load with a lookahead. -/
theorem wit_replay_window : Replays (sWith (gReplay op0 0#8)) (fWith (gReplay op0 0#8)) ⟨1, 0⟩ ⟨op0, { fault0 6#8 with pos := 1#8 }, 0#8⟩ ∧
    inFlightWord op0.instr 3#4 ∧ (∀ o ∈ (fWith (gReplay op0 0#8)).g.ops, o.id < (fWith (gReplay op0 0#8)).nextId) ∧
    Replays (sWith (gReplay op0 1#8)) (fWith (gReplay op0 1#8)) ⟨1, 0⟩ ⟨op0, { fault0 6#8 with pos := 1#8 }, 1#8⟩ :=
  ⟨replays _ _ rfl, .inl ⟨_, .inl rfl, rfl⟩, by simp [fWith, gReplay, fetchGroup, Group.blank], replays _ _ rfl⟩

/-- The words that are performed again at once, for lane 0 at address 0. -/
def oStv : Op := { op0 with win := 0, instr := .stv ⟨0#7, 8#7, addr0, .b16, .wk⟩ }
def oAtom (red : Bool) : Op :=
  { op0 with win := 0, instr := if red then .red ⟨0#7, 0#4, 0#7, addr0, 10#7, .min, false, .st, .dev⟩ else .atom ⟨0#7, 0#4, 8#7, addr0, 10#7, .add, true, .st, .dev⟩ }
def oLdv : Op := { op0 with win := 0, instr := .ldv ⟨0#7, 0#4, 8#7, addr0, .b16, .wk, false, false⟩ }
def oCasw : Op := { op0 with win := 0, instr := .casw ⟨0#7, 0#4, 8#7, addr0, 16#7, true, .ar, .sys⟩ }

theorem wit_replay_store : ∃ (s f : State) (e : LogEntry), Replays s f ⟨1, 0⟩ e ∧ e.action = 0#8 ∧ e.op.pend = oneLane 0 ∧ Idle f ∧
    (e.op.lanes[(0 : Fin 32)]).aux = 0#64 ∧ e.op.instr = .stv ⟨0#7, 8#7, addr0, .b16, .wk⟩ ∧ Held f (e.op.lanes[(0 : Fin 32)]).addr .store (2 ^ 40) :=
  ⟨_, _, _, replays oStv 0#8 rfl, rfl, rfl, idleWith _ rfl rfl, by decide +kernel, rfl, heldOf (by decide +kernel)⟩
theorem wit_replay_atom : ∀ red : Bool, ∃ (s f : State) (e : LogEntry), Replays s f ⟨1, 0⟩ e ∧ e.op = oAtom red ∧ e.action = 0#8 ∧
    e.op.pend = oneLane 0 ∧ Idle f ∧ Held f (e.op.lanes[(0 : Fin 32)]).addr .store (2 ^ 40) ∧ Settled f (2 ^ 40) 8 ∧ f.recalls = [] :=
  fun red => ⟨_, _, _, replays (oAtom red) 0#8 (by cases red <;> rfl), rfl, rfl, by cases red <;> rfl, idleWith _ rfl rfl, by
    cases red <;> exact heldOf (by decide +kernel), by cases red <;> exact settledOf (by decide +kernel) rfl rfl rfl rfl rfl rfl rfl, rfl⟩
theorem wit_replay_load : ∃ (s f : State) (e : LogEntry), Replays s f ⟨1, 0⟩ e ∧ e.op = oLdv ∧ e.action = 0#8 ∧ e.op.pend = oneLane 0 ∧
    Idle f ∧ isHalved 16 .wk = false ∧ Held f (e.op.lanes[(0 : Fin 32)]).addr .load (2 ^ 40) ∧ Settled f (2 ^ 40) 16 ∧
    f.corePoison f.t.core (2 ^ 40) 16 = false :=
  ⟨_, _, _, replays oLdv 0#8 rfl, rfl, rfl, rfl, idleWith _ rfl rfl, rfl, heldOf (by decide +kernel), settledOf (by decide +kernel) rfl rfl rfl rfl rfl rfl rfl,
   by decide +kernel⟩

/-- Supply, for a load, an atomic and a compare-and-swap of 32 bytes. -/
theorem wit_replay_supply : ∀ o ∈ [oLdv, oAtom false, oCasw], ∃ (s f : State) (e : LogEntry), Replays s f ⟨1, 0⟩ e ∧ e.op = o ∧
    e.action = 2#8 ∧ e.op.pend = oneLane 0 :=
  fun o ho => ⟨_, _, _, replays o 2#8 (by revert o ho; decide), rfl, rfl, by revert o ho; decide⟩

/-- An MMA that has been withdrawn from a gang of two, and a copy of one element. -/
def gReplayMma : Group :=
  { gReplay { op0 with win := 0, instr := .mma ⟨0#7, 4#4, 16#7, 5#7, 40#7, .bf16, false, true⟩, gops := [0#64, 0#64, 0#64, 0#64] } 0#8 with gangr := 3#32 }
theorem wit_replay_mma : ∃ (s f : State) (e : LogEntry), Replays s f ⟨1, 0⟩ e ∧ e.action = 0#8 ∧ e.op.instr.isMma = true ∧ EngineQuiet f ∧ GangWaits f ∧
    Held f (e.op.gops.getD 1 0#64) .store (2 ^ 40) := by
  let t : Team := { teamA with groups := [gReplayMma, { fetchGroup with id := 1, quad := 1, gangr := 3#32 }] }
  refine ⟨{ sI with teams := [t] }, { sI with teams := [t], t := t, g := gReplayMma }, _,
    ⟨⟨by decide, rfl, by decide, rfl⟩, rfl, rfl, rfl, rfl⟩, rfl, rfl, ⟨rfl, rfl⟩,
    ⟨⟨t, List.mem_cons_self, rfl⟩, rfl, fun k hk => ?_, rfl, ⟨1, by decide +kernel, by decide⟩⟩, heldOf (by decide +kernel)⟩
  rw [show membersOf gReplayMma.gangr = [0, 1] by decide +kernel] at hk
  rcases List.mem_cons.1 hk with rfl | hk
  · exact ⟨_, rfl, fun h => absurd rfl h⟩
  · rw [List.mem_singleton] at hk
    subst hk
    exact ⟨_, rfl, fun _ => ⟨rfl, rfl⟩⟩
theorem wit_replay_copy : ∃ (s f : State) (e : LogEntry) (h : Shape), Replays s f ⟨1, 0⟩ e ∧ e.action = 0#8 ∧
    e.op.instr = .tcopy ⟨0#7, 0#4, 5#7, 41#7, .die, true⟩ ∧ parseShape ((e.op.gops.take 8).flatMap fun w => toBytes 8 w.toNat) = some h ∧
    0 < h.count ∧ (let v := h.vector 0
      (e.op.gops.getD 8 0#64).toNat = v.getD 0 0 + 2 ^ 16 * v.getD 1 0 + 2 ^ 32 * v.getD 2 0 + 2 ^ 48 * v.getD 3 0 ∧
      (e.op.gops.getD 9 0#64).toNat = v.getD 4 0) :=
  ⟨_, _, _, _, replays { op0 with
      win := 0, instr := .tcopy ⟨0#7, 0#4, 5#7, 41#7, .die, true⟩
      gops := [0#64, 0#64, 0#64, 0#64, 0xA_0000_0000_0000#64, 0#64, 0#64, 0#64, 0#64, 0#64, 0x200#64] } 0#8 rfl, rfl, rfl, rfl,
   by decide +kernel, by decide +kernel, by decide +kernel⟩

/-! ### What is found in flight, and the last team of a grid -/

/-- A shape record that fails its checks after its word has issued, and an MMA whose row is bad at the latch. -/
def oUnread : Op := { failed0 with instr := .tcopy ⟨0#7, 0#4, 5#7, 41#7, .die, true⟩, win := 0, gops := [0#64, 0x200#64, 0#64] }
def oLatch : Op :=
  { failed0 with instr := .mma ⟨0#7, 4#4, 16#7, 5#7, 40#7, .bf16, false, true⟩, win := 0, fails := [⟨0, 0x09#8, 0#64, 0#64⟩] }
theorem wit_precise : ∀ o ∈ [oUnread, oLatch], At (sWith { fetchGroup with ops := [o] }) ⟨1, 0⟩ (fWith { fetchGroup with ops := [o] }) ∧
    o.pend = 0#32 ∧ o.late = [] ∧ o.fails ≠ [] ∧ (o.unread = true ∨ o.instr.isMma = true ∧ ∃ x ∈ o.fails, x.code = 0x02#8 ∨ x.code = 0x09#8) ∧
    fetchGroup.log = none ∧ fetchGroup.status = .running ∧ fetchGroup.exited ≠ BitVec.allOnes 32 :=
  fun o ho => ⟨atWith _ rfl, by revert o ho; decide, by revert o ho; decide, by revert o ho; decide, by revert o ho; decide, rfl, rfl, by decide +kernel⟩

/-- A fault met at issue: nothing is open; and a FENCE still waits. -/
theorem wit_drain : (∃ s f, At s ⟨1, 0⟩ f ∧ f.g.status = .drain (fault0 4#8) ∧ NoneOpen f) ∧
    ∃ s f, At s ⟨1, 0⟩ f ∧ f.g.status = .drain (fault0 4#8) ∧ f.g.ops = [] ∧ f.g.fence ≠ none :=
  ⟨⟨_, _, atWith { fetchGroup with status := .drain (fault0 4#8) } rfl, rfl, by simp [NoneOpen, fWith, fetchGroup, Group.blank]⟩,
   _, _, atWith { fetchGroup with status := .drain (fault0 4#8), fence := some (.sys, []) } rfl, rfl, rfl, by simp [fWith]⟩

/-- Behind the last held entry comes the fault of a later word; a held entry that is a withdrawn MMA. -/
theorem wit_stop : (∃ s f, At s ⟨1, 0⟩ f ∧ f.g.held = [] ∧ f.g.log = none ∧ f.g.stop = some (fault0 4#8) ∧ f.g.status = .running ∧ NoneOpen f) ∧
    ∃ s f, At s ⟨1, 0⟩ f ∧ f.g.held = [log0 0#8 0#8] ∧ f.g.log = none ∧ f.g.status = .running ∧ ∀ o ∈ f.g.ops, o.isOpen = false :=
  ⟨⟨_, _, atWith { fetchGroup with stop := some (fault0 4#8) } rfl, rfl, rfl, rfl, rfl, by simp [NoneOpen, fWith, fetchGroup, Group.blank]⟩,
   _, _, atWith { fetchGroup with held := [log0 0#8 0#8] } rfl, rfl, rfl, rfl, by simp [fWith, fetchGroup, Group.blank]⟩

/-- A strong load of 16 bytes, a strong scratchpad store and a BINIT that have made half `h`. -/
def oHalf (i : Instr) (h : Nat) : Op :=
  { op0 with instr := i, win := 0, lanes := Vector.replicate 32 { LaneOp.zero with aux := BitVec.ofNat 64 (h + 1) } }
def iLdv16 : Instr := .ldv ⟨0#7, 0#4, 8#7, addr0, .b16, .strong .st .sys, false, false⟩
def iLds16 : Instr := .lds ⟨0#7, 0#4, 8#7, addr0, .b16, .strong .st .team, false, false⟩
def iSts16 : Instr := .sts ⟨0#7, 8#7, addr0, .b16, .strong .st .team⟩
def iBinit : Instr := .binit ⟨0#7, 40#7, 41#7⟩

theorem halfFlies (i : Instr) (h : Nat) (hi : i = iLdv16 ∨ i = iLds16 ∨ i = iSts16 ∨ i = iBinit) (hh : h = 0 ∨ h = 1) :
    At (sWith { fetchGroup with ops := [oHalf i h] }) ⟨1, 0⟩ (fWith { fetchGroup with ops := [oHalf i h] }) ∧
      InFlight (fWith { fetchGroup with ops := [oHalf i h] }) (oHalf i h) (oneLane 0) ∧ (oHalf i h).parked = 0#32 ∧ (oHalf i h).win = 0 ∧
      ((oHalf i h).lanes[(0 : Fin 32)]).aux.toNat = h + 1 := by
  refine ⟨atWith _ rfl, ⟨List.mem_cons_self, by simp [fWith], ?_, rfl, rfl, rfl, ?_, ?_⟩, rfl, rfl, ?_⟩ <;>
    rcases hi with rfl | rfl | rfl | rfl <;> rcases hh with rfl | rfl <;> decide +kernel

/-- The other half can be had, in memory and in the scratchpad. -/
theorem wit_second_half : ∀ h ∈ [0, 1], (let f := fWith { fetchGroup with ops := [oHalf iLdv16 h] }
    let va : W64 := 0#64 + BitVec.ofNat 64 (8 * (1 - h))
    Held f va .load (2 ^ 40 + 8 * (1 - h)) ∧ Settled f (2 ^ 40 + 8 * (1 - h)) 8 ∧ f.corePoison f.t.core (2 ^ 40 + 8 * (1 - h)) 8 = false ∧
    ScratchRange (fWith { fetchGroup with ops := [oHalf iLds16 h] }) va 8) := by
  intro h hh
  simp only [List.mem_cons, List.not_mem_nil, or_false] at hh
  rcases hh with rfl | rfl <;>
  exact ⟨heldOf (by decide +kernel), settledOf (by decide +kernel) rfl rfl rfl rfl rfl rfl rfl, by decide +kernel, by decide +kernel, by decide +kernel⟩

/-- A grid with its last team, whose completion counter is `ctr`; the group has exited. -/
def sLast (ctr : W64) : State :=
  { sI with
    teams := [{ teamA with groups := [gExit] }]
    grids := [{ fetchGrid with live := 1, placedAll := true, children := 0, parent := none, record := { fetchGrid.record with ctr := ctr, scope := .sys } }] }
def fLast (ctr : W64) : State := { sLast ctr with t := { teamA with groups := [gExit] }, g := gExit }
theorem retires (ctr : W64) : Retires (sLast ctr) (fLast ctr) ⟨1, 0⟩ :=
  { on := by simp [sLast, sI, State.reset], idle := rfl
    teams := fun x hx => by rw [List.mem_singleton.1 hx]; exact ⟨by simp [teamA], rfl⟩, load := rfl
    exited := by show gExit.exited = _; decide +kernel
    once := rfl, ops := rfl, fence := rfl, log := rfl, held := rfl, stop := rfl, status := rfl, free := by rfl, commands := by rfl, mma := rfl
    engine := by rfl, posted := by simp [fLast, sLast, sI, State.reset], group := by rfl, team := by rfl }

/-- The grid, before every clause about its counter. -/
theorem wit_last : ∀ ctr : W64, (∀ g ∈ (fLast ctr).t.groups, g.id ≠ (fLast ctr).g.id → g.retired = true) ∧
    ∃ gr, gr.gid = (fLast ctr).t.grid ∧ gr ∈ (sLast ctr).grids ∧ (∀ x ∈ (sLast ctr).grids, x.gid = gr.gid → x = gr) ∧ gr.placedAll = true ∧
      gr.live = 1 ∧ gr.children = 0 ∧ gr.parent = none ∧ gr.record.ctr = ctr ∧ cellUp gr.record.scope = true ∧ (gr.lastCore.getD 0) / 48 = 0 :=
  fun ctr => ⟨by simp [fLast], _, rfl, List.mem_cons_self, by simp [sLast], rfl, rfl, rfl, rfl, rfl, rfl,
    by show (fetchGrid.lastCore.getD 0) / 48 = 0; decide⟩

/-- A child grid, whose parent has two children. -/
theorem wit_last_child : ∃ (gr p : Grid), gr.parent = some p.gid ∧ p.gid ≠ gr.gid ∧ 2 ≤ p.children :=
  ⟨{ fetchGrid with parent := some 5 }, { fetchGrid with gid := 5, children := 2 }, rfl, by decide, by decide⟩

/-- The event ring at 0x400_0000, EVTNOTE at 0x420_0000. -/
def withRing (s : State) : State := withMem (withMem s (s.fcb + 40) 8 0x400_0000) (s.fcb + 48) 8 0x420_0000

theorem eventOpen {s : State} (h : s.mem.wf = true ∧
      eventRing s = 0x400_0000 ∧ eventNote s = 0x420_0000 ∧ eventSlot s = 0x400_0040 ∧ s.rd 0x400_0000 8 - s.rd 0x400_0008 8 < 256 ∧
      s.here 0x420_0000 = true ∧ s.frozen 0x420_0000 = false ∧ s.poisoned 0x420_0000 = false)
    (hw : ∀ a n, 2 ^ 24 ≤ a → a + n ≤ 0x800_0000 → HwWritable s a n) (hr : ∀ r ∈ s.recalls, r.line ≠ 0x420_0000)
    (hd : ∀ e ∈ s.dir, e.line ≠ 0x420_0000) (ht : s.triggers = [])
    (ha : ∀ x ∈ s.adds, x.phys = false) (hq : ∀ r ∈ s.reqs, r.purpose ≠ .notify) : EventOpen s := by
  obtain ⟨h1, h2, h3, h4, h5, h6⟩ := h
  refine ⟨h1, by rw [h2]; decide, by rw [h2]; exact h5, ?_, ?_, fun _ => ⟨?_, ?_, ?_⟩⟩
  · rw [h2]; exact hw _ _ (by decide) (by decide)
  · rw [h4]; exact hw _ _ (by decide) (by decide)
  · rw [h3]
    exact ⟨⟨h6.1, h6.2.1, hr, hd⟩, hw _ _ (by decide) (by decide), h6.2.2, by simp [ht], fun x hx hp => by simp [ha x hx] at hp, hq⟩
  · rw [h2, h3]; exact .inl (by decide)
  · rw [h3, h4]; exact .inl (by decide)

/-- The same where nothing is held, and the tables stand low. -/
theorem eventOpenLow {s : State}
    (h : (s.fcb + 80 ≤ 2 ^ 24 ∧ s.rdRaw (s.fcb + 72) 8 = 0 ∧ s.ctxtab.toNat + 2 ^ 18 ≤ 2 ^ 24) ∧ s.mem.wf = true ∧
      eventRing s = 0x400_0000 ∧ eventNote s = 0x420_0000 ∧ eventSlot s = 0x400_0040 ∧ s.rd 0x400_0000 8 - s.rd 0x400_0008 8 < 256 ∧
      s.here 0x420_0000 = true ∧ s.frozen 0x420_0000 = false ∧ s.poisoned 0x420_0000 = false)
    (hz : s.pkg = 0) (hg : s.tags = []) (hk : s.keyGen = []) (hr : s.recalls = []) (hd : s.dir = []) (ht : s.triggers = [])
    (ha : s.adds = []) (hq : s.reqs = []) : EventOpen s :=
  eventOpen h.2 (fun _ _ ha hn => hwHigh h.1 ha (by omega) hz hg hk) (by simp [hr]) (by simp [hd]) ht (by simp [ha]) (by simp [hq])

/-- The counter at hand; poisoned; not canonical; absent; read-only. -/
theorem wit_last_counter :
    (HeldAtDie (sLast 0x200#64) 0 0#10 0x200#64 .store (2 ^ 40 + 0x200) ∧ CounterHere (sLast 0x200#64) (2 ^ 40 + 0x200)) ∧
    (let s : State := { withRing (sLast 0x200#64) with poison := [2 ^ 40 + 0x200] }
     HeldAtDie s 0 0#10 0x200#64 .store (2 ^ 40 + 0x200) ∧ LineUnheld s (lineOf (2 ^ 40 + 0x200)) ∧ s.poisoned (2 ^ 40 + 0x200) = true ∧ EventOpen s) ∧
    (canonical (0x8000_0000_0000_0000#64) = false ∧ EventOpen (withRing (sLast 0x8000_0000_0000_0000#64))) ∧
    (let s : State := { withRing (sLast 0x200#64) with carve := State.reset.carve.set 0 0 }
     s.tlbFind [.die 0] 0#10 (vaNum 0x200#64) = some leaf0 ∧ s.useLeaf leaf0 (vaNum 0x200#64) .store = .notPresent s ∧ EventOpen s) ∧
    (let l : Leaf := { leaf0 with entry := leaf0.entry &&& ~~~4#64 }
     let s : State := { withRing (sLast 0x200#64) with tlb := [(.die 0, l)] }
     s.tlbFind [.die 0] 0#10 (vaNum 0x200#64) = some l ∧ s.useLeaf l (vaNum 0x200#64) .store = .permission s ∧ EventOpen s) := by
  refine ⟨⟨⟨by decide, leaf0, by decide +kernel, useLeafOf (by decide +kernel)⟩,
      counterHere (by decide +kernel) (hwHigh (by decide +kernel) (by decide) (by decide) rfl rfl rfl) rfl rfl rfl rfl rfl⟩,
    ⟨⟨by decide, leaf0, by decide +kernel, useLeafOf (by decide +kernel)⟩, unheldOf (by decide +kernel) rfl rfl, by decide +kernel, ?_⟩,
    ⟨by decide, ?_⟩, ⟨by decide +kernel, ?_, ?_⟩, by decide +kernel, ?_, ?_⟩
  · exact eventOpenLow (by decide +kernel) rfl rfl rfl rfl rfl rfl rfl rfl
  · exact eventOpenLow (by decide +kernel) rfl rfl rfl rfl rfl rfl rfl rfl
  · have h : leafPa leaf0.entry.toNat leaf0.companion.toNat (vaNum 0x200#64) = some (2 ^ 40 + 0x200) := by decide +kernel
    simp only [State.useLeaf, h]
    rw [if_pos (by decide +kernel)]
  · exact eventOpenLow (by decide +kernel) rfl rfl rfl rfl rfl rfl rfl rfl
  · have h : leafPa (leaf0.entry &&& ~~~4#64).toNat leaf0.companion.toNat (vaNum 0x200#64) = some (2 ^ 40 + 0x200) := by decide +kernel
    simp only [State.useLeaf, h]
    rw [if_neg (by decide +kernel), if_pos (by decide +kernel)]
  · exact eventOpenLow (by decide +kernel) rfl rfl rfl rfl rfl rfl rfl rfl

/-! ### The matrix engine, tiles and counters -/

/-- Ones of E4M3 in an A row, every second one negative where `alt`, and ones in B. -/
def rowOnes (alt : Bool) : Vector W32 32 := Vector.replicate 32 (if alt then 0xB838_B838#32 else 0x3838_3838#32)
def bOnes : List Byte := List.replicate 8192 0x38#8

theorem fp8One : FinVal fmtE4m3 0x38 1 := ⟨false, 8, -3, by decide, by norm_num⟩
theorem fp8Neg : FinVal fmtE4m3 0xB8 (-1) := ⟨true, 8, -3, by decide, by norm_num⟩

/-- A sum of 128 ones, and one that cancels. -/
theorem wit_partial : ∀ alt : Bool, (∀ k, k < 128 → FinVal fmtE4m3 (aPart .f8e4 (rowOnes alt) k) (if alt ∧ k % 2 = 1 then -1 else 1) ∧
    FinVal fmtE4m3 (bPart .f8e4 bOnes k 63) 1) ∧ bOnes.length = 8192 := by
  intro alt
  refine ⟨fun k hk => ⟨?_, ?_⟩, by rw [bOnes, List.length_replicate]⟩
  · have h : aPart .f8e4 (rowOnes alt) k = if alt ∧ k % 2 = 1 then 0xB8 else 0x38 := by
      cases alt <;> revert k hk <;> decide +kernel
    rw [h]
    by_cases c : alt ∧ k % 2 = 1
    · simp only [if_pos c]; exact fp8Neg
    · simp only [if_neg c]; exact fp8One
  · have h : bPart .f8e4 bOnes k 63 = 0x38 := by
      rw [bPart, bOnes, List.drop_replicate, List.take_replicate]
      show ofBytes (List.replicate (min 1 (8192 - 1 * (64 * k + 63))) 0x38#8) = 0x38
      rw [show min 1 (8192 - 1 * (64 * k + 63)) = 1 by omega]; decide
    rw [h]; exact fp8One

/-- A row that holds a NaN, and one that meets a zero with an infinity. -/
theorem wit_partial_nan : (fmtE4m3.decode (aPart .f8e4 (Vector.replicate 32 0x7F7F_7F7F#32) 127)).isNan = true ∧
    (fmtE5m2.decode (aPart .f8e5 (Vector.replicate 32 0x7C7C_7C7C#32) 0)).isInf = true ∧
    (fmtE5m2.decode (bPart .f8e5 (List.replicate 128 0x80#8) 0 63)).isZero = true :=
  ⟨by decide +kernel, by decide +kernel, by decide +kernel⟩

/-- Register 31 of group 1, the last of its A rows, turns bad before the latch. -/
theorem wit_latch_bad : (let gs : List Group := [gMma 0, { gMma 1 with vbad := [(31, 4)] }]
    let s : State := { sPlaced true with teams := [{ teamA with groups := gs }] }
    let ms : List MmaOp := [mmaOp 0, mmaOp 1]
    Between s ∧ (s.engine 0).places = [⟨ms⟩] ∧ (s.engine 0).latched = [] ∧ s.stalled 0 = false ∧ (s.engine 0).held = [] ∧ (ms.map fun m => m.op).Nodup ∧
    (∀ m ∈ ms, ∃ f, s.loadFocus ⟨m.team, m.group⟩ = some f ∧
      (decide (m.group = 1) = true ↔ ∃ b ∈ f.g.vbad, m.a.toNat ≤ b.1 ∧ b.1 < m.a.toNat + 16)) ∧ ∃ m ∈ ms, decide (m.group = 1) = true) := by
  refine ⟨betweenOf (by decide +kernel), rfl, rfl, rfl, rfl, by decide, fun m hm => ?_, mmaOp 1, by simp, rfl⟩
  rcases List.mem_cons.1 hm with rfl | hm
  · exact ⟨_, rfl, by decide +kernel⟩
  rw [List.mem_singleton] at hm
  subst hm
  exact ⟨_, rfl, by decide +kernel⟩

/-- The next tag, with the three after it held, and a later one. -/
theorem wit_arrival_drains : (let x : Tile := { tile8 3 with kept := (tile8 3).kept ++ [contrib 5#16] }
    Comes x (contrib 0#16) ∧ (x.kept.map fun y => y.tag).Nodup ∧ x.kept.length ≤ 4) := ⟨by unfold Comes; decide +kernel, by decide, by decide⟩

/-- An open tile that misses its first tag, with a counter at virtual address 0x3000, past its lines. -/
def tileCtr : Tile := { tile8 1 with ctr := 0x3000#64 }
def sTile : State := sArrive tileCtr (contrib 0#16)

theorem counterOpen {s : State} {a : Nat} (h : s.here (lineOf a) = true ∧ s.frozen (lineOf a) = false ∧ s.poisoned a = false ∧
      ∀ y ∈ s.tiles, lineOf a ∉ y.frames) (hw : HwWritable s a 8)
    (hr : s.recalls = []) (hd : s.dir = []) (ht : ∀ x ∈ s.triggers, x.addr = a → x.pkg = s.pkg) : CounterOpen s a :=
  ⟨unheldOf ⟨h.1, h.2.1⟩ hr hd, hw, h.2.2.1, h.2.2.2, ht⟩

theorem wit_tile_counter : sTile.power ≠ .off ∧ (sTile.tiles.filter fun y => y.id = tileCtr.id) = [tileCtr] ∧ tileCtr.merged < tileCtr.n ∧
    tileCtr.kept ≠ [] ∧ tileCtr.refusedFar = [] ∧ (∀ l ∈ tileCtr.frames, sTile.here l = true) ∧
    (∀ c ∈ sTile.transit, c.tile = tileCtr.base → c.refused = false) ∧ tileCtr.ctr ≠ 0#64 ∧
    HeldAtDie sTile tileCtr.die tileCtr.ctx tileCtr.ctr .store (2 ^ 40 + 0x3000) ∧ CounterOpen sTile (2 ^ 40 + 0x3000) ∧ Canonical sTile ∧ sTile.recalls = [] :=
  ⟨by decide, by decide +kernel, by decide, by decide, rfl, by decide +kernel, by decide +kernel, by decide, ⟨by decide, leaf0, by decide +kernel, useLeafOf (by decide +kernel)⟩,
   counterOpen (by decide +kernel) (hwHigh (by decide +kernel) (by decide) (by decide) rfl rfl rfl) rfl rfl (by decide), by show _ = true; decide +kernel, rfl⟩

/-- A trigger at the counter at 0x200 that holds grid 1, which waits. -/
def trig0 : Trigger := ⟨2 ^ 40 + 0x200, 0, 0#10, 1, .sys⟩

/-- A copy whose elements are all done, four bytes short of nothing: the counter holds 2^64 - 4 and a trigger stands at it. -/
def copyDone : CopyCmd := { copy0 with started := true, clear := true, ctrSp := false, done := 1, scope := .cell }
theorem wit_copy_counter : (let s : State := { withMem (sCopying copyDone) (2 ^ 40 + 0x200) 8 (2 ^ 64 - 4) with triggers := [trig0] }
    let f : State := { withMem (fCopying copyDone) (2 ^ 40 + 0x200) 8 (2 ^ 64 - 4) with triggers := [trig0] }
    At s ⟨1, 0⟩ f ∧ (s.copies.filter fun x => x.id = copyDone.id) = [copyDone] ∧ copyDone.done = copyDone.shape.count ∧ s.recalls = [] ∧
    HeldAtDie s (copyDone.core / 48) copyDone.ctx copyDone.ctr .store (2 ^ 40 + 0x200) ∧ CounterOpen s (2 ^ 40 + 0x200) ∧ Canonical s ∧
    (s.rd (2 ^ 40 + 0x200) 8 + copyDone.shape.esize * copyDone.shape.count) % 2 ^ 64 = 0 ∧ ∃ x ∈ s.triggers, x.addr = 2 ^ 40 + 0x200) :=
  ⟨⟨by decide, by decide, by decide, rfl⟩, by decide +kernel, by decide +kernel, rfl, ⟨by decide, leaf0, by decide +kernel, useLeafOf (by decide +kernel)⟩,
   counterOpen (by decide +kernel) (hwHigh (by decide +kernel) (by decide) (by decide) rfl rfl rfl) rfl rfl (by decide +kernel),
   by show _ = true; decide +kernel, by decide +kernel, trig0, List.mem_cons_self, rfl⟩

/-- A counter with a trigger: left at 0 at system scope and at a narrower one, and left at 1. -/
theorem wit_counter_fires : ∀ p ∈ [(Scope.sys, 1), (.dev, 1), (.cell, 2)], (let g : GCtr := ⟨0#7, 40#7, 41#7, false, .rel, p.1⟩
    let s : State := { withMem (withS sCtr 41 1#64) (2 ^ 40 + 0x200) 8 p.2 with triggers := [trig0] }
    OneForGroup s (.cdec g) (s.actLanes g.guard) (s.g.sr64 (sreg7 g.a)) 8 ∧ (∀ e ∈ s.posted, e.core ≠ s.t.core) ∧
    Held s (s.g.sr64 (sreg7 g.a)) .store (2 ^ 40 + 0x200) ∧ Settled s (2 ^ 40 + 0x200) 8 ∧ KeyMapApart s (2 ^ 40 + 0x200) 8 (2 ^ 40 + 0x200) ∧
    s.recalls = [] ∧ (∀ x ∈ s.triggers, x.addr = 2 ^ 40 + 0x200 → x.pkg = s.pkg) ∧
    (((numAt s (2 ^ 40 + 0x200) 8 : Int) - (s.g.sr64 (sreg7 g.e)).toNat) % 2 ^ 64).toNat = p.2 - 1) := by
  intro p hp
  simp only [List.mem_cons, List.not_mem_nil, or_false] at hp
  rcases hp with rfl | rfl | rfl <;>
  exact ⟨⟨⟨by decide, by decide, by decide +kernel⟩, by decide +kernel, by decide +kernel, idleOf rfl rfl rfl⟩, by decide, heldOf (by decide +kernel),
    settledOf (by decide +kernel) rfl rfl rfl rfl rfl rfl rfl, by unfold KeyMapApart; decide +kernel, rfl, by decide +kernel, by decide +kernel⟩

/-! ### Hosts, commands, keys and cells -/

/-- A host's compare-and-swap of 16 bytes, and its addition that leaves a counter with a trigger at 0. -/
theorem wit_host_more : (Servable sHome (2 ^ 40) 16 ∧ (List.replicate 32 7#8).length = 2 * 16) ∧
    (let s : State := { withMem sHome (2 ^ 40 + 0x200) 8 (2 ^ 64 - 1) with triggers := [trig0] }
     Servable s (2 ^ 40 + 0x200) 8 ∧ HwWritable s (2 ^ 40 + 0x200) 8 ∧ (∀ x ∈ s.triggers, x.addr = 2 ^ 40 + 0x200 → x.pkg = s.pkg) ∧
     (numAt s (2 ^ 40 + 0x200) 8 + ofBytes [1#8, 0#8, 0#8, 0#8, 0#8, 0#8, 0#8, 0#8]) % 2 ^ 64 = 0 ∧ BridgeOpen s 0#12) :=
  ⟨⟨servableOf (by decide +kernel) rfl (by decide) rfl rfl rfl rfl rfl, List.length_replicate⟩,
   servableOf (by decide +kernel) rfl (by decide) rfl rfl rfl rfl rfl, hwOf (by decide +kernel) rfl rfl, by decide +kernel, by decide +kernel,
   by decide, fun _ => rfl, by decide +kernel, by decide, by decide⟩

/-- A slot with its OP, and fields: offset, bytes, value. -/
def slotOf (l : List (Nat × Nat × Nat)) : List Byte :=
  l.foldl (fun bs x => bs.take x.1 ++ toBytes x.2.1 x.2.2 ++ bs.drop (x.1 + x.2.1)) (List.replicate 64 0#8)

/-- Each command at a limit of its fields, and one past a limit. -/
theorem wit_slots : ∀ x ∈ [([(0, 1, 1), (2, 2, 1023), (16, 8, 2 ^ 32)], Instr.inval), ([(0, 1, 1), (2, 2, 1024), (16, 8, 4096)], .tcqInvalidCommand),
      ([(0, 1, 2), (8, 8, 2 ^ 63)], .resolve), ([(0, 1, 3), (2, 2, 1023)], .finalCmd), ([(0, 1, 4), (16, 8, 4096), (24, 8, 4096)], .moveCmd),
      ([(0, 1, 4), (16, 8, 4096), (24, 8, 128)], .tcqInvalidCommand), ([(0, 1, 5), (16, 8, 2 ^ 32)], .thaw), ([(0, 1, 5), (16, 8, 2 ^ 33)], .tcqInvalidCommand),
      ([(0, 1, 6), (2, 2, 3), (16, 8, 16)], .carve), ([(0, 1, 6), (16, 8, 17)], .tcqInvalidCommand), ([(0, 1, 2), (63, 1, 1)], .tcqInvalidCommand),
      ([(0, 1, 7)], .tcqInvalidCommand)],
    (slotOf x.1).length = 64 ∧ sHome.tcqEvent (slotOf x.1) = x.2 := by decide +kernel

theorem wit_tail : (sCmd sHome []).power ≠ .off ∧ LineUnheld (sCmd sHome []) (lineOf (sCmd sHome []).tcqBase) :=
  ⟨by decide, unheldAt (by decide +kernel)⟩

/-- CARVE of the last die's window with an open tile in it; a trigger in it; every freeze taken; and at the largest size with room
in every slice. -/
def sCarve : State := sCmd sHome [(0, 1, 6), (2, 2, 3), (16, 8, 16)]
def carveBase : Nat := 2 ^ 40 + 3 * 2 ^ 27
theorem wit_carve_stops : Commands { sCarve with tiles := [{ tile0 with frames := [carveBase + 2 ^ 27 - 128] }] }
      (slot sCarve) .carve ∧ Commands { sCarve with triggers := [{ trig0 with addr := carveBase }] } (slot sCarve) .carve ∧
    Commands { sCarve with freezes := List.replicate 64 ⟨0, 128⟩ } (slot sCarve) .carve ∧
    (∀ k, k < 64 → ((sCarve.llc.map (·.line)).filter (inSlice 3 k)).length + 1024 * cmdLen (slot sCarve) ≤ 2 ^ 15) ∧ sCarve.openFar = [] :=
  ⟨commandsOf (s := { sCarve with tiles := [{ tile0 with frames := [carveBase + 2 ^ 27 - 128] }] }) (by decide +kernel) rfl rfl,
   commandsOf (s := { sCarve with triggers := [{ trig0 with addr := carveBase }] }) (by decide +kernel) rfl rfl,
   commandsOf (s := { sCarve with freezes := List.replicate 64 ⟨0, 128⟩ }) (by decide +kernel) rfl rfl, by decide +kernel, rfl⟩

theorem standsOf {s : State} {key line : Nat} (h : s.here line = true ∧ s.keyOf line = some key) (ht : s.tags = []) : StandsUnder s key line :=
  ⟨h.1, by rw [ht]; exact h.2⟩

/-- Key 5, whose line other packages hold: to be retired. -/
theorem wit_retire_held : (let s : State := { sKey 2 with dir := [⟨0x100_0000, .s, none, [3, 4], false, false⟩] }
    s.keyCmd = some (2, 5) ∧ s.keyInUse 5 = false ∧ (s.dir.map (·.line)).Nodup ∧ StandsUnder s 5 0x100_0000 ∧
    s.otherHolders ⟨0x100_0000, .s, none, [3, 4], false, false⟩ = [3, 4] ∧ s.deadPkg 3 = false ∧ s.recalls = []) :=
  ⟨by decide +kernel, by decide +kernel, by decide, standsOf (by decide +kernel) rfl,
   by decide +kernel, by decide +kernel, rfl⟩

/-- Cell 5 has its record at 0x900_0100 and package 9 as its one member; cell 7 follows it, with package 11; the event ring stands
at 0x400_0000. -/
def sCells (l : List (Nat × Nat × Nat)) : State :=
  put (withRing sHome) ([(0x805_0020, 8, 0x900_0000), (0x900_0000, 4, 2 ^ 31 + 7), (0x900_0005, 1, 1), (0x900_0040, 3, 11), (0x900_0100, 4, 2 ^ 31 + 5),
    (0x900_0105, 1, 1), (0x900_0140, 3, 9)] ++ l)

theorem hwMid {s : State} {a n : Nat} (h : s.fcb = 0x805_0000 ∧ s.rdRaw (s.fcb + 72) 8 = 0 ∧ s.ctxtab.toNat = 0x800_0000)
    (ha : 2 ^ 24 ≤ a) (hn : a + n ≤ 0x800_0000) (hz : s.pkg = 0) (hg : s.tags = []) (hk : s.keyGen = []) : HwWritable s a n :=
  hwOf (fun k hk' => ⟨by
    show (pkgOf (a + k) == s.pkg) = true
    rw [hz, show pkgOf (a + k) = (a + k) / 2 ^ 41 from rfl, Nat.div_eq_of_lt (by omega)]; rfl, by rw [h.1]; omega, by rw [h.2.1]; omega, by rw [h.2.2]; omega⟩) hg hk

theorem eventOpenHome {s : State}
    (h : (s.fcb = 0x805_0000 ∧ s.rdRaw (s.fcb + 72) 8 = 0 ∧ s.ctxtab.toNat = 0x800_0000) ∧ s.mem.wf = true ∧
      eventRing s = 0x400_0000 ∧ eventNote s = 0x420_0000 ∧ eventSlot s = 0x400_0040 ∧ s.rd 0x400_0000 8 - s.rd 0x400_0008 8 < 256 ∧
      s.here 0x420_0000 = true ∧ s.frozen 0x420_0000 = false ∧ s.poisoned 0x420_0000 = false)
    (hz : s.pkg = 0) (hg : s.tags = []) (hk : s.keyGen = []) (hr : ∀ r ∈ s.recalls, r.line ≠ 0x420_0000)
    (hd : ∀ e ∈ s.dir, e.line ≠ 0x420_0000) (ht : s.triggers = []) (ha : s.adds = []) (hq : ∀ r ∈ s.reqs, r.purpose ≠ .notify) : EventOpen s :=
  eventOpen h.2 (fun _ _ ha hn => hwMid h.1 ha hn hz hg hk) hr hd ht (by simp [ha]) hq

theorem recordOpen {s : State} (cell a : Nat) (h : s.cellRec cell = some a ∧ s.fcb = 0x805_0000 ∧ eventRing s = 0x400_0000 ∧ eventNote s = 0x420_0000 ∧
      eventSlot s = 0x400_0040 ∧ s.rd (s.fcb + 32) 8 = 0x900_0000) (ha : 0x900_0000 ≤ a) (hw : HwWritable s (a + 4) 1) : RecordOpen s cell a := by
  obtain ⟨h1, h2, h3, h4, h5, h6⟩ := h
  rw [h2] at h6
  refine ⟨h1, hw, ?_, ?_, ?_, fun _ => ?_, ⟨?_, ?_, fun _ => ?_⟩, ?_, ?_, fun _ => ?_⟩ <;> simp only [h2, h3, h4, h5, h6, Apart] <;> omega

theorem apartCells {s : State} (h : s.fcb = 0x805_0000 ∧ eventRing s = 0x400_0000 ∧ eventNote s = 0x420_0000 ∧
      eventSlot s = 0x400_0040 ∧ s.rd (s.fcb + 32) 8 = 0x900_0000) : ApartFromCells s (s.fcb + 56) 8 := by
  obtain ⟨h2, h3, h4, h5, h6⟩ := h
  rw [h2] at h6
  refine ⟨?_, ?_, ?_, fun _ => ?_⟩ <;> simp only [h2, h3, h4, h5, h6, Apart] <;> omega

/-- CELLCMD names cell 5 dead. -/
def sDying : State := sCells [(0x805_0038, 8, 2 ^ 24 + 5)]
theorem dyingOpen : DeclareOpen sDying 5 :=
  ⟨quietOf (by decide +kernel) rfl rfl, by simp [sDying, sCells, put, withRing, withMem, sHome, sI, State.reset],
   eventOpenHome (by decide +kernel) rfl rfl rfl (by decide) (by decide) rfl rfl (by decide)⟩
theorem wit_cell_dead : sDying.power ≠ .off ∧ sDying.cellTaken = false ∧ sDying.cellEvent (cellWord sDying) = .cellDeadCommand ∧
    cellWord sDying % 2 ^ 21 = 5 ∧ BitVec.ofNat 21 5 ∉ sDying.dead ∧ DeclareOpen sDying 5 ∧ RecordOpen sDying 5 0x900_0100 ∧ sDying.recalls = [] ∧
    HwWritable sDying (sDying.fcb + 56) 8 ∧ ApartFromCells sDying (sDying.fcb + 56) 8 :=
  ⟨by decide, by decide, by decide +kernel, by decide +kernel, by decide, dyingOpen,
   recordOpen _ _ (by decide +kernel) (by decide) (hwOf (by decide +kernel) rfl rfl), rfl, hwOf (by decide +kernel) rfl rfl, apartCells (by decide +kernel)⟩

/-- A cell that is dead already, whose recovery is over. -/
theorem wit_cell_twice : (let s : State := { sDying with dead := [5#21] }
    s.cellTaken = false ∧ s.cellEvent (cellWord s) = .cellDeadCommand ∧ BitVec.ofNat 21 (cellWord s) ∈ s.dead ∧
    BitVec.ofNat 21 (cellWord s) ∉ s.recovering) := by decide +kernel

/-- Package 9 owns a line, modified, and does not answer its recall. -/
def sSilent : State :=
  { sCells [] with recalls := [⟨2 ^ 40, .all, [9]⟩], dir := [⟨2 ^ 40, .m, some 9, [], false, false⟩] }
theorem wit_recall_timeout : sSilent.power ≠ .off ∧ sSilent.recalls = [⟨2 ^ 40, .all, [(9#21).toNat]⟩] ∧ sSilent.cellOf (9#21).toNat = some 5 ∧
    (9#21).toNat ∈ sSilent.members 5 ∧ 5 ≠ sSilent.rd sSilent.fcb 4 % 2 ^ 21 ∧ BitVec.ofNat 21 5 ∉ sSilent.dead ∧ DeclareOpen sSilent 5 ∧
    RecordOpen sSilent 5 0x900_0100 ∧ (sSilent.dir.filter fun x => x.line = 2 ^ 40) = [⟨2 ^ 40, .m, some 9, [], false, false⟩] :=
  ⟨by decide, rfl, by decide +kernel, by decide +kernel, by decide +kernel, by decide,
   ⟨quietOf (by decide +kernel) rfl rfl, by simp [sSilent, sCells, put, withRing, withMem, sHome, sI, State.reset],
    eventOpenHome (by decide +kernel) rfl rfl rfl (by decide) (by decide) rfl rfl (by decide)⟩,
   recordOpen _ _ (by decide +kernel) (by decide) (hwOf (by decide +kernel) rfl rfl), by decide +kernel⟩
/-- Package 11, where cell 7 is this package's own. -/
theorem wit_recall_own : (put (sCells []) [(0x805_0000, 4, 7)]).cellOf (11#21).toNat =
    some ((put (sCells []) [(0x805_0000, 4, 7)]).rd (put (sCells []) [(0x805_0000, 4, 7)]).fcb 4 % 2 ^ 21) := by decide +kernel
/-- A live command for a dead cell, which has left entries and records here. -/
theorem wit_cell_live : (let s : State := { sCells [(0x805_0038, 8, 2 ^ 25 + 5)] with dead := [5#21], flowsOut := [⟨3#16, 9, 1#16⟩] }
    s.cellEvent (cellWord s) = .cellLiveCommand ∧ s.cellTaken = false ∧ s.dir = [] ∧ Canonical s ∧ s.cellRec 5 = some 0x900_0100 ∧
    HwWritable s (0x900_0100 + 4) 1 ∧ Apart (0x900_0100 + 4) 1 (s.fcb + 56) 8 ∧ BitVec.ofNat 21 (cellWord s) = 5#21 ∧ s.members 5 = [9] ∧
    s.deadPkg 9 = true) :=
  ⟨by decide +kernel, by decide, rfl, by show _ = true; decide +kernel, by decide +kernel, hwOf (by decide +kernel) rfl rfl, .inr (by decide +kernel),
   by decide +kernel, by decide +kernel, by decide +kernel⟩

/-- The recovery of cell 5: package 9 owned one line alone, another with readers, a third in E; it and package 11 read a fourth, it
alone a fifth, and package 11 owns a sixth. CELLCMD shows bit 63. -/
def sRecovery : State :=
  { sCells [(0x805_0038, 8, 2 ^ 63 + 2 ^ 24 + 5)] with
    dead := [5#21], recovering := [5#21], cellTaken := true
    dir := [⟨2 ^ 40, .m, some 9, [], false, false⟩, ⟨2 ^ 40 + 128, .o, some 9, [9, 11], false, false⟩, ⟨2 ^ 40 + 256, .e, some 9, [], false, false⟩,
      ⟨2 ^ 40 + 384, .s, none, [9, 11], false, false⟩, ⟨2 ^ 40 + 512, .s, none, [9], false, false⟩, ⟨2 ^ 40 + 640, .m, some 11, [], false, false⟩,
      ⟨2 ^ 40 + 768, .s, none, [5, 7], true, false⟩, ⟨2 ^ 40 + 896, .s, none, [5], true, false⟩] }
theorem wit_recovery : sRecovery.power ≠ .off ∧ 5#21 ∈ sRecovery.recovering ∧ HomesQuiet sRecovery ∧ sRecovery.recalls = [] ∧
    (sRecovery.dir.map (·.line)).Nodup ∧ Canonical sRecovery ∧ HwWritable sRecovery (sRecovery.fcb + 56) 8 ∧
    Apart (sRecovery.fcb + 56) 8 (sRecovery.rd (sRecovery.fcb + 32) 8) (256 * 4096) ∧ sRecovery.deadPkg 9 = true ∧ sRecovery.deadPkg 11 = false ∧
    cellWord sRecovery % 2 ^ 21 = 5 ∧ 2 ^ 63 ≤ cellWord sRecovery :=
  ⟨by decide, by decide, quietOf (by decide +kernel) rfl rfl, rfl, by decide, by show _ = true; decide +kernel, hwOf (by decide +kernel) rfl rfl,
   .inl (by decide +kernel), by decide +kernel, by decide +kernel, by decide +kernel, by decide +kernel⟩

/-! ### Packets, timers, links -/

/-- A host's read, a compare-and-swap of each size, and an addition that leaves a counter with a trigger at 0. -/
theorem wit_packet_more : (∀ p ∈ [{ pkt 0x01#8 0#8 0x80#8 with flow := 0xC000#16 }, { pkt 0x03#8 0x10#8 0#8 with size := 3#8, payload := List.replicate 8 1#8 },
      { pkt 0x03#8 0x10#8 0#8 with size := 3#8, payload := List.replicate 16 1#8 }, { pkt 0x03#8 0x10#8 0#8 with size := 3#8, payload := List.replicate 32 1#8 },
      { pkt 0x03#8 0x20#8 0x80#8 with payload := toBytes 8 1 ++ List.replicate 120 0#8 }],
    (sHome.power = .running ∧ p.typ = p.typ ∧ sHome.badPacket p = false ∧ sHome.joined = true) ∧
      sHome.flowOf p = ⟨p.src.toNat, p.flow, p.seq, none, []⟩ ∧ sHome.mayWrite p.pa p.cell = true) ∧
    (let s : State := { withMem sHome (2 ^ 40) 8 (2 ^ 64 - 1) with triggers := [{ trig0 with addr := 2 ^ 40 }] }
     CounterOpen s (2 ^ 40) ∧ Servable s (2 ^ 40) 8 ∧
     (numAt s (2 ^ 40) 8 + ({ pkt 0x03#8 0x20#8 0x80#8 with payload := toBytes 8 1 ++ List.replicate 120 0#8 } : Packet).field 0 8) % 2 ^ 64 = 0) ∧
    CounterOpen sHome (2 ^ 40 + 8) ∧ sHome.reqs = [] :=
  ⟨by decide +kernel,
   ⟨counterOpen (by decide +kernel) (hwOf (by decide +kernel) rfl rfl) rfl rfl (by decide +kernel), servableOf (by decide +kernel) rfl (by decide) rfl rfl rfl rfl rfl,
    by decide +kernel⟩,
   counterOpen (by decide +kernel) (hwOf (by decide +kernel) rfl rfl) rfl rfl (by decide), rfl⟩

/-- An unknown type; what a dead cell still sends; a package that has not joined; a request whose record is here. -/
theorem wit_turned_away : (∀ ty ∈ [0x00#8, 0x10#8], sHome.badPacket (pkt ty 0#8 0#8) = true ∧ (pkt ty 0#8 0#8).typ ≠ 0x01#8 ∧
      ArrivalOf (pkt ty 0#8 0#8) (.rd (pkt ty 0#8 0#8)) 0x01#8) ∧
    (∀ ty ∈ [0x07#8, 0x0A#8, 0x0C#8], ({ sHome with dead := [0#21] } : State).fromDead (pkt ty 0#8 0#8) = true ∧
      ({ sHome with dead := [0#21] } : State).badPacket (pkt ty 0#8 0#8) = false) ∧
    (({ sHome with joined := false } : State).badPacket (pkt 0x02#8 17#8 0#8) = false ∧ ({ sHome with joined := false } : State).joined = false) ∧
    (let p : Packet := { pkt 0x02#8 17#8 0#8 with src := 8#24 }
     ((replied 1).replies.find? fun x => x.src == p.src.toNat && x.flow == p.flow && x.tag == p.tag && recordHome x.req == recordHome p &&
       (p.typ != 0x04#8 || Packet.field x.req 0 8 == p.field 0 8)).isSome = true) :=
  ⟨fun ty h => ⟨by revert ty h; decide +kernel, by revert ty h; decide, List.mem_cons_self⟩, by decide +kernel, by decide +kernel, by decide +kernel⟩

/-- A recall that meets a request for the line under way; the answer to a request whose line was given up. -/
theorem wit_crossing : (let s : State := { sHolds .m with reqs := [req0 (.own far) .sent 0x01#8] }
    Arrives s 0x06#8 (pktFar 0x06#8 0#8 0#8) ∧ s.llcState far = some .m ∧ (∀ e ∈ s.posted, e.pair = false) ∧
    (∀ r ∈ s.reqs, r.purpose ≠ .writeback far) ∧ ∃ r ∈ s.reqs, AsksFor r far = true) ∧
    (let r : Req := { req0 (.own far) .sent 0x01#8 with void := true }
     Arrives (sAsked r) 0x08#8 (pktFar 0x08#8 0#8 0#8) ∧ AnsweredBy (sAsked r) r (pktFar 0x08#8 0#8 0#8) ∧ Idling (sAsked r) ∧ r.passers = []) :=
  ⟨⟨arrivesOf (by decide +kernel) rfl, by decide +kernel, by decide, by decide +kernel, _, List.mem_cons_self, by decide +kernel⟩,
   arrivesOf (by decide +kernel) rfl, ⟨outstanding _ rfl, rfl, rfl⟩, idling ⟨rfl, rfl⟩ (quietAsked _ (by simp [req0])), rfl⟩

/-- A retry after a moved status; the timeouts of a prefetch and of a fill. -/
theorem wit_timers_more : (∃ r : Req, r.retried = true ∧ Outstanding (sAsked r) r ∧ r.phase = .sent) ∧
    ∀ u ∈ [Purpose.prefetch far none, .fill far], (let r : Req := req0 u .sent 0x01#8
      Outstanding (sAsked r) r ∧ HomesQuiet (sAsked r) ∧ r.retried = false ∧ r.pkt.typ = 0x01#8 ∧ r.pkt.op ≠ 1#8) :=
  ⟨⟨{ laneReq .sent 0x03#8 0#8 4#32 with retried := true }, rfl, outstanding _ rfl, rfl⟩,
   fun u _ => ⟨outstanding _ rfl, quietAsked _ (by simp [req0]), rfl, rfl, (by decide : (0#8 : BitVec 8) ≠ 1#8)⟩⟩

/-- The ABORT of an atomic for package 9 of cell 5 is not answered either. -/
def reqNine : Req := { req0 (.lane ⟨1, 0⟩ 1 0) .aborting 0x03#8 with pkt := { pktFar 0x03#8 0#8 0#8 with dst := 9#24 } }
def sAborting : State := { sCells [] with reqs := [reqNine] }
theorem wit_abort_event : Outstanding sAborting reqNine ∧ reqNine.phase = .aborting ∧ HomesQuiet sAborting ∧ EventOpen sAborting ∧
    sAborting.cellOf reqNine.pkt.dst.toNat = some 5 :=
  ⟨⟨List.mem_cons_self, rfl, fun _ hq _ => List.mem_singleton.1 hq⟩, rfl, quietOf (by decide +kernel) rfl rfl,
    eventOpenHome (by decide +kernel) rfl rfl rfl (by decide) (by decide) rfl rfl (by decide), by decide +kernel⟩

/-- The events of R364 at this package: every spare row of a bank and every spare core of a die in use; a copy word and a registered
word of core 0 that go bad. -/
def sWearing : State :=
  { withRing sI with
    rowStates := [⟨row0, 7, none, none⟩], spares := { Spares.none with rows := List.replicate 8 (0, 0), cores := [0, 1, 2, 3] }
    l1 := [⟨0, 2 ^ 38, 7#32, false, false⟩, ⟨0, 2 ^ 38 + 1, 7#32, true, false⟩] }
theorem wit_events : sWearing.power ≠ .off ∧ EventOpen sWearing ∧ row0.stack < 8 ∧ min 8 ((sWearing.rowOf row0).count - 1 + 2) = 8 ∧
    (sWearing.rowOf row0).copying = none ∧ 8 ≤ (sWearing.spares.rows.filter fun y => y = (row0.stack, row0.bank)).length ∧
    (∃ x, sWearing.l1Word 0 (2 ^ 38) = some x ∧ x.reg = false) ∧ (∃ x, sWearing.l1Word 0 (2 ^ 38 + 1) = some x ∧ x.reg = true) ∧
    lineOf (eventNote sWearing) ≠ lineOf (2 ^ 40) ∧ (sWearing.spares.cores.filter fun c => c / 48 = 5 / 48).length = 4 ∧
    (∃ x ∈ sWearing.teams, x.tid = 1) ∧ (sWearing.rowOf row0).count - 1 + 1 < 8 ∧ ∀ e ∈ sWearing.posted, e.pair = false :=
  ⟨by decide, eventOpenLow (by decide +kernel) rfl rfl rfl rfl rfl rfl rfl rfl, by decide, by decide +kernel, by decide +kernel, by decide +kernel,
   ⟨_, rfl, rfl⟩, ⟨_, rfl, rfl⟩, by decide +kernel, by decide +kernel, by decide, by decide +kernel, by decide⟩

end

end Sys2Proof.Tests
end

/-! ## Memory stays canonical (O58)

Memory changes through `State.retag`, `State.homeWrite` and `State.latchLine` only. One lemma per function that makes a
state says what it does to memory: `…_mem` where it leaves memory as it was, `…_wf` where it keeps a canonical memory
canonical. They stand in the order of the model's definitions, each used by the ones after it. -/

namespace Sys2Proof.Machine

/-! ### The state in the answer of a shared operation -/

def Ready.state : Ready → State
  | .yes s | .wait s | .fail s _ => s

def Walked.state : Walked → State
  | .leaf s _ | .absent s | .wait s _ => s

def Fetched.state : Fetched → State
  | .word s _ | .fault s _ _ | .wait s => s

def Tried.state : Tried → State
  | .done s | .wait s | .fail s _ _ _ => s

def Got.state : Got → State
  | .bytes s _ | .wait s | .fail s _ _ _ => s

def Frames.state : Frames → State
  | .ok s _ | .bad s _ _ | .wait s _ => s

def ChainRes.state : ChainRes → State
  | .data s _ => s
  | .stop t _ _ => t.state

def LaunchTry.state : LaunchTry → State
  | .status s _ | .fault s _ | .late s _ _ _ | .wait s | .checked s _ | .registering s => s

def ShapeTry.state : ShapeTry → State
  | .ok s _ | .bad s _ _ _ | .wait s => s

def Copied.state : Copied → State
  | .went s _ | .stands s _ => s

def Served.state : Served → State
  | .done s _ _ | .wait s | .busy s | .pass s => s

def HostTry.state : HostTry → State
  | .done s _ _ | .wait s => s

@[simp] theorem Ready.state_yes (s : State) : (Ready.yes s).state = s := rfl
@[simp] theorem Ready.state_wait (s : State) : (Ready.wait s).state = s := rfl
@[simp] theorem Ready.state_fail (s : State) (n) : (Ready.fail s n).state = s := rfl

@[simp] theorem Xlated.state_ok (s : State) (pa) : (Xlated.ok s pa).state = s := rfl
@[simp] theorem Xlated.state_notPresent (s : State) : (Xlated.notPresent s).state = s := rfl
@[simp] theorem Xlated.state_permission (s : State) : (Xlated.permission s).state = s := rfl
@[simp] theorem Xlated.state_wait (s : State) (line) : (Xlated.wait s line).state = s := rfl

@[simp] theorem Walked.state_leaf (s : State) (l) : (Walked.leaf s l).state = s := rfl
@[simp] theorem Walked.state_absent (s : State) : (Walked.absent s).state = s := rfl
@[simp] theorem Walked.state_wait (s : State) (line) : (Walked.wait s line).state = s := rfl

@[simp] theorem Fetched.state_word (s : State) (w) : (Fetched.word s w).state = s := rfl
@[simp] theorem Fetched.state_fault (s : State) (code va) : (Fetched.fault s code va).state = s := rfl
@[simp] theorem Fetched.state_wait (s : State) : (Fetched.wait s).state = s := rfl

@[simp] theorem Tried.state_done (s : State) : (Tried.done s).state = s := rfl
@[simp] theorem Tried.state_wait (s : State) : (Tried.wait s).state = s := rfl
@[simp] theorem Tried.state_fail (s : State) (code addr detail) : (Tried.fail s code addr detail).state = s := rfl

@[simp] theorem Got.state_bytes (s : State) (bs) : (Got.bytes s bs).state = s := rfl
@[simp] theorem Got.state_wait (s : State) : (Got.wait s).state = s := rfl
@[simp] theorem Got.state_fail (s : State) (code addr detail) : (Got.fail s code addr detail).state = s := rfl

@[simp] theorem Frames.state_ok (s : State) (fs) : (Frames.ok s fs).state = s := rfl
@[simp] theorem Frames.state_bad (s : State) (code va) : (Frames.bad s code va).state = s := rfl
@[simp] theorem Frames.state_wait (s : State) (va) : (Frames.wait s va).state = s := rfl

@[simp] theorem LaunchTry.state_status (s : State) (n) : (LaunchTry.status s n).state = s := rfl
@[simp] theorem LaunchTry.state_fault (s : State) (cs) : (LaunchTry.fault s cs).state = s := rfl
@[simp] theorem LaunchTry.state_late (s : State) (code addr detail) : (LaunchTry.late s code addr detail).state = s
    := rfl
@[simp] theorem LaunchTry.state_wait (s : State) : (LaunchTry.wait s).state = s := rfl
@[simp] theorem LaunchTry.state_checked (s : State) (bs) : (LaunchTry.checked s bs).state = s := rfl
@[simp] theorem LaunchTry.state_registering (s : State) : (LaunchTry.registering s).state = s := rfl

@[simp] theorem ShapeTry.state_ok (s : State) (x) : (ShapeTry.ok s x).state = s := rfl
@[simp] theorem ShapeTry.state_bad (s : State) (code addr detail) : (ShapeTry.bad s code addr detail).state = s := rfl
@[simp] theorem ShapeTry.state_wait (s : State) : (ShapeTry.wait s).state = s := rfl

@[simp] theorem Copied.state_went (s : State) (c) : (Copied.went s c).state = s := rfl
@[simp] theorem Copied.state_stands (s : State) (c) : (Copied.stands s c).state = s := rfl

@[simp] theorem Served.state_done (s : State) (st data) : (Served.done s st data).state = s := rfl
@[simp] theorem Served.state_wait (s : State) : (Served.wait s).state = s := rfl
@[simp] theorem Served.state_busy (s : State) : (Served.busy s).state = s := rfl
@[simp] theorem Served.state_pass (s : State) : (Served.pass s).state = s := rfl

@[simp] theorem HostTry.state_done (s : State) (st data) : (HostTry.done s st data).state = s := rfl
@[simp] theorem HostTry.state_wait (s : State) : (HostTry.wait s).state = s := rfl

@[simp] theorem ChainRes.state_data (s : State) (bs) : (ChainRes.data s bs).state = s := rfl
@[simp] theorem ChainRes.state_stop (t : Tried) (k p) : (ChainRes.stop t k p).state = t.state := rfl

/-! ### Folds and choices -/

@[simp] theorem State.ite_mem {c : Prop} [Decidable c] (a b : State) :
    (if c then a else b).mem = if c then a.mem else b.mem := apply_ite State.mem c a b

@[simp] theorem Tried.ite_state {c : Prop} [Decidable c] (a b : Tried) :
    (if c then a else b).state = if c then a.state else b.state := apply_ite Tried.state c a b

@[simp] theorem Memory.ite_wf {c : Prop} [Decidable c] {a b : Memory} (ha : a.wf = true) (hb : b.wf = true) :
    (if c then a else b).wf = true := by split <;> assumption

@[simp] theorem State.foldl_mem {α : Type} (f : State → α → State)
    (hf : ∀ s x, (f s x).mem = s.mem) (l : List α) (s : State) :
    (l.foldl f s).mem = s.mem := by
  induction l generalizing s with
  | nil => rfl
  | cons x r ih => rw [List.foldl_cons, ih, hf]

@[simp] theorem State.foldl_wf {α : Type} (f : State → α → State) (hf : ∀ s x, s.mem.wf = true → (f s x).mem.wf = true)
    (l : List α) (s : State) (hs : s.mem.wf = true) : (l.foldl f s).mem.wf = true := by
  induction l generalizing s with
  | nil => exact hs
  | cons x r ih => exact ih _ (hf s x hs)

theorem foldl_fst_mem {α β : Type} (f : State × β → α → State × β) (hf : ∀ x a, (f x a).1.mem = x.1.mem) (l : List α)
    (x : State × β) : (l.foldl f x).1.mem = x.1.mem := by
  induction l generalizing x with
  | nil => rfl
  | cons a r ih => rw [List.foldl_cons, ih, hf]

theorem foldl_fst_wf {α β : Type} (f : State × β → α → State × β)
    (hf : ∀ x a, x.1.mem.wf = true → (f x a).1.mem.wf = true) (l : List α) (x : State × β) (hx : x.1.mem.wf = true) :
    (l.foldl f x).1.mem.wf = true := by
  induction l generalizing x with
  | nil => exact hx
  | cons a r ih => exact ih _ (hf x a hx)

/-! ### Access -/

@[simp] theorem State.readDesc_mem (s : State) (ctx) : (s.readDesc ctx).mem = s.mem := rfl

@[simp] theorem State.dropWords_mem (s : State) (own ws) : (s.dropWords own ws).mem = s.mem := rfl

@[simp] theorem State.clearPoison_mem (s : State) (lines) : (s.clearPoison lines).mem = s.mem := rfl

@[simp] theorem State.lineWrite_wf (s : State) (line data) (hs : s.mem.wf = true) :
    (s.lineWrite line data).mem.wf = true := by
  grind [State.lineWrite, State.homeWrite_wf]

@[simp] theorem State.latchLine_wf (s : State) (line) (hs : s.mem.wf = true) : (s.latchLine line).mem.wf = true := by
  unfold State.latchLine
  split
  · exact hs
  · simp only
    exact Memory.wf_putCells _ _ (State.retag_wf s line hs)

@[simp] theorem State.send_mem (s : State) (p) : (s.send p).mem = s.mem := by
  simp [State.send]

@[simp] theorem State.nextSeq_mem (s : State) (flow dst) : (s.nextSeq flow dst).2.mem = s.mem := by
  unfold State.nextSeq
  split <;> simp

@[simp] theorem State.asRetry_mem (s : State) (t : State) : (s.asRetry t).mem = s.mem := rfl

@[simp] theorem State.request_mem (s : State) (p purpose strong) : (s.request p purpose strong).mem = s.mem := by
  unfold State.request
  split <;> simp

@[simp] theorem State.unhold_mem (s : State) (r) : (s.unhold r).mem = s.mem := by
  simp [State.unhold]

@[simp] theorem State.sendHeld_mem (s : State) : s.sendHeld.mem = s.mem := by
  simp [State.sendHeld]

@[simp] theorem State.wantLine_mem (s : State) (fl ctx flow line own) :
    (s.wantLine fl ctx flow line own).state.mem = s.mem := by
  unfold State.wantLine
  dsimp only
  repeat' split
  all_goals simp

@[simp] theorem State.coh_mem (s : State) (line h op) : (s.coh line h op).mem = s.mem := by
  simp [State.coh]

@[simp] theorem State.putDir_mem (s : State) (e) : (s.putDir e).mem = s.mem := rfl

@[simp] theorem State.dropDir_mem (s : State) (line) : (s.dropDir line).mem = s.mem := rfl

@[simp] theorem State.recall_mem (s : State) (line e hds kind) : (s.recall line e hds kind).mem = s.mem := by
  simp [State.recall]

@[simp] theorem State.resolveDead_mem (s : State) (line) : (s.resolveDead line).mem = s.mem := by
  unfold State.resolveDead
  dsimp only
  repeat' split
  all_goals simp

@[simp] theorem State.readyAs_mem (s : State) (fl wide ctx flow line write) :
    (s.readyAs fl wide ctx flow line write).state.mem = s.mem := by
  grind [State.readyAs, State.dropDir_mem, State.putDir_mem, State.recall_mem, State.resolveDead_mem,
    State.wantLine_mem, Ready.state]

@[simp] theorem State.readyAt_mem (s : State) (wide ctx flow line write) :
    (s.readyAt wide ctx flow line write).state.mem = s.mem := by
  grind [State.readyAt, State.readyAs_mem, Ready.state]

@[simp] theorem State.reask_mem (s : State) (fl ctx flow line write) : (s.reask fl ctx flow line write).mem = s.mem
    := by
  grind [State.reask, State.asRetry_mem, State.readyAs_mem, Ready.state]

@[simp] theorem State.readyLine_mem (s : State) (ctx flow line write) :
    (s.readyLine ctx flow line write).state.mem = s.mem := by
  grind [State.readyLine, State.readyAt_mem, Ready.state]

@[simp] theorem State.readyLines_mem (s : State) (ctx flow) (ls : List Nat) :
    (s.readyLines ctx flow ls).state.mem = s.mem := by
  induction ls generalizing s with
  | nil => rfl
  | cons l r ih => grind [State.readyLines, State.readyLine_mem, State.reask_mem, Ready.state]

@[simp] theorem State.roomL1_mem (s : State) (core line) : (s.roomL1 core line).mem = s.mem := by
  simp [State.roomL1]

@[simp] theorem State.fill_mem (s : State) (core pa) : (s.fill core pa).mem = s.mem := by
  simp [State.fill]

@[simp] theorem State.dropCopies_mem (s : State) (core ws) : (s.dropCopies core ws).mem = s.mem := rfl

@[simp] theorem State.refresh_mem (s : State) (core pa n) : (s.refresh core pa n).mem = s.mem := by
  simp [State.refresh]

@[simp] theorem State.selfInvalidate_mem (s : State) (core) : (s.selfInvalidate core).mem = s.mem := rfl

@[simp] theorem State.register_mem (s : State) (core ws) : (s.register core ws).mem = s.mem := by
  simp [State.register]

@[simp] theorem State.landPosted_wf (s : State) (e) (hs : s.mem.wf = true) : (s.landPosted e).mem.wf = true := by
  grind [State.landPosted, State.clearPoison_mem, State.homeWrite_wf, State.register_mem]

@[simp] theorem State.finishPairs_wf (s : State) (line)
    (hs : s.mem.wf = true) : (s.finishPairs line).mem.wf = true := by
  simp +contextual [State.finishPairs, hs]

@[simp] theorem State.performPosted_wf (s : State) (e) (hs : s.mem.wf = true) :
    (s.performPosted e).state.mem.wf = true := by
  grind [State.performPosted, State.asRetry_mem, State.landPosted_wf, State.readyAs_mem, Ready.state]

@[simp] theorem State.drainList_wf (s : State) (ids : List Nat) (hs : s.mem.wf = true) :
    (s.drainList ids).1.mem.wf = true := by
  induction ids generalizing s with
  | nil => exact hs
  | cons k r ih => grind [State.drainList, State.performPosted_wf, Ready.state]

@[simp] theorem State.drainCore_wf (s : State) (core) (hs : s.mem.wf = true) : (s.drainCore core).1.mem.wf = true := by
  simp [State.drainCore, hs]

@[simp] theorem State.drainBytes_wf (s : State) (core pa n) (hs : s.mem.wf = true) :
    (s.drainBytes core pa n).1.mem.wf = true := by
  unfold State.drainBytes
  dsimp only
  repeat' split
  all_goals simp [hs]

/-! ### Xlate -/

@[simp] theorem State.entry_mem (s : State) (die ctx a) (f : State → Nat → Walked)
    (hf : ∀ s x0, (f s x0).state.mem = s.mem) :
    (s.entry die ctx a f).state.mem = s.mem := by
  grind [State.entry, State.readyAs_mem, State.reask_mem, Ready.state, Walked.state]

@[simp] theorem State.takeLeaf_mem (s : State) (die ctx va lvl a e) :
    (s.takeLeaf die ctx va lvl a e).state.mem = s.mem := by
  grind [State.takeLeaf, State.entry_mem, Walked.state]

@[simp] theorem State.ptrAdd_mem (s : State) (p) : (s.ptrAdd p).mem = s.mem := by
  simp [State.ptrAdd]

@[simp] theorem State.walk_mem (die : Nat) (ctx : BitVec 10) (va lvl : Nat) (s : State) (table : Nat) :
    (State.walk die ctx va lvl s table).state.mem = s.mem := by
  induction lvl generalizing s table with
  | zero => unfold State.walk; exact s.entry_mem die ctx _ _ fun s e => s.takeLeaf_mem ..
  | succ lvl ih =>
    unfold State.walk
    split
    · exact ih s _
    · refine s.entry_mem die ctx _ _ fun s e => ?_
      split
      · split
        · rw [ih]; split <;> simp
        · rfl
      · exact s.takeLeaf_mem ..

@[simp] theorem State.tlbPut_mem (s : State) (l x) : (s.tlbPut l x).mem = s.mem := by
  simp [State.tlbPut]

@[simp] theorem State.tlbAdd_mem (s : State) (sites l) : (s.tlbAdd sites l).mem = s.mem := by
  simp [State.tlbAdd]

@[simp] theorem State.useLeaf_mem (s : State) (l va a) : (s.useLeaf l va a).state.mem = s.mem := by
  grind [State.useLeaf, Xlated.state]

@[simp] theorem State.translateAt_mem (s : State) (sites die ctx va a) :
    (s.translateAt sites die ctx va a).state.mem = s.mem := by
  grind [State.translateAt, State.walk_mem, State.tlbAdd_mem, State.useLeaf_mem, Walked.state, Xlated.state]

@[simp] theorem State.translate_mem (s : State) (core ctx va a) : (s.translate core ctx va a).state.mem = s.mem := by
  simp [State.translate]

@[simp] theorem State.translateHome_mem (s : State) (die ctx va a)
    : (s.translateHome die ctx va a).state.mem = s.mem := by
  simp [State.translateHome]

@[simp] theorem State.translateEngine_mem (s : State) (core ctx va a) :
    (s.translateEngine core ctx va a).state.mem = s.mem := by
  simp [State.translateEngine]

@[simp] theorem State.invalRange_mem (s : State) (ctx lo len) : (s.invalRange ctx lo len).mem = s.mem := rfl

@[simp] theorem State.invalCtx_mem (s : State) (ctx) : (s.invalCtx ctx).mem = s.mem := rfl

@[simp] theorem State.dropVa_mem (s : State) (core ctx va) : (s.dropVa core ctx va).mem = s.mem := rfl

@[simp] theorem State.invalFrames_mem (s : State) (lo len) : (s.invalFrames lo len).mem = s.mem := rfl

@[simp] theorem Xlated.reask_mem (x : Xlated) (fl ctx flow write) : (x.reask fl ctx flow write).mem = x.state.mem := by
  cases x <;> simp [Xlated.reask, Xlated.state]

/-! ### Ops -/

@[simp] theorem State.storeFocus_mem (s : State) : s.storeFocus.mem = s.mem := rfl

@[simp] theorem State.loadFocus_mem (s : State) (r) : ∀ t, (s.loadFocus r) = some t → t.mem = s.mem := by
  unfold State.loadFocus
  split <;> simp

@[simp] theorem State.reload_mem (s : State) : s.reload.mem = s.mem := by
  unfold State.reload
  cases h : s.loadFocus ⟨s.t.tid, s.g.id⟩ with
  | none => rfl
  | some t => exact s.loadFocus_mem _ t h

@[simp] theorem State.mapGroups_mem (s : State) (f) : (s.mapGroups f).mem = s.mem := by
  simp [State.mapGroups]

@[simp] theorem State.withGroup_wf (s : State) (r) (f : State → State) (hs : s.mem.wf = true)
    (hf : ∀ s, s.mem.wf = true → (f s).mem.wf = true) :
    (s.withGroup r f).mem.wf = true := by
  grind [State.withGroup, State.loadFocus_mem, State.noFocus_mem, State.storeFocus_mem]

@[simp] theorem State.fireGrid_mem (s : State) (gid) : (s.fireGrid gid).mem = s.mem := by
  unfold State.fireGrid
  split <;> simp

@[simp] theorem State.fireTrigger_mem (s : State) (t) : (s.fireTrigger t).mem = s.mem := by
  simp [State.fireTrigger]

@[simp] theorem State.fireAt_mem (s : State) (pa) : (s.fireAt pa).mem = s.mem := by
  simp [State.fireAt]

@[simp] theorem State.addHome_wf (s : State) (pa delta)
    (hs : s.mem.wf = true) : (s.addHome pa delta).mem.wf = true := by
  grind [State.addHome, State.fireAt_mem, State.hwWrite_wf]

@[simp] theorem State.makePhys_wf (s : State) (a) (hs : s.mem.wf = true) : (s.makePhys a).1.mem.wf = true := by
  grind [State.makePhys, State.addHome_wf, State.readyLine_mem, State.request_mem, Ready.state]

@[simp] theorem State.orHold_wf (s : State) (a) (r : State × Bool)
    (hr : r.1.mem.wf = true) : (s.orHold a r).mem.wf = true := by
  simp [State.orHold, hr]

@[simp] theorem State.addPhys_wf (s : State) (pa delta behind) (hs : s.mem.wf = true) :
    (s.addPhys pa delta behind).mem.wf = true := by
  simp [State.addPhys, hs]

@[simp] theorem State.event_wf (s : State) (cause b) (hs : s.mem.wf = true) : (s.event cause b).mem.wf = true := by
  grind [State.event, State.addPhys_wf, State.hwWrite_wf, State.wrN_wf, State.foldl_wf]

@[simp] theorem State.notMade_wf (s : State) (why ctx va) (hs : s.mem.wf = true) :
    (s.notMade why ctx va).mem.wf = true := by
  simp [State.notMade, hs]

@[simp] theorem State.makeVa_wf (s : State) (a) (hs : s.mem.wf = true) : (s.makeVa a).1.mem.wf = true := by
  grind [State.makeVa, State.addHome_wf, State.notMade_wf, State.readyLine_mem, State.request_mem,
    State.translateHome_mem, Ready.state, Xlated.state]

@[simp] theorem State.addVa_wf (s : State) (die ctx sc va delta) (hs : s.mem.wf = true) :
    (s.addVa die ctx sc va delta).mem.wf = true := by
  simp [State.addVa, hs]

@[simp] theorem State.retryAdd_wf (s : State) (a) (hs : s.mem.wf = true) : (s.retryAdd a).mem.wf = true := by
  unfold State.retryAdd
  split <;> simp [hs]

@[simp] theorem State.ensureArea_wf (s : State) (hs : s.mem.wf = true) : s.ensureArea.mem.wf = true := by
  unfold State.ensureArea
  cases s.t.area with
  | some a => exact hs
  | none =>
    cases s.allocArea (areaUnits s.t.groupCount s.t.rows) with
    | some a => simp [State.wrN_wf, hs]
    | none => exact State.wrN_wf _ _ _ _ (by exact hs)

@[simp] theorem State.raiseResume_wf (s : State) (n) (hs : s.mem.wf = true) : (s.raiseResume n).mem.wf = true := by
  grind [State.raiseResume, State.wrN_wf]

@[simp] theorem State.latchResume_mem (s : State) : s.latchResume.mem = s.mem := rfl

@[simp] theorem State.terminate_wf (s : State) (ctx) (hs : s.mem.wf = true) : (s.terminate ctx).mem.wf = true := by
  grind [State.terminate, State.addPoison_mem, State.wrN_wf]

@[simp] theorem State.notify_wf (s : State) (ctx) (hs : s.mem.wf = true) : (s.notify ctx).mem.wf = true := by
  simp [State.notify, hs]

@[simp] theorem State.handler_wf (s : State) (ctx) (hs : s.mem.wf = true) : (s.handler ctx).mem.wf = true := by
  simp [State.handler, hs]

@[simp] theorem State.askSave_mem (s : State) (c) : (s.askSave c).mem = s.mem := by
  unfold State.askSave
  split <;> simp

@[simp] theorem State.appendRecord_wf (s : State) (f resume) (hs : s.mem.wf = true) :
    (s.appendRecord f resume).mem.wf = true := by
  grind [State.appendRecord, State.hwWrite_wf, State.wrN_wf]

@[simp] theorem State.withQueue_wf (s : State) (f k) (go : State → State) (hs : s.mem.wf = true)
    (hgo : ∀ s, s.mem.wf = true → (go s).mem.wf = true) :
    (s.withQueue f k go).mem.wf = true := by
  grind [State.withQueue, State.readyLines_mem, State.setStatus_mem, Ready.state]

@[simp] theorem State.endContext_wf (s : State) (hs : s.mem.wf = true) : s.endContext.mem.wf = true := by
  simp [State.endContext, hs]

@[simp] theorem State.applyDisposition_wf (s : State) (f) (hs : s.mem.wf = true) :
    (s.applyDisposition f).mem.wf = true := by
  grind [State.applyDisposition, State.appendRecord_wf, State.askSave_mem, State.endContext_wf, State.ensureArea_wf,
    State.handler_wf, State.notify_wf, State.raiseResume_wf, State.setStatus_mem]

@[simp] theorem State.deliverRecord_wf (s : State) (f k)
    (hs : s.mem.wf = true) : (s.deliverRecord f k).mem.wf = true := by
  simp only [State.deliverRecord]
  repeat' split
  all_goals simp_all

@[simp] theorem State.firstRecord_wf (s : State) (f k) (go : State → State) (hs : s.mem.wf = true)
    (hgo : ∀ s, s.mem.wf = true → (go s).mem.wf = true) :
    (s.firstRecord f k go).mem.wf = true := by
  grind [State.firstRecord, State.appendRecord_wf, State.withQueue_wf]

@[simp] theorem State.enterMerge_wf (s : State) (f) (hs : s.mem.wf = true) : (s.enterMerge f).mem.wf = true := by
  simp only [State.enterMerge]
  repeat' split
  all_goals simp_all

@[simp] theorem State.deliver_wf (s : State) (f) (hs : s.mem.wf = true) : (s.deliver f).mem.wf = true := by
  simp [State.deliver, hs]

@[simp] theorem State.takeFault_wf (s : State) (f op) (hs : s.mem.wf = true) : (s.takeFault f op).mem.wf = true := by
  unfold State.takeFault
  repeat' split
  all_goals simp [hs]

@[simp] theorem State.passRest_mem (s : State) (reported) : (s.passRest reported).mem = s.mem := by
  simp [State.passRest]

@[simp] theorem State.stopFault_wf (s : State) (f) (hs : s.mem.wf = true) : (s.stopFault f).mem.wf = true := by
  simp [State.stopFault, hs]

@[simp] theorem State.issueFault_wf (s : State) (code lanes addr detail) (hs : s.mem.wf = true) :
    (s.issueFault code lanes addr detail).mem.wf = true := by
  grind [State.issueFault, State.commit_mem, State.passRest_mem, State.stopFault_wf]

@[simp] theorem State.checkFault_wf (s : State) (code lanes addr detail) (hs : s.mem.wf = true) :
    (s.checkFault code lanes addr detail).mem.wf = true := by
  grind [State.checkFault, State.issueFault_wf, State.setStatus_mem, State.translate_mem, Xlated.state]

@[simp] theorem State.illegal_wf (s : State) (hs : s.mem.wf = true) : s.illegal.mem.wf = true := by
  simp [State.illegal, hs]

@[simp] theorem State.laneFault_wf (s : State) (code lanes active detail) (hs : s.mem.wf = true) :
    (s.laneFault code lanes active detail).mem.wf = true := by
  simp [State.laneFault, hs]

@[simp] theorem State.registerFault_wf (s : State) (reg bad active) (hs : s.mem.wf = true) :
    (s.registerFault reg bad active).mem.wf = true := by
  simp [State.registerFault, hs]

@[simp] theorem State.registerStop_wf (s : State) (i act) (hs : s.mem.wf = true) :
    (s.registerStop i act).mem.wf = true := by
  grind [State.registerStop, State.commit_mem, State.passRest_mem, State.registerFault_wf]

@[simp] theorem State.resumeInPlace_mem (s : State) : s.resumeInPlace.mem = s.mem := rfl

/-! ### Issue -/

@[simp] theorem State.fetch_mem (s : State) (lpc) : (s.fetch lpc).state.mem = s.mem := by
  grind [State.fetch, State.translate_mem, State.readyLine_mem, State.dropVa_mem, Xlated.reask_mem, Fetched.state,
    Ready.state, Xlated.state]

@[simp] theorem State.recordLine_wf (s : State) (pa)
    (hs : s.mem.wf = true) : (s.recordLine pa).state.mem.wf = true := by
  grind [State.recordLine, State.drainBytes_wf, State.readyLine_mem, Ready.state]

@[simp] theorem State.recordMoved_mem (s : State) (rec_) : (s.recordMoved rec_).mem = s.mem := by
  simp [State.recordMoved]

@[simp] theorem State.ringReady_mem (s : State) (n) : (s.ringReady n).state.mem = s.mem := by
  grind [State.ringReady, State.readDesc_mem, State.readyLines_mem, Ready.state]

@[simp] theorem State.recordReady_wf (s : State) (i)
    (hs : s.mem.wf = true) : (s.recordReady i).state.mem.wf = true := by
  unfold State.recordReady
  split
  · simp [hs]
  · split
    · exact hs
    · split
      · exact hs
      · split <;> simp [hs]

@[simp] theorem State.fetchTrap_wf (s : State) (code va)
    (hs : s.mem.wf = true) : (s.fetchTrap code va).mem.wf = true := by
  simp [State.fetchTrap, hs]

@[simp] theorem State.errorEvent_wf (s : State) (hs : s.mem.wf = true) : s.errorEvent.mem.wf = true := by
  simp [State.errorEvent, hs]

@[simp] theorem State.spoil_wf (s : State) (r f) (hs : s.mem.wf = true) : (s.spoil r f).mem.wf = true := by
  simp_all [State.spoil]

@[simp] theorem State.spoilL1_wf (s : State) (core word)
    (hs : s.mem.wf = true) : (s.spoilL1 core word).mem.wf = true := by
  unfold State.spoilL1
  split <;> simp [hs]

@[simp] theorem State.evictLine_wf (s : State) (line) (hs : s.mem.wf = true) : (s.evictLine line).mem.wf = true := by
  unfold State.evictLine
  repeat' split
  all_goals simp [hs]

@[simp] theorem State.fitSlice_wf (die slice fuel : Nat) (s : State) (hs : s.mem.wf = true) :
    (State.fitSlice die slice fuel s).mem.wf = true := by
  induction fuel generalizing s with
  | zero => exact hs
  | succ fuel ih =>
    unfold State.fitSlice
    split
    · exact hs
    · exact ih _ (State.evictLine_wf s _ hs)

@[simp] theorem State.fitLlc_wf (s : State) (die slice)
    (hs : s.mem.wf = true) : (s.fitLlc die slice).mem.wf = true := by
  simp [State.fitLlc, hs]

/-! ### Scalar -/

@[simp] theorem State.privWrite_mem (s : State) (sel x) : (s.privWrite sel x).mem = s.mem := by
  unfold State.privWrite
  split <;> simp

/-! ### Inflight -/

@[simp] theorem State.spareFill_mem (s : State) (core pa) : (s.spareFill core pa).mem = s.mem := by
  grind [State.spareFill, State.fill_mem, State.readyAt_mem, Ready.state]

@[simp] theorem failStatus_mem (s : State) (status poison va home step) :
    (failStatus s status poison va home step).state.mem = s.mem := by
  unfold failStatus
  split <;> simp

@[simp] theorem State.withPa_wf (s : State) (va a step) (f : State → Nat → Tried) (hs : s.mem.wf = true)
    (hf : ∀ s x0, s.mem.wf = true → (f s x0).state.mem.wf = true) :
    (s.withPa va a step f).state.mem.wf = true := by
  grind [State.withPa, State.translate_mem, Tried.state, Xlated.state]

@[simp] theorem State.withLine_wf (s : State) (fl wide va pa write poison) (f : State → Tried)
    (hs : s.mem.wf = true) (hf : ∀ s, s.mem.wf = true → (f s).state.mem.wf = true) :
    (s.withLine fl wide va pa write poison f).state.mem.wf = true := by
  grind [State.withLine, State.readyAs_mem, failStatus_mem, Ready.state, Tried.state]

@[simp] theorem State.afterBytes_wf (s : State) (pa n) (f : State → Tried) (hs : s.mem.wf = true)
    (hf : ∀ s, s.mem.wf = true → (f s).state.mem.wf = true) :
    (s.afterBytes pa n f).state.mem.wf = true := by
  simp only [State.afterBytes]
  repeat' split
  all_goals simp_all

@[simp] theorem State.flushed_wf (s : State) (sc) (hs : s.mem.wf = true) : (s.flushed sc).1.mem.wf = true := by
  simp [State.flushed, hs]

@[simp] theorem State.afterCore_wf (s : State) (release sc) (f : State → Tried) (hs : s.mem.wf = true)
    (hf : ∀ s, s.mem.wf = true → (f s).state.mem.wf = true) :
    (s.afterCore release sc f).state.mem.wf = true := by
  simp only [State.afterCore]
  repeat' split
  all_goals simp_all

@[simp] theorem State.acquired_mem (s : State) (acq sc) : (s.acquired acq sc).mem = s.mem := by
  simp [State.acquired]

@[simp] theorem State.noteB_mem (s : State) (team as) : (s.noteB team as).mem = s.mem := rfl

@[simp] theorem State.scrPut_mem (s : State) (cells) : (s.scrPut cells).mem = s.mem := rfl

@[simp] theorem State.scrStore_mem (s : State) (cells) : (s.scrStore cells).mem = s.mem := rfl

@[simp] theorem State.forgetOnce_mem (s : State) (a n) : (s.forgetOnce a n).mem = s.mem := rfl

@[simp] theorem Got.to_wf (x : Got) (f : State → List Sys2Proof.Byte → State) (hx : x.state.mem.wf = true)
    (hf : ∀ s x0, s.mem.wf = true → (f s x0).mem.wf = true) :
    (Got.to x f).state.mem.wf = true := by
  simp only [Got.to]
  repeat' split
  all_goals simp_all

@[simp] theorem State.ended_mem (s : State) (acc) : (s.ended acc).mem = s.mem := by
  unfold State.ended
  split <;> simp

@[simp] theorem State.readVa_wf (s : State) (va n acc)
    (hs : s.mem.wf = true) : (s.readVa va n acc).state.mem.wf = true := by
  unfold State.readVa
  grind [State.translate_mem, State.readyAs_mem, failStatus_mem, Xlated.reask_mem, State.ended_mem, State.fill_mem,
    State.refresh_mem, State.drainBytes_wf, Got.state, Tried.state, Ready.state, Xlated.state]

@[simp] theorem State.readSp_mem (s : State) (a n acc) : (s.readSp a n acc).state.mem = s.mem := by
  unfold State.readSp
  split <;> simp

@[simp] theorem State.readSpLane_mem (o : Op) (size : Nat) (s : State) (a n acc) :
    (State.readSpLane o size s a n acc).state.mem = s.mem := by
  unfold State.readSpLane
  split
  · exact s.readSp_mem ..
  · split <;> rfl

@[simp] theorem State.keepWord_mem (s : State) (word) : (s.keepWord word).mem = s.mem := by
  simp [State.keepWord]

@[simp] theorem State.loadVa_wf (s : State) (va n acc) (f : State → List Sys2Proof.Byte → State)
    (hs : s.mem.wf = true) (hf : ∀ s x0, s.mem.wf = true → (f s x0).mem.wf = true) :
    (s.loadVa va n acc f).state.mem.wf = true := by
  grind [State.loadVa, Got.to_wf, State.readVa_wf, Got.state, Tried.state]

@[simp] theorem State.loadSp_wf (s : State) (a n acc) (f : State → List Sys2Proof.Byte → State)
    (hs : s.mem.wf = true) (hf : ∀ s x0, s.mem.wf = true → (f s x0).mem.wf = true) :
    (s.loadSp a n acc f).state.mem.wf = true := by
  grind [State.loadSp, Got.to_wf, State.readSp_mem, Got.state, Tried.state]

@[simp] theorem State.loadLane_wf (s : State) (o l n acc) (rd
    : State → Sys2Proof.W64 → Nat → Sys2Proof.Acc → Got) (f : State → List Sys2Proof.Byte → State)
    (hs : s.mem.wf = true) (hrd : ∀ s x0 x1 x2, s.mem.wf = true → (rd s x0 x1 x2).state.mem.wf = true)
    (hf : ∀ s x0, s.mem.wf = true → (f s x0).mem.wf = true) :
    (s.loadLane o l n acc rd f).2.state.mem.wf = true := by
  grind [State.loadLane, Got.to_wf, Got.state, Tried.state]

@[simp] theorem State.asked_mem (s : State) (op l) : ∀ t st d, (s.asked op l) = .reply t st d → t.mem = s.mem := by
  unfold State.asked
  repeat' split
  all_goals simp

@[simp] theorem State.remote_wf (s : State) (op l typ code va pa k sc poison payload) (f
    : State → List Sys2Proof.Byte → Tried) (hs : s.mem.wf = true)
    (hf : ∀ s x0, s.mem.wf = true → (f s x0).state.mem.wf = true) :
    (s.remote op l typ code va pa k sc poison payload f).state.mem.wf = true := by
  grind [State.remote, State.asked_mem, State.request_mem, failStatus_mem, Tried.state]

@[simp] theorem State.putHome_wf (s : State) (pa new) (hs : s.mem.wf = true) : (s.putHome pa new).mem.wf = true := by
  cases new with
  | none => exact hs
  | some bs => exact State.homeWrite_wf s _ _ hs

@[simp] theorem State.atomVa_wf (s : State) (op l code va n k sc hou payload fires f) (g
    : State → List Sys2Proof.Byte → State) (hs : s.mem.wf = true)
    (hg : ∀ s x0, s.mem.wf = true → (g s x0).mem.wf = true) :
    (s.atomVa op l code va n k sc hou payload fires f g).state.mem.wf = true := by
  grind [State.atomVa, State.acquired_mem, State.afterBytes_wf, State.afterCore_wf, State.dropCopies_mem,
    State.fireAt_mem, State.putHome_wf, State.register_mem, State.remote_wf, State.withLine_wf, State.withPa_wf,
    Tried.state]

@[simp] theorem State.post_mem (s : State) (batch va pa part f whole bs) :
    (s.post batch va pa part f whole bs).mem = s.mem := by
  simp [State.post]

@[simp] theorem State.putOp_mem (s : State) (o) : (s.putOp o).mem = s.mem := by
  simp [State.putOp]

@[simp] theorem State.partRefused_wf (s : State) (e status) (hs : s.mem.wf = true) :
    (s.partRefused e status).mem.wf = true := by
  grind [State.partRefused, State.putOp_mem, State.withGroup_wf, failStatus_mem, Tried.state]

@[simp] theorem State.ackPosted_wf (s : State) (id) (hs : s.mem.wf = true) : (s.ackPosted id).mem.wf = true := by
  grind [State.ackPosted, State.partRefused_wf, State.performPosted_wf, Ready.state]

@[simp] theorem State.storeLanes_mem (s : State) (ls va bs) : (s.storeLanes ls va bs).1.mem = s.mem := by
  unfold State.storeLanes
  refine foldl_fst_mem _ (fun x l => ?_) ls (s, [])
  have h := x.1.translate_mem x.1.t.core x.1.t.ctx (va l) .store
  grind [Xlated.state]

@[simp] theorem State.queueStc_mem (s : State) (o ls) : (s.queueStc o ls).mem = s.mem := by
  unfold State.queueStc
  split <;> simp

@[simp] theorem State.postLanes_mem (s : State) (o todo only zs) : (s.postLanes o todo only zs).mem = s.mem := by
  simp [State.postLanes]

@[simp] theorem State.sendStore_mem (s : State) (o) : (s.sendStore o).mem = s.mem := by
  simp [State.sendStore]

/-! ### Call -/

@[simp] theorem State.writeSlots_wf (s : State) (d act lpc args count) (hs : s.mem.wf = true) :
    (s.writeSlots d act lpc args count).mem.wf = true := by
  grind [State.writeSlots, State.addPhys_wf, State.ensureArea_wf, State.hwWrite_wf, State.raiseResume_wf,
    State.wrN_wf, State.foldl_wf]

@[simp] theorem State.parkCall_mem (s : State) (act) : (s.parkCall act).mem = s.mem := by
  unfold State.parkCall
  dsimp only
  repeat' split
  all_goals simp

@[simp] theorem State.callAgain_wf (s : State) (w o)
    (hs : s.mem.wf = true) : (s.callAgain w o).state.mem.wf = true := by
  grind [State.callAgain, State.flushed_wf, State.readyLines_mem, State.writeSlots_wf, Ready.state, Tried.state]

/-! ### Grids -/

@[simp] theorem State.acceptGrid_mem (s : State) (g) : (s.acceptGrid g).mem = s.mem := by
  simp [State.acceptGrid]

@[simp] theorem State.trigger_mem (s : State) (g va pa sc) : (s.trigger g va pa sc).state.mem = s.mem := by
  grind [State.trigger, State.acceptGrid_mem, State.dropVa_mem, State.fireGrid_mem, State.readyLine_mem,
    State.request_mem, LaunchTry.state, Ready.state]

@[simp] theorem State.launchAddrs_mem (s : State) (rec_ trig) : (s.launchAddrs rec_ trig).1.mem = s.mem := by
  unfold State.launchAddrs
  split <;> simp

@[simp] theorem State.checkLaunch_wf (s : State) (rec_ trig) (hs : s.mem.wf = true) :
    (s.checkLaunch rec_ trig).state.mem.wf = true := by
  grind [State.checkLaunch, State.launchAddrs_mem, State.recordLine_wf, State.recordMoved_mem, State.translate_mem,
    LaunchTry.state, Ready.state, Xlated.state]

@[simp] theorem State.goLaunch_wf (s : State) (bytes trig) (hs : s.mem.wf = true) :
    (s.goLaunch bytes trig).state.mem.wf = true := by
  grind [State.goLaunch, State.acceptGrid_mem, State.flushed_wf, State.translate_mem, State.trigger_mem,
    LaunchTry.state, Xlated.state]

@[simp] theorem State.launchAgain_wf (s : State) (d o trig) (hs : s.mem.wf = true) :
    (s.launchAgain d o trig).2.state.mem.wf = true := by
  grind [State.launchAgain, State.checkLaunch_wf, State.goLaunch_wf, State.setG_mem, LaunchTry.state, Tried.state]

@[simp] theorem State.completeGrid_wf (fuel : Nat) (s : State) (gid : Nat) (hs : s.mem.wf = true) :
    (State.completeGrid fuel s gid).mem.wf = true := by
  induction fuel generalizing s gid with
  | zero => exact hs
  | succ fuel ih =>
    unfold State.completeGrid
    split
    · exact hs
    · split
      · dsimp only
        split <;> (try apply ih) <;> simp [hs]
      · exact hs

@[simp] theorem State.teamDone_wf (s : State) (gid) (hs : s.mem.wf = true) : (s.teamDone gid).mem.wf = true := by
  simp [State.teamDone, hs]

/-! ### Shape -/

@[simp] theorem State.takeCopy_mem (s : State) (c) : (s.takeCopy c).mem = s.mem := rfl

@[simp] theorem State.checkCopy_wf (s : State) (e act rec_ ctr) (hs : s.mem.wf = true) :
    (s.checkCopy e act rec_ ctr).state.mem.wf = true := by
  have hx := s.translate_mem s.t.core s.t.ctx rec_ .load
  unfold State.checkCopy
  dsimp only
  split
  · simp_all
  · split
    · next t pa ht =>
      have hr := t.recordLine_wf pa (by simp_all)
      split
      · simp_all
      · simp_all
      · split
        · simp_all
        · split <;> simp_all
    · simp_all

@[simp] theorem State.copyAgain_wf (s : State) (e o)
    (hs : s.mem.wf = true) : (s.copyAgain e o).2.state.mem.wf = true := by
  grind [State.copyAgain, State.checkCopy_wf, State.takeCopy_mem, ShapeTry.state, Tried.state]

/-! ### Tiles -/

@[simp] theorem State.failOp_wf (s : State) (r o) (hs : s.mem.wf = true) : (s.failOp r o).mem.wf = true := by
  simp_all [State.failOp]

@[simp] theorem State.failLater_wf (s : State) (r i lpc waitm act own code addr detail gops cover)
    (hs : s.mem.wf = true) :
    (s.failLater r i lpc waitm act own code addr detail gops cover).mem.wf = true := by
  simp [State.failLater, hs]

@[simp] theorem State.tileFault_wf (s : State) (c missing) (hs : s.mem.wf = true) :
    (s.tileFault c missing).mem.wf = true := by
  simp +contextual [State.tileFault, hs]

@[simp] theorem State.signal_mem (s : State) (t who) : (s.signal t who).mem = s.mem := by
  simp [State.signal]

@[simp] theorem State.ownWrite_wf (s : State) (line bs)
    (hs : s.mem.wf = true) : (s.ownWrite line bs).mem.wf = true := by
  grind [State.ownWrite, State.homeWrite_wf]

@[simp] theorem State.writeTile_wf (s : State) (t) (hs : s.mem.wf = true) : (s.writeTile t).mem.wf = true := by
  grind [State.writeTile, State.addPoison_mem, State.addVa_wf, State.ownWrite_wf, State.foldl_wf]

@[simp] theorem State.closeReady_wf (s : State) (id) (hs : s.mem.wf = true) : (s.closeReady id).mem.wf = true := by
  grind [State.closeReady, State.readyLines_mem, State.writeTile_wf, Ready.state]

@[simp] theorem State.putTile_wf (s : State) (t) (hs : s.mem.wf = true) : (s.putTile t).mem.wf = true := by
  simp +contextual [State.putTile, hs]

@[simp] theorem State.poisonLine_mem (s : State) (ctx line) : (s.poisonLine ctx line).mem = s.mem := by
  simp [State.poisonLine]

@[simp] theorem State.expireTile_wf (s : State) (t) (hs : s.mem.wf = true) : (s.expireTile t).mem.wf = true := by
  grind [State.expireTile, State.addVa_wf, State.poisonLine_mem, State.signal_mem, State.tileFault_wf, State.foldl_wf]

@[simp] theorem State.frames_mem (s : State) (va : W64) (k : Nat) : (s.frames va k).state.mem = s.mem := by
  induction k generalizing s va with
  | zero => rfl
  | succ k ih => grind [State.frames, State.translate_mem, Frames.state, Xlated.state]

@[simp] theorem State.addTile_mem (s : State) (e ctx t tags ctr fs) : (s.addTile e ctx t tags ctr fs).mem = s.mem := rfl

@[simp] theorem State.tileStatus_mem (s : State) (st denied va pa)
    : (s.tileStatus st denied va pa).state.mem = s.mem := by
  unfold State.tileStatus
  repeat' split
  all_goals simp

@[simp] theorem State.askTile_wf (s : State) (o l code va pa k sc payload) (f
    : State → List Sys2Proof.Byte → State) (hs : s.mem.wf = true)
    (hf : ∀ s x0, s.mem.wf = true → (f s x0).mem.wf = true) :
    (s.askTile o l code va pa k sc payload f).state.mem.wf = true := by
  grind [State.askTile, State.asked_mem, State.request_mem, State.tileStatus_mem, Tried.state]

@[simp] theorem State.openTile_wf (s : State) (e o l)
    (hs : s.mem.wf = true) : (s.openTile e o l).state.mem.wf = true := by
  grind [State.openTile, State.addTile_mem, State.afterCore_wf, State.askTile_wf, State.frames_mem,
    State.readyLines_mem, State.setG_mem, State.tileStatus_mem, Frames.state, Ready.state, Tried.state]

@[simp] theorem State.askClose_wf (s : State) (pa) (hs : s.mem.wf = true) : (s.askClose pa).2.mem.wf = true := by
  unfold State.askClose
  repeat' split
  all_goals simp [hs]

@[simp] theorem State.closeTile_wf (s : State) (e o l) (hs : s.mem.wf = true) :
    (s.closeTile e o l).state.mem.wf = true := by
  grind [State.closeTile, State.afterCore_wf, State.askClose_wf, State.askTile_wf, State.setG_mem, State.withPa_wf,
    Tried.state]

/-! ### Progress -/

@[simp] theorem State.chain_wf (s : State) (op l gops kind sc p0) (fuel k : Nat) (p : W64) (die : Nat)
    (hs : s.mem.wf = true) :
    (s.chain op l gops kind sc p0 fuel k p die).state.mem.wf = true := by
  induction fuel generalizing s k p die with
  | zero => exact hs
  | succ fuel ih =>
    unfold State.chain
    grind [State.translate_mem, State.translateHome_mem, State.asked_mem, State.selfInvalidate_mem, failStatus_mem,
      State.dropVa_mem, State.drainCore_wf, State.drainBytes_wf, State.request_mem, State.readyLine_mem,
      State.dropCopies_mem, ChainRes.state, Tried.state, Xlated.state, Ready.state]

@[simp] theorem State.enqHome_wf (s : State) (cell pa node link k sc) (g : State → List Sys2Proof.Byte → State)
    (hs : s.mem.wf = true) (hg : ∀ s x0, s.mem.wf = true → (g s x0).mem.wf = true) :
    (s.enqHome cell pa node link k sc g).state.mem.wf = true := by
  grind [State.enqHome, State.afterBytes_wf, State.afterCore_wf, State.dropCopies_mem, State.homeWrite_wf,
    State.putHome_wf, State.translateHome_mem, State.withLine_wf, Tried.state, Xlated.state]

@[simp] theorem State.acpMoves_mem (s : State) (m o) : (s.acpMoves m o).1.mem = s.mem := by
  unfold State.acpMoves
  refine foldl_fst_mem _ (fun x l => ?_) _ (s, [])
  have h := x.1.translate_mem x.1.t.core x.1.t.ctx (o.lanes[l]).addr (if m.toGlobal then .store else .load)
  grind [Xlated.state]

@[simp] theorem State.acceptAcp_mem (s : State) (m o) : (s.acceptAcp m o).mem = s.mem := by
  simp [State.acceptAcp]

@[simp] theorem State.prefetchLine_mem (s : State) (line l1) : (s.prefetchLine line l1).state.mem = s.mem := by
  grind [State.prefetchLine, State.readyLine_mem, State.request_mem, Ready.state]

@[simp] theorem State.prefetchLane_mem (s : State) (m va) : (s.prefetchLane m va).state.mem = s.mem := by
  grind [State.prefetchLane, State.fill_mem, State.prefetchLine_mem, State.translate_mem, Ready.state, Tried.state,
    Xlated.state]

@[simp] theorem State.attempt_wf (s : State) (o l) (hs : s.mem.wf = true) : (s.attempt o l).2.state.mem.wf = true := by
  cases h : o.instr <;> simp only [State.attempt, h]
  case ldv | lds => apply State.loadLane_wf <;> simp +contextual [hs]
  case atom | red | casw => apply State.atomVa_wf <;> simp +contextual [hs]
  case prefetch | glaunch | tlaunch | tcopy | accopen | accclose | svc => simp [hs]
  case sld | cread | atoms | sst | cinc | cdec => simp +contextual [hs]
  case enq =>
    refine State.withPa_wf _ _ _ _ _ hs fun t pa ht => ?_
    refine State.afterCore_wf _ _ _ _ ht fun t ht => ?_
    refine State.afterBytes_wf _ _ _ _ ht fun t ht => ?_
    split
    · simp +contextual [ht]
    · refine State.withLine_wf _ _ _ _ _ _ _ _ ht fun t ht => ?_
      simp +contextual [ht]
  case binit => split <;> simp [hs]
  case barrive => split <;> (try split) <;> simp [hs]
  case sts =>
    split
    · simp +contextual [hs]
    · split
      · split
        · next t ht =>
          have hw := congrArg (fun x => x.state.mem.wf) ht
          simp +contextual [hs] at hw
          exact hw
        · simp +contextual [hs]
      · simp +contextual [hs]
  case chld m =>
    have hc := s.chain_wf o.id l o.gops m.kind m.scope (BitVec.ofNat 64 (ofBytes ((LaneOp.bytes (o.lanes[l])).take 8))) 10
      (o.lanes[l]).aux.toNat (o.lanes[l]).addr s.myDie hs
    split
    · next ht => rw [ht] at hc; simpa using hc
    · next ht => rw [ht] at hc; exact hc
  all_goals simp [hs]

@[simp] theorem State.unpark_mem (s : State) (o m) : (s.unpark o m).mem = s.mem := by
  simp [State.unpark]

@[simp] theorem State.writeLate_mem (s : State) (o m) : (s.writeLate o m).1.mem = s.mem := rfl

@[simp] theorem stepLane_wf (x : State × Op) (l) (hx : x.1.mem.wf = true) : (stepLane x l).1.mem.wf = true := by
  grind [stepLane, State.asRetry_mem, State.attempt_wf, State.setG_mem, State.unpark_mem, Tried.state]

@[simp] theorem State.attemptLanes_wf (s : State) (o m)
    (hs : s.mem.wf = true) : (s.attemptLanes o m).mem.wf = true := by
  have h := foldl_fst_wf stepLane stepLane_wf ((s.writeLate o m).2.toTry m) (s.writeLate o m) (by simp [hs])
  simp [State.attemptLanes, h]

@[simp] theorem State.progress_wf (s : State) (o m) (hs : s.mem.wf = true) : (s.progress o m).mem.wf = true := by
  unfold State.progress
  repeat' split
  all_goals simp [hs]

@[simp] theorem State.launch_wf (s : State) (o now) (hs : s.mem.wf = true) : (s.launch o now).mem.wf = true := by
  simp [State.launch, hs]

/-! ### Sync -/

@[simp] theorem State.pass_mem (s : State) : s.pass.mem = s.mem := by
  simp [State.pass]

@[simp] theorem State.waitFault_mem (s : State) (i issue act addr gops code fa detail) :
    (s.waitFault i issue act addr gops code fa detail).mem = s.mem := rfl

@[simp] theorem State.tryCwait_wf (s : State) (g issue addr goal) (hs : s.mem.wf = true) :
    (s.tryCwait g issue addr goal).mem.wf = true := by
  grind [State.tryCwait, State.acquired_mem, State.loadSp_wf, State.loadVa_wf, State.setG_mem, State.setStatus_mem,
    State.waitFault_mem, Tried.state]

@[simp] theorem State.tryBwait_mem (s : State) (g issue addr goal) : (s.tryBwait g issue addr goal).mem = s.mem := by
  simp [State.tryBwait]

@[simp] theorem State.ownBlocks_mem (s : State) (core bs ctx) : (s.ownBlocks core bs ctx).mem = s.mem := rfl

@[simp] theorem State.growTo_mem (s : State) (n q issue) : (s.growTo n q issue).mem = s.mem := rfl

@[simp] theorem State.complete_wf (s : State) (at_ op lanes) (hs : s.mem.wf = true) :
    (s.complete at_ op lanes).mem.wf = true := by
  grind [State.complete, State.progress_wf, State.withGroup_wf]

/-! ### Matrix -/

@[simp] theorem State.putEngine_mem (s : State) (e) : (s.putEngine e).mem = s.mem := rfl

@[simp] theorem State.trapMma_wf (s : State) (m) (hs : s.mem.wf = true) : (s.trapMma m).mem.wf = true := by
  grind [State.trapMma, State.putOp_mem, State.withGroup_wf]

@[simp] theorem State.trapGangs_wf (s : State) (core) (hs : s.mem.wf = true) : (s.trapGangs core).mem.wf = true := by
  grind [State.trapGangs, State.trapMma_wf, State.foldl_wf]

@[simp] theorem State.seat_wf (s : State) (core) (hs : s.mem.wf = true) : (s.seat core).mem.wf = true := by
  unfold State.seat
  dsimp only
  repeat' split
  all_goals simp +contextual [hs]

@[simp] theorem State.meet_wf (s : State) (core) (hs : s.mem.wf = true) : (s.meet core).mem.wf = true := by
  grind [State.meet, State.seat_wf, State.trapGangs_wf]

@[simp] theorem State.setGang_mem (s : State) (m) : (s.setGang m).mem = s.mem := rfl

@[simp] theorem State.releaseHeld_mem (s : State) (core team m) : (s.releaseHeld core team m).mem = s.mem := by
  simp [State.releaseHeld]

@[simp] theorem State.joinMma_wf (s : State) (e o pa) (hs : s.mem.wf = true) : (s.joinMma e o pa).mem.wf = true := by
  grind [State.joinMma, State.meet_wf]

@[simp] theorem State.latch_wf (s : State) (core r rest)
    (hs : s.mem.wf = true) : (s.latch core r rest).mem.wf = true := by
  grind [State.latch, State.loadFocus_mem, State.putEngine_mem, State.putOp_mem, State.setG_mem,
    State.storeFocus_mem, State.withGroup_wf, State.foldl_wf]

@[simp] theorem State.latchFails_wf (s : State) (core r rest bad) (hs : s.mem.wf = true) :
    (s.latchFails core r rest bad).mem.wf = true := by
  grind [State.latchFails, State.putEngine_mem, State.putOp_mem, State.setG_mem, State.setStatus_mem,
    State.withGroup_wf, State.foldl_wf]

@[simp] theorem State.sendContribution_wf (s : State) (c) (hs : s.mem.wf = true) :
    (s.sendContribution c).mem.wf = true := by
  simp +contextual [State.sendContribution, hs]

@[simp] theorem State.strayContribution_wf (s : State) (c) (hs : s.mem.wf = true) :
    (s.strayContribution c).mem.wf = true := by
  unfold State.strayContribution
  split <;> simp [hs]

/-! ### Copy -/

@[simp] theorem State.enginePut_mem (s : State) (a bs poison) : (s.enginePut a bs poison).mem = s.mem := by
  simp [State.enginePut]

@[simp] theorem State.copyIn_mem (s : State) (c g a) : (s.copyIn c g a).state.mem = s.mem := by
  grind [State.copyIn, State.translateEngine_mem, State.readyLine_mem, State.dropVa_mem, Xlated.reask_mem,
    State.enginePut_mem,
    Copied.state, Ready.state, Xlated.state]

@[simp] theorem State.copyOut_wf (s : State) (c g a)
    (hs : s.mem.wf = true) : (s.copyOut c g a).state.mem.wf = true := by
  grind [State.copyOut, State.translateEngine_mem, State.readyLine_mem, State.dropVa_mem, Xlated.reask_mem,
    State.homeWrite_wf,
    State.addPoison_mem, Copied.state, Ready.state, Xlated.state]

@[simp] theorem State.walkAhead_mem (s : State) (cmd ahead) : (s.walkAhead cmd ahead).mem = s.mem := by
  unfold State.walkAhead
  split <;> simp

@[simp] theorem State.runCopy_wf (c : CopyCmd) (k : Nat) (s : State) (hs : s.mem.wf = true) :
    (State.runCopy c k s).1.mem.wf = true := by
  induction k generalizing c s with
  | zero => exact hs
  | succ k ih => grind [State.runCopy, State.copyOut_wf, State.copyIn_mem, Copied.state]

@[simp] theorem State.addScratch_wf (s : State) (ctx ctr n) (hs : s.mem.wf = true) :
    (s.addScratch ctx ctr n).mem.wf = true := by
  simp [State.addScratch, hs]

@[simp] theorem State.putCopy_mem (s : State) (c) : (s.putCopy c).mem = s.mem := rfl

@[simp] theorem State.begins_wf (s : State) (r clear sc behind after) (hs : s.mem.wf = true) :
    (s.begins r clear sc behind after).1.mem.wf = true := by
  unfold State.begins
  repeat' split
  all_goals simp [hs]

@[simp] theorem State.progressCopy_wf (s : State) (c k)
    (hs : s.mem.wf = true) : (s.progressCopy c k).mem.wf = true := by
  grind [State.progressCopy, State.begins_wf, State.putCopy_mem, State.runCopy_wf, State.withGroup_wf]

@[simp] theorem State.endCopy_wf (s : State) (c) (hs : s.mem.wf = true) : (s.endCopy c).mem.wf = true := by
  grind [State.endCopy, State.addScratch_wf, State.addVa_wf, State.clearPoison_mem, State.withGroup_wf]

@[simp] theorem State.resumeCopy_mem (s : State) (e o) : (s.resumeCopy e o).mem = s.mem := by
  unfold State.resumeCopy
  dsimp only
  repeat' split
  all_goals simp

@[simp] theorem State.acpFrame_mem (s : State) (c m) : (s.acpFrame c m).state.mem = s.mem := by
  grind [State.acpFrame, State.translate_mem, Xlated.state]

@[simp] theorem State.runAcp_wf (c : AcpCmd) (ms : List AcpMove) (s : State) (hs : s.mem.wf = true) :
    (State.runAcp c ms s).1.mem.wf = true := by
  induction ms generalizing c s with
  | nil => exact hs
  | cons m r ih =>
    grind [State.runAcp, State.acpFrame_mem, State.readyLine_mem, State.dropVa_mem, State.translate_mem,
      Xlated.reask_mem,
      State.homeWrite_wf, State.addPoison_mem, State.enginePut_mem, Ready.state, Xlated.state]

@[simp] theorem State.acpClears_mem (s : State) (c) : (s.acpClears c).mem = s.mem := by
  simp [State.acpClears]

@[simp] theorem State.addSaved_wf (s : State) (c) (hs : s.mem.wf = true) : (s.addSaved c).mem.wf = true := by
  grind [State.addSaved, State.addVa_wf, State.notMade_wf, State.wrN_wf]

@[simp] theorem State.addAcp_wf (s : State) (c) (hs : s.mem.wf = true) : (s.addAcp c).mem.wf = true := by
  grind [State.addAcp, State.addScratch_wf, State.addVa_wf]

@[simp] theorem State.endAcp_wf (s : State) (c) (add : State → AcpCmd → State) (hs : s.mem.wf = true)
    (hadd : ∀ s x0, s.mem.wf = true → (add s x0).mem.wf = true) :
    (s.endAcp c add).mem.wf = true := by
  simp [State.endAcp, hs, hadd]

@[simp] theorem State.stepAcp_wf (s : State) (c) (add : State → AcpCmd → State) (hs : s.mem.wf = true)
    (hadd : ∀ s x0, s.mem.wf = true → (add s x0).mem.wf = true) :
    (s.stepAcp c add).mem.wf = true := by
  grind [State.stepAcp, State.begins_wf, State.endAcp_wf, State.runAcp_wf]

@[simp] theorem State.goAcp_wf (s : State) (c) (hs : s.mem.wf = true) : (s.goAcp c).mem.wf = true := by
  grind [State.goAcp, State.addAcp_wf, State.addSaved_wf, State.stepAcp_wf, State.withGroup_wf]

/-! ### Launch -/

@[simp] theorem State.reserve_mem (s : State) (ctx k) : (s.reserve ctx k).2.mem = s.mem := by
  unfold State.reserve
  repeat' split
  all_goals simp

@[simp] theorem State.unitFrames_mem (s : State) (first count) : (s.unitFrames first count).1.mem = s.mem := by
  unfold State.unitFrames
  refine foldl_fst_mem _ (fun x k => ?_) _ (s, [], none)
  grind [State.translate_mem, Xlated.state]

@[simp] theorem State.haze_mem (s : State) (frames) : (s.haze frames).mem = s.mem := rfl

@[simp] theorem State.loosen_mem (s : State) (frames ctx lo len) : (s.loosen frames ctx lo len).mem = s.mem := by
  simp [State.loosen]

/-! ### Traps -/

@[simp] theorem State.takeFailed_wf (s : State) (o) (hs : s.mem.wf = true) : (s.takeFailed o).mem.wf = true := by
  unfold State.takeFailed
  repeat' split
  all_goals simp [hs]

@[simp] theorem State.writeWaiting_wf (s : State) (f k)
    (hs : s.mem.wf = true) : (s.writeWaiting f k).mem.wf = true := by
  simp only [State.writeWaiting]
  repeat' split
  all_goals simp_all

@[simp] theorem State.relaunch_wf (s : State) (o) (hs : s.mem.wf = true) : (s.relaunch o).mem.wf = true := by
  simp [State.relaunch, hs]

@[simp] theorem State.replayOp_wf (s : State) (o) (hs : s.mem.wf = true) : (s.replayOp o).mem.wf = true := by
  grind [State.replayOp, State.failLater_wf, State.joinMma_wf, State.relaunch_wf, State.resumeCopy_mem,
    State.setG_mem, State.translate_mem, State.tryBwait_mem, State.tryCwait_wf, Xlated.state]

@[simp] theorem State.supplyLane_mem (s : State) (o l) : (s.supplyLane o l).mem = s.mem := by
  unfold State.supplyLane
  split <;> simp

@[simp] theorem State.logWalks_mem (s : State) (e) : ∀ t, (s.logWalks e) = some t → t.mem = s.mem := by
  grind [State.logWalks, State.translate_mem, Xlated.state]

@[simp] theorem State.performLog_wf (s : State) (e) (hs : s.mem.wf = true) : (s.performLog e).mem.wf = true := by
  grind [State.performLog, State.replayOp_wf, State.supplyLane_mem, State.unpark_mem, State.foldl_wf]

@[simp] theorem State.retire_wf (s : State) (hs : s.mem.wf = true) : s.retire.mem.wf = true := by
  grind [State.retire, State.meet_wf, State.pushDue_mem, State.releaseHeld_mem, State.reload_mem, State.setG_mem,
    State.storeFocus_mem, State.teamDone_wf]

/-! ### Save -/

@[simp] theorem State.writeRuns_wf (s : State) (base rs)
    (hs : s.mem.wf = true) : (s.writeRuns base rs).mem.wf = true := by
  grind [State.writeRuns, State.hwWrite_wf, State.foldl_wf]

@[simp] theorem State.withdrawTeam_mem (s : State) (t) : (s.withdrawTeam t).mem = s.mem := rfl

@[simp] theorem State.joinFront_mem (s : State) (level tid) : (s.joinFront level tid).mem = s.mem := rfl

@[simp] theorem State.writeTeam_wf (s : State) (t cause area) (hs : s.mem.wf = true) :
    (s.writeTeam t cause area).mem.wf = true := by
  grind [State.writeTeam, State.hwWrite_wf, State.joinFront_mem, State.pushDue_mem, State.withdrawTeam_mem,
    State.writeRuns_wf, State.foldl_wf]

@[simp] theorem State.saveTeam_wf (s : State) (t cause)
    (hs : s.mem.wf = true) : (s.saveTeam t cause).mem.wf = true := by
  grind [State.saveTeam, State.wrN_wf, State.writeTeam_wf]

@[simp] theorem State.restoreTeam_mem (s : State) (v core q0 row0) : (s.restoreTeam v core q0 row0).mem = s.mem := rfl

@[simp] theorem State.replySaved_wf (s : State) (v) (hs : s.mem.wf = true) : (s.replySaved v).mem.wf = true := by
  grind [State.replySaved, State.wrN_wf, State.foldl_wf]

@[simp] theorem State.replyHere_wf (s : State) (t) (hs : s.mem.wf = true) : (s.replyHere t).mem.wf = true := by
  grind [State.replyHere, State.setG_mem, State.withGroup_wf, State.wrN_wf, State.foldl_wf]

@[simp] theorem State.resumeHere_wf (s : State) (t) (hs : s.mem.wf = true) : (s.resumeHere t).mem.wf = true := by
  simp +contextual [State.resumeHere, hs]

/-! ### Sched -/

@[simp] theorem State.takeRows_mem (s : State) (core row0 rows ctx) : (s.takeRows core row0 rows ctx).mem = s.mem := rfl

@[simp] theorem State.dequeue_mem (s : State) (e) : (s.dequeue e).mem = s.mem := rfl

@[simp] theorem State.dealTeam_mem (s : State) (g core q0 row0) : (s.dealTeam g core q0 row0).mem = s.mem := by
  simp [State.dealTeam]

@[simp] theorem State.placeAt_mem (s : State) (e core q0 row0) : (s.placeAt e core q0 row0).mem = s.mem := by
  unfold State.placeAt
  repeat' split
  all_goals simp

@[simp] theorem State.placeHead_mem (s : State) (level) : (s.placeHead level).mem = s.mem := by
  unfold State.placeHead
  repeat' split
  all_goals simp

/-- The allocator is made opaque before the list is taken apart: evaluated on a state that is not closed, it counts up
from the first address of the save region. -/
theorem State.reserveAreas_wf (s : State) (hd) (ts : List Team) (hs : s.mem.wf = true) (t)
    (ht : s.reserveAreas hd ts = some t) : t.mem.wf = true := by
  obtain ⟨alloc, halloc⟩ : ∃ alloc, State.allocArea = alloc := ⟨_, rfl⟩
  have hdef : @State.reserveAreas = @State.reserveAreas := rfl
  conv at hdef => rhs; delta State.reserveAreas State.reserveAreas._f
  rw [halloc] at hdef
  rw [hdef] at ht
  clear hdef halloc
  induction ts generalizing s with
  | nil => cases ht; exact hs
  | cons x r ih =>
    revert ht
    dsimp only
    cases alloc s (areaUnits x.groupCount x.rows) with
    | none => exact fun ht => nomatch ht
    | some a =>
      intro ht
      refine ih _ ?_ ht
      exact State.wrN_wf _ _ _ _ hs

@[simp] theorem State.preemptFor_wf (s : State) (level)
    (hs : s.mem.wf = true) : (s.preemptFor level).mem.wf = true := by
  unfold State.preemptFor
  split
  · exact hs
  · split
    · exact hs
    · split
      · exact hs
      · next w _ _ _ c _ =>
        cases h : s.reserveAreas (w.entry, s.headPlace w.entry) c.2 with
        | none => simp [hs]
        | some t => exact s.reserveAreas_wf _ _ hs t h

/-! ### Home -/

@[simp] theorem State.homeLine_wf (s : State) (ctx pa write) (f : State → Served) (hs : s.mem.wf = true)
    (hf : ∀ s, s.mem.wf = true → (f s).state.mem.wf = true) :
    (s.homeLine ctx pa write f).state.mem.wf = true := by
  grind [State.homeLine, State.readyLine_mem, Ready.state, Served.state]

@[simp] theorem State.homeWritable_wf (s : State) (p) (f : State → Served) (hs : s.mem.wf = true)
    (hf : ∀ s, s.mem.wf = true → (f s).state.mem.wf = true) :
    (s.homeWritable p f).state.mem.wf = true := by
  grind [State.homeWritable, State.homeLine_wf, Served.state]

@[simp] theorem State.dropLine_mem (s : State) (line) : (s.dropLine line).mem = s.mem := rfl

@[simp] theorem State.lineReply_wf (s : State) (line)
    (hs : s.mem.wf = true) : (s.lineReply line).state.mem.wf = true := by
  simp [State.lineReply, hs]

@[simp] theorem State.closeFar_mem (s : State) (line who) : (s.closeFar line who).mem = s.mem := rfl

@[simp] theorem State.serveLine_wf (s : State) (p own)
    (hs : s.mem.wf = true) : (s.serveLine p own).state.mem.wf = true := by
  have hr : (s.resolveDead (lineOf p.pa)).mem.wf = true := by simp [hs]
  unfold State.serveLine
  dsimp only
  generalize s.resolveDead (lineOf p.pa) = t at hr
  repeat' split
  all_goals simp [hs, hr]

@[simp] theorem State.recalled_mem (s : State) (r) : (s.recalled r).mem = s.mem := by
  unfold State.recalled
  dsimp only
  repeat' split
  all_goals simp

@[simp] theorem State.takeLine_wf (s : State) (p) (hs : s.mem.wf = true) : (s.takeLine p).mem.wf = true := by
  simp [State.takeLine, hs]

@[simp] theorem State.serveWriteback_wf (s : State) (p) (hs : s.mem.wf = true) :
    (s.serveWriteback p).state.mem.wf = true := by
  unfold State.serveWriteback
  dsimp only
  repeat' split
  all_goals simp [hs]

@[simp] theorem State.serveRead_wf (s : State) (p) (hs : s.mem.wf = true) : (s.serveRead p).state.mem.wf = true := by
  grind [State.serveRead, State.homeLine_wf, Served.state]

@[simp] theorem State.serveWrite_wf (s : State) (p) (hs : s.mem.wf = true) : (s.serveWrite p).state.mem.wf = true := by
  grind [State.serveWrite, State.addPoison_mem, State.clearPoison_mem, State.homeWritable_wf, State.homeWrite_wf,
    Served.state]

@[simp] theorem State.atHome_mem (s : State) (die ctx) : (s.atHome die ctx).mem = s.mem := rfl

@[simp] theorem State.serveRmw_wf (s : State) (p n f)
    (hs : s.mem.wf = true) : (s.serveRmw p n f).state.mem.wf = true := by
  grind [State.serveRmw, State.homeWritable_wf, State.homeWrite_wf, Served.state]

@[simp] theorem State.serveEnq_wf (s : State) (p) (hs : s.mem.wf = true) : (s.serveEnq p).state.mem.wf = true := by
  grind [State.serveEnq, State.atHome_mem, State.enqHome_wf, State.homeWritable_wf, State.noFocus_mem, Served.state,
    Tried.state]

@[simp] theorem State.serveCounter_wf (s : State) (p)
    (hs : s.mem.wf = true) : (s.serveCounter p).state.mem.wf = true := by
  grind [State.serveCounter, State.addHome_wf, State.homeWritable_wf, Served.state]

@[simp] theorem State.serveOpen_mem (s : State) (p) : (s.serveOpen p).state.mem = s.mem := by
  grind [State.serveOpen, State.addTile_mem, State.readyLines_mem, Ready.state, Served.state]

@[simp] theorem State.serveContribution_wf (s : State) (p) (hs : s.mem.wf = true) :
    (s.serveContribution p).state.mem.wf = true := by
  unfold State.serveContribution
  dsimp only
  repeat' split
  all_goals simp [hs]

@[simp] theorem State.serveSignal_mem (s : State) (p) : (s.serveSignal p).state.mem = s.mem := rfl

@[simp] theorem State.serveRoom_mem (s : State) (p) : (s.serveRoom p).state.mem = s.mem := rfl

@[simp] theorem State.serveTiles_mem (s : State) (p) : (s.serveTiles p).state.mem = s.mem := rfl

@[simp] theorem State.serveTrigger_wf (s : State) (p)
    (hs : s.mem.wf = true) : (s.serveTrigger p).state.mem.wf = true := by
  grind [State.serveTrigger, State.homeLine_wf, Served.state]

@[simp] theorem State.serveMoved_mem (s : State) (p) : (s.serveMoved p).state.mem = s.mem := rfl

@[simp] theorem State.serveFired_mem (s : State) (p) : (s.serveFired p).state.mem = s.mem := by
  unfold State.serveFired
  repeat' split
  all_goals simp

@[simp] theorem State.serveAtom_wf (s : State) (p) (hs : s.mem.wf = true) : (s.serveAtom p).state.mem.wf = true := by
  grind [State.serveAtom, State.askClose_wf, State.serveContribution_wf, State.serveCounter_wf, State.serveEnq_wf,
    State.serveFired_mem, State.serveMoved_mem, State.serveOpen_mem, State.serveRmw_wf, State.serveRoom_mem,
    State.serveSignal_mem, State.serveTiles_mem, State.serveTrigger_wf, Served.state]

@[simp] theorem State.passStep_mem (s : State) (p k ptr pa) : (s.passStep p k ptr pa).mem = s.mem := by
  simp [State.passStep]

@[simp] theorem State.homeChain_wf (p : Packet) (gops : List W64) (fuel k : Nat) (ptr : W64) (pa : Nat) (s : State)
    (hs : s.mem.wf = true) : (State.homeChain p gops fuel k ptr pa s).state.mem.wf = true := by
  induction fuel generalizing k ptr pa s with
  | zero => exact hs
  | succ fuel ih =>
    have hl := s.homeLine_wf p.context pa false (fun s => .done s 0 []) hs fun s h => h
    grind [State.homeChain, State.passStep_mem, State.translateHome_mem, Served.state, Xlated.state]

@[simp] theorem State.serveStep_wf (s : State) (p) (hs : s.mem.wf = true) : (s.serveStep p).state.mem.wf = true := by
  grind [State.serveStep, State.homeChain_wf, Served.state]

@[simp] theorem State.stcStore_wf (s : State) (p) (hs : s.mem.wf = true) : (s.stcStore p).mem.wf = true := by
  grind [State.stcStore, State.homeWrite_wf]

@[simp] theorem State.stcReply_mem (s : State) (p ctr home st) : (s.stcReply p ctr home st).state.mem = s.mem := by
  unfold State.stcReply
  split <;> simp

@[simp] theorem State.stcFar_mem (s : State) (p pa) : (s.stcFar p pa).mem = s.mem := by
  simp [State.stcFar]

@[simp] theorem State.serveStc_wf (s : State) (p) (hs : s.mem.wf = true) : (s.serveStc p).state.mem.wf = true := by
  grind [State.serveStc, State.addHome_wf, State.homeWritable_wf, State.readyLine_mem, State.stcFar_mem,
    State.stcReply_mem, State.stcStore_wf, State.translateHome_mem, Ready.state, Served.state, Xlated.state]

@[simp] theorem State.launchHost_mem (s : State) (ctx record) : (s.launchHost ctx record).state.mem = s.mem := by
  grind [State.launchHost, State.acceptGrid_mem, State.readyLine_mem, Ready.state, Served.state]

@[simp] theorem State.launchCommand_wf (s : State) (p) (hs : s.mem.wf = true) :
    (s.launchCommand p).state.mem.wf = true := by
  grind [State.launchCommand, State.homeLine_wf, State.launchHost_mem, Served.state]

@[simp] theorem State.serveHost_wf (s : State) (p) (hs : s.mem.wf = true) : (s.serveHost p).state.mem.wf = true := by
  grind [State.serveHost, State.launchCommand_wf, State.privWrite_mem, Served.state]

@[simp] theorem State.serve_wf (s : State) (p) (hs : s.mem.wf = true) : (s.serve p).state.mem.wf = true := by
  grind [State.serve, State.serveAtom_wf, State.serveHost_wf, State.serveLine_wf, State.serveRead_wf,
    State.serveStc_wf, State.serveStep_wf, State.serveWrite_wf, State.serveWriteback_wf, Served.state]

@[simp] theorem State.answer_mem (s : State) (p typ op flags data) : (s.answer p typ op flags data).mem = s.mem := by
  simp [State.answer]

@[simp] theorem State.answerDead_mem (s : State) (p typ) : (s.answerDead p typ).mem = s.mem := rfl

@[simp] theorem State.reply_mem (s : State) (p aborted status data) : (s.reply p aborted status data).mem = s.mem := by
  simp [State.reply]

@[simp] theorem State.sendRetry_mem (s : State) (p) : (s.sendRetry p).mem = s.mem := by
  simp [State.sendRetry]

@[simp] theorem State.accept_wf (s : State) (p) (hs : s.mem.wf = true) : (s.accept p).1.mem.wf = true := by
  grind [State.accept, State.reply_mem, State.sendRetry_mem, State.serve_wf, Served.state]

@[simp] theorem State.retryReply_wf (s : State) (r) (hs : s.mem.wf = true) : (s.retryReply r).mem.wf = true := by
  grind [State.retryReply, State.reply_mem, State.serve_wf, Served.state]

/-! ### Priv -/

@[simp] theorem State.ctxctlEnd_mem (s : State) (status) : (s.ctxctlEnd status).mem = s.mem := rfl

@[simp] theorem State.ctxctlRun_wf (s : State) (e) (start : State → State) (done : State → State × Bool)
    (hs : s.mem.wf = true) (hstart : ∀ s, s.mem.wf = true → (start s).mem.wf = true)
    (hdone : ∀ s, s.mem.wf = true → (done s).1.mem.wf = true) :
    (s.ctxctlRun e start done).mem.wf = true := by
  unfold State.ctxctlRun
  repeat' split
  all_goals simp [hs, hstart, hdone]

@[simp] theorem State.suspendTeams_mem (s : State) (ctx) : (s.suspendTeams ctx).mem = s.mem := rfl

@[simp] theorem State.reTile_mem (ctx : BitVec 10) (x : State × Bool) (m : MmaOp)
    : (State.reTile ctx x m).1.mem = x.1.mem := by
  grind [State.reTile, State.translate_mem, Xlated.state]

@[simp] theorem State.landedAll_wf (s : State) (ctx) (hs : s.mem.wf = true) : (s.landedAll ctx).1.mem.wf = true := by
  unfold State.landedAll
  dsimp only
  rw [foldl_fst_mem _ (State.reTile_mem ctx)]
  exact State.foldl_wf _ (fun s e h => s.ackPosted_wf e.id h) _ s hs

/-! ### Bridge -/

@[simp] theorem State.hostAsk_wf (s : State) (flow p) (f : State → Nat → List Sys2Proof.Byte → HostTry)
    (hs : s.mem.wf = true) (hf : ∀ s x0 x1, s.mem.wf = true → (f s x0 x1).state.mem.wf = true) :
    (s.hostAsk flow p f).state.mem.wf = true := by
  grind [State.hostAsk, State.request_mem, State.serve_wf, HostTry.state, Served.state]

@[simp] theorem State.hostAddr_wf (s : State) (h a) (f : State → Nat → HostTry) (hs : s.mem.wf = true)
    (hf : ∀ s x0, s.mem.wf = true → (f s x0).state.mem.wf = true) :
    (s.hostAddr h a f).state.mem.wf = true := by
  grind [State.hostAddr, State.translateHome_mem, HostTry.state, Xlated.state]

@[simp] theorem State.tryHostRead_wf (s : State) (h)
    (hs : s.mem.wf = true) : (s.tryHostRead h).state.mem.wf = true := by
  grind [State.tryHostRead, State.hostAddr_wf, State.hostAsk_wf, HostTry.state]

@[simp] theorem State.tryHostWrite_wf (s : State) (h)
    (hs : s.mem.wf = true) : (s.tryHostWrite h).state.mem.wf = true := by
  grind [State.tryHostWrite, State.hostAddr_wf, State.hostAsk_wf, HostTry.state]

@[simp] theorem State.tryHostAtomic_wf (s : State) (h) (hs : s.mem.wf = true) :
    (s.tryHostAtomic h).state.mem.wf = true := by
  grind [State.tryHostAtomic, State.hostAddr_wf, State.hostAsk_wf, HostTry.state]

@[simp] theorem State.tryHostReg_wf (s : State) (h op data) (hs : s.mem.wf = true) :
    (s.tryHostReg h op data).state.mem.wf = true := by
  grind [State.tryHostReg, State.hostAsk_wf, HostTry.state]

@[simp] theorem State.tryHostLaunch_wf (s : State) (h) (hs : s.mem.wf = true) :
    (s.tryHostLaunch h).state.mem.wf = true := by
  grind [State.tryHostLaunch, State.hostAsk_wf, HostTry.state]

@[simp] theorem State.tryHost_wf (s : State) (j) (hs : s.mem.wf = true) : (s.tryHost j).state.mem.wf = true := by
  cases j <;> simp [State.tryHost, hs]

@[simp] theorem State.hostAnswer_mem (s : State) (flow j status data)
    : (s.hostAnswer flow j status data).mem = s.mem := rfl

@[simp] theorem State.hostWait_mem (s : State) (flow j) : (s.hostWait flow j).mem = s.mem := rfl

@[simp] theorem State.hostArrive_wf (s : State) (flow j)
    (hs : s.mem.wf = true) : (s.hostArrive flow j).mem.wf = true := by
  grind [State.hostArrive, State.hostAnswer_mem, State.hostWait_mem, State.latchResume_mem, State.tryHost_wf,
    HostTry.state]

@[simp] theorem State.tryWaiter_wf (s : State) (w) (hs : s.mem.wf = true) : (s.tryWaiter w).mem.wf = true := by
  cases w with
  | reply r => exact s.retryReply_wf r hs
  | add a => exact s.retryAdd_wf a hs
  | op r id pend => exact s.complete_wf r id pend hs
  | posted id => exact s.ackPosted_wf id hs
  | host q => grind [State.tryWaiter, State.tryHost_wf, State.hostAnswer_mem, HostTry.state]

@[simp] theorem State.pumpLine_wf (s : State) (line) (hs : s.mem.wf = true) : (s.pumpLine line).mem.wf = true := by
  grind [State.pumpLine, State.closeReady_wf, State.latchResume_mem, State.sendHeld_mem, State.tryWaiter_wf,
    State.foldl_wf]

@[simp] theorem State.pump_wf (s : State) (hs : s.mem.wf = true) : s.pump.mem.wf = true := by
  simp [State.pump, hs]

/-! ### Control -/

@[simp] theorem State.serviceCall_wf (s : State) (w act)
    (hs : s.mem.wf = true) : (s.serviceCall w act).mem.wf = true := by
  grind [State.serviceCall, State.flushed_wf, State.launch_wf, State.parkCall_mem, State.writeSlots_wf]

@[simp] theorem State.callLanes_wf (s : State) (w act) (hs : s.mem.wf = true) : (s.callLanes w act).mem.wf = true := by
  unfold State.callLanes
  repeat' split
  all_goals simp [hs]

/-! ### Fabric -/

@[simp] theorem State.discard_wf (s : State) (hs : s.mem.wf = true) : s.discard.mem.wf = true := by
  grind [State.discard, State.wrN_wf]

@[simp] theorem State.gateway_wf (s : State) (typ p) (f : State → State) (hs : s.mem.wf = true)
    (hf : ∀ s, s.mem.wf = true → (f s).mem.wf = true) :
    (s.gateway typ p f).mem.wf = true := by
  grind [State.gateway, State.discard_wf]

@[simp] theorem State.putFlow_mem (s : State) (f) : (s.putFlow f).mem = s.mem := rfl

@[simp] theorem State.passEarly_wf (s : State) (src flow) (fuel : Nat) (hs : s.mem.wf = true) :
    (s.passEarly src flow fuel).mem.wf = true := by
  induction fuel generalizing s with
  | zero => exact hs
  | succ fuel ih => grind [State.passEarly, State.accept_wf, State.putFlow_mem]

@[simp] theorem State.sequence_wf (s : State) (p) (hs : s.mem.wf = true) : (s.sequence p).mem.wf = true := by
  unfold State.sequence
  dsimp only
  repeat' split
  all_goals simp [hs]

@[simp] theorem State.arriveRequest_wf (s : State) (typ p) (hs : s.mem.wf = true) :
    (s.arriveRequest typ p).mem.wf = true := by
  grind [State.arriveRequest, State.accept_wf, State.answerDead_mem, State.gateway_wf, State.pump_wf, State.sequence_wf]

@[simp] theorem State.voidLine_mem (s : State) (line) : (s.voidLine line).mem = s.mem := rfl

@[simp] theorem State.answerCoh_wf (s : State) (p) (hs : s.mem.wf = true) : (s.answerCoh p).mem.wf = true := by
  simp [State.answerCoh, hs]

@[simp] theorem State.unrecall_mem (s : State) (r pkg) : (s.unrecall r pkg).mem = s.mem := by
  simp [State.unrecall]

@[simp] theorem State.takeCohack_wf (s : State) (p) (hs : s.mem.wf = true) : (s.takeCohack p).mem.wf = true := by
  unfold State.takeCohack
  dsimp only
  repeat' split
  all_goals simp [hs]

@[simp] theorem State.install_wf (s : State) (line) (st : LlcState) (data poison) (hs : s.mem.wf = true) :
    (s.install line st data poison).mem.wf = true := by
  unfold State.install
  dsimp only
  repeat' split
  all_goals simp [hs]

@[simp] theorem State.dropReq_mem (s : State) (r) : (s.dropReq r).mem = s.mem := rfl

@[simp] theorem State.keepReply_mem (s : State) (r st data) : (s.keepReply r st data).mem = s.mem := rfl

@[simp] theorem State.counterReply_wf (s : State) (r ctx va st) (hs : s.mem.wf = true) :
    (s.counterReply r ctx va st).mem.wf = true := by
  unfold State.counterReply
  split <;> simp [hs]

@[simp] theorem State.tileReply_wf (s : State) (id st data) (hs : s.mem.wf = true) :
    (s.tileReply id st data).mem.wf = true := by
  unfold State.tileReply
  repeat' split
  all_goals simp [hs]

@[simp] theorem State.sendAnew_mem (s : State) (r) : (s.sendAnew r).mem = s.mem := by
  simp [State.sendAnew]

@[simp] theorem State.answered_wf (s : State) (r st data flags) (hs : s.mem.wf = true) :
    (s.answered r st data flags).mem.wf = true := by
  unfold State.answered
  repeat' split
  all_goals simp [hs]

@[simp] theorem State.ackReply_mem (s : State) (p) : (s.ackReply p).mem = s.mem := by
  simp [State.ackReply]

@[simp] theorem State.takeReply_wf (s : State) (p aborting) (hs : s.mem.wf = true) :
    (s.takeReply p aborting).mem.wf = true := by
  grind [State.takeReply, State.ackReply_mem, State.answered_wf, State.pumpLine_wf, State.foldl_wf]

@[simp] theorem State.skipSeq_wf (s : State) (p) (hs : s.mem.wf = true) : (s.skipSeq p).mem.wf = true := by
  unfold State.skipSeq
  split <;> simp [hs]

@[simp] theorem State.takeAbort_wf (s : State) (p) (hs : s.mem.wf = true) : (s.takeAbort p).mem.wf = true := by
  unfold State.takeAbort
  repeat' split
  all_goals simp [hs]

@[simp] theorem State.markCell_wf (s : State) (cell x) (hs : s.mem.wf = true) : (s.markCell cell x).mem.wf = true := by
  unfold State.markCell
  split
  · exact hs
  · exact State.wrN_wf _ _ _ _ hs

@[simp] theorem State.releaseRecall_mem (s : State) (line ms) : (s.releaseRecall line ms).mem = s.mem := by
  grind [State.releaseRecall, State.resolveDead_mem, State.unrecall_mem, State.foldl_mem]

@[simp] theorem State.declareDead_wf (s : State) (cell cause pkg) (hs : s.mem.wf = true) :
    (s.declareDead cell cause pkg).mem.wf = true := by
  grind [State.declareDead, State.addPoison_mem, State.event_wf, State.markCell_wf, State.pump_wf,
    State.releaseRecall_mem, State.foldl_wf]

@[simp] theorem State.cellDone_mem (s : State) : s.cellDone.mem = s.mem := rfl

/-! ### Tcq -/

@[simp] theorem State.tcqEnd_wf (s : State) (status) (hs : s.mem.wf = true) : (s.tcqEnd status).mem.wf = true := by
  grind [State.tcqEnd, State.pump_wf, State.wrN_wf]

/-- The definition is unfolded as a function: compared with its own body at a state, it would be evaluated there. -/
@[simp] theorem State.tcqReady_mem (s : State) : s.tcqReady.state.mem = s.mem := by
  have hdef : @State.tcqReady = @State.tcqReady := rfl
  conv at hdef => rhs; delta State.tcqReady
  have hready := congrFun hdef s
  beta_reduce at hready
  rw [hready]
  clear hdef hready
  have h := s.readyLines_mem 0#10 (unitFlow 0 0) [lineOf s.tcqBase]
  revert h
  cases s.readyLines 0#10 (unitFlow 0 0) [lineOf s.tcqBase] with
  | yes t => exact (t.readyLines_mem ..).trans
  | wait t | fail t n => exact id

/-- Unfolded as a function, as in `State.tcqReady_mem`. -/
@[simp] theorem State.tcqRun_wf (s : State) (e) (first run : State → List Byte → State) (hs : s.mem.wf = true)
    (hfirst : ∀ s x0, s.mem.wf = true → (first s x0).mem.wf = true)
    (hrun : ∀ s x0, s.mem.wf = true → (run s x0).mem.wf = true) : (s.tcqRun e first run).mem.wf = true := by
  have hdef : @State.tcqRun = @State.tcqRun := rfl
  conv at hdef => rhs; delta State.tcqRun
  have htcq := congrFun (congrFun (congrFun (congrFun hdef s) e) first) run
  beta_reduce at htcq
  rw [htcq]
  clear hdef htcq
  have h : s.tcqReady.state.mem.wf = true := by rw [State.tcqReady_mem]; exact hs
  revert h
  cases s.tcqReady with
  | wait t | fail t n => exact id
  | yes t =>
    intro (ht : t.mem.wf = true)
    dsimp only
    split
    · exact ht
    · next bs _ =>
      split
      · exact ht
      · split
        · exact hrun t bs ht
        · have hf := hfirst { t with tcq := some ⟨bs, []⟩ } bs ht
          split
          · exact hf
          · exact hrun _ bs hf

@[simp] theorem State.onceLanded_wf (s : State) (ctx) (f : State → State) (hs : s.mem.wf = true)
    (hf : ∀ s, s.mem.wf = true → (f s).mem.wf = true) :
    (s.onceLanded ctx f).mem.wf = true := by
  unfold State.onceLanded
  dsimp only
  repeat' split
  all_goals simp [hs, hf]

@[simp] theorem State.freeEntries_mem (s : State) (ctx page bs) : (s.freeEntries ctx page bs).mem = s.mem := rfl

@[simp] theorem State.releaseGroup_wf (s : State) (r) (hs : s.mem.wf = true) : (s.releaseGroup r).mem.wf = true := by
  grind [State.releaseGroup, State.resumeInPlace_mem, State.setStatus_mem, State.withGroup_wf]

@[simp] theorem State.markFinal_wf (s : State) (r) (hs : s.mem.wf = true) : (s.markFinal r).mem.wf = true := by
  grind [State.markFinal, State.setStatus_mem, State.withGroup_wf]

@[simp] theorem State.finalGroup_wf (s : State) (r) (hs : s.mem.wf = true) : (s.finalGroup r).mem.wf = true := by
  grind [State.finalGroup, State.withGroup_wf, State.writeWaiting_wf]

@[simp] theorem State.recallRange_mem (s : State) (base len kind) : (s.recallRange base len kind).mem = s.mem := by
  grind [State.recallRange, State.dropDir_mem, State.recall_mem, State.resolveDead_mem, State.foldl_mem]

@[simp] theorem State.freeze_mem (s : State) (base len) : (s.freeze base len).mem = s.mem := rfl

@[simp] theorem State.askTiles_mem (s : State) (base len) : (s.askTiles base len).mem = s.mem := by
  simp [State.askTiles]

@[simp] theorem State.askRoom_mem (s : State) (base len dst) : (s.askRoom base len dst).mem = s.mem := by
  grind [State.askRoom, State.request_mem, State.foldl_mem]

@[simp] theorem State.asksDone_mem (s : State) : s.asksDone.mem = s.mem := rfl

@[simp] theorem State.onceAsked_wf (s : State) (f : State → State) (hs : s.mem.wf = true)
    (hf : ∀ s, s.mem.wf = true → (f s).mem.wf = true) :
    (s.onceAsked f).mem.wf = true := by
  simp [State.onceAsked, hs, hf]

@[simp] theorem State.startMove_wf (s : State) (bs) (hs : s.mem.wf = true) : (s.startMove bs).mem.wf = true := by
  simp [State.startMove, hs]

@[simp] theorem State.checkMove_wf (s : State) (m : MoveState)
    (hs : s.mem.wf = true) : (s.checkMove m).mem.wf = true := by
  unfold State.checkMove
  dsimp only
  repeat' split
  all_goals simp [hs]

@[simp] theorem State.copyLines_wf (base dst fuel k : Nat) (s : State) (hs : s.mem.wf = true) :
    (State.copyLines base dst fuel k s).1.mem.wf = true := by
  induction fuel generalizing k s with
  | zero => exact hs
  | succ fuel ih => grind [State.copyLines, State.readyLine_mem, State.homeWrite_wf, State.addPoison_mem,
    State.clearPoison_mem, Ready.state]

@[simp] theorem State.sendLines_mem (base dst fuel k : Nat) (s : State)
    : (State.sendLines base dst fuel k s).1.mem = s.mem := by
  induction fuel generalizing k s with
  | zero => rfl
  | succ fuel ih => grind [State.sendLines, State.request_mem]

@[simp] theorem State.moveTriggers_mem (s : State) (m : MoveState) : (s.moveTriggers m).mem = s.mem := by
  simp [State.moveTriggers]

@[simp] theorem State.failMove_wf (s : State) (m : MoveState)
    (hs : s.mem.wf = true) : (s.failMove m).mem.wf = true := by
  simp [State.failMove, hs]

@[simp] theorem State.goCopy_wf (s : State) (m : MoveState) (hs : s.mem.wf = true) : (s.goCopy m).mem.wf = true := by
  grind [State.goCopy, State.copyLines_wf, State.failMove_wf, State.moveTriggers_mem, State.recallRange_mem,
    State.sendLines_mem]

@[simp] theorem State.goMove_wf (s : State) (hs : s.mem.wf = true) : s.goMove.mem.wf = true := by
  grind [State.goMove, State.checkMove_wf, State.goCopy_wf, State.onceAsked_wf, State.tcqEnd_wf]

@[simp] theorem State.startCarve_wf (s : State) (die) (hs : s.mem.wf = true) : (s.startCarve die).mem.wf = true := by
  simp [State.startCarve, hs]

@[simp] theorem State.checkCarve_wf (s : State) (m : MoveState) (hs : s.mem.wf = true) :
    (s.checkCarve m).mem.wf = true := by
  unfold State.checkCarve
  dsimp only
  repeat' split
  all_goals simp [hs]

@[simp] theorem State.endCarve_wf (s : State) (die units) (hs : s.mem.wf = true) :
    (s.endCarve die units).mem.wf = true := by
  grind [State.endCarve, State.fitLlc_wf, State.tcqEnd_wf, State.foldl_wf]

@[simp] theorem State.goCarve_wf (s : State) (die units)
    (hs : s.mem.wf = true) : (s.goCarve die units).mem.wf = true := by
  grind [State.goCarve, State.checkCarve_wf, State.endCarve_wf, State.onceAsked_wf, State.recallRange_mem]

@[simp] theorem State.postedFault_wf (s : State) (e code) (hs : s.mem.wf = true) :
    (s.postedFault e code).mem.wf = true := by
  grind [State.postedFault, State.putOp_mem, State.withGroup_wf]

@[simp] theorem State.repost_wf (s : State) (e) (hs : s.mem.wf = true) : (s.repost e).mem.wf = true := by
  grind [State.repost, State.dropVa_mem, State.postedFault_wf, State.translate_mem, Xlated.state]

@[simp] theorem State.reOps_wf (s : State) (hs : s.mem.wf = true) : s.reOps.mem.wf = true := by
  grind [State.reOps, State.dropVa_mem, State.progress_wf, State.foldl_wf]

/-! ### Reliab -/

@[simp] theorem State.keyEnd_wf (s : State) (status) (hs : s.mem.wf = true) : (s.keyEnd status).mem.wf = true := by
  simp [State.keyEnd, State.wrN_wf, hs]

@[simp] theorem State.renewKey_mem (s : State) (key) : (s.renewKey key).mem = s.mem := rfl

@[simp] theorem State.discardHolding_mem (s : State) (e) : (s.discardHolding e).mem = s.mem := by
  simp [State.discardHolding]

@[simp] theorem State.lostAccesses_mem (s : State) (key) : (s.lostAccesses key).mem = s.mem := rfl

@[simp] theorem State.retireKey_mem (s : State) (key) : (s.retireKey key).mem = s.mem := by
  simp [State.retireKey]

@[simp] theorem State.ucieRepair_mem (s : State) (pair) : (s.ucieRepair pair).mem = s.mem := by
  simp [State.ucieRepair]

@[simp] theorem State.sparesEvent_wf (s : State) (cause)
    (hs : s.mem.wf = true) : (s.sparesEvent cause).mem.wf = true := by
  simp [State.sparesEvent, hs]

@[simp] theorem State.putRow_mem (s : State) (x : RowState) : (s.putRow x).mem = s.mem := rfl

@[simp] theorem State.spareRow_wf (s : State) (x : RowState) (hs : s.mem.wf = true) : (s.spareRow x).mem.wf = true := by
  unfold State.spareRow
  split <;> simp [hs]

@[simp] theorem State.correctedRow_wf (s : State) (row)
    (hs : s.mem.wf = true) : (s.correctedRow row).mem.wf = true := by
  simp [State.correctedRow, hs]

@[simp] theorem State.swapCore_mem (s : State) (core) : (s.swapCore core).mem = s.mem := rfl

@[simp] theorem State.fenceCore_mem (s : State) (core) : (s.fenceCore core).mem = s.mem := by
  simp [State.fenceCore]

@[simp] theorem State.emptySlice_wf (s : State) (die slice) (hs : s.mem.wf = true) :
    (s.emptySlice die slice).mem.wf = true := by
  simp +contextual [State.emptySlice, hs]

@[simp] theorem State.join_mem (s : State) : s.join.mem = s.mem := by
  simp [State.join]

@[simp] theorem State.booted_mem (s : State) : s.booted.mem = s.mem := rfl

@[simp] theorem State.afterReset_mem (s : State) : s.afterReset.mem = s.mem := by
  simp [State.afterReset]

/-! ### Step -/

@[simp] theorem State.settle_mem (s : State) : s.settle.mem = s.mem := rfl

@[simp] theorem State.nextTurn_mem (s : State) : s.nextTurn.2.mem = s.mem := by
  unfold State.nextTurn
  repeat' split
  all_goals simp

/-! ### Outcomes -/

/-- The outcome is no state, or one whose memory is canonical. -/
def EndsCanonical : Host.Outcome State Fault Refusal → Prop
  | .next t => Canonical t
  | .fault _ | .refused _ => True

@[simp] theorem canonical_iff (s : State) : Canonical s ↔ s.mem.wf = true := Iff.rfl

theorem EndsCanonical.next {t : State} (ht : t.mem.wf = true) : EndsCanonical (.next t) := ht

theorem EndsCanonical.fault (f : Fault) : EndsCanonical (.fault f) := trivial

theorem EndsCanonical.ite {c : Prop} [Decidable c] {a b : Host.Outcome State Fault Refusal} (ha : EndsCanonical a)
    (hb : EndsCanonical b) : EndsCanonical (if c then a else b) := by split <;> assumption

theorem EndsCanonical.finish {o : Host.Outcome State Fault Refusal}
    (ho : EndsCanonical o) : EndsCanonical (finish o) := by
  cases o with
  | next t => exact .next (by rw [State.settle, State.noFocus_mem, State.storeFocus_mem]; exact ho)
  | fault f => exact .fault f
  | refused r => exact ho

section
variable (s : State) (hs : s.mem.wf = true)
include hs

theorem State.issueWord_ends (i : Instr) (f : State → State) (hf : (f s).mem.wf = true) :
    EndsCanonical (s.issueWord i f) :=
  .ite (.fault _) (.ite (.next hf) (.next (by simp [hs])))

theorem State.vec_ends (i : Instr) (guard : BitVec 7) (f : Mask → Group → Group) : EndsCanonical (s.vec i guard f) :=
  s.issueWord_ends hs i _ (by dsimp only; split <;> simp [hs])

theorem State.cross_ends (i : Instr) (guard : BitVec 7) (f : Mask → Group → Group)
    : EndsCanonical (s.cross i guard f) :=
  s.issueWord_ends hs i _ (by dsimp only; split <;> simp [hs])

theorem State.flow_ends (i : Instr) (guard : BitVec 7) (f : Mask → Group → Group) : EndsCanonical (s.flow i guard f) :=
  s.issueWord_ends hs i _ (by dsimp only; split <;> simp [hs])

theorem State.depthWord_ends (i : Instr) (guard : BitVec 7) (edge : BitVec 8) (dir : W64) (f : Mask → Group → Group) :
    EndsCanonical (s.depthWord i guard edge dir f) :=
  s.issueWord_ends hs i _ (by dsimp only; split <;> (try split) <;> simp [hs])

theorem State.vecThen_ends (i : Instr) (guard : BitVec 7) (f : Mask → State → State)
    (hf : ∀ m s, s.mem.wf = true → (f m s).mem.wf = true) : EndsCanonical (s.vecThen i guard f) :=
  s.issueWord_ends hs i _ (by
    have h := hf ((s.iss.mask &&& s.g.pred guard) &&& ~~~(s.g.badLanes i (s.iss.mask &&& s.g.pred guard)))
    dsimp only
    split <;> simp [h, hs])

theorem State.vmem_ends (i : Instr) (guard : BitVec 7) (check : State → Fin 32 → List (BitVec 8 × W64))
    (f : Mask → State → State) (hf : ∀ m s, s.mem.wf = true → (f m s).mem.wf = true) :
    EndsCanonical (s.vmem i guard check f) :=
  s.issueWord_ends hs i _ (by
    have h := hf ((s.iss.mask &&& s.g.pred guard) &&& ~~~(s.g.badLanes i (s.iss.mask &&& s.g.pred guard)))
    dsimp only
    split
    · simp [hs]
    · split <;> split <;> simp [h, hs])

theorem State.once_ends (i : Instr) (guard : BitVec 7) (f : Mask → State → State)
    (hf : ∀ m s, s.mem.wf = true → (f m s).mem.wf = true) : EndsCanonical (s.once i guard f) :=
  s.issueWord_ends hs i _ (by
    dsimp only
    split
    · simp [hs]
    · split
      · exact hf _ s hs
      · simp [hs])

theorem State.gmem_ends (i : Instr) (guard : BitVec 7) (check : State → List (BitVec 8 × W64)) (f
    : Mask → State → State)
    (hf : ∀ m s, s.mem.wf = true → (f m s).mem.wf = true) : EndsCanonical (s.gmem i guard check f) :=
  s.once_ends hs i guard _ fun m s hs => by
    split
    · simp [hs]
    · exact hf m _ (by simp [hs])

theorem State.unit_ends (i : Instr) (q : BitVec 4) (neg : Bool) (f : State → State) (hf : (f s).mem.wf = true) :
    EndsCanonical (s.unit i q neg f) :=
  s.issueWord_ends hs i _ (by
    dsimp only
    split
    · split
      · exact hf
      · simp [hs]
    · simp [hs])

theorem State.unitG_ends (i : Instr) (q : BitVec 4) (neg : Bool) (f : Group → Group)
    : EndsCanonical (s.unitG i q neg f) :=
  s.unit_ends hs i q neg _ (by simp [hs])

theorem State.umem_ends (i : Instr) (q : BitVec 4) (neg sp : Bool) (addr : W64) (n : Nat) (f : State → State)
    (hf : ∀ s, s.mem.wf = true → (f s).mem.wf = true) : EndsCanonical (s.umem i q neg sp addr n f) :=
  s.unit_ends hs i q neg _ (by
    dsimp only
    split
    · simp [hs]
    · exact hf _ (by simp [hs]))

omit hs in
theorem State.ev_ends (f : State → State) (hf : Canonical (f s)) : EndsCanonical (s.ev f) := .ite (.fault _) (.next hf)

theorem State.evGroup_ends (r : GroupRef) (f : State → State) (hf : ∀ s, s.mem.wf = true → (f s).mem.wf = true) :
    EndsCanonical (s.evGroup r f) :=
  s.ev_ends _ (s.withGroup_wf r f hs hf)

theorem State.flong_ends (i : Instr) (guard la : BitVec 7) (wide : Bool) (d : BitVec 7) (f
    : Group → Fin 32 → W64 × Flags) :
    EndsCanonical (s.flong i guard la wide d f) :=
  .ite (s.vec_ends hs i guard _) (s.vecThen_ends hs i guard _ fun m s hs => by dsimp only; split <;> exact hs)

theorem State.counterAdd_ends (i : Instr) (g : GCtr) (delta : W64 → W64) : EndsCanonical (s.counterAdd i g delta) := by
  unfold State.counterAdd
  exact s.gmem_ends hs i g.guard _ _ fun m s hs => by simp [hs]

theorem State.bin_ends (i : Instr) (w : WBin) (f : W32 → W32 → W32) : EndsCanonical (s.bin i w f) :=
  s.vec_ends hs _ _ _

theorem State.imm_ends (i : Instr) (w : WImm) (f : W32 → W32) : EndsCanonical (s.imm i w f) := s.vec_ends hs _ _ _

theorem State.tri_ends (i : Instr) (w : WTri) (f : W32 → W32 → W32 → W32) : EndsCanonical (s.tri i w f) :=
  s.vec_ends hs _ _ _

theorem State.un_ends (i : Instr) (w : WUn) (f : W32 → W32) : EndsCanonical (s.un i w f) := s.vec_ends hs _ _ _

theorem State.cmp_ends (i : Instr) (w : WCmp) (f : W32 → W32 → Bool) : EndsCanonical (s.cmp i w f) :=
  s.vec_ends hs _ _ _

theorem State.bin64_ends (i : Instr) (w : WBin) (f : W64 → W64 → W64) : EndsCanonical (s.bin64 i w f) :=
  s.vec_ends hs _ _ _

theorem State.shift64_ends (i : Instr) (w : WBin) (f : W64 → Nat → W64) : EndsCanonical (s.shift64 i w f) :=
  s.vec_ends hs _ _ _

theorem State.fvec_ends (i : Instr) (guard : BitVec 7) (wide : Bool) (d : BitVec 7) (f : Group → Fin 32 → W64 × Flags) :
    EndsCanonical (s.fvec i guard wide d f) := s.vec_ends hs _ _ _

theorem State.frnd_ends (i : Instr) (k : FKind) (w : WRnd) (f : Fmt → RMode → Nat → Nat → Nat × Flags) :
    EndsCanonical (s.frnd i k w f) := s.fvec_ends hs _ _ _ _ _

theorem State.ffma_ends (i : Instr) (k : FKind) (w : WTri) : EndsCanonical (s.ffma i k w) := s.fvec_ends hs _ _ _ _ _

theorem State.fminmax_ends (i : Instr) (k : FKind) (max : Bool) (w : WBin) : EndsCanonical (s.fminmax i k max w) :=
  s.fvec_ends hs _ _ _ _ _

theorem State.fsign_ends (i : Instr) (k : FKind) (negate : Bool) (w : WUn) : EndsCanonical (s.fsign i k negate w) :=
  s.fvec_ends hs _ _ _ _ _

theorem State.signBits_ends (i : Instr) (w : WUn) (f : W32 → W32) : EndsCanonical (s.signBits i w f) :=
  s.vec_ends hs _ _ _

theorem State.fcmp_ends (i : Instr) (k : FKind) (c : FCond) (w : WCmp) : EndsCanonical (s.fcmp i k c w) :=
  s.vec_ends hs _ _ _

theorem State.fclass_ends (i : Instr) (k : FKind) (w : WCmp) : EndsCanonical (s.fclass i k w) := s.vec_ends hs _ _ _

theorem State.fdiv_ends (i : Instr) (k : FKind) (w : WBin) (la : BitVec 4) : EndsCanonical (s.fdiv i k w la) :=
  s.flong_ends hs _ _ _ _ _ _

theorem State.fsqrt_ends (i : Instr) (k : FKind) (w : WUn) (la : BitVec 4) : EndsCanonical (s.fsqrt i k w la) :=
  s.flong_ends hs _ _ _ _ _ _

theorem State.fspecial_ends (i : Instr) (fn : SpecialFn) (w : WUn) (la : BitVec 4) :
    EndsCanonical (s.fspecial i fn w la) := s.flong_ends hs _ _ _ _ _ _

theorem State.vote_ends (i : Instr) (w : WVote) (f : Mask → Mask → Bool) : EndsCanonical (s.vote i w f) :=
  s.cross_ends hs _ _ _

theorem State.scan_ends (i : Instr) (w : WScan) (exclusive : Bool) : EndsCanonical (s.scan i w exclusive) :=
  s.cross_ends hs _ _ _

theorem State.plogic_ends (i : Instr) (w : WPred) (f : Mask → Mask → Mask) : EndsCanonical (s.plogic i w f) :=
  s.cross_ends hs _ _ _

theorem State.ubin_ends (i : Instr) (u : UBin) (f : W64 → W64 → W64) : EndsCanonical (s.ubin i u f) :=
  s.unitG_ends hs _ _ _ _

theorem State.uimm_ends (i : Instr) (u : UImm) (f : W64 → W64) : EndsCanonical (s.uimm i u f) :=
  s.unitG_ends hs _ _ _ _

theorem State.ucmp_ends (i : Instr) (u : UCmp) (f : W64 → W64 → Bool) : EndsCanonical (s.ucmp i u f) :=
  s.unitG_ends hs _ _ _ _

end

/-! ### Words and events that change more than their group -/

section
variable (s : State) (hs : s.mem.wf = true)
include hs

theorem execChld_ends (m : MChld) : EndsCanonical (execChld m s) := by
  unfold execChld
  dsimp only
  refine .ite (.fault _) (.ite (.next (by simp [hs])) ?_)
  split
  · exact s.once_ends hs _ _ _ fun act s hs => by simp [hs]
  · exact s.vmem_ends hs _ _ _ _ fun act s hs => by simp [hs]

theorem execTcopy_ends (e) : EndsCanonical (execTcopy e s) := by
  refine s.once_ends hs _ _ _ fun act s hs => ?_
  dsimp only
  have h := s.checkCopy_wf e act (s.g.sr64 (sreg7 e.a)) (s.g.sr64 (sreg7 e.c)) hs
  split
  · simp [hs]
  · split
    · split <;> simp [hs]
    · split <;> simp_all

theorem execCresv_ends (e) : EndsCanonical (execCresv e s) := by
  refine s.once_ends hs _ _ _ fun act s hs => ?_
  dsimp only
  split
  · simp [hs]
  · split <;> simp [hs]

theorem execCrel_ends (e) : EndsCanonical (execCrel e s) := by
  refine s.once_ends hs _ _ _ fun act s hs => ?_
  dsimp only
  split
  · simp [hs]
  · split <;> simp [hs]

theorem execMma_ends (e) : EndsCanonical (execMma e s) := by
  refine s.issueWord_ends hs _ _ ?_
  have h := s.translate_mem s.t.core s.t.ctx (s.g.sr64 (sreg7 e.c)) .store
  dsimp only
  split
  · simp [hs]
  · split
    · simp [hs]
    · generalize (if s.holdsA = true then none else s.g.badA e.a) = bad
      split
      · simp [hs]
      · split
        · simp [hs]
        · split <;> simp_all

theorem execExit_ends (e) : EndsCanonical (execExit e s) := by
  refine s.issueWord_ends hs _ _ ?_
  dsimp only
  split <;> simp [hs]

theorem execSread_ends (u) : EndsCanonical (execSread u s) := 
  .ite (.fault _) (.ite (.next (by simp [hs])) (s.unit_ends hs _ _ _ _ (by simp [hs])))

theorem execSreadW_ends (u) : EndsCanonical (execSreadW u s) := 
  .ite (.fault _) (.ite (.next (by simp [hs])) (s.unit_ends hs _ _ _ _ (by dsimp only; split <;> simp [hs])))

theorem execGrowGrant_ends (core) : EndsCanonical (execGrowGrant core s) := by
  refine s.ev_ends _ ?_
  dsimp only
  split
  · simp [hs]
  · refine State.withGroup_wf _ _ _ (by simp [hs]) fun s hs => ?_
    split <;> simp [hs]

theorem execGrowDeadlockFail_ends (core) : EndsCanonical (execGrowDeadlockFail core s) := by
  refine s.ev_ends _ ?_
  dsimp only
  split
  · split
    · simp [hs]
    · refine State.withGroup_wf _ _ _ (by simp [hs]) fun s hs => ?_
      split <;> simp [hs]
  · simp [hs]

theorem execOperandLogReplay_ends (at_) : EndsCanonical (execOperandLogReplay at_ s) := by
  refine s.evGroup_ends hs _ _ fun s hs => ?_
  split
  · next e _ =>
    split
    · cases h : s.logWalks e with
      | none => simp [hs]
      | some t => simpa [s.logWalks_mem e t h] using hs
    · exact hs
  · exact hs

theorem execFenceComplete_ends (at_) : EndsCanonical (execFenceComplete at_ s) := by
  refine s.evGroup_ends hs _ _ fun s hs => ?_
  split
  · exact hs
  · next sc ids _ =>
    have h : (if dieUp sc = true then s.drainList ids else (s, true)).1.mem.wf = true := by split <;> simp [hs]
    dsimp only
    generalize (if dieUp sc = true then s.drainList ids else (s, true)) = d at h
    split
    · split <;> split <;> simp [h]
    · exact h

theorem execSvc_ends (w) : EndsCanonical (execSvc w s) := by
  unfold execSvc
  have h := s.ringReady_mem (lanesOf (s.iss.mask &&& s.g.pred w.guard)).length
  split
  · refine .ite (.fault _) (.next ?_)
    simp_all
  · refine .ite (.fault _) (.next ?_)
    simp_all
  · next t ht => exact t.vecThen_ends (by simp_all) _ _ _ fun act s hs => by simp [hs]

theorem State.launchWord_ends (i guard la d rec_ ctr trig) : EndsCanonical (s.launchWord i guard la d rec_ ctr trig)
    := by
  refine s.once_ends hs _ _ _ fun act s hs => ?_
  dsimp only
  have h := s.checkLaunch_wf rec_ (trig.map fun sc => (ctr, sc)) hs
  split
  · split <;> simp [hs]
  · split
    · simp_all
    · simp_all
    · split <;> simp_all
    · simp_all
    · simp_all
    · next t bytes ht =>
      have ht : t.mem.wf = true := by simp_all
      have h := t.goLaunch_wf bytes (trig.map fun sc => (ctr, sc)) ht
      split
      · simp [ht]
      · split <;> simp_all

theorem execTcqTailAdvance_ends : EndsCanonical (execTcqTailAdvance s) := by
  refine s.ev_ends _ ?_
  have h := s.readyLine_mem 0#10 (unitFlow 0 0) (lineOf s.tcqBase) false
  split <;> simp_all

theorem execInval_ends : EndsCanonical (execInval s) := by
  refine s.ev_ends _ ?_
  rw [canonical_iff]
  refine State.tcqRun_wf _ _ _ _ hs (fun s bs hs => ?_) fun s bs hs => ?_
  · rw [State.invalRange_mem]; exact hs
  · exact s.onceLanded_wf _ _ hs fun s hs => s.tcqEnd_wf 0 hs

theorem execResolve_ends : EndsCanonical (execResolve s) := by
  refine s.ev_ends _ ?_
  rw [canonical_iff]
  refine State.tcqRun_wf _ _ _ _ hs (fun s bs hs => ?_) fun s bs hs => ?_
  · rw [State.freeEntries_mem, State.invalRange_mem]; exact hs
  · exact s.onceLanded_wf _ _ hs fun s hs =>
      State.tcqEnd_wf _ 0 (State.foldl_wf _ (fun s r hs => s.releaseGroup_wf r hs) _ s hs)

theorem execFinalCmd_ends : EndsCanonical (execFinalCmd s) := by
  refine s.ev_ends _ ?_
  rw [canonical_iff]
  refine State.tcqRun_wf _ _ _ _ hs (fun s bs hs => ?_) fun s bs hs => ?_
  · rw [State.freeEntries_mem]; exact hs
  · exact State.tcqEnd_wf _ 0 (State.foldl_wf _ (fun s r hs => s.finalGroup_wf r hs) _ _
      (State.foldl_wf _ (fun s r hs => s.markFinal_wf r hs) _ s hs))

theorem execMmaLatchEvent_ends (core : Nat) : EndsCanonical (execMmaLatchEvent core s) := by
  refine s.ev_ends _ ((canonical_iff _).2 ?_)
  grind [State.storeFocus_mem, State.latch_wf, State.latchFails_wf]

theorem execMmaContributionSend_ends (core : Nat) : EndsCanonical (execMmaContributionSend core s) := by
  refine s.ev_ends _ ((canonical_iff _).2 ?_)
  grind [State.putEngine_mem, State.sendContribution_wf, State.meet_wf]

theorem execTileContributionArrival_ends (id : Nat) : EndsCanonical (execTileContributionArrival id s) := by
  refine s.ev_ends _ ((canonical_iff _).2 ?_)
  grind [State.strayContribution_wf, State.putTile_wf]

theorem execTcopyStart_ends (core elements : Nat) : EndsCanonical (execTcopyStart core elements s) := by
  refine s.ev_ends _ ((canonical_iff _).2 ?_)
  grind [State.progressCopy_wf]

theorem execTcopyComplete_ends (core cmd : Nat) : EndsCanonical (execTcopyComplete core cmd s) := by
  refine s.ev_ends _ ((canonical_iff _).2 ?_)
  grind [State.progressCopy_wf, State.endCopy_wf]

theorem execStcLanding_ends (id : Nat) : EndsCanonical (execStcLanding id s) := by
  refine s.ev_ends _ ((canonical_iff _).2 ?_)
  grind [State.withGroup_wf, State.drainList_wf, State.atomVa_wf, State.putOp_mem, State.asRetry_mem, Tried.state]

theorem execTeamSave_ends (team : Nat) : EndsCanonical (execTeamSave team s) := by
  refine s.ev_ends _ ((canonical_iff _).2 ?_)
  grind [State.drainCore_wf, State.saveTeam_wf]

theorem execTeamResume_ends (team : Nat) : EndsCanonical (execTeamResume team s) := by
  refine s.ev_ends _ ((canonical_iff _).2 ?_)
  grind [State.readyLines_mem, State.replySaved_wf, State.joinFront_mem, State.resumeHere_wf, Ready.state]

theorem execMovedRetry_ends (at_ : GroupRef) : EndsCanonical (execMovedRetry at_ s) := by
  refine s.ev_ends _ ((canonical_iff _).2 ?_)
  grind [State.repost_wf, State.goAcp_wf, State.withGroup_wf, State.reOps_wf, State.foldl_wf]

theorem execRecoveryComplete_ends (cell : BitVec 21) : EndsCanonical (execRecoveryComplete cell s) := by
  refine s.ev_ends _ ((canonical_iff _).2 ?_)
  grind [State.resolveDead_mem, State.cellDone_mem, State.wrN_wf, State.pump_wf, State.foldl_wf]

theorem execCellDeadCommand_ends : EndsCanonical (execCellDeadCommand s) := by
  refine s.ev_ends _ ((canonical_iff _).2 ?_)
  grind [State.cellDone_mem, State.declareDead_wf, State.wrN_wf]

theorem execCellLiveCommand_ends : EndsCanonical (execCellLiveCommand s) := by
  refine s.ev_ends _ ((canonical_iff _).2 ?_)
  grind [State.cellDone_mem, State.resolveDead_mem, State.markCell_wf, State.foldl_wf]

theorem execCohack_ends (p : Packet) : EndsCanonical (execCohack p s) := by
  refine s.ev_ends _ ((canonical_iff _).2 ?_)
  grind [State.gateway_wf, State.takeCohack_wf]

theorem execRetry_ends (p : Packet) : EndsCanonical (execRetry p s) := by
  refine s.ev_ends _ ((canonical_iff _).2 ?_)
  grind [State.gateway_wf]

theorem execAbort_ends (p : Packet) : EndsCanonical (execAbort p s) := by
  refine s.ev_ends _ ((canonical_iff _).2 ?_)
  grind [State.gateway_wf, State.answerDead_mem, State.pump_wf, State.takeAbort_wf]

theorem execAbortTimeout_ends (tag : Nat) : EndsCanonical (execAbortTimeout tag s) := by
  refine s.ev_ends _ ((canonical_iff _).2 ?_)
  grind [State.event_wf, State.pump_wf, State.answered_wf]

theorem execRowRemapSwitch_ends (row : RowRef) : EndsCanonical (execRowRemapSwitch row s) := by
  refine s.ev_ends _ ((canonical_iff _).2 ?_)
  grind [State.putRow_mem]

theorem execGroupRetire_ends (at_ : GroupRef) : EndsCanonical (execGroupRetire at_ s) := by
  refine s.evGroup_ends hs _ _ fun s hs => ?_
  grind [State.drainList_wf, State.retire_wf]

end

/-! ### Every instruction -/

theorem exec_word_ends (i : Instr) (s : State) (hs : s.mem.wf = true) (hi : i.isWord = true) :
    EndsCanonical (exec i s) := by
  cases i with
  | iadd w | isub w | imulLo w | imulHi w | imulHiU w | imin w | iminU w | imax w | imaxU w | shl w | shr w | sar w
  | rol w | and w | or w | xor w | andn w | bfx w | bfxS w =>
    unfold exec; exact s.bin_ends hs _ _ _
  | iaddIs w | shlIu w | shrIu w | sarIu w | rolIu w | andIu w | orIu w | xorIu w | movhi w =>
    unfold exec; exact s.imm_ends hs _ _ _
  | iaddc w | imadw w | imadwU w | lgc3 w | sel w | movi w | lea w | fcvt w | fcvtSeed w | fpack w | nop w
  | yield w =>
    unfold exec; exact s.vec_ends hs _ _ _
  | imad w | dshl w | dshr w | bfi w | bperm w =>
    unfold exec; exact s.tri_ends hs _ _ _
  | iabs w | ineg w | popc w | clz w | brev w | mov w =>
    unfold exec; exact s.un_ends hs _ _ _
  | icmpEq w | icmpLt w | icmpLe w | icmpLtU w | icmpLeU w =>
    unfold exec; exact s.cmp_ends hs _ _ _
  | iadd64 w | isub64 w =>
    unfold exec; exact s.bin64_ends hs _ _ _
  | shl64 w | shr64 w | sar64 w =>
    unfold exec; exact s.shift64_ends hs _ _ _
  | faddF64 w | faddF32 w | faddF16x2 w | faddBf16x2 w | fsubF64 w | fsubF32 w | fsubF16x2 w | fsubBf16x2 w
  | fmulF64 w | fmulF32 w | fmulF16x2 w | fmulBf16x2 w =>
    unfold exec; exact s.frnd_ends hs _ _ _ _
  | ffmaF64 w | ffmaF32 w | ffmaF16x2 w | ffmaBf16x2 w =>
    unfold exec; exact s.ffma_ends hs _ _ _
  | fminF64 w | fminF32 w | fminF16x2 w | fminBf16x2 w | fmaxF64 w | fmaxF32 w | fmaxF16x2 w | fmaxBf16x2 w =>
    unfold exec; exact s.fminmax_ends hs _ _ _ _
  | fabsF64 w | fabsF32 w | fnegF64 w | fnegF32 w =>
    unfold exec; exact s.fsign_ends hs _ _ _ _
  | fabsX2 w | fnegX2 w =>
    unfold exec; exact s.signBits_ends hs _ _ _
  | fcmpEqF64 w | fcmpLtF64 w | fcmpLeF64 w | fcmpEqF32 w | fcmpLtF32 w | fcmpLeF32 w =>
    unfold exec; exact s.fcmp_ends hs _ _ _ _
  | fclassF64 w | fclassF32 w =>
    unfold exec; exact s.fclass_ends hs _ _ _
  | fdivF64 w la | fdivF32 w la =>
    unfold exec; exact s.fdiv_ends hs _ _ _ _
  | fsqrtF64 w la | fsqrtF32 w la =>
    unfold exec; exact s.fsqrt_ends hs _ _ _ _
  | frcp w la | frsq w la | fexp2 w la | flog2 w la | fsin w la | fcos w la =>
    unfold exec; exact s.fspecial_ends hs _ _ _ _
  | i2f w | f2i w | frnd w | fscale w | fdot2F16x2 w | fdot2Bf16x2 w =>
    unfold exec; exact s.fvec_ends hs _ _ _ _ _
  | voteAll w | voteAny w =>
    unfold exec; exact s.vote_ends hs _ _ _
  | voteBal w | eqmask w | equni w | eqmask64 w | equni64 w | reduce w | lanemask w | ppopc w | pmov w
  | firstlane w =>
    unfold exec; exact s.cross_ends hs _ _ _
  | scanInc w | scanExc w =>
    unfold exec; exact s.scan_ends hs _ _ _
  | pand w | por w | pxor w =>
    unfold exec; exact s.plogic_ends hs _ _ _
  | cinc g | cdec g =>
    unfold exec; exact s.counterAdd_ends hs _ _ _
  | bra w | brx w =>
    unfold exec; exact s.flow_ends hs _ _ _
  | call w | callx w | ret w =>
    unfold exec; exact s.depthWord_ends hs _ _ _ _ _
  | sadd u | ssub u | smul u | sand u | sor u | sxor u | sshl u | sshr u | ssar u =>
    unfold exec; exact s.ubin_ends hs _ _ _
  | saddIs u | sandIu u | sorIu u | sxorIu u | sshlIu u | sshrIu u | ssarIu u | smovhi u =>
    unfold exec; exact s.uimm_ends hs _ _ _
  | smad u | smovi u | ssel u | speer u =>
    unfold exec; exact s.unitG_ends hs _ _ _ _
  | scmpEq u | scmpLt u | scmpLe u | scmpLtU u | scmpLeU u =>
    unfold exec; exact s.ucmp_ends hs _ _ _
  | ldv m =>
    unfold exec execLdv
    refine s.vmem_ends hs _ _ _ _ fun m s hs => ?_
    split <;> (try split) <;> simp [hs]
  | stv m => unfold exec execStv; exact s.vmem_ends hs _ _ _ _ fun m s hs => by simp [hs]
  | lds m => unfold exec execLds; exact s.vmem_ends hs _ _ _ _ fun m s hs => by simp [hs]
  | sts m => unfold exec execSts; exact s.vmem_ends hs _ _ _ _ fun m s hs => by simp [hs]
  | prefetch m => unfold exec execPrefetch; exact s.vmem_ends hs _ _ _ _ fun m s hs => by simp [hs]
  | atom m => unfold exec execAtom; exact s.vmem_ends hs _ _ _ _ fun m s hs => by simp [hs]
  | red m => unfold exec execRed; exact s.vmem_ends hs _ _ _ _ fun m s hs => by simp [hs]
  | atoms m => unfold exec execAtoms; exact s.vmem_ends hs _ _ _ _ fun m s hs => by simp [hs]
  | casw m => unfold exec execCasw; exact s.vmem_ends hs _ _ _ _ fun m s hs => by simp [hs]
  | enq m => unfold exec execEnq; exact s.vmem_ends hs _ _ _ _ fun m s hs => by simp [hs]
  | stc m => unfold exec execStc; exact s.vmem_ends hs _ _ _ _ fun m s hs => by simp [hs]
  | acp m => unfold exec execAcp; exact s.vmem_ends hs _ _ _ _ fun m s hs => by simp [hs]
  | chld m => exact execChld_ends s hs _
  | fence g => unfold exec execFence; exact s.once_ends hs _ _ _ fun m s hs => by simp [hs]
  | grow g => unfold exec execGrow; exact s.once_ends hs _ _ _ fun m s hs => by simp [hs]
  | shrink g => unfold exec execShrink; exact s.once_ends hs _ _ _ fun m s hs => by simp [hs]
  | gang e => unfold exec execGang; exact s.once_ends hs _ _ _ fun m s hs => by simp [hs]
  | mrdy e => unfold exec execMrdy; exact s.once_ends hs _ _ _ fun m s hs => hs
  | mwait e => unfold exec execMwait; exact s.once_ends hs _ _ _ fun m s hs => hs
  | tcopy e => exact execTcopy_ends s hs _
  | cresv e => exact execCresv_ends s hs _
  | crel e => exact execCrel_ends s hs _
  | cwait g => unfold exec execCwait; exact s.gmem_ends hs _ _ _ _ fun m s hs => by simp [hs]
  | cread g => unfold exec execCread; exact s.gmem_ends hs _ _ _ _ fun m s hs => by simp [hs]
  | binit g => unfold exec execBinit; exact s.gmem_ends hs _ _ _ _ fun m s hs => by simp [hs]
  | barrive g => unfold exec execBarrive; exact s.gmem_ends hs _ _ _ _ fun m s hs => by simp [hs]
  | bwait g => unfold exec execBwait; exact s.gmem_ends hs _ _ _ _ fun m s hs => by simp [hs]
  | accopen e => unfold exec execAccopen; exact s.gmem_ends hs _ _ _ _ fun m s hs => by simp [hs]
  | accclose e => unfold exec execAccclose; exact s.gmem_ends hs _ _ _ _ fun m s hs => by simp [hs]
  | mma e => exact execMma_ends s hs _
  | exit w => exact execExit_ends s hs _
  | bpt w | hWord slot0 slot1 =>
    unfold exec; exact s.issueWord_ends hs _ _ (by simp [hs])
  | glaunch e | tlaunch e =>
    unfold exec; exact s.launchWord_ends hs _ _ _ _ _ _ _
  | svc w => exact execSvc_ends s hs _
  | sbra u => unfold exec; exact s.unit_ends hs _ _ _ _ hs
  | sread u => exact execSread_ends s hs _
  | sreadW u => exact execSreadW_ends s hs _
  | sld u => unfold exec execSld; exact s.umem_ends hs _ _ _ _ _ _ _ fun s hs => by simp [hs]
  | sst u => unfold exec execSst; exact s.umem_ends hs _ _ _ _ _ _ _ fun s hs => by simp [hs]
  | _ => cases hi

theorem exec_event_ends (i : Instr) (s : State) (hs : s.mem.wf = true) (hi : i.isWord = false) :
    EndsCanonical (exec i s) := by
  cases i with
  | ctxctlSuspend ctx | ctxctlResume ctx | mgmt p =>
    unfold exec
    refine s.ev_ends _ ?_
    repeat' split
    all_goals simp_all [State.wrN_wf]
  | ctxctlTerminate ctx | ctxctlFlush ctx | moveCmd | thaw | carve | tcqInvalidCommand | coh p | resp p
  | abortack p =>
    unfold exec
    refine s.ev_ends _ ?_
    simp +contextual [hs]
  | ctxctlInvalidCommand cmd | tileTimeout tile | acpComplete id | moveCopyTimeout | genkey | keyInvalidCommand
  | requestTimerResend tag | coreSpareSwap core | sliceSpareSwap die slice =>
    unfold exec
    refine s.ev_ends _ ?_
    split <;> simp [hs]
  | splitDataReturn at_ op lanes | longLatencyComplete at_ op lanes | registrationAck id | enginePlaceFree core
  | teamPlacement level | preemption level | privilegedRegisterWrite sel val | hostLaunch h | hostRead h
  | hostWrite h | hostAtomic h | hostRegisterRead h | hostRegisterWrite h | rd p | wr p | atomPacket p | step p
  | stcPacket p | ack p | notice p | hostPacket p | ucieModuleRetire pair | fabricLaneSpare port
  | linkAuthFailure port | sramRowSpare die slice row | packageReset =>
    unfold exec; exact s.ev_ends _ (by simp [hs])
  | growGrant core => exact execGrowGrant_ends s hs _
  | growDeadlockFail core => exact execGrowDeadlockFail_ends s hs _
  | mmaLatchEvent core => exact execMmaLatchEvent_ends s hs _
  | mmaContributionSend core => exact execMmaContributionSend_ends s hs _
  | tileContributionArrival id => exact execTileContributionArrival_ends s hs _
  | engineResend id | tcopyWalkFault core cmd | retire | recallTimeout pkg line | retryResend tag
  | requestTimeout tag | scrubRowPass row corrected uncorrectable =>
    unfold exec
    refine s.ev_ends _ ?_
    split <;> (try split) <;> simp [hs]
  | tcopyStart core elements => exact execTcopyStart_ends s hs _ _
  | tcopyComplete core cmd => exact execTcopyComplete_ends s hs _ _
  | stcLanding id => exact execStcLanding_ends s hs _
  | teamSave team => exact execTeamSave_ends s hs _
  | teamResume team => exact execTeamResume_ends s hs _
  | movedRetry at_ => exact execMovedRetry_ends s hs _
  | recoveryComplete cell => exact execRecoveryComplete_ends s hs _
  | tcqTailAdvance => exact execTcqTailAdvance_ends s hs
  | inval => exact execInval_ends s hs
  | resolve => exact execResolve_ends s hs
  | finalCmd => exact execFinalCmd_ends s hs
  | cellDeadCommand => exact execCellDeadCommand_ends s hs
  | cellLiveCommand => exact execCellLiveCommand_ends s hs
  | cellInvalidCommand | attestationRequest nonce | thermalThrottle | thermalShutdown | flitCrcReplay pair =>
    unfold exec; exact s.ev_ends _ hs
  | cohack p => exact execCohack_ends s hs _
  | retry p => exact execRetry_ends s hs _
  | abort p => exact execAbort_ends s hs _
  | abortTimeout tag => exact execAbortTimeout_ends s hs _
  | rowRemapSwitch row => exact execRowRemapSwitch_ends s hs _
  | faultTaken at_ =>
    unfold exec
    refine s.evGroup_ends hs _ _ fun s hs => ?_
    split <;> (try split) <;> simp [hs]
  | faultQueueRoom at_ | faultMergeEntry at_ | cwaitWake at_ | bwaitWake at_ | shrinkRelease at_ =>
    unfold exec
    refine s.evGroup_ends hs _ _ fun s hs => ?_
    split <;> simp [hs]
  | heldFaultDelivery at_ =>
    unfold exec
    refine s.evGroup_ends hs _ _ fun s hs => ?_
    repeat' split
    all_goals simp [hs]
  | operandLogReplay at_ => exact execOperandLogReplay_ends s hs _
  | starvationTrap at_ => unfold exec; exact s.evGroup_ends hs _ _ fun s hs => by simp [hs]
  | groupRetire at_ => exact execGroupRetire_ends s hs _
  | fenceComplete at_ => exact execFenceComplete_ends s hs _
  | _ => cases hi

theorem exec_ends (i : Instr) (s : State) (hs : s.mem.wf = true) : EndsCanonical (exec i s) := by
  cases hi : i.isWord with
  | true => exact exec_word_ends i s hs hi
  | false => exact exec_event_ends i s hs hi

/-! ### The choice of a group and the turn -/

/-- What a group prepares to run stands in a canonical memory. -/
def Prep.Canonical : Prep → Prop
  | .none => True
  | .run _ s | .illegal s | .fetchFault s _ _ | .stall s => Machine.Canonical s

theorem State.prep_canonical (s : State) (hs : s.mem.wf = true) : s.prep.Canonical := by
  unfold State.prep
  split
  · trivial
  · extract_lets g u
    have hu : u.mem.wf = true := hs
    clear_value u
    split
    · trivial
    · next k _ =>
      have hf := u.fetch_mem k.lpc
      split
      · split
        · trivial
        · simp_all [Prep.Canonical]
      · simp_all [Prep.Canonical]
      · next t w ht =>
        have ht : t.mem.wf = true := by simp_all
        extract_lets v
        have hv : v.mem.wf = true := ht
        clear_value v
        split
        · exact hv
        · next i _ =>
          split
          · trivial
          · have hr := v.recordReady_wf i hv
            split
            · exact hv
            · simp_all [Prep.Canonical]
            · split
              · trivial
              · simp_all [Prep.Canonical]

theorem State.offer_canonical (s : State) (r : GroupRef) (hs : s.mem.wf = true) {c : Candidate}
    (hc : s.offer r = some c) :
    c.prep.Canonical := by
  unfold State.offer at hc
  cases hl : s.loadFocus r with
  | none => simp [hl] at hc
  | some t =>
    have ht := t.prep_canonical (by simpa [s.loadFocus_mem r t hl] using hs)
    simp only [hl] at hc
    split at hc
    · cases hc
    · cases hc
      exact ht

theorem State.chooseGroup_canonical (s : State) (core quad : Nat) (hs : s.mem.wf = true) {c : Candidate}
    (hc : s.chooseGroup core quad = some c) : c.prep.Canonical := by
  unfold State.chooseGroup at hc
  revert c
  refine List.foldlRecOn (motive := fun best => ∀ {c : Candidate}, best = some c → c.prep.Canonical) _ _
    (fun h => by cases h) fun best hb x hx c hc => ?_
  obtain ⟨r, _, hr⟩ := List.mem_filterMap.1 hx
  have hx := s.offer_canonical r hs hr
  split at hc
  · cases hc
    exact hx
  · split at hc
    · cases hc
      exact hx
    · exact hb hc

theorem runPrep_ends (s : State) (p : Prep) (hs : s.mem.wf = true)
    (hp : p.Canonical) : EndsCanonical (runPrep s p) := by
  cases p with
  | none => exact .next hs
  | run i t => exact (exec_ends i t hp).finish
  | illegal t => exact .next (by rw [State.settle_mem]; exact t.illegal_wf hp)
  | fetchFault t code va => exact .next (by rw [State.settle_mem]; exact t.fetchTrap_wf code va hp)
  | stall t => exact .next (by rw [State.settle_mem]; exact hp)

theorem State.issue_ends (s : State) (core quad : Nat) (hs : s.mem.wf = true) : EndsCanonical (s.issue core quad) := by
  unfold State.issue
  split
  · exact .next hs
  · split
    · exact .next hs
    · next c hc => exact runPrep_ends s c.prep hs (s.chooseGroup_canonical core quad hs hc)

theorem State.take_ends (s : State) (t : Turn) (hs : s.mem.wf = true) : EndsCanonical (s.take t) := by
  cases t with
  | issue core quad => exact s.issue_ends core quad hs
  | occur e => exact .ite (.next hs) (exec_ends e s hs).finish
  | evictL1 | evictTlb | evictPtr | idle => exact .next hs
  | evictLlc line => exact .next (s.evictLine_wf line hs)
  | join => exact .next (by simp [hs])
  | _ => exact .next (by simp [hs])

theorem step_ends (s : State) (hs : s.mem.wf = true) : EndsCanonical (step s) :=
  .ite (.fault _) (State.take_ends _ _ (by simpa [State.nextTurn_mem] using hs))

/-- Settles O58: each function that makes the next state keeps memory canonical (the shared operations first, then the
instructions' meanings by the operation each goes through, then the turns), so a step does. -/
theorem stepKeepsMemoryCanonical : Obligations.StepKeepsMemoryCanonical := by
  unfold Obligations.StepKeepsMemoryCanonical
  intro s t hs hstep
  have h := step_ends s hs
  rw [hstep] at h
  exact h

end Sys2Proof.Machine

/-! ## Writes of the hardware at a home -/

namespace Sys2Proof.Machine

/-- A line is retagged by its memory and the tags alone. -/
theorem State.retag_shape (s : State) (pa : Nat) : ∃ m ts, s.retag pa = { s with mem := m, tags := ts } := by
  unfold State.retag
  split
  · split
    · exact ⟨_, _, rfl⟩
    · dsimp only
      split
      · exact ⟨_, _, rfl⟩
      · exact ⟨_, _, rfl⟩
  · exact ⟨_, _, rfl⟩

theorem State.retagAll_shape (ls : List Nat) (s : State) :
    ∃ m ts, ls.foldl (fun s l => s.retag l) s = { s with mem := m, tags := ts } := by
  induction ls generalizing s with
  | nil => exact ⟨_, _, rfl⟩
  | cons l r ih =>
    obtain ⟨m, ts, h⟩ := s.retag_shape l
    obtain ⟨m', ts', h'⟩ := ih (s.retag l)
    exact ⟨m', ts', by rw [List.foldl_cons, h', h]⟩

theorem lineOf_lineOf (a : Nat) : lineOf (lineOf a) = lineOf a := by simp only [lineOf]; omega

/-- Only the bytes of the line itself may be rewritten. -/
theorem State.retag_get_of_line_ne (s : State) (pa c : Nat) (hs : s.mem.wf = true) (hc : lineOf c ≠ lineOf pa) :
    (s.retag pa).mem.get c = s.mem.get c := by
  unfold State.retag
  split
  · split
    · rfl
    · dsimp only
      split
      · rfl
      · rw [Memory.get_putList _ _ _ _ hs, dif_neg]
        simp only [List.length_map, List.length_range, lineOf] at *
        omega
  · rfl

theorem State.retagAll_get_of_line_ne (ls : List Nat) (s : State) (c : Nat) (hs : s.mem.wf = true)
    (hc : ∀ l ∈ ls, lineOf c ≠ lineOf l) : (ls.foldl (fun s l => s.retag l) s).mem.get c = s.mem.get c := by
  induction ls generalizing s with
  | nil => rfl
  | cons l r ih =>
    rw [List.foldl_cons, ih _ (s.retag_wf l hs) fun x hx => hc x (List.mem_cons_of_mem _ hx),
      s.retag_get_of_line_ne l c hs (hc l List.mem_cons_self)]

/-- The tag of another line stays. -/
theorem State.retag_tag_of_line_ne (s : State) (pa L : Nat) (hL : L ≠ lineOf pa) :
    ((s.retag pa).tags.find? fun t => t.1 = L) = s.tags.find? fun t => t.1 = L := by
  unfold State.retag
  split
  · split
    · rfl
    · dsimp only
      split
      · dsimp only
        split
        · rfl
        · rw [List.find?_cons_of_neg (by simpa using Ne.symm hL)]
      · dsimp only
        rw [List.find?_cons_of_neg (by simpa using Ne.symm hL), List.find?_filter]
        refine List.find?_congr fun t _ => ?_
        by_cases ht : t.1 = L <;> simp [ht, hL]
  · rfl

theorem Memory.putCells_cellsAt (bs : List Byte) (m : Memory) (a : Nat) : m.putCells (cellsAt a bs) = m.putList a bs := by
  induction bs generalizing m a with
  | nil => rfl
  | cons b r ih =>
    have hcells : (r.mapIdx fun k b => (a + (k + 1), b)) = cellsAt (a + 1) r := by
      simp only [cellsAt, Nat.add_assoc, Nat.add_comm 1]
    rw [Memory.putList, ← ih, cellsAt, List.mapIdx_cons, hcells]
    rfl

theorem lineOf_of_mem_cellsAt {a : Nat} {bs : List Byte} {l : Nat}
    (h : l ∈ ((cellsAt a bs).map fun c => lineOf c.1).dedup) : ∃ k, k < bs.length ∧ l = lineOf (a + k) := by
  rw [List.mem_dedup, List.mem_map] at h
  obtain ⟨c, hc, rfl⟩ := h
  rw [cellsAt, List.mem_mapIdx] at hc
  obtain ⟨k, hk, rfl⟩ := hc
  exact ⟨k, hk, rfl⟩

/-- The lines of the bytes are retagged, and then the bytes are written. -/
theorem State.hwWrite_mem (s : State) (a : Nat) (bs : List Byte) : (s.hwWrite a bs).mem =
    ((((cellsAt a bs).map fun c => lineOf c.1).dedup.foldl (fun s l => s.retag l) s).mem).putList a bs := by
  rw [← Memory.putCells_cellsAt]
  rfl

theorem State.hwWrite_tags (s : State) (a : Nat) (bs : List Byte) : (s.hwWrite a bs).tags =
    (((cellsAt a bs).map fun c => lineOf c.1).dedup.foldl (fun s l => s.retag l) s).tags := rfl

/-- The bytes written are read back, whatever the keys of their lines. -/
theorem State.hwWrite_get (s : State) (a : Nat) (bs : List Byte) (k : Nat) (hs : s.mem.wf = true) (hk : k < bs.length) :
    (s.hwWrite a bs).mem.get (a + k) = bs[k] := by
  rw [State.hwWrite_mem, Memory.get_putList _ _ _ _ (State.retag_foldl_wf _ s hs), dif_pos ⟨by omega, by omega⟩]
  simp only [Nat.add_sub_cancel_left]

/-- A byte of a line that no byte written lies in reads as before. -/
theorem State.hwWrite_get_of_line_ne (s : State) (a c : Nat) (bs : List Byte) (hs : s.mem.wf = true)
    (hc : ∀ k, k < bs.length → lineOf c ≠ lineOf (a + k)) : (s.hwWrite a bs).mem.get c = s.mem.get c := by
  rw [State.hwWrite_mem, Memory.get_putList _ _ _ _ (State.retag_foldl_wf _ s hs), dif_neg]
  · refine State.retagAll_get_of_line_ne _ s c hs fun l hl => ?_
    obtain ⟨k, hk, rfl⟩ := lineOf_of_mem_cellsAt hl
    rw [lineOf_lineOf]
    exact hc k hk
  · rintro ⟨h1, h2⟩
    exact hc (c - a) (by omega) (by rw [Nat.add_sub_cancel' h1])

theorem length_toBytes (n x : Nat) : (toBytes n x).length = n := by
  induction n generalizing x with
  | zero => rfl
  | succ n ih => simp [toBytes, ih]

theorem getElem_toBytes (n x k : Nat) (hk : k < (toBytes n x).length) :
    (toBytes n x)[k] = BitVec.ofNat 8 (x / 256 ^ k) := by
  induction n generalizing x k with
  | zero => simp [toBytes] at hk
  | succ n ih =>
    cases k with
    | zero => simp [toBytes]
    | succ k => simp [toBytes, ih, Nat.div_div_eq_div_mul, Nat.pow_succ, Nat.mul_comm]

theorem ofBytes_toBytes (n x : Nat) : ofBytes (toBytes n x) = x % 256 ^ n := by
  induction n generalizing x with
  | zero => simp [toBytes, ofBytes, Nat.mod_one]
  | succ n ih =>
    rw [toBytes, ofBytes, ih, Nat.pow_succ, Nat.mul_comm (256 ^ n) 256, Nat.mod_mul, BitVec.toNat_ofNat]

/-- The bytes read where a number of the same length has just been written are that number. -/
theorem numAt_wrN (s : State) (a n x : Nat) (hs : s.mem.wf = true) : Claims.numAt (s.wrN a n x) a n = x % 256 ^ n := by
  rw [← ofBytes_toBytes, Claims.numAt]
  congr 1
  refine List.ext_getElem (by simp [length_toBytes]) fun k hk _ => ?_
  rw [List.getElem_map, List.getElem_range, State.wrN, State.hwWrite_get s a _ k hs]

theorem State.retagAll_tag_of_line_ne (ls : List Nat) (s : State) (L : Nat) (hL : ∀ l ∈ ls, L ≠ lineOf l) :
    ((ls.foldl (fun s l => s.retag l) s).tags.find? fun t => t.1 = L) = s.tags.find? fun t => t.1 = L := by
  induction ls generalizing s with
  | nil => rfl
  | cons l r ih =>
    rw [List.foldl_cons, ih _ fun x hx => hL x (List.mem_cons_of_mem _ hx), s.retag_tag_of_line_ne l L (hL l List.mem_cons_self)]

/-- What a write of the hardware may change. -/
theorem State.hwWrite_shape (s : State) (a : Nat) (bs : List Byte) : ∃ m ts ws ct hz tl, s.hwWrite a bs =
    { s with mem := m, tags := ts, l1 := ws, cellTaken := ct, hazes := hz, tiles := tl } ∧
    (s.hazes = [] → hz = []) ∧ (s.tiles = [] → tl = []) := by
  obtain ⟨m, ts, h⟩ := State.retagAll_shape ((cellsAt a bs).map fun c => lineOf c.1).dedup s
  unfold State.hwWrite State.homeWrite
  dsimp only
  rw [h]
  exact ⟨_, _, _, _, _, _, rfl, fun e => by simp [State.dropWords, e], fun e => by simp [State.dropWords, e]⟩

theorem State.fireAt_of_triggers_nil (s : State) (pa : Nat) (h : s.triggers = []) : s.fireAt pa = s := by
  simp [State.fireAt, h]

/-- The hardware's addition to a counter that nothing stands in front of. -/
theorem State.addPhys_eq (s : State) (pa : Nat) (delta : W64) (hpa : (BitVec.ofNat 64 pa).toNat = pa)
    (hhere : s.here pa = true) (hline : s.here (lineOf pa) = true) (hfree : s.freezes = []) (hdir : s.dir = []) (hrec : s.recalls = [])
    (hp : s.poisoned pa = false) (ht : s.triggers = []) :
    s.addPhys pa delta 0 = s.wrN pa 8 (s.ctrAt pa + delta).toNat := by
  have hready : s.readyLine 0#10 (unitFlow (homeDie pa) (homeSlice pa)) (lineOf pa) true = .yes s := by
    simp [State.readyLine, State.readyAt, State.readyAs, State.resolveDead, State.frozen, hline, hfree, hdir, hrec]
  have hfire : ∀ bs, (s.hwWrite pa bs).fireAt pa = s.hwWrite pa bs := fun bs => by
    obtain ⟨m, ts, ws, ct, hz, tl, hw, -, -⟩ := s.hwWrite_shape pa bs
    exact State.fireAt_of_triggers_nil _ _ (by rw [hw]; exact ht)
  unfold State.addPhys State.makePhys
  dsimp only
  rw [hpa, hready]
  simp [State.orHold, hp, hhere, State.addHome, hfire, State.wrN]

end Sys2Proof.Machine

/-! ## An event whose line stands in two save areas (O50) -/

namespace Sys2Proof.Machine
open Claims

/-- The area of a saved team of context `c`, one unit long. -/
def savedArea (a : Nat) (c : BitVec 10) : Saved := ⟨0, a, 1, c, 0, 0, .preempt, [], [], [], [], false, false⟩

/-- The first byte of a line in the save region: the next event's slot. -/
def splitSlot : Nat := 0x7FFFFFF000

/-- EVTNOTE, in the slot's line. -/
def splitNote : Nat := splitSlot + 96

/-- The slot and EVTNOTE share a line, and the save areas of two contexts share it too: that of context 0, of key 0, ends at
EVTNOTE, and that of context 1, of key 1, begins there. The low byte of EVTNOTE is 2 or 1. -/
def splitEventLine (two : Bool) : State := { State.reset with
  mem := [(264, 1#8), (0x50028, 0xC0#8), (0x50029, 0xEF#8), (0x5002A, 0xFF#8), (0x5002B, 0xFF#8), (0x5002C, 0x7F#8),
    (0x50030, 0x60#8), (0x50031, 0xF0#8), (0x50032, 0xFF#8), (0x50033, 0xFF#8), (0x50034, 0x7F#8),
    (splitNote, if two then 2#8 else 1#8)]
  saved := [savedArea (splitSlot - 4000) 0#10, savedArea splitNote 1#10] }

theorem splitEventLine_event (two : Bool) : eventRing (splitEventLine two) = splitSlot - 64 ∧
    eventSlot (splitEventLine two) = splitSlot ∧ eventNote (splitEventLine two) = splitNote := by
  cases two <;> decide +kernel

theorem eventOpen_splitEventLine (two : Bool) : EventOpen (splitEventLine two) := by
  obtain ⟨hring, hslot, hnote⟩ := splitEventLine_event two
  constructor
  case canonical => cases two <;> rfl
  case exists_ => rw [hring]; decide
  case room => rw [hring]; cases two <;> decide +kernel
  case ring => rw [hring]; exact Tests.hwOf (by cases two <;> decide +kernel) rfl rfl
  case slot => rw [hslot]; exact Tests.hwOf (by cases two <;> decide +kernel) rfl rfl
  case note =>
    rw [hring, hslot, hnote]
    refine fun _ => ⟨⟨?_, ?_, ?_, ?_, ?_, ?_⟩, Or.inl (by decide), Or.inl (by decide)⟩
    · exact Tests.unheldOf (by cases two <;> decide +kernel) rfl rfl
    · exact Tests.hwOf (by cases two <;> decide +kernel) rfl rfl
    · cases two <;> decide +kernel
    all_goals exact fun x hx => nomatch hx

theorem State.inRegion_congr {s t : State} (a : Nat) (hpkg : s.pkg = t.pkg) (hpolicy : s.policy = t.policy) :
    s.inRegion a = t.inRegion a := by
  rw [State.inRegion, State.regionBase, hpkg, hpolicy]
  rfl

theorem State.areaCtx_congr {s t : State} (a : Nat) (hsaved : s.saved = t.saved) (hcur : s.t = t.t) (hteams : s.teams = t.teams) :
    s.areaCtx a = t.areaCtx a := by
  simp only [State.areaCtx, hsaved, hcur, hteams]

theorem State.keyOf_of_areaCtx {s : State} {a k : Nat} {c : BitVec 10} (hcarve : carveDie a = none)
    (hregion : s.inRegion a = true) (harea : s.areaCtx a = some c) (hkey : s.ctxKey c = k) : s.keyOf a = some k := by
  simp only [State.keyOf, hcarve, hregion, harea, if_true, Option.map_some, hkey]

/-- A byte whose line stands under another key than its own reads as garbage. -/
theorem State.homeByte_of_wrongKey {s : State} {a k : Nat} {tag : Nat × Nat × Nat} (htiles : s.tiles = []) (hhazes : s.hazes = [])
    (hhere : s.here a = true) (hkey : s.keyOf a = some k) (htag : (s.tags.find? fun t => t.1 = lineOf a) = some tag)
    (hne : tag.2.1 ≠ k) : s.homeByte a = Config.wrongKey a k (s.genOf k) := by
  simp [State.homeByte, State.tileAt, State.hazeByte, State.heldByte, State.byteUnder, htiles, hhazes, hhere, hkey, htag]
  exact fun h => absurd (congrArg Prod.fst h) hne

theorem splitNote_keyed (two : Bool) : ∀ k, k < 8 → carveDie (splitNote + k) = none ∧ lineOf (splitNote + k) = splitSlot ∧
    (splitEventLine two).here (splitNote + k) = true ∧ (splitEventLine two).inRegion (splitNote + k) = true ∧
    (splitEventLine two).areaCtx (splitNote + k) = some 1#10 := by
  cases two <;> decide +kernel

/-- The state after the event of cause 4 has been written and counted, before EVTNOTE. -/
def splitEventCounted (two : Bool) (bs : List Byte) (tail : Nat) : State :=
  (((splitEventLine two).addPoison [0]).hwWrite splitSlot bs).wrN (splitSlot - 64) 8 tail

theorem map_lineOf_cellsAt (a : Nat) (bs : List Byte) :
    ((cellsAt a bs).map fun c => lineOf c.1) = (List.range bs.length).map fun k => lineOf (a + k) := by
  refine List.ext_getElem (by simp [cellsAt]) fun k _ _ => ?_
  simp [cellsAt]

theorem splitSlot_lines {bs : List Byte} (hbs : bs.length = 32) :
    ((cellsAt splitSlot bs).map fun c => lineOf c.1).dedup = [splitSlot] := by
  rw [map_lineOf_cellsAt, hbs]
  decide +kernel

theorem splitSlot_tag (two : Bool) {bs : List Byte} (hbs : bs.length = 32) :
    (((splitEventLine two).addPoison [0]).hwWrite splitSlot bs).tags = [(splitSlot, 0, 0)] := by
  rw [State.hwWrite_tags, splitSlot_lines hbs]
  cases two <;> decide +kernel

theorem lineOf_ring (k : Nat) (hk : k < 8) : lineOf (splitSlot - 64 + k) = splitSlot - 128 := by
  revert k
  decide +kernel

/-- The slot's line now stands under the key of context 0, and the key of context 1 is where it was. -/
theorem splitEventCounted_tag (two : Bool) {bs : List Byte} (hbs : bs.length = 32) (tail : Nat) :
    ((splitEventCounted two bs tail).tags.find? fun t => t.1 = splitSlot) = some (splitSlot, 0, 0) := by
  rw [splitEventCounted, State.wrN, State.hwWrite_tags, State.retagAll_tag_of_line_ne, splitSlot_tag two hbs]
  · decide
  · intro l hl
    obtain ⟨k, hk, rfl⟩ := lineOf_of_mem_cellsAt hl
    rw [lineOf_lineOf, lineOf_ring k (by simpa [length_toBytes] using hk)]
    decide

theorem splitEventCounted_get (two : Bool) {bs : List Byte} (hbs : bs.length = 32) (tail c : Nat) (hc : c < 0x60000) :
    (splitEventCounted two bs tail).mem.get c = (splitEventLine two).mem.get c := by
  have hwf : ((splitEventLine two).addPoison [0]).mem.wf = true := by cases two <;> rfl
  have hlow : lineOf c < 0x60000 := Nat.lt_of_le_of_lt (by simp only [lineOf]; omega) hc
  rw [splitEventCounted, State.wrN, State.hwWrite_get_of_line_ne _ _ _ _ (State.hwWrite_wf _ _ _ hwf),
    State.hwWrite_get_of_line_ne _ _ _ _ hwf]
  · rfl
  · intro k _
    simp only [lineOf, splitSlot] at *
    omega
  · intro k _
    simp only [lineOf, splitSlot] at *
    omega

/-- The counted state differs from the first one only where a write of the hardware may change it. -/
theorem splitEventCounted_shape (two : Bool) (bs : List Byte) (tail : Nat) : ∃ m ts ws ct, splitEventCounted two bs tail =
    { splitEventLine two with poison := [0], mem := m, tags := ts, l1 := ws, cellTaken := ct } := by
  obtain ⟨m, ts, ws, ct, hz, tl, h, hhz, htl⟩ := ((splitEventLine two).addPoison [0]).hwWrite_shape splitSlot bs
  obtain ⟨m', ts', ws', ct', hz', tl', h', hhz', htl'⟩ :=
    (((splitEventLine two).addPoison [0]).hwWrite splitSlot bs).hwWrite_shape (splitSlot - 64) (toBytes 8 tail)
  refine ⟨m', ts', ws', ct', ?_⟩
  rw [splitEventCounted, State.wrN, h']
  rw [hhz' (by rw [h]; exact hhz rfl), htl' (by rw [h]; exact htl rfl), h]
  rfl

theorem splitEventCounted_key (two : Bool) {bs : List Byte} (hbs : bs.length = 32) (tail : Nat) :
    (splitEventCounted two bs tail).ctxKey 1#10 = 1 := by
  have h264 : (splitEventCounted two bs tail).rawByte 264 = 1#8 := by
    rw [State.rawByte, show carveDie 264 = none by decide]
    exact (splitEventCounted_get two hbs tail 264 (by decide)).trans (by cases two <;> decide +kernel)
  have h265 : (splitEventCounted two bs tail).rawByte 265 = 0#8 := by
    rw [State.rawByte, show carveDie 265 = none by decide]
    exact (splitEventCounted_get two hbs tail 265 (by decide)).trans (by cases two <;> decide +kernel)
  obtain ⟨m, ts, ws, ct, h⟩ := splitEventCounted_shape two bs tail
  have hdesc : (splitEventCounted two bs tail).descHeld 1#10 = none := by rw [h]; rfl
  have hat : (splitEventCounted two bs tail).desc 1#10 + 8 = 264 := by rw [h]; rfl
  rw [State.ctxKey, hdesc, State.rdRaw, hat]
  simp [List.range, List.range.loop, h264, h265, ofBytes]

/-- EVTNOTE now reads as garbage that no byte of memory decides. -/
theorem splitEventCounted_ctrAt (two : Bool) {bs : List Byte} (hbs : bs.length = 32) (tail : Nat) :
    (splitEventCounted two bs tail).ctrAt splitNote =
      BitVec.ofNat 64 (ofBytes ((List.range 8).map fun k => Config.wrongKey (splitNote + k) 1 0)) := by
  have hkey := splitEventCounted_key two hbs tail
  have htag := splitEventCounted_tag two hbs tail
  obtain ⟨m, ts, ws, ct, h⟩ := splitEventCounted_shape two bs tail
  have hpkg : (splitEventCounted two bs tail).pkg = (splitEventLine two).pkg := by rw [h]
  have hgen : (splitEventCounted two bs tail).genOf 1 = 0 := by rw [h]; rfl
  rw [State.ctrAt, State.homeBytes, List.map_congr_left fun k hk => ?_]
  obtain ⟨hcarve, hline, hhere, hregion, harea⟩ := splitNote_keyed two k (List.mem_range.mp hk)
  have hkeyOf : (splitEventCounted two bs tail).keyOf (splitNote + k) = some 1 :=
    State.keyOf_of_areaCtx hcarve ((State.inRegion_congr _ hpkg (by rw [h])).trans hregion)
      ((State.areaCtx_congr _ (by rw [h]) (by rw [h]) (by rw [h])).trans harea) hkey
  have hhere' : (splitEventCounted two bs tail).here (splitNote + k) = true := by rw [State.here, hpkg]; exact hhere
  rw [State.homeByte_of_wrongKey (by rw [h]; rfl) (by rw [h]; rfl) hhere' hkeyOf (by rw [hline]; exact htag) (by decide), hgen]

theorem foldl_length_eq {α β : Type} (f : List β → α → List β) (hf : ∀ r x, (f r x).length = r.length) (l : List α)
    (r : List β) : (l.foldl f r).length = r.length := by
  induction l generalizing r with
  | nil => rfl
  | cons x xs ih => rw [List.foldl_cons, ih, hf]

/-- An event with room in the ring is written in the next slot, counted in the ring, and then in EVTNOTE. -/
theorem State.event_eq (s : State) (cause : Nat) (b : List (Nat × List Byte)) (hring : eventRing s ≠ 0)
    (hroom : ¬ 256 ≤ s.rd (eventRing s) 8 - s.rd (eventRing s + 8) 8) (hnote : eventNote s ≠ 0) :
    ∃ (bs : List Byte) (tail : Nat), bs.length = 32 ∧ s.event cause b =
      ((s.hwWrite (eventSlot s) bs).wrN (eventRing s) 8 tail).addPhys (eventNote s) 1#64 0 := by
  unfold eventSlot eventRing eventNote at *
  unfold State.event
  dsimp only
  rw [if_neg hring, if_neg hroom, if_neg hnote]
  refine ⟨_, _, ?_, rfl⟩
  rw [foldl_length_eq, List.length_set, List.length_replicate]
  intro r p
  exact foldl_length_eq _ (fun r q => List.length_set ..) _ _

/-- EVTNOTE after the event of a bad line, whatever its byte was before. -/
theorem numAt_note_badLine (two : Bool) (t : State) (ht : (splitEventLine two).take (.badLine 0) = .next t) :
    numAt t splitNote 8 =
      (BitVec.ofNat 64 (ofBytes ((List.range 8).map fun k => Config.wrongKey (splitNote + k) 1 0)) + 1#64).toNat := by
  obtain ⟨hring, hslot, hnote⟩ := splitEventLine_event two
  have hbase : eventRing ((splitEventLine two).addPoison [0]) = splitSlot - 64 := hring
  have hslot' : eventSlot ((splitEventLine two).addPoison [0]) = splitSlot := hslot
  have hnote' : eventNote ((splitEventLine two).addPoison [0]) = splitNote := hnote
  obtain ⟨bs, tail, hbs, hevent⟩ := ((splitEventLine two).addPoison [0]).event_eq 4
    [(8, toBytes 8 (((splitEventLine two).addPoison [0]).freeW 0).toNat)] (by rw [hbase]; decide)
    (by rw [hbase]; cases two <;> decide +kernel) (by rw [hnote']; decide)
  rw [hbase, hslot', hnote'] at hevent
  obtain rfl : t = (splitEventCounted two bs tail).addPhys splitNote 1#64 0 := (Host.Outcome.next.inj ht).symm.trans hevent
  have hctr := splitEventCounted_ctrAt two hbs tail
  have hwf : (splitEventCounted two bs tail).mem.wf = true :=
    State.hwWrite_wf _ _ _ (State.hwWrite_wf _ _ _ (by cases two <;> rfl))
  obtain ⟨m, ts, ws, ct, h⟩ := splitEventCounted_shape two bs tail
  have hpkg : (splitEventCounted two bs tail).pkg = 0 := by rw [h]; rfl
  have hpoison : (splitEventCounted two bs tail).poison = [0] := by rw [h]
  rw [State.addPhys_eq _ _ _ (by decide) (by rw [State.here, hpkg]; decide +kernel) (by rw [State.here, hpkg]; decide +kernel)
    (by rw [h]; rfl) (by rw [h]; rfl) (by rw [h]; rfl) (by rw [State.poisoned, hpoison]; decide +kernel) (by rw [h]; rfl),
    numAt_wrN _ _ _ _ hwf, hctr]
  exact Nat.mod_eq_of_lt (BitVec.isLt _)

/-- Refutes O50: a save area may end inside a line, and then the two parts of the line have two keys. Writing the event's slot
gives the line the key of the first part; EVTNOTE in the second part then reads as garbage, so that the sum put there
is not one more than EVTNOTE was. The garbage is the same for two states that differ in EVTNOTE's first byte. -/
theorem not_linksAndSpares : ¬ Obligations.LinksAndSpares := by
  intro h
  have hsum : ∀ two, (BitVec.ofNat 64 (ofBytes ((List.range 8).map fun k => Config.wrongKey (splitNote + k) 1 0)) + 1#64).toNat =
      ((splitEventLine two).rd splitNote 8 + 1) % 2 ^ 64 := fun two => by
    obtain ⟨-, -, -, -, -, -, -, -, -, hevents, -⟩ := h (splitEventLine two) (by cases two <;> decide)
    obtain ⟨hline, -, -⟩ := hevents (eventOpen_splitEventLine two)
    obtain ⟨-, -, hnote⟩ := splitEventLine_event two
    obtain ⟨t, ht, -, hwritten⟩ := hline 0 fun _ => by rw [hnote]; decide
    obtain ⟨-, -, -, -, hcount, -⟩ := hwritten
    rw [hnote] at hcount
    rw [← numAt_note_badLine two t ht, hcount (by decide)]
  have htwo : ((splitEventLine true).rd splitNote 8 + 1) % 2 ^ 64 = 3 := by decide +kernel
  have hone : ((splitEventLine false).rd splitNote 8 + 1) % 2 ^ 64 = 2 := by decide +kernel
  have := (hsum true).symm.trans (hsum false)
  omega

end Sys2Proof.Machine

/-! ## A posted store that another core's store holds back (O19) -/

namespace Sys2Proof.Machine
open Claims

/-- A store that is not free to be performed stays as it is when its acknowledgement comes. -/
theorem State.ackPosted_of_not_free {s : State} {id : Nat} (h : ∀ e ∈ s.posted, e.id = id → s.postedFree e = false) :
    s.ackPosted id = s := by
  unfold State.ackPosted
  split
  · rfl
  · next e he =>
    have hfree : s.postedFree e = false := h e (List.mem_of_find?_eq_some he) (by simpa using List.find?_some he)
    simp only [State.performPosted, hfree, Bool.not_false, if_true]

theorem performed_of_not_free {s : State} {ids : List Nat} (h : ∀ e ∈ s.posted, e.id ∈ ids → s.postedFree e = false) {u : State}
    (hu : Performed s ids u) : u = s := by
  induction ids with
  | nil => exact hu.symm
  | cons id r ih =>
    obtain ⟨v, hv, hr⟩ := hu
    have hack : s.ackPosted id = s := State.ackPosted_of_not_free fun e he hid => h e he (hid ▸ List.mem_cons_self)
    have hvs : v = s := by
      have hexec : exec (.registrationAck id) s = s.ev fun s => s.ackPosted id := rfl
      rw [hexec, State.ev] at hv
      split at hv
      · cases hv
      · rw [hack] at hv
        exact (Host.Outcome.next.inj hv).symm
    rw [hvs] at hr
    exact ih (fun e he hid => h e he (List.mem_cons_of_mem _ hid)) hr

/-- A pending store of core 1. -/
def otherStore (id batch : Nat) : Posted :=
  { id := id, batch := batch, core := 1, team := 1, group := 0, ctx := 0#10, flow := 0#16, va := 0#64, part := (3, 0)
    release := false, strong := false, scope := .team, bytes := [(0, 0#8)], whole := [], moved := false, again := false, pair := false }

/-- Lane 0 is about to store 16 bytes, the first of them 7, as operation 3 and batch 4. Of two pending stores of core 1 to one
byte the second has the same numbers, and the first holds it back. -/
def siblingElsewhere : State := { Tests.withV Tests.sA 8 7#32 with posted := [otherStore 0 0, otherStore 1 4] }

def storeSixteen : MStore := ⟨0#7, 8#7, Tests.addr0, .b16, .wk⟩

theorem siblingElsewhere_oneLane : OneLane siblingElsewhere (.stv storeSixteen) storeSixteen.guard 0
    (siblingElsewhere.g.ea storeSixteen.addr 0) 16 :=
  ⟨⟨by decide, by decide, by decide +kernel⟩, by decide +kernel, by decide +kernel,
   ⟨by decide, by decide, rfl, by decide⟩⟩

theorem siblingElsewhere_held : Held siblingElsewhere (siblingElsewhere.g.ea storeSixteen.addr 0) .store (2 ^ 40) :=
  Tests.heldOf (by decide +kernel)

theorem siblingElsewhere_settled : Settled siblingElsewhere (2 ^ 40) 16 where
  canonical := rfl
  line := by decide +kernel
  here := by decide +kernel
  hereLine := by decide +kernel
  thawed := by decide +kernel
  quiet := fun r hr => nomatch hr
  mine := fun e he => nomatch he
  sound := by decide +kernel
  known := fun k hk => rfl
  plain := fun t ht => nomatch ht
  landed := by decide
  keyed := fun a ha k hk => rfl

theorem siblingElsewhere_stuck (t : State) (ht : exec (.stv storeSixteen) siblingElsewhere = .next t) :
    ∀ e ∈ t.posted, 2 ≤ e.id → t.postedFree e = false := by
  have h : (match exec (.stv storeSixteen) siblingElsewhere with
      | .next t => t.posted.all fun e => decide (e.id < 2) || !t.postedFree e
      | _ => false) = true := by decide +kernel
  rw [ht] at h
  intro e he hid
  have := List.all_eq_true.mp h e he
  simpa [Nat.not_lt.mpr hid] using this

/-- Refutes O19: the two parts of a lane's 16 bytes wait for each other's holdups, and a part finds the other by its batch and
operation numbers alone. A pending store of another core with the same numbers is taken for the other part; it is held back by
an earlier store of its own core, and so neither part of this store is performed when its acknowledgement comes: memory still
reads 0 at the address, where the store writes 7. -/
theorem not_storesComplete : ¬ Obligations.StoresComplete := by
  intro h
  obtain ⟨hposts, -, -⟩ := h
  obtain ⟨t, ps, ht, hposted, -, hids, -, -, -, hmem, -, o, -, -, -, -, hperform⟩ := hposts siblingElsewhere (.stv storeSixteen) _ (2 ^ 40) 16 7 false
    (.inl ⟨storeSixteen, 0, rfl, rfl, rfl, siblingElsewhere_oneLane, by decide +kernel, rfl⟩) siblingElsewhere_held
  obtain ⟨u, hu, hstored, -⟩ := hperform siblingElsewhere_settled rfl (by unfold KeyMapApart; decide +kernel) (by decide)
  have hstuck : u = t := by
    refine performed_of_not_free (fun e he hid => ?_) hu
    obtain ⟨f, hf, hfe⟩ := List.mem_map.mp hid
    obtain ⟨-, -, -, hnew⟩ := hids f hf
    exact siblingElsewhere_stuck t ht e he (by rw [← hfe]; exact Nat.le_of_lt hnew)
  have hfirst := hstored 0 (by decide)
  rw [hstuck, hmem] at hfirst
  exact absurd hfirst (by decide +kernel)

end Sys2Proof.Machine

/-! ## One issue of a memory word (O20)

A memory word checks its lanes, adds an operation, and attempts its lanes one after another. For a word of which every lane can
be performed at once the state after it is that after the last lane's part, without the operation. -/

namespace Sys2Proof.Machine
open Claims

/-! ### Lanes of a mask -/

theorem mem_lanesOf {m : Mask} {l : Fin 32} : l ∈ lanesOf m ↔ m.getLsbD l.val = true := by
  simp [lanesOf, lanes]

theorem lanesOf_nodup (m : Mask) : (lanesOf m).Nodup := (List.nodup_finRange 32).filter _

theorem getLsbD_oneLane (l j : Fin 32) : (oneLane l).getLsbD j.val = decide (j = l) := by
  simp only [oneLane, BitVec.getLsbD_shiftLeft, BitVec.getLsbD_one, Fin.ext_iff]
  have := j.isLt
  have := l.isLt
  grind

theorem lanesOf_eq_nil {m : Mask} : lanesOf m = [] ↔ m = 0#32 := by
  constructor
  · intro h
    refine BitVec.eq_of_getLsbD_eq fun i hi => ?_
    have : (⟨i, hi⟩ : Fin 32) ∉ lanesOf m := by rw [h]; exact List.not_mem_nil
    simpa [mem_lanesOf] using this
  · rintro rfl
    decide

theorem lanesOf_oneLane (l : Fin 32) : lanesOf (oneLane l) = [l] := by
  revert l
  decide

theorem lanesOf_removed {m : Mask} {l : Fin 32} {r : List (Fin 32)} (h : lanesOf m = l :: r) :
    lanesOf (m &&& ~~~oneLane l) = r := by
  have hnd := lanesOf_nodup m
  rw [h, List.nodup_cons] at hnd
  have hfilter : lanesOf (m &&& ~~~oneLane l) = (lanesOf m).filter (· ≠ l) := by
    simp only [lanesOf, List.filter_filter]
    refine List.filter_congr fun j _ => ?_
    simp only [BitVec.getLsbD_and, BitVec.getLsbD_not, getLsbD_oneLane]
    grind
  rw [hfilter, h, List.filter_cons_of_neg (by simp), List.filter_eq_self]
  intro j hj
  have hne : j ≠ l := by rintro rfl; exact hnd.1 hj
  simpa using hne

theorem lowLane_of_lanesOf {m : Mask} {l : Fin 32} {r : List (Fin 32)} (h : lanesOf m = l :: r) : lowLane m = l := by
  simp [lowLane, h]

theorem oneLane_and_of_bit {m : Mask} {l : Fin 32} (h : m.getLsbD l.val = true) : oneLane l &&& m = oneLane l := by
  refine BitVec.eq_of_getLsbD_eq fun i hi => ?_
  have hl := getLsbD_oneLane l ⟨i, hi⟩
  simp only [BitVec.getLsbD_and]
  by_cases e : (⟨i, hi⟩ : Fin 32) = l
  · subst e
    simp [h]
  · simp [e] at hl
    simp [hl]

theorem oneLane_ne_zero (l : Fin 32) : oneLane l ≠ 0#32 := by
  revert l
  decide

/-! ### Checks and issue -/

theorem failedCheck_of_nil {act : Mask} {f : Fin 32 → List (BitVec 8 × W64)}
    (h : ∀ l : Fin 32, act.getLsbD l.val = true → f l = []) : failedCheck act f = none := by
  have hls : ((lanesOf act).filterMap fun l => if (f l).isEmpty then none else some (l, f l)) = [] :=
    List.filterMap_eq_nil_iff.mpr fun l hl => by simp [h l (mem_lanesOf.mp hl)]
  simp only [failedCheck, hls, List.flatMap_nil]

/-- The bookkeeping of an issue, and the issuing lanes advanced. -/
def State.issued (s : State) : State := s.commit.setG (s.commit.g.advance s.iss.mask)

/-- A word whose lanes pass their checks acts in its active lanes. -/
theorem State.vmem_of_checked {s : State} {i : Instr} {guard : BitVec 7} {check : State → Fin 32 → List (BitVec 8 × W64)}
    {f : Mask → State → State} (hruns : Runs s i guard) (hact : s.actLanes guard ≠ 0#32)
    (hcheck : ∀ l : Fin 32, (s.actLanes guard).getLsbD l.val = true → check s l = []) :
    s.vmem i guard check f = .next (f (s.actLanes guard) s.issued) := by
  obtain ⟨hon, halloc, hsound⟩ := hruns
  exact State.vmem_next s i guard check f hon halloc hsound hact (failedCheck_of_nil hcheck)

/-! ### The gate -/

theorem Op.bound_pend {o : Op} (h : o.unbound = false) : o.pend &&& ~~~o.sent = 0#32 := by
  simp only [Op.unbound, Bool.or_eq_false_iff] at h
  simpa using h.1

/-- Earlier operations that have all bound hold nothing back. -/
theorem State.gate_of_bound {s : State} {o : Op} {ops : List Op} (hops : s.g.ops = ops ++ [o]) (hbound : ∀ p ∈ ops, p.unbound = false)
    (hmoved : ∀ e ∈ s.posted, e.moved = false) : s.gate o = true := by
  have hbefore : ∀ p ∈ s.g.ops.takeWhile (fun p => p.id != o.id), p ∈ ops := by
    intro p hp
    have hmem := List.takeWhile_subset _ hp
    have hne := List.mem_takeWhile_imp hp
    rw [hops, List.mem_append, List.mem_singleton] at hmem
    rcases hmem with h | rfl
    · exact h
    · simp at hne
  have hholds : (s.g.ops.takeWhile fun p => p.id != o.id).any (s.holds o) = false := by
    rw [List.any_eq_false]
    intro p hp
    simp [State.holds, hbound p (hbefore p hp)]
  have hbehind : s.behindMoved o = false := by
    have hops' : ((s.g.ops.takeWhile fun p => p.id != o.id).any fun p =>
        p.moved && (lanesOf (p.pend &&& ~~~p.sent)).any fun l => o.inLine (p.lanes[l]).addr) = false := by
      rw [List.any_eq_false]
      intro p hp
      simp [Op.bound_pend (hbound p (hbefore p hp)), lanesOf_eq_nil.mpr rfl]
    have hposted : (s.posted.any fun e => e.moved && e.team == s.t.tid && e.group == s.g.id && decide (e.part.1 < o.id) &&
        o.inLine e.va) = false := by
      rw [List.any_eq_false]
      intro e he
      simp [hmoved e he]
    rw [State.behindMoved, hops', hposted]
    simp
  simp [State.gate, hholds, hbehind]

/-! ### The end of an operation -/

/-- An operation all of whose lanes have been performed leaves the group. -/
theorem State.putOp_of_done {s : State} {o o' : Op} {ops : List Op} (hops : s.g.ops = ops ++ [o]) (hid : o'.id = o.id)
    (hfresh : ∀ p ∈ ops, p.id ≠ o.id) (hpend : o'.pend = 0#32) (hlate : o'.late = []) (hfails : o'.fails = [])
    (hdrain : s.g.draining = false) : s.putOp o' = s.setG { s.g with ops := ops.filter Op.isOpen } := by
  have hfailed : o'.failed = false := by simp [Op.failed, hfails]
  have hnote : s.noteFailure o' = o' := by simp [State.noteFailure, hfailed]
  have hupd : updWhere (fun x => x.id == o'.id) (fun _ => o') s.g.ops = ops ++ [o'] := by
    have hkeep : (ops.map fun x => if (x.id == o'.id) = true then o' else x) = ops := by
      rw [List.map_congr_left (g := id) fun p hp => by simp [hid, hfresh p hp]]
      exact List.map_id _
    rw [updWhere, hops, List.map_append, hkeep]
    simp [hid]
  have hopen : o'.isOpen = false := by simp [Op.isOpen, hpend, hfails, hlate]
  have hfilter : (ops ++ [o']).filter Op.isOpen = ops.filter Op.isOpen := by simp [hopen]
  have hdrain' : ({ s.g with ops := ops.filter Op.isOpen } : Group).draining = false := hdrain
  unfold State.putOp
  rw [hnote]
  dsimp only
  rw [hupd, hfilter]
  simp only [hfailed, hdrain', Bool.or_self, Bool.false_eq_true, if_false]
  rfl

/-! ### Attempts -/

theorem State.writeLate_of_none {s : State} {o : Op} (h : o.late = []) (m : Mask) : s.writeLate o m = (s, o) := by
  unfold State.writeLate
  simp only [h, List.filter_nil, List.zipIdx_nil, List.map_nil, List.foldl_nil]
  rw [← h]
  rfl

theorem splitLate_of_closed {o : Op} (hwin : o.win = 0) (l : Fin 32) (old new : Group) : splitLate o l old new = (new, []) := by
  simp [splitLate, hwin]

theorem State.unpark_of_none {s : State} {o : Op} (h : o.parked = 0#32) (m : Mask) : s.unpark o m = s := by
  simp only [State.unpark, h, BitVec.and_zero, BitVec.zero_and, Group.setLane, laneUpd_none]
  rfl

/-- A lane whose part is performed at once. -/
theorem stepLane_of_done {s s' : State} {o : Op} {l : Fin 32} {r : List (Fin 32)} (hlanes : lanesOf o.pend = l :: r)
    (honce : o.instr.isOnce = false) (hwin : o.win = 0) (hparked : o.parked = 0#32) (hdone : s.attempt o l = (o, .done s')) :
    stepLane (s, o) l = (s', { o with pend := o.pend &&& ~~~oneLane l }) := by
  have hbit : o.pend.getLsbD l.val = true := mem_lanesOf.mp (by rw [hlanes]; exact List.mem_cons_self)
  have hm := oneLane_and_of_bit hbit
  unfold stepLane
  simp only [honce, Bool.false_eq_true, if_false, hm, oneLane_ne_zero, lowLane_of_lanesOf hlanes, ne_eq, not_true_eq_false,
    and_false, or_self, hdone, splitLate_of_closed hwin, List.append_nil]
  rw [State.unpark_of_none hparked]
  rfl

/-- Lanes performed one after another, each by `f`; `I` is what holds while lanes are left. -/
theorem stepLane_foldl {I : List (Fin 32) → State → Prop} {f : State → Fin 32 → State} (o : Op) (honce : o.instr.isOnce = false)
    (hwin : o.win = 0) (hparked : o.parked = 0#32)
    (hstep : ∀ l r s p, I (l :: r) s → s.attempt { o with pend := p } l = ({ o with pend := p }, .done (f s l)) ∧ I r (f s l)) :
    ∀ (r : List (Fin 32)) (s : State) (p : Mask), lanesOf p = r → I r s →
      r.foldl stepLane (s, { o with pend := p }) = (r.foldl f s, { o with pend := 0#32 }) ∧ I [] (r.foldl f s) := by
  intro r
  induction r with
  | nil =>
    intro s p hp hs
    rw [lanesOf_eq_nil.mp hp]
    exact ⟨rfl, hs⟩
  | cons l r ih =>
    intro s p hp hs
    obtain ⟨hdone, hnext⟩ := hstep l r s p hs
    rw [List.foldl_cons, List.foldl_cons, stepLane_of_done (o := { o with pend := p }) hp honce hwin hparked hdone]
    exact ih (f s l) _ (lanesOf_removed hp) hnext

theorem Op.toTry_of_rmw {o : Op} (hrmw : o.instr.isRmw = true) (honce : o.instr.isOnce = false) :
    o.toTry o.pend = lanesOf o.pend := by
  have hall : (lanesOf o.pend).filter (fun l => (lanesOf o.pend).any fun k => decide (l.val ≤ k.val)) = lanesOf o.pend :=
    List.filter_eq_self.mpr fun l hl => List.any_eq_true.mpr ⟨l, hl, by simp⟩
  unfold Op.toTry
  simp only [honce, Bool.false_eq_true, if_false, BitVec.and_self]
  split
  · next h => rw [h] at hrmw; cases hrmw
  · simp only [hrmw, if_true]
    exact hall

/-- The operation joins those of its group. -/
def State.withOp (s : State) (o : Op) : State := { s with g := { s.g with ops := s.g.ops ++ [o] }, nextId := s.nextId + 1 }

/-- A new operation, of a word that is attempted lane by lane, while everything before it has bound: its lanes are performed one
after another, each by `f`, and nothing of it is left. -/
theorem State.launch_of_done {s : State} {o : Op} {I : List (Fin 32) → State → Prop} {f : State → Fin 32 → State}
    (hacp : ∀ a, o.instr ≠ .acp a) (hposted : o.instr.isPosted = false) (honce : o.instr.isOnce = false)
    (htry : o.toTry o.pend = lanesOf o.pend) (hwin : o.win = 0) (hparked : o.parked = 0#32) (hlate : o.late = [])
    (hfails : o.fails = []) (hbound : ∀ p ∈ s.g.ops, p.unbound = false) (hmoved : ∀ e ∈ s.posted, e.moved = false)
    (hfresh : ∀ p ∈ s.g.ops, p.id ≠ o.id) (hI : I (lanesOf o.pend) (s.withOp o))
    (hkeeps : ∀ t, I [] t → t.g.ops = s.g.ops ++ [o] ∧ t.g.draining = false)
    (hstep : ∀ l r t p, I (l :: r) t → t.attempt { o with pend := p } l = ({ o with pend := p }, .done (f t l)) ∧ I r (f t l)) :
    s.launch o true = ((lanesOf o.pend).foldl f (s.withOp o)).setG
        { ((lanesOf o.pend).foldl f (s.withOp o)).g with ops := s.g.ops.filter Op.isOpen } ∧
      I [] ((lanesOf o.pend).foldl f (s.withOp o)) := by
  have hgate : (s.withOp o).gate o = true := State.gate_of_bound rfl hbound hmoved
  obtain ⟨hfold, hend⟩ := stepLane_foldl o honce hwin hparked hstep (lanesOf o.pend) (s.withOp o) o.pend rfl hI
  have hput : ((lanesOf o.pend).foldl f (s.withOp o)).putOp { o with pend := 0#32 } = _ :=
    State.putOp_of_done (hkeeps _ hend).1 rfl hfresh rfl hlate hfails (hkeeps _ hend).2
  have hprogress : (s.withOp o).progress o o.pend = (s.withOp o).attemptLanes o o.pend := by
    unfold State.progress
    split
    · next a h => exact absurd h (hacp a)
    · simp [hgate, hposted]
  refine ⟨?_, hend⟩
  rw [State.launch, if_pos rfl]
  refine hprogress.trans ?_
  rw [State.attemptLanes, State.writeLate_of_none hlate]
  dsimp only
  rw [htry, hfold]
  exact hput

/-- The operations of the group as an issue leaves them: each window is one shorter. -/
theorem issued_ops {s : State} (h : Idle s) :
    (∀ p ∈ s.issued.g.ops, p.unbound = false) ∧ ∀ p ∈ s.issued.g.ops, p.id ≠ s.nextId + 1 := by
  have hops : s.issued.g.ops = s.g.ops.map fun o => { o with win := o.win - 1 } := rfl
  rw [hops]
  refine ⟨fun p hp => ?_, fun p hp => ?_⟩ <;> obtain ⟨q, hq, rfl⟩ := List.mem_map.mp hp
  · exact h.bound q hq
  · have := h.fresh q hq
    show q.id ≠ s.nextId + 1
    omega

/-- A vector memory word of which every active lane can be performed at once, by `f`. -/
theorem State.vmem_of_done {s : State} {i : Instr} {guard : BitVec 7} {check : State → Fin 32 → List (BitVec 8 × W64)}
    {caps : State → Vector LaneOp 32} {I : List (Fin 32) → State → Prop} {f : State → Fin 32 → State} {o : Op}
    (ho : s.issued.newOp i (s.actLanes guard) (s.actLanes guard) 0 0#32 (caps s.issued) [] = o)
    (hruns : Runs s i guard) (hact : s.actLanes guard ≠ 0#32)
    (hcheck : ∀ l : Fin 32, (s.actLanes guard).getLsbD l.val = true → check s l = []) (hidle : Idle s)
    (hacp : ∀ a, i ≠ .acp a) (hposted : i.isPosted = false) (honce : i.isOnce = false) (htry : o.toTry o.pend = lanesOf o.pend)
    (hI : I (lanesOf (s.actLanes guard)) (s.issued.withOp o))
    (hkeeps : ∀ t, I [] t → t.g.ops = (s.issued.withOp o).g.ops ∧ t.g.status = s.g.status)
    (hstep : ∀ l r t p, I (l :: r) t → t.attempt { o with pend := p } l = ({ o with pend := p }, .done (f t l)) ∧ I r (f t l)) :
    s.vmem i guard check (fun act s => s.launch (s.newOp i act act 0 0#32 (caps s) []) true) =
        .next (((lanesOf (s.actLanes guard)).foldl f (s.issued.withOp o)).setG
          { ((lanesOf (s.actLanes guard)).foldl f (s.issued.withOp o)).g with ops := s.commit.g.ops.filter Op.isOpen }) ∧
      I [] ((lanesOf (s.actLanes guard)).foldl f (s.issued.withOp o)) := by
  subst ho
  obtain ⟨hbound, hfresh⟩ := issued_ops hidle
  have hlaunch := State.launch_of_done (s := s.issued) (I := I) (f := f) hacp hposted honce htry rfl rfl rfl rfl hbound
    hidle.unmoved hfresh hI (fun t ht => ⟨(hkeeps t ht).1, by
      rw [Group.draining, (hkeeps t ht).2]
      exact hidle.undrained⟩) hstep
  refine ⟨?_, hlaunch.2⟩
  rw [State.vmem_of_checked hruns hact hcheck]
  exact congrArg _ hlaunch.1

/-! ### Bytes, numbers and registers -/

theorem ofBytes_append (a b : List Byte) : ofBytes (a ++ b) = ofBytes a + 256 ^ a.length * ofBytes b := by
  induction a with
  | nil => simp [ofBytes]
  | cons x a ih =>
    rw [List.cons_append, ofBytes, ih, ofBytes, List.length_cons, Nat.pow_succ]
    ring

theorem ofBytes_lt (a : List Byte) : ofBytes a < 256 ^ a.length := by
  induction a with
  | nil => simp [ofBytes]
  | cons x a ih =>
    rw [ofBytes, List.length_cons, Nat.pow_succ]
    have := x.isLt
    omega

theorem ofBytes_drop (a : List Byte) (k : Nat) : ofBytes (a.drop k) = ofBytes a / 256 ^ k := by
  induction k generalizing a with
  | zero => simp
  | succ k ih =>
    cases a with
    | nil => simp [ofBytes]
    | cons x a =>
      have hx := x.isLt
      rw [List.drop_succ_cons, ih, ofBytes, Nat.pow_succ, Nat.mul_comm (256 ^ k) 256, ← Nat.div_div_eq_div_mul]
      congr 1
      omega

theorem ofBytes_take (a : List Byte) (k : Nat) : ofBytes (a.take k) = ofBytes a % 256 ^ k := by
  by_cases hk : k ≤ a.length
  · have h := ofBytes_append (a.take k) (a.drop k)
    have hlt := ofBytes_lt (a.take k)
    rw [List.take_append_drop, List.length_take, Nat.min_eq_left hk] at h
    rw [List.length_take, Nat.min_eq_left hk] at hlt
    rw [h, Nat.add_mul_mod_self_left, Nat.mod_eq_of_lt hlt]
  · rw [List.take_of_length_le (by omega), Nat.mod_eq_of_lt]
    exact Nat.lt_of_lt_of_le (ofBytes_lt a) (Nat.pow_le_pow_right (by decide) (by omega))

theorem toBytes_mod (n x : Nat) : toBytes n (x % 256 ^ n) = toBytes n x := by
  induction n generalizing x with
  | zero => rfl
  | succ n ih =>
    rw [toBytes, toBytes, Nat.pow_succ, Nat.mul_comm (256 ^ n) 256, Nat.mod_mul_right_div_self, ih]
    congr 1
    refine BitVec.eq_of_toNat_eq ?_
    rw [BitVec.toNat_ofNat, BitVec.toNat_ofNat]
    exact Nat.mod_mul_right_mod x 256 (256 ^ n)

theorem toBytes_ofBytes (a : List Byte) : toBytes a.length (ofBytes a) = a := by
  refine List.ext_getElem (length_toBytes _ _) fun k hk hk' => ?_
  rw [getElem_toBytes, ← ofBytes_drop, List.drop_eq_getElem_cons hk', ofBytes]
  refine BitVec.eq_of_toNat_eq ?_
  have := (a[k]).isLt
  rw [BitVec.toNat_ofNat]
  omega

theorem ofBytes_inj {a b : List Byte} (hlen : a.length = b.length) (h : ofBytes a = ofBytes b) : a = b := by
  rw [← toBytes_ofBytes a, hlen, h, toBytes_ofBytes]

theorem toBytes_add (a b x : Nat) : toBytes (a + b) x = toBytes a x ++ toBytes b (x / 256 ^ a) := by
  induction a generalizing x with
  | zero => simp [toBytes]
  | succ a ih =>
    rw [Nat.succ_add, toBytes, ih, toBytes, Nat.pow_succ, Nat.mul_comm (256 ^ a) 256, ← Nat.div_div_eq_div_mul]
    rfl

theorem take_toBytes (n m x : Nat) (h : m ≤ n) : (toBytes n x).take m = toBytes m x := by
  obtain ⟨k, rfl⟩ := Nat.exists_eq_add_of_le h
  rw [toBytes_add, List.take_left' (length_toBytes _ _)]

theorem drop_toBytes (n m x : Nat) (h : m ≤ n) : (toBytes n x).drop m = toBytes (n - m) (x / 256 ^ m) := by
  obtain ⟨k, rfl⟩ := Nat.exists_eq_add_of_le h
  rw [toBytes_add, List.drop_left' (length_toBytes _ _), Nat.add_sub_cancel_left]

theorem ofNat32_mod (x : Nat) : BitVec.ofNat 32 (x % 256 ^ 4) = BitVec.ofNat 32 x :=
  BitVec.eq_of_toNat_eq (by rw [BitVec.toNat_ofNat, BitVec.toNat_ofNat]; exact Nat.mod_mod _ _)

/-- Words of four bytes are the bytes of the whole number. -/
theorem flatMap_words (n x : Nat) :
    ((List.range n).flatMap fun k => toBytes 4 (BitVec.ofNat 32 (x / 256 ^ (4 * k))).toNat) = toBytes (4 * n) x := by
  induction n with
  | zero => rfl
  | succ n ih =>
    have hword : (BitVec.ofNat 32 (x / 256 ^ (4 * n))).toNat = x / 256 ^ (4 * n) % 256 ^ 4 := by
      rw [BitVec.toNat_ofNat]
      norm_num
    rw [List.range_succ, List.flatMap_append, ih, List.flatMap_singleton, hword, toBytes_mod, Nat.mul_succ, toBytes_add]

/-- DATA holds the bytes captured, and zeros above them. -/
theorem LaneOp.bytes_laneOpOf (addr aux : W64) (bs : List Byte) : LaneOp.bytes (laneOpOf addr aux bs) = toBytes 64 (ofBytes bs) := by
  have hlist : (laneOpOf addr aux bs).data.toList =
      (List.range 16).map fun k => BitVec.ofNat 32 (ofBytes bs / 256 ^ (4 * k)) := by
    refine List.ext_getElem (by simp) fun k hk hk' => ?_
    simp only [laneOpOf, Vector.getElem_toList, Vector.getElem_ofFn, List.getElem_map, List.getElem_range]
    rw [ofBytes_take, ofBytes_drop, ofNat32_mod]
  rw [LaneOp.bytes, hlist, List.flatMap_map]
  exact flatMap_words 16 (ofBytes bs)

theorem LaneOp.take_bytes_laneOpOf (addr aux : W64) (bs : List Byte) {m : Nat} (h : m ≤ 64) :
    (LaneOp.bytes (laneOpOf addr aux bs)).take m = toBytes m (ofBytes bs) := by
  rw [LaneOp.bytes_laneOpOf, take_toBytes _ _ _ h]

theorem Group.length_laneBytes (g : Group) (l : Fin 32) (d : BitVec 7) (n : Nat) : (g.laneBytes l d n).length = 4 * n := by
  induction n with
  | zero => rfl
  | succ n ih =>
    unfold Group.laneBytes at *
    rw [List.range_succ, List.flatMap_append, List.length_append, ih, List.flatMap_singleton, length_toBytes]
    omega

/-- Registers as bytes, and as one number. -/
theorem Group.ofBytes_laneBytes (g : Group) (l : Fin 32) (d : BitVec 7) (n : Nat) :
    ofBytes (g.laneBytes l d n) = regNum g l d n := by
  induction n with
  | zero => rfl
  | succ n ih =>
    have hlen := g.length_laneBytes l d n
    have hword := (g.vr (regUp d n) l).isLt
    unfold Group.laneBytes at *
    rw [List.range_succ, List.flatMap_append, ofBytes_append, ih, hlen, List.flatMap_singleton, ofBytes_toBytes, regNum,
      Nat.mod_eq_of_lt (by omega), Nat.mul_comm, show (256 : Nat) = 2 ^ 8 from rfl, ← Nat.pow_mul]
    congr 3
    omega

theorem regNum_lt (g : Group) (l : Fin 32) (d : BitVec 7) (n : Nat) : regNum g l d n < 256 ^ (4 * n) := by
  rw [← g.ofBytes_laneBytes, ← g.length_laneBytes l d n]
  exact ofBytes_lt _

/-! ### Registers written -/

theorem regUp_inj {d : BitVec 7} {a b : Nat} (ha : a < 128) (hb : b < 128) (h : regUp d a = regUp d b) : a = b := by
  have := congrArg Fin.val h
  simp only [regUp] at this
  omega

/-- A run of registers of one lane. -/
theorem Group.foldl_setV_vr (d : BitVec 7) (l : Fin 32) (w : Nat → W32) (n : Nat) (hn : n ≤ 128) (g : Group) (q : Fin 128)
    (j : Fin 32) :
    (∀ k, k < n → ((List.range n).foldl (fun g k => g.setV (oneLane l) (regUp d k) fun _ => w k) g).vr (regUp d k) l = w k) ∧
      (¬ (j = l ∧ ∃ k, k < n ∧ q = regUp d k) →
        ((List.range n).foldl (fun g k => g.setV (oneLane l) (regUp d k) fun _ => w k) g).vr q j = g.vr q j) := by
  induction n with
  | zero => exact ⟨fun k hk => absurd hk (Nat.not_lt_zero k), fun _ => rfl⟩
  | succ n ih =>
    obtain ⟨hin, hout⟩ := ih (by omega)
    rw [List.range_succ, List.foldl_append, List.foldl_cons, List.foldl_nil]
    refine ⟨fun k hk => ?_, fun hno => ?_⟩
    · rw [Group.vr_setV]
      by_cases hkn : k = n
      · subst hkn
        simp [getLsbD_oneLane]
      · rw [if_neg fun h => hkn (regUp_inj (by omega) (by omega) h.1), hin k (by omega)]
    · rw [Group.vr_setV, if_neg, hout fun ⟨h1, k, hk, h2⟩ => hno ⟨h1, k, by omega, h2⟩]
      rintro ⟨h1, h2⟩
      rw [getLsbD_oneLane] at h2
      exact hno ⟨by simpa using h2, n, by omega, h1⟩

theorem Group.putRun_vr_same (g : Group) (l : Fin 32) (d : BitVec 7) {n k : Nat} (bs : List Byte) (hn : n ≤ 128) (hk : k < n) :
    (g.putRun l d n bs).vr (regUp d k) l = BitVec.ofNat 32 (ofBytes bs / 2 ^ (32 * k)) := by
  refine ((Group.foldl_setV_vr d l _ n hn g 0 0).1 k hk).trans ?_
  rw [ofBytes_take, ofBytes_drop, ofNat32_mod, show (256 : Nat) = 2 ^ 8 from rfl, ← Nat.pow_mul, show 8 * (4 * k) = 32 * k by omega]

theorem Group.putRun_vr_other (g : Group) (l : Fin 32) (d : BitVec 7) {n : Nat} (bs : List Byte) (hn : n ≤ 128) {q : Fin 128}
    {j : Fin 32} (h : ¬ (j = l ∧ ∃ k, k < n ∧ q = regUp d k)) : (g.putRun l d n bs).vr q j = g.vr q j :=
  (Group.foldl_setV_vr d l _ n hn g q j).2 h

/-- Beside the registers, a run written into them ends what they held in error and is watched. -/
theorem Group.foldl_setV_shape (d : BitVec 7) (l : Fin 32) (w : Nat → W32) (ks : List Nat) (g : Group) :
    ∃ v watch vbad, ks.foldl (fun g k => g.setV (oneLane l) (regUp d k) fun _ => w k) g =
      { g with v := v, watch := watch, vbad := vbad } := by
  induction ks generalizing g with
  | nil => exact ⟨_, _, _, rfl⟩
  | cons k ks ih =>
    obtain ⟨v, watch, vbad, h⟩ := ih (g.setV (oneLane l) (regUp d k) fun _ => w k)
    exact ⟨v, watch, vbad, h⟩

theorem Group.putRun_shape (g : Group) (l : Fin 32) (d : BitVec 7) (n : Nat) (bs : List Byte) :
    ∃ v watch vbad, g.putRun l d n bs = { g with v := v, watch := watch, vbad := vbad } :=
  Group.foldl_setV_shape d l _ _ g

/-! ### The functions of the atomics (R225) -/

/-- The signed value of a number of `w` bits is that of its bit vector. -/
theorem signedOf_eq_toInt {w x : Nat} (hw : 0 < w) (hx : x < 2 ^ w) : signedOf w x = (BitVec.ofNat w x).toInt := by
  have hpow := Nat.two_pow_pred_mul_two hw
  rw [signedOf, BitVec.toInt_eq_toNat_cond, BitVec.toNat_ofNat, Nat.mod_eq_of_lt hx]
  push_cast
  split <;> split <;> omega

theorem toInt_inj_of_lt {w x y : Nat} (hx : x < 2 ^ w) (hy : y < 2 ^ w) (h : (BitVec.ofNat w x).toInt = (BitVec.ofNat w y).toInt) :
    x = y := by
  have := congrArg BitVec.toNat (BitVec.eq_of_toInt_eq h)
  rwa [BitVec.toNat_ofNat, BitVec.toNat_ofNat, Nat.mod_eq_of_lt hx, Nat.mod_eq_of_lt hy] at this

/-- One function on bit vectors of any width, of which the model's are those of 64 and 32 bits. -/
def atomBits (op : AtomOp) (w : Nat) (a b : BitVec w) : Nat :=
  match op with
  | .add => (a + b).toNat
  | .min => if a.slt b then a.toNat else b.toNat
  | .max => if a.slt b then b.toNat else a.toNat
  | .minU => if a.ult b then a.toNat else b.toNat
  | .maxU => if a.ult b then b.toNat else a.toNat
  | .and => (a &&& b).toNat
  | .or => (a ||| b).toNat
  | .xor => (a ^^^ b).toNat
  | .swap => b.toNat
  | .fadd => (fAdd (if w = 64 then fmtF64 else fmtF32) .rne a.toNat b.toNat).1

theorem atomApply_eq (op : AtomOp) (wide8 : Bool) (old v : Nat) :
    atomApply op wide8 old v = if wide8 then atomBits op 64 (BitVec.ofNat 64 old) (BitVec.ofNat 64 v)
      else atomBits op 32 (BitVec.ofNat 32 old) (BitVec.ofNat 32 v) := by
  cases wide8 <;> cases op <;> rfl

theorem atomBits_eq_atomSpec (op : AtomOp) {w old v : Nat} (hw : 0 < w) (hold : old < 2 ^ w) (hv : v < 2 ^ w) :
    atomBits op w (BitVec.ofNat w old) (BitVec.ofNat w v) = atomSpec op w old v := by
  have ho : (BitVec.ofNat w old).toNat = old := by rw [BitVec.toNat_ofNat, Nat.mod_eq_of_lt hold]
  have hv' : (BitVec.ofNat w v).toNat = v := by rw [BitVec.toNat_ofNat, Nat.mod_eq_of_lt hv]
  have hs := signedOf_eq_toInt hw hold
  have ht := signedOf_eq_toInt hw hv
  have hsame := toInt_inj_of_lt hold hv
  cases op with
  | add => simp [atomBits, atomSpec]
  | min | max =>
    simp only [atomBits, atomSpec, BitVec.slt_eq_decide, decide_eq_true_eq, ho, hv', hs, ht]
    grind
  | minU | maxU =>
    simp only [atomBits, atomSpec, BitVec.ult_eq_decide, decide_eq_true_eq, ho, hv']
    grind
  | and => simp only [atomBits, atomSpec, BitVec.toNat_and, ho, hv']
  | or => simp only [atomBits, atomSpec, BitVec.toNat_or, ho, hv']
  | xor => simp only [atomBits, atomSpec, BitVec.toNat_xor, ho, hv']
  | swap => simp only [atomBits, atomSpec, hv']
  | fadd => simp only [atomBits, atomSpec, ho, hv']

/-- Bytes of an atomic. -/
def atomSize (wide8 : Bool) : Nat := if wide8 then 8 else 4

theorem atomApply_eq_atomSpec (op : AtomOp) (wide8 : Bool) {old v : Nat} (hold : old < 256 ^ atomSize wide8)
    (hv : v < 256 ^ atomSize wide8) : atomApply op wide8 old v = atomSpec op (8 * atomSize wide8) old v := by
  rw [atomApply_eq]
  cases wide8 with
  | true => exact atomBits_eq_atomSpec op (by decide) hold hv
  | false => exact atomBits_eq_atomSpec op (by decide) hold hv

/-! ### A write at a home that nothing stands in front of -/

theorem lineOf_le (a : Nat) : lineOf a ≤ a := by simp only [lineOf]; omega

/-- The line stands under the key. -/
def State.TagCurrent (s : State) (line key : Nat) : Prop :=
  ((s.tags.find? fun t => t.1 = line).map fun t => (t.2.1, t.2.2)).getD (key, 0) = (key, s.genOf key)

/-- The `n` bytes at `pa` are homed here, and nothing stands between the home and them: what `Settled` says, with the current key
asked for the bytes and for their line only. -/
structure Writable (s : State) (pa n : Nat) : Prop where
  canonical : s.mem.wf = true
  line : ∀ k, k < n → lineOf (pa + k) = lineOf pa
  here : ∀ k, k < n → s.here (pa + k) = true
  hereLine : s.here (lineOf pa) = true
  thawed : s.frozen (lineOf pa) = false
  quiet : ∀ r ∈ s.recalls, r.line ≠ lineOf pa
  mine : ∀ e ∈ s.dir, e.line ≠ lineOf pa
  sound : s.poison.contains (lineOf pa) = false
  known : ∀ k, k < n → s.hazeByte (pa + k) = none
  plain : ∀ t ∈ s.tiles, lineOf pa ∉ t.frames
  landed : ∀ e ∈ s.posted, e.core ≠ s.t.core
  keyedBytes : ∀ k, k < n → ∀ key, s.keyOf (pa + k) = some key → s.TagCurrent (lineOf pa) key
  keyedLine : ∀ key, s.keyOf (lineOf pa) = some key → s.TagCurrent (lineOf pa) key

theorem Writable.ofSettled {s : State} {pa n : Nat} (h : Settled s pa n) : Writable s pa n :=
  { h with
    canonical := h.canonical
    keyedBytes := fun k hk key hkey => by
      have := h.keyed (pa + k) (h.line k hk) key hkey
      rwa [h.line k hk] at this
    keyedLine := fun key hkey => by
      have := h.keyed (lineOf pa) (lineOf_lineOf pa) key hkey
      rwa [lineOf_lineOf] at this }

/-- The bytes read as memory holds them. -/
theorem Writable.homeByte_eq {s : State} {pa n k : Nat} (h : Writable s pa n) (hk : k < n) :
    s.homeByte (pa + k) = s.mem.get (pa + k) := by
  have htile : s.tileAt (pa + k) = none := by
    rw [State.tileAt, List.find?_eq_none]
    intro t ht
    rw [h.line k hk]
    simpa using h.plain t ht
  simp only [State.homeByte, htile, Option.isSome_none, Bool.false_eq_true, if_false, h.known k hk, State.heldByte, h.here k hk,
    if_true]
  split
  · next key hkey =>
    have htag := h.keyedBytes k hk key hkey
    rw [State.TagCurrent, ← h.line k hk] at htag
    simp only [State.byteUnder, htag, if_true]
  · rfl

theorem Writable.homeBytes_eq {s : State} {pa n : Nat} (h : Writable s pa n) :
    s.homeBytes pa n = (List.range n).map fun k => s.mem.get (pa + k) :=
  List.map_congr_left fun _ hk => h.homeByte_eq (List.mem_range.mp hk)

theorem Writable.ofBytes_homeBytes {s : State} {pa n : Nat} (h : Writable s pa n) : ofBytes (s.homeBytes pa n) = numAt s pa n := by
  rw [h.homeBytes_eq, numAt]

theorem State.length_homeBytes (s : State) (pa n : Nat) : (s.homeBytes pa n).length = n := by
  simp [State.homeBytes]

theorem Writable.numAt_lt {s : State} {pa n : Nat} (h : Writable s pa n) : numAt s pa n < 256 ^ n := by
  rw [← h.ofBytes_homeBytes]
  exact (ofBytes_lt _).trans_eq (by rw [State.length_homeBytes])

/-! #### The line's tag -/

/-- A line under its current key keeps its tag, or takes that of the key, of generation 0. -/
theorem State.retag_tag_of_current {s : State} {pa : Nat} (h : ∀ key, s.keyOf pa = some key → s.TagCurrent (lineOf pa) key) :
    ((s.retag pa).tags.find? fun t => t.1 = lineOf pa) = (s.tags.find? fun t => t.1 = lineOf pa) ∨
      ∃ key, s.keyOf pa = some key ∧ (s.tags.find? fun t => t.1 = lineOf pa) = none ∧ s.genOf key = 0 ∧
        ((s.retag pa).tags.find? fun t => t.1 = lineOf pa) = some (lineOf pa, key, 0) := by
  unfold State.retag
  split
  · split
    · exact .inl rfl
    · next key hkey =>
      have htag := h key hkey
      rw [State.TagCurrent] at htag
      simp only [htag, if_true]
      cases hfind : s.tags.find? fun t => t.1 = lineOf pa with
      | some t => exact .inl (by simp [hfind])
      | none =>
        rw [hfind] at htag
        have hgen : s.genOf key = 0 := (congrArg Prod.snd htag).symm
        exact .inr ⟨key, hkey, rfl, hgen, by simp [hgen]⟩
  · exact .inl rfl

/-- A line under its current key stays under it, and a line that has another stays under that one. -/
theorem State.TagCurrent.retag {s : State} {pa line key : Nat} (hcur : ∀ key, s.keyOf pa = some key → s.TagCurrent (lineOf pa) key)
    (h : s.TagCurrent line key) (hsame : line = lineOf pa → ∀ key', s.keyOf pa = some key' → key' = key) :
    (((s.retag pa).tags.find? fun t => t.1 = line).map fun t => (t.2.1, t.2.2)).getD (key, 0) = (key, s.genOf key) := by
  by_cases hline : line = lineOf pa
  · subst hline
    rcases State.retag_tag_of_current hcur with heq | ⟨key', hkey', hnone, hgen, heq⟩
    · rw [heq]
      exact h
    · obtain rfl := hsame rfl key' hkey'
      rw [heq, hgen]
      rfl
  · rw [State.retag_tag_of_line_ne s pa line hline]
    exact h

/-! #### Bytes of one line written -/

theorem cellsAt_lines {pa n : Nat} (hline : ∀ k, k < n → lineOf (pa + k) = lineOf pa) {bs : List Byte} (hlen : bs.length = n)
    (hn : 0 < n) :
    ((cellsAt pa bs).map fun c => lineOf c.1).dedup = [lineOf pa] := by
  rw [map_lineOf_cellsAt, hlen, List.map_congr_left fun k hk => hline k (List.mem_range.mp hk), List.map_const', List.length_range]
  exact List.replicate_dedup (by omega)

theorem State.homeWrite_mem_of_current {s : State} {pa n : Nat} (h : Writable s pa n) (own : Option Nat) {bs : List Byte}
    (hlen : bs.length = n) (hn : 0 < n) : (s.homeWrite own (cellsAt pa bs)).mem = s.mem.putList pa bs := by
  have hcur : ∀ key, s.keyOf (lineOf pa) = some key → s.TagCurrent (lineOf (lineOf pa)) key := by
    rw [lineOf_lineOf]
    exact h.keyedLine
  have hmem : (s.homeWrite own (cellsAt pa bs)).mem = (s.hwWrite pa bs).mem := rfl
  rw [hmem, State.hwWrite_mem, cellsAt_lines h.line hlen hn, List.foldl_cons, List.foldl_nil, State.retag_mem s (lineOf pa) fun _ => hcur]

theorem State.homeWrite_tags {s : State} {pa n : Nat} (hline : ∀ k, k < n → lineOf (pa + k) = lineOf pa) (own : Option Nat)
    {bs : List Byte} (hlen : bs.length = n) (hn : 0 < n) : (s.homeWrite own (cellsAt pa bs)).tags = (s.retag (lineOf pa)).tags := by
  have htags : (s.homeWrite own (cellsAt pa bs)).tags = (s.hwWrite pa bs).tags := rfl
  rw [htags, State.hwWrite_tags, cellsAt_lines hline hlen hn, List.foldl_cons, List.foldl_nil]

/-- What a write at the home may change. -/
theorem State.homeWrite_shape (s : State) (own : Option Nat) (cells : List Host.Cell) : ∃ m ts ws ct hz tl, s.homeWrite own cells =
    { s with mem := m, tags := ts, l1 := ws, cellTaken := ct, hazes := hz, tiles := tl } := by
  obtain ⟨m, ts, h⟩ := State.retagAll_shape (cells.map fun c => lineOf c.1).dedup s
  unfold State.homeWrite
  dsimp only
  rw [h]
  exact ⟨_, _, _, _, _, _, rfl⟩

theorem mem_insertNat {a b : Nat} {l : List Nat} (h : a ∈ l) : a ∈ insertNat b l := by
  induction l with
  | nil => exact absurd h List.not_mem_nil
  | cons c r ih =>
    unfold insertNat
    split
    · exact List.mem_cons_of_mem _ h
    · split
      · exact h
      · rcases List.mem_cons.mp h with rfl | h
        · exact List.mem_cons_self
        · exact List.mem_cons_of_mem _ (ih h)

theorem mem_insertAll {a : Nat} {xs l : List Nat} (h : a ∈ l) : a ∈ insertAll xs l := by
  unfold insertAll
  induction xs generalizing l with
  | nil => exact h
  | cons x xs ih => exact ih (mem_insertNat h)

theorem State.retagAll_hazes (ls : List Nat) (s : State) : (ls.foldl (fun s l => s.retag l) s).hazes = s.hazes := by
  obtain ⟨m, ts, h⟩ := State.retagAll_shape ls s
  rw [h]

theorem State.retagAll_tiles (ls : List Nat) (s : State) : (ls.foldl (fun s l => s.retag l) s).tiles = s.tiles := by
  obtain ⟨m, ts, h⟩ := State.retagAll_shape ls s
  rw [h]

/-- A byte that was known stays known. -/
theorem State.homeWrite_hazeByte {s : State} (own : Option Nat) (cells : List Host.Cell) {a : Nat} (h : s.hazeByte a = none) :
    (s.homeWrite own cells).hazeByte a = none := by
  have hnone : (s.hazes.find? fun h => h.frames.contains (a / 4096) && !h.written.contains a) = none := Option.map_eq_none_iff.mp h
  rw [List.find?_eq_none] at hnone
  have hhazes : (s.homeWrite own cells).hazes = s.hazes.map fun h =>
      { h with written := insertAll ((cells.map (·.1)).filter fun a => h.frames.contains (a / 4096)) h.written } := by
    rw [← State.retagAll_hazes (cells.map fun c => lineOf c.1).dedup s]
    rfl
  rw [State.hazeByte, Option.map_eq_none_iff, List.find?_eq_none, hhazes]
  intro z hz
  obtain ⟨y, hy, rfl⟩ := List.mem_map.mp hz
  have := hnone y hy
  simp only [Bool.and_eq_true, Bool.not_eq_true', List.contains_eq_mem, decide_eq_true_eq, decide_eq_false_iff_not, not_and,
    not_not] at this ⊢
  exact fun hf => mem_insertAll (this hf)

theorem State.homeWrite_frames {s : State} (own : Option Nat) (cells : List Host.Cell) {line : Nat}
    (h : ∀ t ∈ s.tiles, line ∉ t.frames) :
    ∀ t ∈ (s.homeWrite own cells).tiles, line ∉ t.frames := by
  have htiles : (s.homeWrite own cells).tiles = s.tiles.map fun t =>
      { t with touched := insertAll ((cells.map (·.1)).filter fun a => t.frames.contains (lineOf a)) t.touched } := by
    rw [← State.retagAll_tiles (cells.map fun c => lineOf c.1).dedup s]
    rfl
  rw [htiles]
  intro t ht
  obtain ⟨y, hy, rfl⟩ := List.mem_map.mp ht
  exact h y hy

/-! #### Keys that a write leaves alone -/

/-- `t` is `s` after a write at the home of the `n` bytes at `pa`, as far as memory, tags, hazes and tiles show it. -/
structure WrittenAt (s t : State) (pa n : Nat) (bs : List Byte) : Prop where
  size : bs.length = n
  mem : t.mem = s.mem.putList pa bs
  tags : t.tags = (s.retag (lineOf pa)).tags
  frame : t = { s with
    mem := t.mem, tags := t.tags, l1 := t.l1, cellTaken := t.cellTaken, hazes := t.hazes, tiles := t.tiles
    g := { s.g with v := t.g.v, watch := t.g.watch, vbad := t.g.vbad, old := t.g.old } }
  known : ∀ a, s.hazeByte a = none → t.hazeByte a = none
  plain : ∀ line, (∀ x ∈ s.tiles, line ∉ x.frames) → ∀ x ∈ t.tiles, line ∉ x.frames

namespace WrittenAt

variable {s t : State} {pa n : Nat} {bs : List Byte}

theorem get (h : WrittenAt s t pa n bs) (hw : Writable s pa n) (b : Nat) :
    t.mem.get b = if hb : pa ≤ b ∧ b < pa + n then bs[b - pa]'(by rw [h.size]; omega) else s.mem.get b := by
  rw [h.mem, Memory.get_putList _ _ _ _ hw.canonical]
  simp only [h.size]

theorem pkg_eq (h : WrittenAt s t pa n bs) : t.pkg = s.pkg := by rw [h.frame]
theorem policy_eq (h : WrittenAt s t pa n bs) : t.policy = s.policy := by rw [h.frame]
theorem carve_eq (h : WrittenAt s t pa n bs) : t.carve = s.carve := by rw [h.frame]
theorem tlb_eq (h : WrittenAt s t pa n bs) : t.tlb = s.tlb := by rw [h.frame]
theorem team_eq (h : WrittenAt s t pa n bs) : t.t = s.t := by rw [h.frame]
theorem freezes_eq (h : WrittenAt s t pa n bs) : t.freezes = s.freezes := by rw [h.frame]
theorem recalls_eq (h : WrittenAt s t pa n bs) : t.recalls = s.recalls := by rw [h.frame]
theorem dir_eq (h : WrittenAt s t pa n bs) : t.dir = s.dir := by rw [h.frame]
theorem poison_eq (h : WrittenAt s t pa n bs) : t.poison = s.poison := by rw [h.frame]
theorem posted_eq (h : WrittenAt s t pa n bs) : t.posted = s.posted := by rw [h.frame]
theorem genOf_eq (h : WrittenAt s t pa n bs) (key : Nat) : t.genOf key = s.genOf key := by
  have hgen : t.keyGen = s.keyGen := by rw [h.frame]
  simp only [State.genOf, hgen]
theorem fcb_eq (h : WrittenAt s t pa n bs) : t.fcb = s.fcb := by
  have hctx : t.ctxtab = s.ctxtab := by rw [h.frame]
  simp only [State.fcb, hctx]
theorem here_eq (h : WrittenAt s t pa n bs) (a : Nat) : t.here a = s.here a := by simp only [State.here, h.pkg_eq]
theorem inRegion_eq (h : WrittenAt s t pa n bs) (a : Nat) : t.inRegion a = s.inRegion a :=
  State.inRegion_congr a h.pkg_eq h.policy_eq

/-- The key of a line under its current key stays current, and the write gives no line another. -/
theorem tagCurrent (h : WrittenAt s t pa n bs) (hw : Writable s pa n) {line key : Nat} (hcur : s.TagCurrent line key)
    (hsame : line = lineOf pa → ∀ key', s.keyOf (lineOf pa) = some key' → key' = key) : t.TagCurrent line key := by
  have hline : ∀ key, s.keyOf (lineOf pa) = some key → s.TagCurrent (lineOf (lineOf pa)) key := by
    rw [lineOf_lineOf]
    exact hw.keyedLine
  rw [State.TagCurrent, h.tags, h.genOf_eq]
  exact hcur.retag hline fun hl => hsame (by rw [hl, lineOf_lineOf])

theorem carveDie_lineOf (a : Nat) : carveDie (lineOf a) = carveDie a := by
  unfold carveDie
  have hlow : localOf (lineOf a) = localOf a / 128 * 128 := by simp only [localOf, lineOf]; omega
  simp only [hlow]
  by_cases hin : 2 ^ 40 ≤ localOf a ∧ localOf a < 2 ^ 40 + 4 * 2 ^ 27
  · have hdie : (localOf a / 128 * 128 - 2 ^ 40) / 2 ^ 27 = (localOf a - 2 ^ 40) / 2 ^ 27 := by omega
    rw [if_pos (by omega), if_pos hin, hdie]
  · rw [if_neg (by omega), if_neg hin]

/-- A byte that no write covers reads the same without regard to its key. -/
theorem rawByte_eq (h : WrittenAt s t pa n bs) (hw : Writable s pa n) {a : Nat} (ha : ¬ (pa ≤ a ∧ a < pa + n)) :
    t.rawByte a = s.rawByte a := by
  have hget : t.mem.get a = s.mem.get a := by rw [h.get hw, dif_neg ha]
  unfold State.rawByte
  cases hcarve : carveDie a with
  | none => exact hget
  | some d =>
    have hline : ∀ key, s.keyOf (lineOf pa) = some key → s.TagCurrent (lineOf (lineOf pa)) key := by
      rw [lineOf_lineOf]
      exact hw.keyedLine
    have htag : ((t.tags.find? fun x => x.1 = lineOf a).map fun x => (x.2.1, x.2.2)).getD (1024 + d.val, 0) =
        ((s.tags.find? fun x => x.1 = lineOf a).map fun x => (x.2.1, x.2.2)).getD (1024 + d.val, 0) := by
      rw [h.tags]
      by_cases hl : lineOf a = lineOf (lineOf pa)
      · rw [hl]
        rcases State.retag_tag_of_current hline with heq | ⟨key, hkey, hnone, -, heq⟩
        · rw [heq]
        · have hkeyOf : s.keyOf (lineOf pa) = some (1024 + d.val) := by
            rw [State.keyOf, ← lineOf_lineOf, ← hl, carveDie_lineOf, hcarve]
          obtain rfl := Option.some.inj (hkey.symm.trans hkeyOf)
          rw [heq, hnone]
          rfl
      · rw [State.retag_tag_of_line_ne s (lineOf pa) (lineOf a) hl]
    simp only [State.byteUnder, htag, h.genOf_eq, hget]

theorem rdRaw_eq (h : WrittenAt s t pa n bs) (hw : Writable s pa n) {a m : Nat}
    (ha : ∀ k, k < n → ¬ (a ≤ pa + k ∧ pa + k < a + m)) :
    t.rdRaw a m = s.rdRaw a m := by
  unfold State.rdRaw
  congr 1
  refine List.map_congr_left fun k hk => h.rawByte_eq hw fun ⟨h1, h2⟩ => ?_
  have := List.mem_range.mp hk
  exact ha (a + k - pa) (by omega) (by omega)

end WrittenAt

/-- The key of an address is fixed by the key map alone, and writing the `n` bytes at `pa` touches neither its entry nor where the
map stands: the address lies outside the save region, or in the carve-out window. -/
def KeyFixed (s : State) (pa n a : Nat) : Prop :=
  carveDie a ≠ none ∨
    s.inRegion a = false ∧ ∀ k, k < n → ¬ (s.fcb + 72 ≤ pa + k ∧ pa + k < s.fcb + 80) ∧
      ¬ (s.rdRaw (s.fcb + 72) 8 + 2 * bitsAt (localOf a) 16 23 ≤ pa + k ∧
        pa + k < s.rdRaw (s.fcb + 72) 8 + 2 * bitsAt (localOf a) 16 23 + 2)

namespace WrittenAt

variable {s t : State} {pa n : Nat} {bs : List Byte}

theorem keyOf_eq (h : WrittenAt s t pa n bs) (hw : Writable s pa n) {a : Nat} (ha : KeyFixed s pa n a) : t.keyOf a = s.keyOf a := by
  unfold State.keyOf
  cases hcarve : carveDie a with
  | some d => rfl
  | none =>
    obtain ⟨hregion, hmap⟩ := ha.resolve_left (fun hne => hne hcarve)
    have hptr : t.rdRaw (t.fcb + 72) 8 = s.rdRaw (s.fcb + 72) 8 := by
      rw [h.fcb_eq]
      exact h.rdRaw_eq hw fun k hk => (hmap k hk).1
    simp only [h.inRegion_eq, hregion, Bool.false_eq_true, if_false, hptr]
    rw [h.rdRaw_eq hw fun k hk => (hmap k hk).2]

theorem keyFixed (h : WrittenAt s t pa n bs) (hw : Writable s pa n) {pb m a : Nat} (ha : KeyFixed s pb m a)
    (hself : KeyFixed s pa n a) : KeyFixed t pb m a := by
  rcases ha with hcarve | ⟨hregion, hmap⟩
  · exact .inl hcarve
  · rcases hself with hcarve | ⟨-, hmap'⟩
    · exact .inl hcarve
    · have hp : t.rdRaw (t.fcb + 72) 8 = s.rdRaw (s.fcb + 72) 8 := by
        rw [h.fcb_eq]
        exact h.rdRaw_eq hw fun k hk => (hmap' k hk).1
      exact .inr ⟨by rw [h.inRegion_eq]; exact hregion, by rw [hp, h.fcb_eq]; exact hmap⟩

end WrittenAt

theorem keyOf_lineOf {s : State} {a : Nat} (h : carveDie a ≠ none ∨ s.inRegion a = false ∧ s.inRegion (lineOf a) = false) :
    s.keyOf (lineOf a) = s.keyOf a := by
  unfold State.keyOf
  rw [WrittenAt.carveDie_lineOf]
  cases hcarve : carveDie a with
  | some d => rfl
  | none =>
    obtain ⟨ha, hl⟩ := h.resolve_left (fun hne => hne hcarve)
    have hentry : bitsAt (localOf (lineOf a)) 16 23 = bitsAt (localOf a) 16 23 := by
      simp only [bitsAt, localOf, lineOf]
      omega
    simp only [ha, hl, Bool.false_eq_true, if_false, hentry]

theorem inRegion_eq_false {s : State} {a : Nat} :
    s.inRegion a = false ↔ ¬ (s.regionBase ≤ a ∧ a < s.regionBase + s.policy.saveBytes) := by
  rw [State.inRegion, ← Bool.not_eq_true, Bool.and_eq_true, decide_eq_true_iff, decide_eq_true_iff]

/-- Where an address can be reached and lies outside the save region, so does the start of its line, or it is in the carve-out
window: the save region ends with a package's HBM or beyond it. -/
theorem inRegion_lineOf {s : State} {a : Nat} (hhere : s.here a = true) (hfree : s.reservedPa a = false) (hout : s.inRegion a = false) :
    carveDie a ≠ none ∨ s.inRegion (lineOf a) = false := by
  by_cases hcarve : carveDie a = none
  · refine .inr ?_
    have hhbm : localOf a < 2 ^ 39 := by
      unfold State.reservedPa at hfree
      rw [hcarve] at hfree
      simpa [isHbm] using hfree
    have hpkg : a / 2 ^ 41 = s.pkg := by simpa [State.here, pkgOf] using hhere
    have hlow := lineOf_le a
    rw [inRegion_eq_false, State.regionBase] at *
    simp only [localOf] at hhbm
    omega
  · exact .inl hcarve

namespace WrittenAt

variable {s t : State} {pa n : Nat} {bs : List Byte}

/-- Bytes that a write leaves the key of can be written after it as before. -/
theorem writable (h : WrittenAt s t pa n bs) (hw : Writable s pa n) {pb m : Nat} (hb : Writable s pb m)
    (hbytes : ∀ k, k < m → KeyFixed s pa n (pb + k)) (hline : KeyFixed s pa n (lineOf pb)) : Writable t pb m where
  canonical := by rw [h.mem]; exact Memory.wf_putList _ _ _ hw.canonical
  line := hb.line
  here := fun k hk => by rw [h.here_eq]; exact hb.here k hk
  hereLine := by rw [h.here_eq]; exact hb.hereLine
  thawed := by rw [State.frozen, h.freezes_eq]; exact hb.thawed
  quiet := by rw [h.recalls_eq]; exact hb.quiet
  mine := by rw [h.dir_eq]; exact hb.mine
  sound := by rw [h.poison_eq]; exact hb.sound
  known := fun k hk => h.known _ (hb.known k hk)
  plain := h.plain _ hb.plain
  landed := by rw [h.posted_eq, h.team_eq]; exact hb.landed
  keyedBytes := fun k hk key hkey => by
    rw [h.keyOf_eq hw (hbytes k hk)] at hkey
    refine h.tagCurrent hw (hb.keyedBytes k hk key hkey) fun hsame key' hkey' => ?_
    have heq : s.keyOf (lineOf (pb + k)) = s.keyOf (pb + k) := by
      refine keyOf_lineOf ?_
      rw [hb.line k hk]
      rcases hbytes k hk with hc | ⟨hr, -⟩
      · exact .inl hc
      · rcases hline with hc | ⟨hl, -⟩
        · refine .inl ?_
          rwa [← WrittenAt.carveDie_lineOf, hb.line k hk]
        · exact .inr ⟨hr, hl⟩
    rw [hb.line k hk, hsame, hkey', hkey] at heq
    exact Option.some.inj heq
  keyedLine := fun key hkey => by
    rw [h.keyOf_eq hw hline] at hkey
    refine h.tagCurrent hw (hb.keyedLine key hkey) fun hsame key' hkey' => ?_
    rw [hsame, hkey'] at hkey
    exact Option.some.inj hkey

end WrittenAt

/-! #### Translations -/

theorem useLeaf_eq_ok {s t : State} {l : Leaf} {v pa : Nat} {a : Access} : s.useLeaf l v a = .ok t pa ↔
    leafPa l.entry.toNat l.companion.toNat v = some pa ∧ (s.reservedPa pa || s.inRegion pa) = false ∧
      ¬ (a = .store ∧ (!l.entry.getLsbD 2) = true) ∧ ¬ (a = .fetch ∧ (!l.entry.getLsbD 3) = true) ∧
      (s.here pa && (s.keyOf pa).isNone) = false ∧ t = s := by
  constructor
  · intro h
    unfold State.useLeaf at h
    split at h
    · cases h
    · next x hleaf =>
      split_ifs at h with h1 h2 h3 h4
      obtain ⟨rfl, rfl⟩ := Xlated.ok.inj h
      exact ⟨hleaf, Bool.eq_false_of_not_eq_true h1, h2, h3, Bool.eq_false_of_not_eq_true h4, rfl⟩
  · rintro ⟨hleaf, h1, h2, h3, h4, rfl⟩
    simp only [State.useLeaf, hleaf, h1, if_neg h2, if_neg h3, h4, Bool.false_eq_true, if_false]

theorem State.tlbAdd_of_contains {s : State} {l : Leaf} (sites : List TlbSite) (h : ∀ x ∈ sites, s.tlb.contains (x, l) = true) :
    s.tlbAdd sites l = s := by
  induction sites with
  | nil => rfl
  | cons x r ih =>
    have hx : s.tlbPut l x = s := by rw [State.tlbPut, if_pos (h x List.mem_cons_self)]
    rw [State.tlbAdd, List.foldl_cons, hx]
    exact ih fun y hy => h y (List.mem_cons_of_mem _ hy)

/-- A translation held is found, and finding it changes nothing. -/
theorem translate_of_held {s : State} {va : W64} {a : Access} {pa : Nat} (h : Held s va a pa) :
    s.translate s.t.core s.t.ctx va a = .ok s pa := by
  obtain ⟨hcanon, l, hfind, hheld, huse⟩ := h
  unfold State.translate State.translateAt
  simp only [hcanon, Bool.not_true, Bool.false_eq_true, if_false, hfind]
  rw [State.tlbAdd_of_contains _ hheld]
  exact huse

theorem reachable_of_held {s : State} {va : W64} {a : Access} {pa : Nat} (h : Held s va a pa) :
    s.reservedPa pa = false ∧ s.inRegion pa = false := by
  obtain ⟨-, l, -, -, huse⟩ := h
  obtain ⟨-, hfree, -⟩ := useLeaf_eq_ok.mp huse
  exact Bool.or_eq_false_iff.mp hfree

/-- A translation is held as before where what decides it is the same. -/
theorem held_congr {s t : State} {va : W64} {a : Access} {pa : Nat} (h : Held s va a pa) (htlb : t.tlb = s.tlb) (hteam : t.t = s.t)
    (hpkg : t.pkg = s.pkg) (hpolicy : t.policy = s.policy) (hcarve : t.carve = s.carve) (hkey : t.keyOf pa = s.keyOf pa) :
    Held t va a pa := by
  obtain ⟨hcanon, l, hfind, hheld, huse⟩ := h
  obtain ⟨hleaf, hfree, hw, hx, hkeyed, -⟩ := useLeaf_eq_ok.mp huse
  refine ⟨hcanon, l, ?_, ?_, useLeaf_eq_ok.mpr ⟨hleaf, ?_, hw, hx, ?_, rfl⟩⟩
  · rw [State.tlbFind, htlb, hteam]
    exact hfind
  · rw [hteam, htlb]
    exact hheld
  · have hreserved : t.reservedPa pa = s.reservedPa pa := by simp only [State.reservedPa, State.here, hpkg, hcarve]
    rw [hreserved, State.inRegion_congr pa hpkg hpolicy]
    exact hfree
  · rw [State.here, hpkg, hkey]
    exact hkeyed

theorem WrittenAt.held {s t : State} {pa n : Nat} {bs : List Byte} (h : WrittenAt s t pa n bs) (hw : Writable s pa n) {va : W64}
    {a : Access} {pb : Nat} (hheld : Held s va a pb) (hkey : KeyFixed s pa n pb) : Held t va a pb :=
  held_congr hheld h.tlb_eq h.team_eq h.pkg_eq h.policy_eq h.carve_eq (h.keyOf_eq hw hkey)

/-! ### An atomic at its home (R111, R112) -/

theorem Writable.readyAs_eq {s : State} {pa n : Nat} (h : Writable s pa n) (fl : BitVec 8) (wide : Bool) (ctx : BitVec 10)
    (flow : BitVec 16) (write : Bool) : s.readyAs fl wide ctx flow (lineOf pa) write = .yes s := by
  have hdir : (s.dir.find? fun e => e.line = lineOf pa) = none :=
    List.find?_eq_none.mpr fun e he => by simpa using h.mine e he
  have hdead : s.resolveDead (lineOf pa) = s := by simp only [State.resolveDead, hdir]
  have hbusy : (s.recalls.any fun r => r.line = lineOf pa) = false :=
    List.any_eq_false.mpr fun r hr => by simpa using h.quiet r hr
  simp only [State.readyAs, h.hereLine, if_true, h.thawed, Bool.false_eq_true, if_false, hdead, hdir, hbusy]

/-- Where nothing of the core is pending, nothing has to be performed first. -/
theorem State.drainCore_of_landed {s : State} (h : ∀ e ∈ s.posted, e.core ≠ s.t.core) : s.drainCore s.t.core = (s, true) := by
  have hnone : (s.posted.filter fun e => e.core = s.t.core) = [] :=
    List.filter_eq_nil_iff.mpr fun e he => by simpa using h e he
  rw [State.drainCore, hnone]
  rfl

theorem State.drainBytes_of_landed {s : State} (h : ∀ e ∈ s.posted, e.core ≠ s.t.core) (pa n : Nat) :
    s.drainBytes s.t.core pa n = (s, true) := by
  have hnone : (s.posted.filter fun e => e.core == s.t.core && e.bytes.any fun c => decide (pa ≤ c.1) && decide (c.1 < pa + n)) = [] :=
    List.filter_eq_nil_iff.mpr fun e he => by simp [h e he]
  rw [State.drainBytes, hnone]
  rfl

theorem State.afterBytes_of_landed {s : State} (h : ∀ e ∈ s.posted, e.core ≠ s.t.core) (pa n : Nat) (f : State → Tried) :
    s.afterBytes pa n f = f s := by
  unfold State.afterBytes
  rw [State.drainBytes_of_landed h]
  simp

theorem State.afterCore_of_landed {s : State} (h : ∀ e ∈ s.posted, e.core ≠ s.t.core) {release : Bool} {sc : Scope}
    (hrec : release = true → cellUp sc = true → s.recalls = []) (f : State → Tried) : s.afterCore release sc f = f s := by
  unfold State.afterCore
  split
  · next hif =>
    have hrelease : release = true := by
      simp only [Bool.and_eq_true] at hif
      exact hif.1.1
    have hflush : s.flushed sc = (s, true) := by
      unfold State.flushed
      rw [State.drainCore_of_landed h]
      cases hsc : cellUp sc with
      | false => rfl
      | true => simp [hrec hrelease hsc]
    simp [hflush]
  · rfl

/-- What an acquire does beside its read: the L1's copies and the older scratchpad values go. -/
theorem State.acquired_shape (s : State) (acq : Bool) (sc : Scope) : ∃ ws old, s.acquired acq sc =
    { s with l1 := ws, g := { s.g with old := old } } ∧ (old = s.g.old ∨ old = []) := by
  unfold State.acquired
  split
  · dsimp only
    split
    · exact ⟨_, _, rfl, .inr rfl⟩
    · exact ⟨_, _, rfl, .inr rfl⟩
  · exact ⟨_, _, rfl, .inl rfl⟩

theorem State.register_shape (s : State) (core : Nat) (ws : List Nat) : ∃ l1, s.register core ws = { s with l1 := l1 } := by
  unfold State.register State.roomL1
  dsimp only
  split
  · exact ⟨_, rfl⟩
  · exact ⟨_, rfl⟩

/-- The read-modify-write of the `n` bytes at `pa`, which become `new` if anything is written. -/
def State.rmwHome (s : State) (pa n : Nat) (k : Kind) (sc : Scope) (hou : Bool) (new : Option (List Byte)) : State :=
  let t := if new.isSome then s.putHome pa new else s.dropCopies s.t.core (wordsIn pa n)
  let t := if dieUp sc || hou then t else t.register t.t.core (wordsIn pa n)
  t.acquired k.acquires sc

/-- An atomic at a home that nothing stands in front of is performed at once. -/
theorem State.atomVa_of_held {s : State} {va : W64} {pa n : Nat} (hheld : Held s va .store pa) (hw : Writable s pa n) (hn : 0 < n)
    (hrec : s.recalls = []) (op : Nat) (l : Fin 32) (code : BitVec 8) (k : Kind) (sc : Scope) (hou : Bool) (payload : List Byte)
    (f : List Byte → Option (List Byte)) (g : State → List Byte → State) :
    s.atomVa op l code va n k sc hou payload false f g =
      .done (g (s.rmwHome pa n k sc hou (f (s.homeBytes pa n))) (s.homeBytes pa n)) := by
  have hhere : s.here pa = true := hw.here 0 hn
  have hsound : s.poisoned pa = false := hw.sound
  unfold State.atomVa State.withPa
  rw [translate_of_held hheld]
  dsimp only
  rw [State.afterCore_of_landed hw.landed fun _ _ => hrec, State.afterBytes_of_landed hw.landed]
  simp only [hhere, Bool.not_true, Bool.and_false, Bool.false_eq_true, if_false, State.withLine, hw.readyAs_eq, hsound, Bool.false_and]
  rfl

/-! #### What it changes -/

/-- What a read-modify-write at a home may change of a state in the middle of an issue. -/
structure RmwFrame (s t : State) : Prop where
  frame : t = { s with
    mem := t.mem, tags := t.tags, l1 := t.l1, cellTaken := t.cellTaken, hazes := t.hazes, tiles := t.tiles
    g := { s.g with v := t.g.v, watch := t.g.watch, vbad := t.g.vbad, old := t.g.old } }
  old : OldKept s t

theorem oldKept_of_eq {s t : State} (h : t.g.old = s.g.old) : OldKept s t := fun w hw =>
  ⟨w, h ▸ hw, rfl, rfl, by simp⟩

theorem RmwFrame.refl (s : State) : RmwFrame s s := ⟨rfl, oldKept_of_eq rfl⟩

theorem OldKept.trans {s t u : State} (h : OldKept s t) (h' : OldKept t u) : OldKept s u := by
  intro w hw
  obtain ⟨x, hx, hword, hval, hlanes⟩ := h' w hw
  obtain ⟨y, hy, hword', hval', hlanes'⟩ := h x hx
  refine ⟨y, hy, hword.trans hword', hval.trans hval', ?_⟩
  refine BitVec.eq_of_getLsbD_eq fun i hi => ?_
  have h1 := congrArg (fun m => BitVec.getLsbD m i) hlanes
  have h2 := congrArg (fun m => BitVec.getLsbD m i) hlanes'
  simp only [BitVec.getLsbD_and, BitVec.getLsbD_not, hi, decide_true, Bool.true_and, BitVec.getLsbD_zero] at h1 h2 ⊢
  revert h1 h2
  cases w.lanes.getLsbD i <;> cases x.lanes.getLsbD i <;> cases y.lanes.getLsbD i <;> decide

theorem RmwFrame.trans {s t u : State} (h : RmwFrame s t) (h' : RmwFrame t u) : RmwFrame s u := by
  refine ⟨?_, OldKept.trans h.old h'.old⟩
  have h1 := h.frame
  have h2 := h'.frame
  rw [h1] at h2
  exact h2

theorem RmwFrame.setG_putRun {s t : State} (h : RmwFrame s t) (l : Fin 32) (d : BitVec 7) (n : Nat) (bs : List Byte) :
    RmwFrame s (t.setG (t.g.putRun l d n bs)) := by
  refine h.trans ?_
  obtain ⟨v, watch, vbad, hg⟩ := t.g.putRun_shape l d n bs
  rw [hg]
  exact ⟨rfl, oldKept_of_eq rfl⟩

/-- After the bytes are written only the L1 and what an acquire forgets change. -/
theorem State.rmwHome_shape (s : State) (pa n : Nat) (k : Kind) (sc : Scope) (hou : Bool) (new : Option (List Byte)) :
    ∃ m ts ws ct hz tl old, s.rmwHome pa n k sc hou new =
        { s with mem := m, tags := ts, l1 := ws, cellTaken := ct, hazes := hz, tiles := tl, g := { s.g with old := old } } ∧
      (old = s.g.old ∨ old = []) ∧
      (new = none → m = s.mem) ∧
      ∀ bs, new = some bs → m = (s.homeWrite (some s.t.core) (cellsAt pa bs)).mem ∧
        ts = (s.homeWrite (some s.t.core) (cellsAt pa bs)).tags ∧ hz = (s.homeWrite (some s.t.core) (cellsAt pa bs)).hazes ∧
        tl = (s.homeWrite (some s.t.core) (cellsAt pa bs)).tiles := by
  obtain ⟨m, ts, ws, ct, hz, tl, hput, hkeep, hwrite⟩ : ∃ m ts ws ct hz tl,
      (if new.isSome then s.putHome pa new else s.dropCopies s.t.core (wordsIn pa n)) =
        { s with mem := m, tags := ts, l1 := ws, cellTaken := ct, hazes := hz, tiles := tl } ∧ (new = none → m = s.mem) ∧
        ∀ bs, new = some bs → m = (s.homeWrite (some s.t.core) (cellsAt pa bs)).mem ∧
          ts = (s.homeWrite (some s.t.core) (cellsAt pa bs)).tags ∧ hz = (s.homeWrite (some s.t.core) (cellsAt pa bs)).hazes ∧
          tl = (s.homeWrite (some s.t.core) (cellsAt pa bs)).tiles := by
    cases new with
    | none => exact ⟨_, _, _, _, _, _, rfl, fun _ => rfl, fun bs h => nomatch h⟩
    | some bs =>
      obtain ⟨m, ts, ws, ct, hz, tl, h⟩ := State.homeWrite_shape s (some s.t.core) (cellsAt pa bs)
      refine ⟨m, ts, ws, ct, hz, tl, h, nofun, fun bs' hbs => ?_⟩
      obtain rfl := Option.some.inj hbs
      rw [h]
      exact ⟨rfl, rfl, rfl, rfl⟩
  unfold State.rmwHome
  dsimp only
  rw [hput]
  split
  · obtain ⟨ws', old, hacq, hold⟩ := State.acquired_shape
      { s with mem := m, tags := ts, l1 := ws, cellTaken := ct, hazes := hz, tiles := tl } k.acquires sc
    exact ⟨m, ts, ws', ct, hz, tl, old, hacq, hold, hkeep, hwrite⟩
  · obtain ⟨ws₁, hreg⟩ := State.register_shape
      { s with mem := m, tags := ts, l1 := ws, cellTaken := ct, hazes := hz, tiles := tl } s.t.core (wordsIn pa n)
    rw [hreg]
    obtain ⟨ws', old, hacq, hold⟩ := State.acquired_shape
      { s with mem := m, tags := ts, l1 := ws₁, cellTaken := ct, hazes := hz, tiles := tl } k.acquires sc
    exact ⟨m, ts, ws', ct, hz, tl, old, hacq, hold, hkeep, hwrite⟩

theorem oldKept_of_kept {s t : State} (h : t.g.old = s.g.old ∨ t.g.old = []) : OldKept s t := by
  rcases h with h | h
  · exact oldKept_of_eq h
  · exact fun w hw => absurd (h ▸ hw) List.not_mem_nil

theorem State.rmwHome_frame (s : State) (pa n : Nat) (k : Kind) (sc : Scope) (hou : Bool) (new : Option (List Byte)) :
    RmwFrame s (s.rmwHome pa n k sc hou new) ∧ (s.rmwHome pa n k sc hou new).g.v = s.g.v := by
  obtain ⟨m, ts, ws, ct, hz, tl, old, h, hold, -⟩ := s.rmwHome_shape pa n k sc hou new
  rw [h]
  exact ⟨⟨rfl, oldKept_of_kept hold⟩, rfl⟩

theorem State.rmwHome_mem_of_none (s : State) (pa n : Nat) (k : Kind) (sc : Scope) (hou : Bool) :
    (s.rmwHome pa n k sc hou none).mem = s.mem := by
  obtain ⟨m, ts, ws, ct, hz, tl, old, h, -, hkeep, -⟩ := s.rmwHome_shape pa n k sc hou none
  rw [h]
  exact hkeep rfl

theorem State.rmwHome_written {s : State} {pa n : Nat} (hw : Writable s pa n) (hn : 0 < n) (k : Kind) (sc : Scope) (hou : Bool)
    {bs : List Byte} (hlen : bs.length = n) : WrittenAt s (s.rmwHome pa n k sc hou (some bs)) pa n bs := by
  obtain ⟨m, ts, ws, ct, hz, tl, old, h, -, -, hwrite⟩ := s.rmwHome_shape pa n k sc hou (some bs)
  obtain ⟨rfl, rfl, rfl, rfl⟩ := hwrite bs rfl
  rw [h]
  exact
    { size := hlen
      mem := State.homeWrite_mem_of_current hw (some s.t.core) hlen hn
      tags := State.homeWrite_tags hw.line (some s.t.core) hlen hn
      frame := rfl
      known := fun a ha => State.homeWrite_hazeByte (some s.t.core) (cellsAt pa bs) ha
      plain := fun line hline => State.homeWrite_frames (some s.t.core) (cellsAt pa bs) hline }

/-! ### Atomics of several lanes, one after another (R111) -/

/-- The read-modify-writes of a word: `n` bytes of lane `l` at `at_ l` become `new l` of what they were, and what they were goes to
the registers from `dest` on, where there is one. -/
structure Rmw where
  n : Nat
  kind : Kind
  scope : Scope
  hou : Bool
  dest : Option (BitVec 7)
  at_ : Fin 32 → Nat
  new : Fin 32 → List Byte → Option (List Byte)

/-- What is done with the bytes read. -/
def Rmw.take (x : Rmw) (l : Fin 32) (s : State) (old : List Byte) : State :=
  match x.dest with
  | some d => s.setG (s.g.putRun l d (x.n / 4) old)
  | none => s

/-- One lane's part. -/
def Rmw.lane (x : Rmw) (s : State) (l : Fin 32) : State :=
  x.take l (s.rmwHome (x.at_ l) x.n x.kind x.scope x.hou (x.new l (s.homeBytes (x.at_ l) x.n))) (s.homeBytes (x.at_ l) x.n)

theorem Rmw.take_frame (x : Rmw) (l : Fin 32) {s t : State} (h : RmwFrame s t) (old : List Byte) : RmwFrame s (x.take l t old) := by
  unfold Rmw.take
  split
  · exact h.setG_putRun l _ _ old
  · exact h

theorem Rmw.take_mem (x : Rmw) (l : Fin 32) (s : State) (old : List Byte) : (x.take l s old).mem = s.mem := by
  unfold Rmw.take
  split <;> rfl

theorem Rmw.take_written (x : Rmw) (l : Fin 32) {s t : State} {pa n : Nat} {bs : List Byte} (h : WrittenAt s t pa n bs) (old : List Byte) :
    WrittenAt s (x.take l t old) pa n bs := by
  have hframe : RmwFrame t (x.take l t old) := x.take_frame l (RmwFrame.refl t) old
  unfold Rmw.take at *
  split
  · next d _ =>
    refine ⟨h.size, h.mem, h.tags, ?_, h.known, h.plain⟩
    obtain ⟨v, watch, vbad, hg⟩ := t.g.putRun_shape l d (x.n / 4) old
    have := h.frame
    rw [hg, this]
    rfl
  · exact h

theorem Rmw.take_vr_same (x : Rmw) (l : Fin 32) (s : State) (old : List Byte) {d : BitVec 7} (hd : x.dest = some d) {k : Nat}
    (hn : x.n / 4 ≤ 128) (hk : k < x.n / 4) :
    (x.take l s old).g.vr (regUp d k) l = BitVec.ofNat 32 (ofBytes old / 2 ^ (32 * k)) := by
  unfold Rmw.take
  rw [hd]
  exact s.g.putRun_vr_same l d old hn hk

theorem Rmw.take_vr_other (x : Rmw) (l : Fin 32) (s : State) (old : List Byte) (hn : x.n / 4 ≤ 128) {q : Fin 128} {j : Fin 32}
    (h : ∀ d, x.dest = some d → ¬ (j = l ∧ ∃ k, k < x.n / 4 ∧ q = regUp d k)) : (x.take l s old).g.vr q j = s.g.vr q j := by
  unfold Rmw.take
  split
  · next d hd => exact s.g.putRun_vr_other l d old hn (h d hd)
  · rfl

/-- The lanes of `r` can be performed one after another from `t`, which the lanes before them have made of `s`. -/
structure RmwReady (x : Rmw) (va : Fin 32 → W64) (s : State) (r : List (Fin 32)) (t : State) : Prop where
  frame : RmwFrame s t
  held : ∀ l ∈ r, Held t (va l) .store (x.at_ l)
  writable : ∀ l ∈ r, Writable t (x.at_ l) x.n
  fixed : r.Pairwise fun l j => (∀ i, i < x.n → KeyFixed t (x.at_ l) x.n (x.at_ j + i)) ∧ KeyFixed t (x.at_ l) x.n (lineOf (x.at_ j))

/-- The word always writes. -/
def Rmw.Writes (x : Rmw) : Prop := ∀ l old, ∃ bs, x.new l old = some bs ∧ bs.length = x.n

theorem Rmw.lane_frame (x : Rmw) (s : State) (l : Fin 32) : RmwFrame s (x.lane s l) :=
  x.take_frame l (s.rmwHome_frame ..).1 _

theorem Rmw.lane_written {x : Rmw} {s : State} {l : Fin 32} (hw : Writable s (x.at_ l) x.n) (hn : 0 < x.n) {bs : List Byte}
    (hbs : x.new l (s.homeBytes (x.at_ l) x.n) = some bs) (hlen : bs.length = x.n) : WrittenAt s (x.lane s l) (x.at_ l) x.n bs := by
  refine x.take_written l ?_ _
  rw [hbs]
  exact State.rmwHome_written hw hn x.kind x.scope x.hou hlen

/-- A lane performed leaves the later ones ready. -/
theorem RmwReady.lane {x : Rmw} {va : Fin 32 → W64} {s t : State} {l : Fin 32} {r : List (Fin 32)} (h : RmwReady x va s (l :: r) t)
    (hn : 0 < x.n) (hr : r = [] ∨ x.Writes) : RmwReady x va s r (x.lane t l) := by
  have hframe := h.frame.trans (x.lane_frame t l)
  rcases hr with rfl | hwrites
  · exact ⟨hframe, nofun, nofun, List.Pairwise.nil⟩
  · obtain ⟨bs, hbs, hlen⟩ := hwrites l (t.homeBytes (x.at_ l) x.n)
    have hw := h.writable l List.mem_cons_self
    have hwritten := Rmw.lane_written hw hn hbs hlen
    obtain ⟨hfirst, hrest⟩ := List.pairwise_cons.mp h.fixed
    refine ⟨hframe, fun j hj => ?_, fun j hj => ?_, ?_⟩
    · have hkey := (hfirst j hj).1 0 hn
      exact hwritten.held hw (h.held j (List.mem_cons_of_mem _ hj)) hkey
    · exact hwritten.writable hw (h.writable j (List.mem_cons_of_mem _ hj)) (hfirst j hj).1 (hfirst j hj).2
    · refine hrest.imp_of_mem fun {a b} _ hb ⟨hbytes, hline⟩ => ⟨fun i hi => ?_, ?_⟩
      · exact hwritten.keyFixed hw (hbytes i hi) ((hfirst b hb).1 i hi)
      · exact hwritten.keyFixed hw hline (hfirst b hb).2

/-! #### What the lanes together have done -/

/-- What read-modify-writes `F` of the lanes `r`, one after another, make of the bytes `before`, and of the registers from `dest`
on. -/
structure RmwDone (s t : State) (before after : Nat → Byte) (dest : Option (BitVec 7)) (n : Nat) (F : Fin 32 → Nat → Nat)
    (at_ : Fin 32 → Nat) (r : List (Fin 32)) : Prop where
  bytes : ∀ b, after b = (rmwFold n F at_ r before).1 b
  returned : ∀ y ∈ (rmwFold n F at_ r before).2, ∀ d, dest = some d → ∀ k, k < n / 4 →
    t.g.vr (regUp d k) y.1 = BitVec.ofNat 32 (y.2 / 2 ^ (32 * k))
  others : ∀ (q : Fin 128) (j : Fin 32), (∀ d, dest = some d → ¬ (j ∈ r ∧ ∃ k, k < n / 4 ∧ q = regUp d k)) →
    t.g.vr q j = s.g.vr q j

section
variable {dest : Option (BitVec 7)} {n : Nat} {F : Fin 32 → Nat → Nat} {at_ : Fin 32 → Nat}

theorem RmwDone.nil (s : State) (bytes : Nat → Byte) : RmwDone s s bytes bytes dest n F at_ [] :=
  ⟨fun _ => rfl, nofun, fun _ _ _ => rfl⟩

/-- One lane, and then the lanes after it. -/
theorem RmwDone.cons {s t u : State} {before mid after : Nat → Byte} {l : Fin 32} {r : List (Fin 32)} (hl : l ∉ r) {old : Nat}
    (hold : ofBytes ((List.range n).map fun k => before (at_ l + k)) = old)
    (hbytes : ∀ b, mid b = if at_ l ≤ b ∧ b < at_ l + n then BitVec.ofNat 8 (F l old / 256 ^ (b - at_ l)) else before b)
    (hreturned : ∀ d, dest = some d → ∀ k, k < n / 4 → t.g.vr (regUp d k) l = BitVec.ofNat 32 (old / 2 ^ (32 * k)))
    (hothers : ∀ (q : Fin 128) (j : Fin 32), (∀ d, dest = some d → ¬ (j = l ∧ ∃ k, k < n / 4 ∧ q = regUp d k)) →
      t.g.vr q j = s.g.vr q j)
    (h : RmwDone t u mid after dest n F at_ r) : RmwDone s u before after dest n F at_ (l :: r) := by
  have hfold : rmwFold n F at_ (l :: r) before = ((rmwFold n F at_ r mid).1, (l, old) :: (rmwFold n F at_ r mid).2) := by
    rw [funext hbytes, ← hold]
    rfl
  refine ⟨fun b => ?_, fun y hy d hd k hk => ?_, fun q j hno => ?_⟩
  · rw [hfold]
    exact h.bytes b
  · rw [hfold] at hy
    rcases List.mem_cons.mp hy with rfl | hy
    · rw [h.others _ _ fun _ _ hin => hl hin.1]
      exact hreturned d hd k hk
    · exact h.returned y hy d hd k hk
  · rw [h.others q j fun d hd hin => hno d hd ⟨List.mem_cons_of_mem _ hin.1, hin.2⟩]
    exact hothers q j fun d hd hin => hno d hd ⟨hin.1 ▸ List.mem_cons_self, hin.2⟩

end

theorem Rmw.lane_vr_same {x : Rmw} {s : State} {l : Fin 32} (hw : Writable s (x.at_ l) x.n) {d : BitVec 7} (hd : x.dest = some d)
    (hn : x.n / 4 ≤ 128) {k : Nat} (hk : k < x.n / 4) :
    (x.lane s l).g.vr (regUp d k) l = BitVec.ofNat 32 (numAt s (x.at_ l) x.n / 2 ^ (32 * k)) := by
  rw [Rmw.lane, x.take_vr_same l _ _ hd hn hk, hw.ofBytes_homeBytes]

theorem Rmw.lane_vr_other (x : Rmw) (s : State) (l : Fin 32) (hn : x.n / 4 ≤ 128) {q : Fin 128} {j : Fin 32}
    (h : ∀ d, x.dest = some d → ¬ (j = l ∧ ∃ k, k < x.n / 4 ∧ q = regUp d k)) : (x.lane s l).g.vr q j = s.g.vr q j := by
  have hv : (s.rmwHome (x.at_ l) x.n x.kind x.scope x.hou (x.new l (s.homeBytes (x.at_ l) x.n))).g.v = s.g.v :=
    (s.rmwHome_frame ..).2
  rw [Rmw.lane, x.take_vr_other l _ _ hn h]
  simp only [Group.vr, hv]

theorem ofNat8_ofBytes_div (bs : List Byte) (k : Nat) (hk : k < bs.length) : BitVec.ofNat 8 (ofBytes bs / 256 ^ k) = bs[k] := by
  rw [← getElem_toBytes bs.length (ofBytes bs) k (by rwa [length_toBytes])]
  simp only [toBytes_ofBytes]

/-- Memory after one lane's read-modify-write, which writes `v` or, where that is what it has read, nothing. -/
theorem Rmw.lane_get {x : Rmw} {s : State} {l : Fin 32} {v : Nat} (hw : Writable s (x.at_ l) x.n) (hn : 0 < x.n)
    (hnew : x.new l (s.homeBytes (x.at_ l) x.n) = some (toBytes x.n v) ∨
      x.new l (s.homeBytes (x.at_ l) x.n) = none ∧ v = numAt s (x.at_ l) x.n) (b : Nat) :
    (x.lane s l).mem.get b = if x.at_ l ≤ b ∧ b < x.at_ l + x.n then BitVec.ofNat 8 (v / 256 ^ (b - x.at_ l)) else s.mem.get b := by
  rcases hnew with hnew | ⟨hnew, rfl⟩
  · rw [(Rmw.lane_written hw hn hnew (length_toBytes _ _)).get hw b]
    split
    · rw [getElem_toBytes]
    · rfl
  · have hmem : (x.lane s l).mem = s.mem := by
      rw [Rmw.lane, x.take_mem, hnew, State.rmwHome_mem_of_none]
    rw [hmem]
    split
    · next hb =>
      rw [numAt, ofNat8_ofBytes_div _ _ (by simp; omega)]
      simp only [List.getElem_map, List.getElem_range]
      congr 1
      omega
    · rfl

/-- Memory and the registers after lanes that write `F` of what they read. -/
theorem RmwReady.fold {x : Rmw} {va : Fin 32 → W64} {s : State} {F : Fin 32 → Nat → Nat} (hn : 0 < x.n) (hn' : x.n / 4 ≤ 128)
    (hnew : ∀ l old, x.new l old = some (toBytes x.n (F l (ofBytes old)))) (r : List (Fin 32)) (hnd : r.Nodup) (t : State)
    (h : RmwReady x va s r t) : RmwDone t (r.foldl x.lane t) t.mem.get (r.foldl x.lane t).mem.get x.dest x.n F x.at_ r := by
  induction r generalizing t with
  | nil => exact RmwDone.nil t _
  | cons l r ih =>
    have hwrites : x.Writes := fun l old => ⟨_, hnew l old, length_toBytes _ _⟩
    obtain ⟨hl, hnd'⟩ := List.nodup_cons.mp hnd
    have hw := h.writable l List.mem_cons_self
    have hnew' := hnew l (t.homeBytes (x.at_ l) x.n)
    rw [hw.ofBytes_homeBytes] at hnew'
    exact RmwDone.cons hl rfl (Rmw.lane_get hw hn (.inl hnew')) (fun _ hd _ hk => Rmw.lane_vr_same hw hd hn' hk)
      (fun _ _ hno => x.lane_vr_other t l hn' hno) (ih hnd' (x.lane t l) (h.lane hn (.inr hwrites)))

/-! ### The bookkeeping of an issue stands in front of no home -/

section
variable (s : State) (g : Group) (iss : Issue) (n : Nat)

theorem State.keyOf_issue (a : Nat) : State.keyOf { s with g := g, iss := iss, nextId := n } a = s.keyOf a := by
  have hregion : State.inRegion { s with g := g, iss := iss, nextId := n } a = s.inRegion a := rfl
  have harea : State.areaCtx { s with g := g, iss := iss, nextId := n } a = s.areaCtx a := rfl
  have hctx : State.ctxKey { s with g := g, iss := iss, nextId := n } = s.ctxKey := rfl
  have hraw : State.rdRaw { s with g := g, iss := iss, nextId := n } = s.rdRaw := rfl
  have hfcb : State.fcb { s with g := g, iss := iss, nextId := n } = s.fcb := rfl
  simp only [State.keyOf, hregion, harea, hctx, hraw, hfcb]

theorem Writable.issue {pa m : Nat} (h : Writable s pa m) : Writable { s with g := g, iss := iss, nextId := n } pa m :=
  { canonical := h.canonical, line := h.line, here := h.here, hereLine := h.hereLine, thawed := h.thawed, quiet := h.quiet
    mine := h.mine, sound := h.sound, known := h.known, plain := h.plain, landed := h.landed
    keyedBytes := fun k hk key hkey => h.keyedBytes k hk key (by rwa [State.keyOf_issue] at hkey)
    keyedLine := fun key hkey => h.keyedLine key (by rwa [State.keyOf_issue] at hkey) }

theorem KeyFixed.issue {pa m a : Nat} (h : KeyFixed s pa m a) : KeyFixed { s with g := g, iss := iss, nextId := n } pa m a := by
  have hregion : State.inRegion { s with g := g, iss := iss, nextId := n } a = s.inRegion a := rfl
  have hraw : State.rdRaw { s with g := g, iss := iss, nextId := n } = s.rdRaw := rfl
  have hfcb : State.fcb { s with g := g, iss := iss, nextId := n } = s.fcb := rfl
  rw [KeyFixed, hregion, hraw, hfcb]
  exact h

theorem held_issue {va : W64} {a : Access} {pa : Nat} (h : Held s va a pa) : Held { s with g := g, iss := iss, nextId := n } va a pa :=
  held_congr h rfl rfl rfl rfl rfl (s.keyOf_issue g iss n pa)

end

/-- The state in which the lanes of a word's operation are performed: the bookkeeping of the issue is done, the issuing lanes have
advanced, and the operation stands. -/
def State.begun (s : State) (o : Op) : State := { s.commit with
  g := { s.commit.g with
    lpc := laneUpd s.g.lpc s.iss.mask fun i => s.g.lpc[i] + 1#32
    ops := s.commit.g.ops ++ [o] }
  nextId := s.nextId + 2 }

/-- The state after the word. -/
def State.closed (s : State) (t : State) : State := t.setG { t.g with ops := s.commit.g.ops.filter Op.isOpen }

theorem State.begun_eq (s : State) (o : Op) : ∃ g iss n, s.begun o = { s with g := g, iss := iss, nextId := n } := ⟨_, _, _, rfl⟩

theorem State.issued_withOp (s : State) (o : Op) : s.issued.withOp o = s.begun o := rfl

@[simp] theorem State.begun_g (s : State) (o : Op) : (s.begun o).g = { s.commit.g with
    lpc := laneUpd s.g.lpc s.iss.mask fun i => s.g.lpc[i] + 1#32
    ops := s.commit.g.ops ++ [o] } := rfl

/-- What is true after read-modify-writes have ended a word. -/
theorem RmwFrame.word {s t : State} {o : Op} (h : RmwFrame (s.begun o) t) :
    (s.closed t).g.p = s.g.p ∧ (s.closed t).g.s = s.g.s ∧ (s.closed t).g.q = s.g.q ∧ NothingLeft s (s.closed t) ∧
      Advances s (s.closed t) ∧ FrameStore s (s.closed t) := by
  obtain ⟨hframe, hold⟩ := h
  have hg : t.g = { (s.begun o).g with v := t.g.v, watch := t.g.watch, vbad := t.g.vbad, old := t.g.old } := congrArg State.g hframe
  have hlpc : t.g.lpc = laneUpd s.g.lpc s.iss.mask fun i => s.g.lpc[i] + 1#32 := by rw [hg]; simp
  refine ⟨?_, ?_, ?_, rfl, fun l => ?_, ?_, ?_⟩
  · rw [State.closed, State.setG, hg]; simp
  · rw [State.closed, State.setG, hg]; simp
  · rw [State.closed, State.setG, hg]; simp
  · have hget : (s.closed t).g.lpc[l] = t.g.lpc[l.val] := rfl
    rw [hget, hlpc]
    exact laneUpd_get ..
  · obtain ⟨m, ts, ws, ct, hz, tl, v, watch, vbad, old, rfl⟩ : ∃ m ts ws ct hz tl v watch vbad old, t = { s.begun o with
        mem := m, tags := ts, l1 := ws, cellTaken := ct, hazes := hz, tiles := tl
        g := { (s.begun o).g with v := v, watch := watch, vbad := vbad, old := old } } :=
      ⟨t.mem, t.tags, t.l1, t.cellTaken, t.hazes, t.tiles, t.g.v, t.g.watch, t.g.vbad, t.g.old, hframe⟩
    simp only [State.closed, State.setG, State.begun]
  · have hbegun : (s.begun o).g.old = s.g.old := by simp
    have hclosed : (s.closed t).g.old = t.g.old := rfl
    rw [OldKept, hbegun] at hold
    rw [OldKept, hclosed]
    exact hold

/-! ### Words of read-modify-writes at a home -/

theorem RmwFrame.kept {s t : State} {o : Op} (h : RmwFrame (s.begun o) t) :
    t.g.ops = s.commit.g.ops ++ [o] ∧ t.g.status = s.g.status ∧ t.recalls = s.recalls := by
  have hg : t.g = { (s.begun o).g with v := t.g.v, watch := t.g.watch, vbad := t.g.vbad, old := t.g.old } := congrArg State.g h.frame
  have hrec : t.recalls = (s.begun o).recalls := by rw [h.frame]
  exact ⟨by rw [hg]; simp, by rw [hg]; simp, hrec⟩

/-- A word whose lanes make read-modify-writes at homes that nothing stands in front of. -/
theorem Rmw.word {s : State} {i : Instr} {guard : BitVec 7} {check : State → Fin 32 → List (BitVec 8 × W64)}
    {caps : State → Vector LaneOp 32} {va : Fin 32 → W64} {x : Rmw} {o : Op}
    (ho : s.issued.newOp i (s.actLanes guard) (s.actLanes guard) 0 0#32 (caps s.issued) [] = o) (hruns : Runs s i guard)
    (hact : s.actLanes guard ≠ 0#32)
    (hcheck : ∀ l : Fin 32, (s.actLanes guard).getLsbD l.val = true → check s l = []) (hidle : Idle s)
    (hacp : ∀ a, i ≠ .acp a) (hposted : i.isPosted = false) (honce : i.isOnce = false) (hrmw : i.isRmw = true)
    (hn : 0 < x.n) (hrec : s.recalls = [])
    (hheld : ∀ l ∈ lanesOf (s.actLanes guard), Held s (va l) .store (x.at_ l))
    (hwritable : ∀ l ∈ lanesOf (s.actLanes guard), Writable s (x.at_ l) x.n)
    (hfixed : (lanesOf (s.actLanes guard)).Pairwise fun l j =>
      (∀ i, i < x.n → KeyFixed s (x.at_ l) x.n (x.at_ j + i)) ∧ KeyFixed s (x.at_ l) x.n (lineOf (x.at_ j)))
    (hwrites : (lanesOf (s.actLanes guard)).length ≤ 1 ∨ x.Writes)
    (hatt : ∀ (t : State) (l : Fin 32) (p : Mask), Held t (va l) .store (x.at_ l) → Writable t (x.at_ l) x.n → t.recalls = [] →
      t.attempt { o with pend := p } l = ({ o with pend := p }, .done (x.lane t l))) :
    s.vmem i guard check (fun act s => s.launch (s.newOp i act act 0 0#32 (caps s) []) true) =
        .next (s.closed ((lanesOf (s.actLanes guard)).foldl x.lane (s.begun o))) ∧
      RmwFrame (s.begun o) ((lanesOf (s.actLanes guard)).foldl x.lane (s.begun o)) ∧
      RmwReady x va (s.begun o) (lanesOf (s.actLanes guard)) (s.begun o) := by
  have hready : RmwReady x va (s.begun o) (lanesOf (s.actLanes guard)) (s.begun o) := by
    obtain ⟨g, iss, n, hbegun⟩ := s.begun_eq o
    rw [hbegun]
    exact
      { frame := RmwFrame.refl _
        held := fun l hl => held_issue s g iss n (hheld l hl)
        writable := fun l hl => Writable.issue s g iss n (hwritable l hl)
        fixed := hfixed.imp fun {a b} ⟨hbytes, hline⟩ =>
          ⟨fun i hi => KeyFixed.issue s g iss n (hbytes i hi), KeyFixed.issue s g iss n hline⟩ }
  obtain ⟨hword, hend, -⟩ := State.vmem_of_done (caps := caps) (f := x.lane) (check := check)
    (I := fun r t => RmwReady x va (s.begun o) r t ∧ (r.length ≤ 1 ∨ x.Writes)) ho hruns hact hcheck hidle hacp hposted honce
    (by rw [← ho]; exact Op.toTry_of_rmw hrmw honce)
    ⟨hready, hwrites⟩
    (fun t ht => ⟨(RmwFrame.kept ht.1.frame).1, (RmwFrame.kept ht.1.frame).2.1⟩)
    (fun l r t p ⟨ht, hr⟩ => by
      have hrec' : t.recalls = [] := (RmwFrame.kept ht.frame).2.2.trans hrec
      refine ⟨hatt t l p (ht.held l List.mem_cons_self) (ht.writable l List.mem_cons_self) hrec', ht.lane hn ?_, ?_⟩
      · refine hr.imp (fun h => ?_) id
        exact List.eq_nil_of_length_eq_zero (by rw [List.length_cons] at h; omega)
      · exact hr.imp (fun h => by rw [List.length_cons] at h; omega) id)
  exact ⟨hword, hend.frame, hready⟩

/-! #### The instructions -/

/-- The read-modify-writes of ATOM and RED with operands `v`. -/
def atomRmw (m : MAtom) (dest : Option (BitVec 7)) (at_ : Fin 32 → Nat) (v : Fin 32 → Nat) : Rmw where
  n := atomSize m.wide8
  kind := m.kind
  scope := m.scope
  hou := false
  dest := dest
  at_ := at_
  new := fun l old => some (toBytes (atomSize m.wide8) (atomApply m.op m.wide8 (ofBytes old) (v l)))

/-- Bytes of a CASW's comparand. -/
def caswSize (wide32 : Bool) : Nat := if wide32 then 32 else 16

/-- The read-modify-writes of CASW with comparands and new values `data`. -/
def caswRmw (m : MCasw) (at_ : Fin 32 → Nat) (data : Fin 32 → List Byte) : Rmw where
  n := caswSize m.wide32
  kind := m.kind
  scope := m.scope
  hou := true
  dest := some m.d
  at_ := at_
  new := fun l old =>
    if old = (data l).take (caswSize m.wide32) then some (((data l).drop (caswSize m.wide32)).take (caswSize m.wide32)) else none

/-- A lane's part of an ATOM or RED, of which `dest` is where the old value goes. -/
theorem attempt_atom (t : State) (o : Op) (l : Fin 32) (m : MAtom) (dest : Option (BitVec 7)) (at_ : Fin 32 → Nat) (v : Fin 32 → Nat)
    (hi : o.instr = .atom m ∧ dest = some m.d ∨ o.instr = .red m ∧ dest = none)
    (hv : ofBytes ((LaneOp.bytes (o.lanes[l])).take (atomSize m.wide8)) = v l) :
    t.attempt o l = (o, t.atomVa o.id l (atomCode m.op) (o.lanes[l]).addr (atomSize m.wide8) m.kind m.scope false
      ((LaneOp.bytes (o.lanes[l])).take (atomSize m.wide8)) false ((atomRmw m dest at_ v).new l) ((atomRmw m dest at_ v).take l)) := by
  rcases hi with ⟨hi, rfl⟩ | ⟨hi, rfl⟩
  · unfold State.attempt
    rw [hi]
    simp only [atomRmw, ← hv]
    rfl
  · unfold State.attempt
    rw [hi]
    simp only [atomRmw, ← hv]
    rfl

theorem attempt_casw (t : State) (o : Op) (l : Fin 32) (m : MCasw) (at_ : Fin 32 → Nat) (data : Fin 32 → List Byte)
    (hi : o.instr = .casw m) (hdata : LaneOp.bytes (o.lanes[l]) = data l) :
    t.attempt o l = (o, t.atomVa o.id l 0x10#8 (o.lanes[l]).addr (caswSize m.wide32) m.kind m.scope true
      ((LaneOp.bytes (o.lanes[l])).take (2 * caswSize m.wide32)) false ((caswRmw m at_ data).new l) ((caswRmw m at_ data).take l)) := by
  unfold State.attempt
  rw [hi]
  simp only [caswRmw, ← hdata]
  rfl

/-! ### ATOM, RED and CASW (R225, R227) -/

/-! #### What an issue leaves of the registers -/

theorem Group.ea_congr {g g' : Group} (hv : g.v = g'.v) (hs : g.s = g'.s) (m : MAddr) (l : Fin 32) : g.ea m l = g'.ea m l := by
  have hvr : ∀ r j, g.vr r j = g'.vr r j := fun r j => by simp only [Group.vr, hv]
  have hsr : ∀ r, g.sr64 r = g'.sr64 r := fun r => by simp only [Group.sr64, hs]
  have hroute : ∀ r j, g.routeLane r j = g'.routeLane r j := fun r j => by
    cases r <;> simp only [Group.routeLane, hvr]
  simp only [Group.ea, Group.src, Group.src64, Group.vpair, hvr, hsr, hroute]

theorem Group.laneBytes_congr {g g' : Group} (hv : g.v = g'.v) (l : Fin 32) (d : BitVec 7) (n : Nat) :
    g.laneBytes l d n = g'.laneBytes l d n := by
  simp only [Group.laneBytes, Group.vr, hv]

theorem State.issued_v (s : State) : s.issued.g.v = s.g.v := by simp [State.issued]

theorem State.issued_s (s : State) : s.issued.g.s = s.g.s := by simp [State.issued]

/-- The captured part of a lane. -/
theorem State.capture_issued (s : State) (m : MAddr) (e : BitVec 7) (n : Nat) (l : Fin 32) :
    (s.issued.capture m fun l => s.issued.g.laneBytes l e n)[l] = laneOpOf (s.g.ea m l) 0#64 (s.g.laneBytes l e n) := by
  have hget : (s.issued.capture m fun l => s.issued.g.laneBytes l e n)[l] =
      laneOpOf (s.issued.g.ea m l) 0#64 (s.issued.g.laneBytes l e n) := Vector.getElem_ofFn _
  rw [hget, Group.ea_congr s.issued_v s.issued_s, Group.laneBytes_congr s.issued_v]

/-! #### Keys of lanes that the claims name -/

theorem keyFixed_of_apart {s : State} {pa n pb m : Nat} (hb : Writable s pb m) (hm : 0 < m) (hheld : s.reservedPa pb = false)
    (hout : ∀ k, k < m → s.inRegion (pb + k) = false) (hapart : KeyMapApart s pa n pb) :
    (∀ i, i < m → KeyFixed s pa n (pb + i)) ∧ KeyFixed s pa n (lineOf pb) := by
  refine ⟨fun i hi => .inr ⟨hout i hi, fun k hk => ?_⟩, ?_⟩
  · obtain ⟨hptr, hmap⟩ := hapart k hk
    have hline := hb.line i hi
    have hoff := hmap (pb + i - lineOf pb) (by simp only [lineOf] at *; omega)
    rw [show lineOf pb + (pb + i - lineOf pb) = pb + i by have := lineOf_le pb; omega] at hoff
    exact ⟨hptr, hoff⟩
  · rcases inRegion_lineOf (hb.here 0 hm) hheld (hout 0 hm) with hcarve | hregion
    · exact .inl (by rwa [WrittenAt.carveDie_lineOf])
    · exact .inr ⟨hregion, fun k hk => by
        obtain ⟨hptr, hmap⟩ := hapart k hk
        exact ⟨hptr, hmap 0 (by decide)⟩⟩

theorem LanesHeld.fixed {s : State} {m : Mask} {va : Fin 32 → W64} {a : Access} {pa : Fin 32 → Nat} {n : Nat} (hn : 0 < n)
    (h : LanesHeld s m va a pa n) : (lanesOf m).Pairwise fun l j =>
      (∀ i, i < n → KeyFixed s (pa l) n (pa j + i)) ∧ KeyFixed s (pa l) n (lineOf (pa j)) := by
  refine List.pairwise_of_forall_mem_list fun l hl j hj => ?_
  have hl := mem_lanesOf.mp hl
  have hj := mem_lanesOf.mp hj
  obtain ⟨hheld, hsettled⟩ := h.held j hj
  exact keyFixed_of_apart (Writable.ofSettled hsettled) hn (reachable_of_held hheld).1 (h.outside j hj) (h.apart l j hl hj)

/-! #### Functions of what is read -/

theorem rmwFold_congr {n : Nat} {f g : Fin 32 → Nat → Nat} {at_ : Fin 32 → Nat} (h : ∀ l old, old < 256 ^ n → f l old = g l old)
    (r : List (Fin 32)) (mem : Nat → Byte) : rmwFold n f at_ r mem = rmwFold n g at_ r mem := by
  induction r generalizing mem with
  | nil => rfl
  | cons l r ih =>
    have hlt : ofBytes ((List.range n).map fun k => mem (at_ l + k)) < 256 ^ n :=
      (ofBytes_lt _).trans_eq (by simp)
    simp only [rmwFold, h l _ hlt, ih]

theorem ofNat8_mod_pow {n k : Nat} (x : Nat) (hk : k < n) : BitVec.ofNat 8 (x % 2 ^ (8 * n) / 256 ^ k) = BitVec.ofNat 8 (x / 256 ^ k) := by
  have hpow : 2 ^ (8 * n) = 256 ^ n := by rw [Nat.pow_mul]
  have h := getElem_toBytes n (x % 256 ^ n) k (by rwa [length_toBytes])
  have h' := getElem_toBytes n x k (by rwa [length_toBytes])
  rw [hpow, ← h, ← h']
  simp only [toBytes_mod]

/-- The words ATOM and RED as their issue gives them. -/
theorem exec_atom (s : State) (m : MAtom) (hla : m.la = 0#4) : exec (.atom m) s =
    s.vmem (.atom m) m.guard (State.alignCheck m.addr (atomSize m.wide8)) fun act s =>
      s.launch (s.newOp (.atom m) act act 0 0#32 (s.capture m.addr fun l => s.g.laneBytes l m.e (atomSize m.wide8 / 4)) []) true := by
  have hexec : exec (.atom m) s = execAtom m s := rfl
  rw [hexec, execAtom, hla]
  cases m.wide8 <;> rfl

theorem exec_red (s : State) (m : MAtom) : exec (.red m) s =
    s.vmem (.red m) m.guard (State.alignCheck m.addr (atomSize m.wide8)) fun act s =>
      s.launch (s.newOp (.red m) act act 0 0#32 (s.capture m.addr fun l => s.g.laneBytes l m.e (atomSize m.wide8 / 4)) []) true := by
  have hexec : exec (.red m) s = execRed m s := rfl
  rw [hexec, execRed]
  cases m.wide8 <;> rfl

theorem exec_casw (s : State) (m : MCasw) (hla : m.la = 0#4) : exec (.casw m) s =
    s.vmem (.casw m) m.guard (State.alignCheck m.addr (caswSize m.wide32)) fun act s =>
      s.launch (s.newOp (.casw m) act act 0 0#32 (s.capture m.addr fun l => s.g.laneBytes l m.e (caswSize m.wide32 / 2)) []) true := by
  have hexec : exec (.casw m) s = execCasw m s := rfl
  rw [hexec, execCasw, hla]
  cases m.wide32 <;> rfl

/-! #### The words performed -/

theorem atomSize_pos (wide8 : Bool) : 0 < atomSize wide8 ∧ 4 * (atomSize wide8 / 4) = atomSize wide8 ∧ atomSize wide8 / 4 ≤ 128 ∧
    atomSize wide8 ≤ 64 := by
  cases wide8 <;> decide

/-- The operand of an atomic, as captured. -/
theorem atom_operand (g : Group) (l : Fin 32) (e : BitVec 7) (a : W64) (wide8 : Bool) :
    ofBytes ((LaneOp.bytes (laneOpOf a 0#64 (g.laneBytes l e (atomSize wide8 / 4)))).take (atomSize wide8)) =
      regNum g l e (atomSize wide8 / 4) := by
  obtain ⟨-, hwords, -, hle⟩ := atomSize_pos wide8
  have hlt := regNum_lt g l e (atomSize wide8 / 4)
  rw [hwords] at hlt
  rw [LaneOp.take_bytes_laneOpOf _ _ _ hle, ofBytes_toBytes, Group.ofBytes_laneBytes, Nat.mod_eq_of_lt hlt]

theorem alignCheck_eq_nil {s : State} {m : MAddr} {n : Nat} {l : Fin 32} (h : (s.g.ea m l).toNat % n = 0) :
    s.alignCheck m n l = [] := if_pos h

/-- What a lane has in the operation of a word that captures registers. -/
theorem newOp_lanes {s : State} {i : Instr} {act : Mask} {m : MAddr} {e : BitVec 7} {n : Nat} {o : Op}
    (ho : s.issued.newOp i act act 0 0#32 (s.issued.capture m fun l => s.issued.g.laneBytes l e n) [] = o) (l : Fin 32) :
    o.lanes[l] = laneOpOf (s.g.ea m l) 0#64 (s.g.laneBytes l e n) := by
  rw [← ho]
  exact s.capture_issued m e n l

/-- ATOM and RED in their lanes, at homes that nothing stands in front of. -/
theorem atom_word {s : State} {i : Instr} {m : MAtom} {dest : Option (BitVec 7)} {pa : Fin 32 → Nat} {o : Op}
    (hi : i = .atom m ∧ m.la = 0#4 ∧ dest = some m.d ∨ i = .red m ∧ dest = none)
    (ho : s.issued.newOp i (s.actLanes m.guard) (s.actLanes m.guard) 0 0#32
      (s.issued.capture m.addr fun l => s.issued.g.laneBytes l m.e (atomSize m.wide8 / 4)) [] = o)
    (h : Lanes s i m.guard (s.g.ea m.addr) (atomSize m.wide8)) (hrec : s.recalls = [])
    (hheld : ∀ l ∈ lanesOf (s.actLanes m.guard), Held s (s.g.ea m.addr l) .store (pa l))
    (hwritable : ∀ l ∈ lanesOf (s.actLanes m.guard), Writable s (pa l) (atomSize m.wide8))
    (hfixed : (lanesOf (s.actLanes m.guard)).Pairwise fun l j =>
      (∀ i, i < atomSize m.wide8 → KeyFixed s (pa l) (atomSize m.wide8) (pa j + i)) ∧
        KeyFixed s (pa l) (atomSize m.wide8) (lineOf (pa j))) :
    let x := atomRmw m dest pa fun l => regNum s.g l m.e (atomSize m.wide8 / 4)
    exec i s = .next (s.closed ((lanesOf (s.actLanes m.guard)).foldl x.lane (s.begun o))) ∧
      RmwFrame (s.begun o) ((lanesOf (s.actLanes m.guard)).foldl x.lane (s.begun o)) ∧
      RmwReady x (s.g.ea m.addr) (s.begun o) (lanesOf (s.actLanes m.guard)) (s.begun o) := by
  intro x
  obtain ⟨hn, -⟩ := atomSize_pos m.wide8
  have hlane := newOp_lanes ho
  have hatt : ∀ (t : State) (l : Fin 32) (p : Mask), Held t (s.g.ea m.addr l) .store (pa l) → Writable t (pa l) (atomSize m.wide8) →
      t.recalls = [] → t.attempt { o with pend := p } l = ({ o with pend := p }, .done (x.lane t l)) := by
    intro t l p hh hw hr
    have haddr : (o.lanes[l]).addr = s.g.ea m.addr l := by rw [hlane]; rfl
    have hdata := atom_operand s.g l m.e (s.g.ea m.addr l) m.wide8
    rw [← hlane] at hdata
    have hi' : o.instr = .atom m ∧ dest = some m.d ∨ o.instr = .red m ∧ dest = none := by
      have hinstr : o.instr = i := by rw [← ho]; rfl
      rw [hinstr]
      exact hi.imp (fun h => ⟨h.1, h.2.2⟩) id
    rw [attempt_atom t { o with pend := p } l m dest pa (fun l => regNum s.g l m.e (atomSize m.wide8 / 4)) hi' hdata, haddr,
      State.atomVa_of_held hh hw hn hr]
    rfl
  have hcheck : ∀ l : Fin 32, (s.actLanes m.guard).getLsbD l.val = true → s.alignCheck m.addr (atomSize m.wide8) l = [] :=
    fun l hl => alignCheck_eq_nil (h.aligned l hl)
  have hwrites : x.Writes := fun l old => ⟨_, rfl, length_toBytes _ _⟩
  obtain ⟨hexec, hacp, hposted, honce, hrmw⟩ : (exec i s = s.vmem i m.guard (State.alignCheck m.addr (atomSize m.wide8)) fun act s =>
      s.launch (s.newOp i act act 0 0#32 (s.capture m.addr fun l => s.g.laneBytes l m.e (atomSize m.wide8 / 4)) []) true) ∧
      (∀ a, i ≠ .acp a) ∧ i.isPosted = false ∧ i.isOnce = false ∧ i.isRmw = true := by
    rcases hi with ⟨rfl, hla, rfl⟩ | ⟨rfl, rfl⟩
    · exact ⟨exec_atom s m hla, nofun, rfl, rfl, rfl⟩
    · exact ⟨exec_red s m, nofun, rfl, rfl, rfl⟩
  rw [hexec]
  exact Rmw.word (check := State.alignCheck m.addr (atomSize m.wide8)) (x := x)
    (caps := fun s => s.capture m.addr fun l => s.g.laneBytes l m.e (atomSize m.wide8 / 4)) ho h.runs h.some_ hcheck h.idle hacp
    hposted honce hrmw hn hrec hheld hwritable hfixed (.inr hwrites) hatt

/-! #### What the claims say of ATOM, RED and CASW -/

theorem Group.v_ext {g g' : Group} (h : ∀ q j, g.vr q j = g'.vr q j) : g.v = g'.v :=
  Vector.ext fun q hq => Vector.ext fun j hj => h ⟨q, hq⟩ ⟨j, hj⟩

theorem State.closed_vr (s t : State) (q : Fin 128) (j : Fin 32) : (s.closed t).g.vr q j = t.g.vr q j := rfl

theorem State.closed_mem (s t : State) : (s.closed t).mem = t.mem := rfl

theorem State.begun_vr (s : State) (o : Op) (q : Fin 128) (j : Fin 32) : (s.begun o).g.vr q j = s.g.vr q j := by
  simp only [Group.vr, State.begun_g, State.commit_g_v]

theorem State.begun_mem (s : State) (o : Op) : (s.begun o).mem = s.mem := by
  obtain ⟨g, iss, n, h⟩ := s.begun_eq o
  rw [h]

/-- What the word leaves of the registers and of its operation. -/
def WordEnded (s t : State) : Prop :=
  t.g.p = s.g.p ∧ t.g.s = s.g.s ∧ t.g.q = s.g.q ∧ NothingLeft s t ∧ Advances s t ∧ FrameStore s t

/-- What the lanes have done, seen from before the issue and after the word. -/
theorem RmwDone.closed {s t : State} {o : Op} {dest : Option (BitVec 7)} {n : Nat} {F : Fin 32 → Nat → Nat} {at_ : Fin 32 → Nat}
    {r : List (Fin 32)} (h : RmwDone (s.begun o) t (s.begun o).mem.get t.mem.get dest n F at_ r) :
    RmwDone s (s.closed t) s.mem.get (s.closed t).mem.get dest n F at_ r := by
  rw [s.begun_mem o] at h
  exact ⟨h.bytes, h.returned, fun q j hq => (h.others q j hq).trans (s.begun_vr o q j)⟩

theorem RmwDone.congr {s t : State} {before after : Nat → Byte} {dest : Option (BitVec 7)} {n : Nat} {F G : Fin 32 → Nat → Nat}
    {at_ : Fin 32 → Nat} {r : List (Fin 32)} (hFG : ∀ l old, old < 256 ^ n → F l old = G l old)
    (h : RmwDone s t before after dest n F at_ r) : RmwDone s t before after dest n G at_ r := by
  obtain ⟨hbytes, hreturned, hothers⟩ := h
  rw [rmwFold_congr hFG] at hbytes hreturned
  exact ⟨hbytes, hreturned, hothers⟩

theorem atom_lanes {s : State} {i : Instr} {m : MAtom} {dest : Option (BitVec 7)} {pa : Fin 32 → Nat}
    (hi : i = .atom m ∧ m.la = 0#4 ∧ dest = some m.d ∨ i = .red m ∧ dest = none)
    (h : Lanes s i m.guard (s.g.ea m.addr) (atomSize m.wide8)) (hrec : s.recalls = [])
    (hheld : ∀ l ∈ lanesOf (s.actLanes m.guard), Held s (s.g.ea m.addr l) .store (pa l))
    (hwritable : ∀ l ∈ lanesOf (s.actLanes m.guard), Writable s (pa l) (atomSize m.wide8))
    (hfixed : (lanesOf (s.actLanes m.guard)).Pairwise fun l j =>
      (∀ i, i < atomSize m.wide8 → KeyFixed s (pa l) (atomSize m.wide8) (pa j + i)) ∧
        KeyFixed s (pa l) (atomSize m.wide8) (lineOf (pa j))) :
    ∃ t, exec i s = .next t ∧ RmwDone s t s.mem.get t.mem.get dest (atomSize m.wide8)
      (fun l old => atomSpec m.op (8 * atomSize m.wide8) old (regNum s.g l m.e (atomSize m.wide8 / 4))) pa
      (lanesOf (s.actLanes m.guard)) ∧ WordEnded s t := by
  obtain ⟨hn, hwords, hn', -⟩ := atomSize_pos m.wide8
  obtain ⟨o, ho⟩ : ∃ o, s.issued.newOp i (s.actLanes m.guard) (s.actLanes m.guard) 0 0#32
    (s.issued.capture m.addr fun l => s.issued.g.laneBytes l m.e (atomSize m.wide8 / 4)) [] = o := ⟨_, rfl⟩
  obtain ⟨hexec, hframe, hready⟩ := atom_word hi ho h hrec hheld hwritable hfixed
  have hdone := RmwReady.fold
    (F := fun l old => atomApply m.op m.wide8 old (regNum s.g l m.e (atomSize m.wide8 / 4))) hn hn' (fun _ _ => rfl) _
    (lanesOf_nodup _) _ hready
  refine ⟨_, hexec, RmwDone.congr ?_ (RmwDone.closed hdone), hframe.word⟩
  exact fun l old hold => atomApply_eq_atomSpec m.op m.wide8 hold ((regNum_lt s.g l m.e _).trans_eq (by rw [hwords]))

/-- ATOM and RED in several lanes. -/
theorem atom_lanes_fold (s : State) (m : MAtom) (i : Instr) (pa : Fin 32 → Nat) (hi : i = .atom m ∧ m.la = 0#4 ∨ i = .red m)
    (h : Lanes s i m.guard (s.g.ea m.addr) (atomSize m.wide8))
    (hheld : LanesHeld s (s.actLanes m.guard) (s.g.ea m.addr) .store pa (atomSize m.wide8)) (hrec : s.recalls = []) :
    ∃ t, exec i s = .next t ∧ RmwDone s t s.mem.get t.mem.get (if i = .atom m then some m.d else none) (atomSize m.wide8)
      (fun l old => atomSpec m.op (8 * atomSize m.wide8) old (regNum s.g l m.e (atomSize m.wide8 / 4))) pa
      (lanesOf (s.actLanes m.guard)) ∧ WordEnded s t := by
  refine atom_lanes ?_ h hrec (fun l hl => (hheld.held l (mem_lanesOf.mp hl)).1)
    (fun l hl => Writable.ofSettled (hheld.held l (mem_lanesOf.mp hl)).2) (LanesHeld.fixed (atomSize_pos _).1 hheld)
  rcases hi with ⟨rfl, hla⟩ | rfl
  · exact .inl ⟨rfl, hla, if_pos rfl⟩
  · exact .inr ⟨rfl, if_neg nofun⟩

theorem lanes_of_oneLane {s : State} {i : Instr} {guard : BitVec 7} {l : Fin 32} {va : Fin 32 → W64} {n : Nat}
    (h : OneLane s i guard l (va l) n) : Lanes s i guard va n where
  runs := h.runs
  some_ := by rw [h.one]; exact oneLane_ne_zero l
  aligned := fun j hj => by
    rw [h.one, getLsbD_oneLane, decide_eq_true_eq] at hj
    subst hj
    exact h.aligned
  idle := h.idle

/-- One lane's read-modify-write. -/
theorem RmwDone.one {s t : State} {before after : Nat → Byte} {dest : Option (BitVec 7)} {n : Nat} {F : Fin 32 → Nat → Nat}
    {at_ : Fin 32 → Nat} {l : Fin 32} (h : RmwDone s t before after dest n F at_ [l]) :
    let old := ofBytes ((List.range n).map fun k => before (at_ l + k))
    (∀ k, k < n → after (at_ l + k) = BitVec.ofNat 8 (F l old / 256 ^ k)) ∧
      (∀ b, ¬ (at_ l ≤ b ∧ b < at_ l + n) → after b = before b) ∧
      (∀ d, dest = some d → LaneRegisters s t l d (n / 4) fun k => BitVec.ofNat 32 (old / 2 ^ (32 * k))) ∧
      (dest = none → t.g.v = s.g.v) := by
  intro old
  refine ⟨fun k hk => ?_, fun b hb => ?_, fun d hd => ⟨fun k hk => ?_, fun r j hno => ?_⟩, fun hd => ?_⟩
  · rw [h.bytes]
    simp [rmwFold, hk, old]
  · rw [h.bytes]
    exact if_neg hb
  · exact h.returned (l, old) List.mem_cons_self d hd k hk
  · refine h.others r j fun d' hd' hin => hno ⟨List.mem_singleton.mp hin.1, ?_⟩
    obtain rfl := Option.some.inj (hd.symm.trans hd')
    exact hin.2
  · exact Group.v_ext fun q j => h.others q j fun d hd' => by rw [hd] at hd'; cases hd'

/-- ATOM and RED in one lane. -/
theorem atom_one_lane (s : State) (m : MAtom) (i : Instr) (l : Fin 32) (pa : Nat) (hi : i = .atom m ∧ m.la = 0#4 ∨ i = .red m)
    (h : OneLane s i m.guard l (s.g.ea m.addr l) (atomSize m.wide8)) (hheld : Held s (s.g.ea m.addr l) .store pa)
    (hsettled : Settled s pa (atomSize m.wide8)) (hrec : s.recalls = []) :
    ∃ t, exec i s = .next t ∧ RmwDone s t s.mem.get t.mem.get (if i = .atom m then some m.d else none) (atomSize m.wide8)
      (fun l old => atomSpec m.op (8 * atomSize m.wide8) old (regNum s.g l m.e (atomSize m.wide8 / 4))) (fun _ => pa) [l] ∧
      WordEnded s t := by
  have hlanes : lanesOf (s.actLanes m.guard) = [l] := by rw [h.one, lanesOf_oneLane]
  rw [← hlanes]
  refine atom_lanes ?_ (lanes_of_oneLane h) hrec ?_ ?_ ?_
  · rcases hi with ⟨rfl, hla⟩ | ⟨rfl⟩
    · exact .inl ⟨rfl, hla, if_pos rfl⟩
    · exact .inr ⟨rfl, if_neg nofun⟩
  · intro j hj
    rw [hlanes, List.mem_singleton] at hj
    rw [hj]
    exact hheld
  · intro j hj
    exact Writable.ofSettled hsettled
  · rw [hlanes]
    exact List.pairwise_singleton _ _

/-! #### CASW in one lane -/

theorem caswSize_pos (wide32 : Bool) : 0 < caswSize wide32 ∧ 4 * (caswSize wide32 / 4) = caswSize wide32 ∧
    4 * (caswSize wide32 / 2) = 2 * caswSize wide32 ∧ caswSize wide32 / 4 ≤ 128 ∧ 2 * caswSize wide32 ≤ 64 := by
  cases wide32 <;> decide

theorem regNum_mod (g : Group) (l : Fin 32) (d : BitVec 7) (a b : Nat) : regNum g l d (a + b) % 256 ^ (4 * a) = regNum g l d a := by
  have hpow : ∀ k, (256 : Nat) ^ (4 * k) = 2 ^ (32 * k) := fun k => by
    rw [show (256 : Nat) = 2 ^ 8 from rfl, ← Nat.pow_mul]
    congr 1
    omega
  induction b with
  | zero => exact Nat.mod_eq_of_lt (regNum_lt g l d a)
  | succ b ih =>
    have hdvd : 2 ^ (32 * (a + b)) = 256 ^ (4 * a) * 2 ^ (32 * b) := by
      rw [hpow, ← Nat.pow_add]
      congr 1
      omega
    rw [← Nat.add_assoc, regNum, hdvd, Nat.mul_left_comm, Nat.add_mul_mod_self_left]
    exact ih

/-- The value a CASW leaves. -/
def caswNew (n comparand new old : Nat) : Nat := if old = comparand then new / 2 ^ (8 * n) else old

/-- What a CASW makes of the bytes it reads. -/
theorem caswRmw_new (g : Group) (m : MCasw) (at_ : Fin 32 → Nat) (l : Fin 32) (old : List Byte) (hold : old.length = caswSize m.wide32) :
    let x := caswRmw m at_ fun l => toBytes 64 (regNum g l m.e (caswSize m.wide32 / 2))
    let v := caswNew (caswSize m.wide32) (regNum g l m.e (caswSize m.wide32 / 4)) (regNum g l m.e (caswSize m.wide32 / 2)) (ofBytes old)
    x.new l old = some (toBytes x.n v) ∨ x.new l old = none ∧ v = ofBytes old := by
  intro x v
  obtain ⟨-, hwords, -, -, hle⟩ := caswSize_pos m.wide32
  have hhalf : caswSize m.wide32 / 2 = caswSize m.wide32 / 4 + caswSize m.wide32 / 4 := by cases m.wide32 <;> rfl
  have hcomparand : (toBytes 64 (regNum g l m.e (caswSize m.wide32 / 2))).take (caswSize m.wide32) =
      toBytes (caswSize m.wide32) (regNum g l m.e (caswSize m.wide32 / 4)) := by
    have hmod := regNum_mod g l m.e (caswSize m.wide32 / 4) (caswSize m.wide32 / 4)
    rw [hwords] at hmod
    rw [take_toBytes _ _ _ (by omega), ← toBytes_mod, hhalf, hmod]
  have hequal : old = toBytes (caswSize m.wide32) (regNum g l m.e (caswSize m.wide32 / 4)) ↔
      ofBytes old = regNum g l m.e (caswSize m.wide32 / 4) := by
    have hlt := regNum_lt g l m.e (caswSize m.wide32 / 4)
    rw [hwords] at hlt
    have hof := (ofBytes_toBytes (caswSize m.wide32) (regNum g l m.e (caswSize m.wide32 / 4))).trans (Nat.mod_eq_of_lt hlt)
    refine ⟨fun h => ?_, fun h => ofBytes_inj (by rw [hold, length_toBytes]) (h.trans hof.symm)⟩
    rw [h, hof]
  have hnew : x.new l old = if old = (toBytes 64 (regNum g l m.e (caswSize m.wide32 / 2))).take (caswSize m.wide32) then
      some (((toBytes 64 (regNum g l m.e (caswSize m.wide32 / 2))).drop (caswSize m.wide32)).take (caswSize m.wide32)) else none := rfl
  rw [hnew, hcomparand]
  by_cases h : ofBytes old = regNum g l m.e (caswSize m.wide32 / 4)
  · have hv : v = regNum g l m.e (caswSize m.wide32 / 2) / 256 ^ caswSize m.wide32 := by
      rw [show (256 : Nat) = 2 ^ 8 from rfl, ← Nat.pow_mul]
      exact if_pos h
    left
    rw [if_pos (hequal.mpr h), drop_toBytes _ _ _ (by omega), take_toBytes _ _ _ (by omega), hv]
    rfl
  · exact .inr ⟨if_neg fun e => h (hequal.mp e), if_neg h⟩

/-- CASW in its one lane, at a home that nothing stands in front of. -/
theorem casw_word {s : State} {m : MCasw} {l : Fin 32} {pa : Nat} {o : Op}
    (ho : s.issued.newOp (.casw m) (s.actLanes m.guard) (s.actLanes m.guard) 0 0#32
      (s.issued.capture m.addr fun l => s.issued.g.laneBytes l m.e (caswSize m.wide32 / 2)) [] = o) (hla : m.la = 0#4)
    (h : OneLane s (.casw m) m.guard l (s.g.ea m.addr l) (caswSize m.wide32)) (hheld : Held s (s.g.ea m.addr l) .store pa)
    (hw : Writable s pa (caswSize m.wide32)) (hrec : s.recalls = []) :
    let x := caswRmw m (fun _ => pa) fun l => toBytes 64 (regNum s.g l m.e (caswSize m.wide32 / 2))
    exec (.casw m) s = .next (s.closed (x.lane (s.begun o) l)) ∧ RmwFrame (s.begun o) (x.lane (s.begun o) l) := by
  intro x
  obtain ⟨hn, -⟩ := caswSize_pos m.wide32
  have hlanes : lanesOf (s.actLanes m.guard) = [l] := by rw [h.one, lanesOf_oneLane]
  have hlane := newOp_lanes ho
  have hdata : ∀ l : Fin 32, LaneOp.bytes (o.lanes[l]) = toBytes 64 (regNum s.g l m.e (caswSize m.wide32 / 2)) := fun l => by
    rw [hlane, LaneOp.bytes_laneOpOf, Group.ofBytes_laneBytes]
  have hatt : ∀ (t : State) (j : Fin 32) (p : Mask), Held t (s.g.ea m.addr j) .store pa → Writable t pa (caswSize m.wide32) →
      t.recalls = [] → t.attempt { o with pend := p } j = ({ o with pend := p }, .done (x.lane t j)) := by
    intro t j p hh hw hr
    have haddr : (o.lanes[j]).addr = s.g.ea m.addr j := by rw [hlane]; rfl
    have hinstr : ({ o with pend := p } : Op).instr = .casw m := by rw [← ho]; rfl
    rw [attempt_casw t { o with pend := p } j m (fun _ => pa) (fun l => toBytes 64 (regNum s.g l m.e (caswSize m.wide32 / 2))) hinstr
      (hdata j), haddr, State.atomVa_of_held hh hw hn hr]
    rfl
  have hone : ∀ j, j ∈ lanesOf (s.actLanes m.guard) → l = j := fun j hj => by
    rw [hlanes, List.mem_singleton] at hj
    exact hj.symm
  obtain ⟨hexec, hframe, -⟩ := Rmw.word (x := x) (va := s.g.ea m.addr) (check := State.alignCheck m.addr (caswSize m.wide32))
    (caps := fun s => s.capture m.addr fun l => s.g.laneBytes l m.e (caswSize m.wide32 / 2)) ho h.runs
    (by rw [h.one]; exact oneLane_ne_zero l)
    (fun j hj => alignCheck_eq_nil (hone j (mem_lanesOf.mpr hj) ▸ h.aligned))
    h.idle nofun rfl rfl rfl hn hrec (fun j hj => hone j hj ▸ hheld)
    (fun _ _ => hw) (by rw [hlanes]; exact List.pairwise_singleton _ _) (.inl (by rw [hlanes]; exact Nat.le_refl 1)) hatt
  rw [hlanes] at hexec hframe
  exact ⟨(exec_casw s m hla).trans hexec, hframe⟩

/-- CASW in one lane. -/
theorem casw_one_lane (s : State) (m : MCasw) (l : Fin 32) (pa : Nat) (hla : m.la = 0#4)
    (h : OneLane s (.casw m) m.guard l (s.g.ea m.addr l) (caswSize m.wide32)) (hheld : Held s (s.g.ea m.addr l) .store pa)
    (hsettled : Settled s pa (caswSize m.wide32)) (hrec : s.recalls = []) :
    ∃ t, exec (.casw m) s = .next t ∧ RmwDone s t s.mem.get t.mem.get (some m.d) (caswSize m.wide32)
      (fun l => caswNew (caswSize m.wide32) (regNum s.g l m.e (caswSize m.wide32 / 4)) (regNum s.g l m.e (caswSize m.wide32 / 2)))
      (fun _ => pa) [l] ∧ WordEnded s t := by
  obtain ⟨hn, -, -, hn', -⟩ := caswSize_pos m.wide32
  obtain ⟨o, ho⟩ : ∃ o, s.issued.newOp (.casw m) (s.actLanes m.guard) (s.actLanes m.guard) 0 0#32
    (s.issued.capture m.addr fun l => s.issued.g.laneBytes l m.e (caswSize m.wide32 / 2)) [] = o := ⟨_, rfl⟩
  have hw := Writable.ofSettled hsettled
  let x := caswRmw m (fun _ => pa) fun l => toBytes 64 (regNum s.g l m.e (caswSize m.wide32 / 2))
  obtain ⟨hexec, hframe⟩ := casw_word ho hla h hheld hw hrec
  have hw' : Writable (s.begun o) pa (caswSize m.wide32) := by
    obtain ⟨g, iss, n, hbegun⟩ := s.begun_eq o
    rw [hbegun]
    exact hw.issue s g iss n
  have hnum : ofBytes ((s.begun o).homeBytes pa (caswSize m.wide32)) = numAt s pa (caswSize m.wide32) := by
    rw [hw'.ofBytes_homeBytes, numAt, numAt, s.begun_mem o]
  have hnum' : numAt s pa (caswSize m.wide32) = numAt (s.begun o) (x.at_ l) x.n := by
    rw [← hnum, hw'.ofBytes_homeBytes]
    rfl
  have hnew := caswRmw_new s.g m (fun _ => pa) l ((s.begun o).homeBytes pa (caswSize m.wide32)) (State.length_homeBytes ..)
  rw [hnum] at hnew
  have hget := Rmw.lane_get (x := x) hw' hn (hnew.imp id fun h => ⟨h.1, h.2.trans hnum'⟩)
  rw [hnum'] at hget
  have hdone := RmwDone.cons (s := s.begun o) (at_ := x.at_) (dest := x.dest)
    (F := fun l => caswNew (caswSize m.wide32) (regNum s.g l m.e (caswSize m.wide32 / 4)) (regNum s.g l m.e (caswSize m.wide32 / 2)))
    List.not_mem_nil rfl hget (fun _ hd _ hk => Rmw.lane_vr_same hw' hd hn' hk) (fun _ _ hno => x.lane_vr_other (s.begun o) l hn' hno)
    (RmwDone.nil (x.lane (s.begun o) l) _)
  exact ⟨_, hexec, hdone.closed, hframe.word⟩

/-! #### The claims about atomics at homes -/

theorem atomicCompletes : AtomicCompletes := by
  intro s i guard d l va pa n new returns hi h hheld hsettled hrec
  rcases hi with ⟨m, hi, rfl, rfl, rfl, rfl, rfl⟩ | ⟨m, rfl, rfl, hla, rfl, rfl, rfl, rfl, rfl⟩
  · have hi' : i = .atom m ∧ m.la = 0#4 ∨ i = .red m := hi.imp (fun h => ⟨h.1, h.2.2⟩) fun h => h.1
    obtain ⟨t, hexec, hdone, hended⟩ := atom_one_lane s m i l pa hi' h hheld hsettled hrec
    obtain ⟨hwritten, hothers, hreturned, hkept⟩ := hdone.one
    refine ⟨t, hexec, ⟨fun k hk => (hwritten k hk).trans (ofNat8_mod_pow _ hk).symm, hothers⟩, ?_, hended⟩
    rcases hi with ⟨rfl, rfl, -⟩ | ⟨rfl, rfl⟩
    · exact hreturned m.d (if_pos rfl)
    · exact hkept (if_neg nofun)
  · obtain ⟨t, hexec, hdone, hended⟩ := casw_one_lane s m l pa hla h hheld hsettled hrec
    obtain ⟨hwritten, hothers, hreturned, -⟩ := hdone.one
    exact ⟨t, hexec, ⟨hwritten, hothers⟩, hreturned m.d rfl, hended⟩

theorem atomicLanesFold_atHome (s : State) (m : MAtom) (i : Instr) (pa : Fin 32 → Nat) (hi : i = .atom m ∧ m.la = 0#4 ∨ i = .red m)
    (h : Lanes s i m.guard (s.g.ea m.addr) (atomSize m.wide8))
    (hheld : LanesHeld s (s.actLanes m.guard) (s.g.ea m.addr) .store pa (atomSize m.wide8)) (hrec : s.recalls = []) :
    let r := rmwFold (atomSize m.wide8) (fun l old => atomSpec m.op (8 * atomSize m.wide8) old (regNum s.g l m.e (atomSize m.wide8 / 4)))
      pa (lanesOf (s.actLanes m.guard)) s.mem.get
    ∃ t, exec i s = .next t ∧ (∀ b, t.mem.get b = r.1 b) ∧
      (if i = .atom m then
        (∀ x ∈ r.2, ∀ k, k < atomSize m.wide8 / 4 → t.g.vr (regUp m.d k) x.1 = BitVec.ofNat 32 (x.2 / 2 ^ (32 * k))) ∧
        ∀ (q : Fin 128) (j : Fin 32),
          ¬ ((s.actLanes m.guard).getLsbD j.val = true ∧ ∃ k, k < atomSize m.wide8 / 4 ∧ q = regUp m.d k) →
          t.g.vr q j = s.g.vr q j
      else t.g.v = s.g.v) ∧
      t.g.p = s.g.p ∧ t.g.s = s.g.s ∧ t.g.q = s.g.q ∧ NothingLeft s t ∧ Advances s t ∧ FrameStore s t := by
  intro r
  obtain ⟨t, hexec, hdone, hended⟩ := atom_lanes_fold s m i pa hi h hheld hrec
  refine ⟨t, hexec, hdone.bytes, ?_, hended⟩
  split
  · next hatom =>
    refine ⟨fun x hx k hk => hdone.returned x hx m.d (if_pos hatom) k hk, fun q j hq => hdone.others q j fun d hd hin => hq ?_⟩
    obtain rfl : m.d = d := by simpa [hatom] using hd
    exact ⟨mem_lanesOf.mp hin.1, hin.2⟩
  · next hred =>
    refine Group.v_ext fun q j => hdone.others q j fun d hd => ?_
    rw [if_neg hred] at hd
    cases hd

/-! ### Atomics of the scratchpad (R226) -/

/-! #### Bytes of the scratchpad -/

theorem cellAt_cellPut (m : List Host.Cell) (a a' : Nat) (b : Byte) :
    cellAt (cellPut m a b) a' = if a' = a then some b else cellAt m a' := by
  induction m with
  | nil => simp [cellPut, cellAt, eq_comm]
  | cons c m ih =>
    obtain ⟨k, c⟩ := c
    rw [cellPut]
    split
    · simp [cellAt, eq_comm]
    · split
      · next h =>
        subst h
        by_cases h : a = a' <;> simp [cellAt, h, eq_comm]
      · next hne =>
        rw [cellAt, ih, cellAt]
        by_cases h : k = a'
        · rw [if_pos h, if_pos h, if_neg (by omega)]
        · rw [if_neg h, if_neg h]

theorem cellAt_foldl_cellsAt (bs : List Byte) (m : List Host.Cell) (a b : Nat) :
    cellAt ((cellsAt a bs).foldl (fun m c => cellPut m c.1 c.2) m) b =
      if h : a ≤ b ∧ b - a < bs.length then some bs[b - a] else cellAt m b := by
  induction bs using List.reverseRecOn with
  | nil => simp [cellsAt]
  | append_singleton bs x ih =>
    have hcells : cellsAt a (bs ++ [x]) = cellsAt a bs ++ [(a + bs.length, x)] := by simp [cellsAt]
    rw [hcells, List.foldl_append, List.foldl_cons, List.foldl_nil, cellAt_cellPut, ih]
    by_cases hlast : b = a + bs.length
    · subst hlast
      simp
    · rw [if_neg hlast]
      by_cases hin : a ≤ b ∧ b - a < bs.length
      · rw [dif_pos hin, dif_pos ⟨hin.1, by simp; omega⟩, List.getElem_append_left hin.2]
      · rw [dif_neg hin, dif_neg (by simp; omega)]

theorem State.scrPut_shape (s : State) (cells : List Host.Cell) : ∃ mma engines, s.scrPut cells = { s with
    mma := mma, engines := engines, t := { s.t with scr := cells.foldl (fun m c => cellPut m c.1 c.2) s.t.scr } } :=
  ⟨_, _, rfl⟩

/-- The scratchpad after bytes have been put into it. -/
theorem State.scrPut_scrByte (s : State) (a : Nat) (bs : List Byte) (b : Nat) : (s.scrPut (cellsAt a bs)).scrByte b =
    if h : a ≤ b ∧ b - a < bs.length then bs[b - a] else s.scrByte b := by
  have hcell : cellAt (s.scrPut (cellsAt a bs)).t.scr b = _ := cellAt_foldl_cellsAt bs s.t.scr a b
  have hcleared : (s.scrPut (cellsAt a bs)).t.cleared = s.t.cleared := rfl
  have hplaced : (s.scrPut (cellsAt a bs)).t.placed = s.t.placed := rfl
  rw [State.scrByte, hcell, hcleared, hplaced]
  by_cases h : a ≤ b ∧ b - a < bs.length
  · rw [dif_pos h, dif_pos h]
  · rw [dif_neg h, dif_neg h]
    rfl

/-! #### One lane's part -/

/-- What an atomic of the scratchpad may change of a state in the middle of an issue. -/
structure ScrFrame (s t : State) : Prop where
  frame : t = { s with
    l1 := t.l1, mma := t.mma, engines := t.engines, t := { s.t with scr := t.t.scr }
    g := { s.g with v := t.g.v, watch := t.g.watch, vbad := t.g.vbad, old := t.g.old } }
  old : OldKept s t

theorem ScrFrame.refl (s : State) : ScrFrame s s := ⟨rfl, oldKept_of_eq rfl⟩

theorem ScrFrame.trans {s t u : State} (h : ScrFrame s t) (h' : ScrFrame t u) : ScrFrame s u := by
  refine ⟨?_, OldKept.trans h.old h'.old⟩
  have h1 := h.frame
  have h2 := h'.frame
  rw [h1] at h2
  exact h2

/-- The read-modify-write of the `n` scratchpad bytes at `a`, which become `new`. -/
def State.scrRmw (s : State) (l : Fin 32) (a n : Nat) (k : Kind) (sc : Scope) (d : BitVec 7) (new : List Byte) : State :=
  let t := s.scrPut (cellsAt a new)
  let t := t.setG (t.g.forget (oneLane l) (wordsIn a n))
  State.setG (t.acquired k.acquires sc) (t.g.putRun l d (n / 4) (s.scrBytes a n))

section
variable (s : State) (l : Fin 32) (a n : Nat) (k : Kind) (sc : Scope) (d : BitVec 7) (new : List Byte)

theorem State.scrRmw_shape : ∃ ws mma engines v watch vbad, s.scrRmw l a n k sc d new = { s with
      l1 := ws, mma := mma, engines := engines, t := { s.t with scr := (s.scrPut (cellsAt a new)).t.scr }
      g := { s.g with v := v, watch := watch, vbad := vbad, old := (s.g.forget (oneLane l) (wordsIn a n)).old } } ∧
    v = ((s.g.forget (oneLane l) (wordsIn a n)).putRun l d (n / 4) (s.scrBytes a n)).v := by
  obtain ⟨mma, engines, hput⟩ := s.scrPut_shape (cellsAt a new)
  obtain ⟨v, watch, vbad, hrun⟩ := (s.g.forget (oneLane l) (wordsIn a n)).putRun_shape l d (n / 4) (s.scrBytes a n)
  obtain ⟨ws, old, hacq, -⟩ := State.acquired_shape { s with
      mma := mma, engines := engines, t := { s.t with scr := (s.scrPut (cellsAt a new)).t.scr }
      g := s.g.forget (oneLane l) (wordsIn a n) } k.acquires sc
  have hg : (s.scrPut (cellsAt a new)).g = s.g := by rw [hput]
  have hset : (s.scrPut (cellsAt a new)).setG (s.g.forget (oneLane l) (wordsIn a n)) = { s with
      mma := mma, engines := engines, t := { s.t with scr := (s.scrPut (cellsAt a new)).t.scr }
      g := s.g.forget (oneLane l) (wordsIn a n) } := by
    rw [hput]
    rfl
  refine ⟨ws, mma, engines, v, watch, vbad, ?_, by rw [hrun]⟩
  unfold State.scrRmw
  dsimp only
  rw [hg, hset, hacq]
  dsimp only
  rw [hrun]
  rfl

theorem State.scrRmw_frame : ScrFrame s (s.scrRmw l a n k sc d new) := by
  obtain ⟨ws, mma, engines, v, watch, vbad, h, -⟩ := s.scrRmw_shape l a n k sc d new
  rw [h]
  exact ⟨rfl, Group.forget_old s.g (oneLane l) (wordsIn a n)⟩

theorem State.scrRmw_scrByte (b : Nat) : (s.scrRmw l a n k sc d new).scrByte b =
    if h : a ≤ b ∧ b - a < new.length then new[b - a] else s.scrByte b := by
  rw [← s.scrPut_scrByte]
  obtain ⟨ws, mma, engines, v, watch, vbad, h, -⟩ := s.scrRmw_shape l a n k sc d new
  rw [h]
  rfl

theorem State.scrRmw_vr (q : Fin 128) (j : Fin 32) : (s.scrRmw l a n k sc d new).g.vr q j =
    ((s.g.forget (oneLane l) (wordsIn a n)).putRun l d (n / 4) (s.scrBytes a n)).vr q j := by
  obtain ⟨ws, mma, engines, v, watch, vbad, h, hv⟩ := s.scrRmw_shape l a n k sc d new
  rw [h, Group.vr, Group.vr, ← hv]

end

/-! #### ATOMS in its lanes -/

/-- The read-modify-writes of ATOMS with operands `v`, lane by lane. -/
def atomsLane (m : MAtom) (at_ v : Fin 32 → Nat) (s : State) (l : Fin 32) : State :=
  s.scrRmw l (at_ l) (atomSize m.wide8) m.kind m.scope m.d
    (toBytes (atomSize m.wide8) (atomApply m.op m.wide8 (ofBytes (s.scrBytes (at_ l) (atomSize m.wide8))) (v l)))

theorem attempt_atoms (t : State) (o : Op) (l : Fin 32) (m : MAtom) (at_ v : Fin 32 → Nat) (hi : o.instr = .atoms m)
    (haddr : (o.lanes[l]).addr.toNat = at_ l) (hv : ofBytes ((LaneOp.bytes (o.lanes[l])).take (atomSize m.wide8)) = v l)
    (hlanded : ∀ e ∈ t.posted, e.core ≠ t.t.core) (hrec : m.kind.releases = true → cellUp m.scope = true → t.recalls = [])
    (hclean : t.scrPoisoned (at_ l) (atomSize m.wide8) = false) :
    t.attempt o l = (o, .done (atomsLane m at_ v t l)) := by
  have hattempt : t.attempt o l = (o, t.afterCore m.kind.releases m.scope fun s =>
      if s.scrPoisoned (o.lanes[l]).addr.toNat (atomSize m.wide8) then .fail s 0x0A#8 (o.lanes[l]).addr 0#64
      else .done (s.scrRmw l (o.lanes[l]).addr.toNat (atomSize m.wide8) m.kind m.scope m.d
        (toBytes (atomSize m.wide8) (atomApply m.op m.wide8 (ofBytes (s.scrBytes (o.lanes[l]).addr.toNat (atomSize m.wide8)))
          (ofBytes ((LaneOp.bytes (o.lanes[l])).take (atomSize m.wide8))))))) := by
    unfold State.attempt
    rw [hi]
    rfl
  rw [hattempt, State.afterCore_of_landed hlanded hrec, haddr, hv, hclean]
  rfl

/-- The bytes and registers after the lanes. -/
theorem atomsLane_fold (m : MAtom) (at_ v : Fin 32 → Nat) (r : List (Fin 32)) (hnd : r.Nodup) (t : State) :
    RmwDone t (r.foldl (atomsLane m at_ v) t) t.scrByte (r.foldl (atomsLane m at_ v) t).scrByte (some m.d) (atomSize m.wide8)
      (fun l old => atomApply m.op m.wide8 old (v l)) at_ r := by
  obtain ⟨-, -, hn', -⟩ := atomSize_pos m.wide8
  induction r generalizing t with
  | nil => exact RmwDone.nil t _
  | cons l r ih =>
    obtain ⟨hl, hnd'⟩ := List.nodup_cons.mp hnd
    refine RmwDone.cons hl rfl (fun b => ?_) (fun d hd k hk => ?_) (fun q j hno => ?_) (ih hnd' (atomsLane m at_ v t l))
    · rw [atomsLane, State.scrRmw_scrByte]
      simp only [length_toBytes]
      by_cases hb : at_ l ≤ b ∧ b < at_ l + atomSize m.wide8
      · rw [if_pos hb, dif_pos ⟨hb.1, by omega⟩, getElem_toBytes]
        rfl
      · rw [if_neg hb, dif_neg (by omega)]
    · obtain rfl := Option.some.inj hd
      rw [atomsLane, State.scrRmw_vr, Group.putRun_vr_same _ _ _ _ hn' hk]
      rfl
    · rw [atomsLane, State.scrRmw_vr, Group.putRun_vr_other _ _ _ _ hn' (hno m.d rfl)]
      rfl

theorem atomsLane_frame (m : MAtom) (at_ v : Fin 32 → Nat) (t : State) (l : Fin 32) : ScrFrame t (atomsLane m at_ v t l) :=
  State.scrRmw_frame ..

/-- What is true after atomics of the scratchpad have ended a word. -/
theorem ScrFrame.word {s t : State} {o : Op} (h : ScrFrame (s.begun o) t) :
    (s.closed t).g.p = s.g.p ∧ (s.closed t).g.s = s.g.s ∧ (s.closed t).g.q = s.g.q ∧ NothingLeft s (s.closed t) ∧
      Advances s (s.closed t) ∧ FrameScratch s (s.closed t) := by
  obtain ⟨hframe, hold⟩ := h
  have hg : t.g = { (s.begun o).g with v := t.g.v, watch := t.g.watch, vbad := t.g.vbad, old := t.g.old } := congrArg State.g hframe
  have hlpc : t.g.lpc = laneUpd s.g.lpc s.iss.mask fun i => s.g.lpc[i] + 1#32 := by rw [hg]; simp
  have hmem : t.mem = s.mem := (by rw [hframe] : t.mem = (s.begun o).mem).trans (s.begun_mem o)
  refine ⟨?_, ?_, ?_, rfl, fun l => ?_, ?_, ?_, ?_⟩
  · rw [State.closed, State.setG, hg]; simp
  · rw [State.closed, State.setG, hg]; simp
  · rw [State.closed, State.setG, hg]; simp
  · have hget : (s.closed t).g.lpc[l] = t.g.lpc[l.val] := rfl
    rw [hget, hlpc]
    exact laneUpd_get ..
  · obtain ⟨ws, mma, engines, scr, v, watch, vbad, old, rfl⟩ : ∃ ws mma engines scr v watch vbad old, t = { s.begun o with
        l1 := ws, mma := mma, engines := engines, t := { (s.begun o).t with scr := scr }
        g := { (s.begun o).g with v := v, watch := watch, vbad := vbad, old := old } } :=
      ⟨t.l1, t.mma, t.engines, t.t.scr, t.g.v, t.g.watch, t.g.vbad, t.g.old, hframe⟩
    simp only [State.closed, State.setG, State.begun, State.commit_t]
  · intro a
    rw [State.closed_mem, hmem]
  · have hbegun : (s.begun o).g.old = s.g.old := by simp
    have hclosed : (s.closed t).g.old = t.g.old := rfl
    rw [OldKept, hbegun] at hold
    rw [OldKept, hclosed]
    exact hold

theorem ScrFrame.kept {s t : State} {o : Op} (h : ScrFrame (s.begun o) t) :
    t.g.ops = s.commit.g.ops ++ [o] ∧ t.g.status = s.g.status ∧ t.recalls = s.recalls ∧ t.posted = s.posted ∧
      t.t.core = s.t.core ∧ t.t.scrPoison = s.t.scrPoison := by
  have hg : t.g = { (s.begun o).g with v := t.g.v, watch := t.g.watch, vbad := t.g.vbad, old := t.g.old } := congrArg State.g h.frame
  have ht : t.t = { (s.begun o).t with scr := t.t.scr } := congrArg State.t h.frame
  have hteam : (s.begun o).t = s.t := s.commit_t
  have hrec : t.recalls = (s.begun o).recalls := by rw [h.frame]
  have hposted : t.posted = (s.begun o).posted := by rw [h.frame]
  exact ⟨by rw [hg]; simp, by rw [hg]; simp, hrec, hposted, by rw [ht, hteam], by rw [ht, hteam]⟩

theorem exec_atoms (s : State) (m : MAtom) (hla : m.la = 0#4) : exec (.atoms m) s =
    s.vmem (.atoms m) m.guard (State.scrCheck m.addr (atomSize m.wide8)) fun act s =>
      s.launch (s.newOp (.atoms m) act act 0 0#32 (s.capture m.addr fun l => s.g.laneBytes l m.e (atomSize m.wide8 / 4)) []) true := by
  have hexec : exec (.atoms m) s = execAtoms m s := rfl
  rw [hexec, execAtoms, hla]
  cases m.wide8 <;> rfl

theorem scrCheck_eq_nil {s : State} {m : MAddr} {n : Nat} {l : Fin 32} (h : (s.g.ea m l).toNat % n = 0)
    (hin : (s.g.ea m l).toNat + n ≤ 1536 * s.t.rows ∧ (s.g.ea m l).toNat < 2 ^ 21) : s.scrCheck m n l = [] := by
  have hsize : s.scrSize = 1536 * s.t.rows := rfl
  rw [State.scrCheck, misaligned, if_pos h, State.outside, if_pos (by simpa [hsize] using hin)]
  rfl

section
variable {s : State} {m : MAtom}

/-- ATOMS in its lanes, in scratchpad that they may use. -/
theorem atoms_word {o : Op} (ho : s.issued.newOp (.atoms m) (s.actLanes m.guard) (s.actLanes m.guard) 0 0#32
      (s.issued.capture m.addr fun l => s.issued.g.laneBytes l m.e (atomSize m.wide8 / 4)) [] = o)
    (hla : m.la = 0#4) (hlanded : ∀ e ∈ s.posted, e.core ≠ s.t.core)
    (hrec : m.kind.releases = true → cellUp m.scope = true → s.recalls = [])
    (h : Lanes s (.atoms m) m.guard (s.g.ea m.addr) (atomSize m.wide8))
    (hrange : ∀ l : Fin 32, (s.actLanes m.guard).getLsbD l.val = true → ScratchRange s (s.g.ea m.addr l) (atomSize m.wide8)) :
    let f := atomsLane m (fun l => (s.g.ea m.addr l).toNat) fun l => regNum s.g l m.e (atomSize m.wide8 / 4)
    exec (.atoms m) s = .next (s.closed ((lanesOf (s.actLanes m.guard)).foldl f (s.begun o))) ∧
      ScrFrame (s.begun o) ((lanesOf (s.actLanes m.guard)).foldl f (s.begun o)) := by
  intro f
  have hlane := newOp_lanes ho
  have hstep : ∀ (l : Fin 32) (r : List (Fin 32)) (t : State) (p : Mask),
      (ScrFrame (s.begun o) t ∧ ∀ j ∈ l :: r, (s.actLanes m.guard).getLsbD j.val = true) →
      t.attempt { o with pend := p } l = ({ o with pend := p }, .done (f t l)) ∧
        ScrFrame (s.begun o) (f t l) ∧ ∀ j ∈ r, (s.actLanes m.guard).getLsbD j.val = true := by
    intro l r t p ⟨hframe, hact⟩
    obtain ⟨-, -, hrecalls, hposted, hcore, hpoison⟩ := hframe.kept
    have haddr : (o.lanes[l]).addr.toNat = (s.g.ea m.addr l).toNat := by rw [hlane]; rfl
    have hdata := atom_operand s.g l m.e (s.g.ea m.addr l) m.wide8
    rw [← hlane] at hdata
    have hclean : t.scrPoisoned (s.g.ea m.addr l).toNat (atomSize m.wide8) = false := by
      rw [State.scrPoisoned, hpoison]
      exact (hrange l (hact l List.mem_cons_self)).clean
    refine ⟨attempt_atoms t { o with pend := p } l m _ _ (by rw [← ho]; rfl) haddr hdata ?_ ?_ hclean,
      hframe.trans (atomsLane_frame ..), fun j hj => hact j (List.mem_cons_of_mem _ hj)⟩
    · rw [hposted, hcore]
      exact hlanded
    · rw [hrecalls]
      exact hrec
  obtain ⟨hexec, hframe, -⟩ := State.vmem_of_done (check := State.scrCheck m.addr (atomSize m.wide8)) (f := f)
    (caps := fun s => s.capture m.addr fun l => s.g.laneBytes l m.e (atomSize m.wide8 / 4))
    (I := fun r t => ScrFrame (s.begun o) t ∧ ∀ j ∈ r, (s.actLanes m.guard).getLsbD j.val = true) ho h.runs h.some_
    (fun l hl => scrCheck_eq_nil (h.aligned l hl) (hrange l hl).inside) h.idle nofun rfl rfl
    (by rw [← ho]; exact Op.toTry_of_rmw rfl rfl) ⟨ScrFrame.refl _, fun j hj => mem_lanesOf.mp hj⟩
    (fun t ht => ⟨ht.1.kept.1, ht.1.kept.2.1⟩) hstep
  exact ⟨(exec_atoms s m hla).trans hexec, hframe⟩

/-- What ATOMS makes of scratchpad and registers. -/
theorem atoms_lanes (hla : m.la = 0#4) (hlanded : ∀ e ∈ s.posted, e.core ≠ s.t.core)
    (hrec : m.kind.releases = true → cellUp m.scope = true → s.recalls = [])
    (h : Lanes s (.atoms m) m.guard (s.g.ea m.addr) (atomSize m.wide8))
    (hrange : ∀ l : Fin 32, (s.actLanes m.guard).getLsbD l.val = true → ScratchRange s (s.g.ea m.addr l) (atomSize m.wide8)) :
    ∃ t, exec (.atoms m) s = .next t ∧ RmwDone s t s.scrByte t.scrByte (some m.d) (atomSize m.wide8)
      (fun l old => atomSpec m.op (8 * atomSize m.wide8) old (regNum s.g l m.e (atomSize m.wide8 / 4)))
      (fun l => (s.g.ea m.addr l).toNat) (lanesOf (s.actLanes m.guard)) ∧
      t.g.p = s.g.p ∧ t.g.s = s.g.s ∧ t.g.q = s.g.q ∧ NothingLeft s t ∧ Advances s t ∧ FrameScratch s t := by
  obtain ⟨-, hwords, -, -⟩ := atomSize_pos m.wide8
  obtain ⟨o, ho⟩ : ∃ o, s.issued.newOp (.atoms m) (s.actLanes m.guard) (s.actLanes m.guard) 0 0#32
    (s.issued.capture m.addr fun l => s.issued.g.laneBytes l m.e (atomSize m.wide8 / 4)) [] = o := ⟨_, rfl⟩
  obtain ⟨hexec, hframe⟩ := atoms_word ho hla hlanded hrec h hrange
  obtain ⟨hbytes, hreturned, hothers⟩ := atomsLane_fold m (fun l => (s.g.ea m.addr l).toNat)
    (fun l => regNum s.g l m.e (atomSize m.wide8 / 4)) _ (lanesOf_nodup (s.actLanes m.guard)) (s.begun o)
  refine ⟨_, hexec, RmwDone.congr (F := fun l old => atomApply m.op m.wide8 old (regNum s.g l m.e (atomSize m.wide8 / 4))) ?_
    ⟨hbytes, hreturned, fun q j hq => (hothers q j hq).trans (s.begun_vr o q j)⟩, hframe.word⟩
  exact fun l old hold => atomApply_eq_atomSpec m.op m.wide8 hold ((regNum_lt s.g l m.e _).trans_eq (by rw [hwords]))

end

/-! ### The obligation -/

theorem scratchAtomicCompletes : ScratchAtomicCompletes := by
  intro s m l hla hlanded hrec n a h
  have hlanes : lanesOf (s.actLanes m.guard) = [l] := by rw [h.one, lanesOf_oneLane]
  obtain ⟨t, hexec, hdone, hended⟩ := atoms_lanes hla hlanded hrec (lanes_of_oneLane h.toOneLane) fun j hj => by
    obtain rfl := List.mem_singleton.mp (hlanes ▸ mem_lanesOf.mpr hj)
    exact ⟨h.inside, h.clean⟩
  rw [hlanes] at hdone
  obtain ⟨hwritten, hothers, hreturned, -⟩ := hdone.one
  exact ⟨t, hexec, ⟨hwritten, hothers⟩, hreturned m.d rfl, hended⟩

theorem atomicLanesFold : AtomicLanesFold := by
  refine ⟨fun s m i pa hi h hheld hrec => atomicLanesFold_atHome s m i pa hi h hheld hrec, ?_⟩
  intro s m hla hlanded hrec n r h hrange
  obtain ⟨t, hexec, hdone, hended⟩ := atoms_lanes hla hlanded hrec h hrange
  refine ⟨t, hexec, hdone.bytes, fun x hx => hdone.returned x hx m.d rfl,
    fun q j hno => hdone.others q j fun d hd hin => hno ?_, hended⟩
  obtain rfl := Option.some.inj hd
  exact ⟨mem_lanesOf.mp hin.1, hin.2⟩

/-- Settles O20: at a home that nothing stands in front of, and in scratchpad, an atomic is performed at its issue, lane after
lane in ascending order. -/
theorem atomicsComplete : Obligations.AtomicsComplete :=
  ⟨atomicCompletes, scratchAtomicCompletes, atomicLanesFold⟩

end Sys2Proof.Machine

/-! ## The issue key and the choice of a quadrant (O55, O56) -/

namespace Sys2Proof.Machine
open Claims

/-! ### The best of a list -/

/-- A fold that keeps a value until a better one comes ends with one that came, than which none of those that came is better. -/
theorem foldl_best {α β : Type} (better : β → β → Prop) [DecidableRel better] (hirr : ∀ a, ¬ better a a)
    (hasymm : ∀ a b, better a b → ¬ better b a) (htrans : ∀ a b c, ¬ better a b → ¬ better b c → ¬ better a c) (f : α → β)
    (ls : List α) (d : β) :
    let r := ls.foldl (fun d i => if better (f i) d then f i else d) d
    (r = d ∨ ∃ i ∈ ls, f i = r) ∧ ¬ better d r ∧ ∀ i ∈ ls, ¬ better (f i) r := by
  induction ls generalizing d with
  | nil => exact ⟨.inl rfl, hirr d, fun _ h => absurd h List.not_mem_nil⟩
  | cons x xs ih =>
    intro r
    obtain ⟨hfrom, hstart, hrest⟩ := ih (if better (f x) d then f x else d)
    have hr : r = xs.foldl (fun d i => if better (f i) d then f i else d) (if better (f x) d then f x else d) := rfl
    rw [← hr] at hfrom hstart hrest
    have hx : ¬ better (f x) r ∧ ¬ better d r := by
      by_cases h : better (f x) d
      · rw [if_pos h] at hstart
        exact ⟨hstart, htrans _ _ _ (hasymm _ _ h) hstart⟩
      · rw [if_neg h] at hstart
        exact ⟨htrans _ _ _ h hstart, hstart⟩
    refine ⟨?_, hx.2, fun i hi => ?_⟩
    · rcases hfrom with h | ⟨i, hi, h⟩
      · by_cases hb : better (f x) d
        · rw [if_pos hb] at h
          exact .inr ⟨x, List.mem_cons_self, h.symm⟩
        · rw [if_neg hb] at h
          exact .inl h
      · exact .inr ⟨i, List.mem_cons_of_mem _ hi, h⟩
    · rcases List.mem_cons.mp hi with rfl | hi
      · exact hx.1
      · exact hrest i hi

/-! ### The issue key (R18) -/

theorem mem_lanesOf_runnable {g : Group} {l : Fin 32} : l ∈ lanesOf g.runnable ↔ g.lane[l] = .runnable := by
  rw [mem_lanesOf, Group.runnable, Group.inState, maskOf, BitVec.getLsbD_ofFnLE]
  simp

theorem mem_lanesOf_fresh {g : Group} {l : Fin 32} :
    l ∈ lanesOf (g.runnable &&& ~~~g.yielded) ↔ g.lane[l] = .runnable ∧ g.yielded.getLsbD l.val = false := by
  have h := mem_lanesOf_runnable (g := g) (l := l)
  rw [mem_lanesOf] at h ⊢
  rw [BitVec.getLsbD_and, BitVec.getLsbD_not, Bool.and_eq_true, h]
  simp

/-- The lanes among which the key is chosen: those that have not yielded, or all runnable ones where every one has. -/
def Group.contenders (g : Group) : List (Fin 32) :=
  if (lanesOf (g.runnable &&& ~~~g.yielded)).isEmpty then lanesOf g.runnable else lanesOf (g.runnable &&& ~~~g.yielded)

theorem Group.selectKey_eq (g : Group) : g.selectKey = if g.contenders.isEmpty then none
    else some ⟨g.maxDep g.contenders, g.minLpc (g.contenders.filter fun i => g.dep[i] == g.maxDep g.contenders)⟩ := rfl

theorem Group.mem_contenders {g : Group} {l : Fin 32} : l ∈ g.contenders ↔
    (g.lane[l] = .runnable ∧ g.yielded.getLsbD l.val = false) ∨
      (∀ j : Fin 32, ¬ (g.lane[j] = .runnable ∧ g.yielded.getLsbD j.val = false)) ∧ g.lane[l] = .runnable := by
  unfold Group.contenders
  split
  · next h =>
    have hnone : ∀ j : Fin 32, ¬ (g.lane[j] = .runnable ∧ g.yielded.getLsbD j.val = false) := fun j hj => by
      rw [← mem_lanesOf_fresh, List.isEmpty_iff.mp h] at hj
      exact List.not_mem_nil hj
    rw [mem_lanesOf_runnable]
    exact ⟨fun hl => .inr ⟨hnone, hl⟩, fun hl => hl.elim (fun hl => absurd hl (hnone l)) And.right⟩
  · next h =>
    rw [mem_lanesOf_fresh]
    refine ⟨.inl, fun hl => hl.elim (fun hl => hl) fun ⟨hnone, _⟩ => absurd ?_ h⟩
    exact List.isEmpty_iff.mpr (List.eq_nil_iff_forall_not_mem.mpr fun j hj => hnone j (mem_lanesOf_fresh.mp hj))

theorem Group.contenders_eq_nil {g : Group} : g.contenders = [] ↔ ∀ l : Fin 32, ¬ g.lane[l] = .runnable := by
  rw [List.eq_nil_iff_forall_not_mem]
  constructor
  · intro h l hl
    by_cases hfresh : ∃ j : Fin 32, g.lane[j] = .runnable ∧ g.yielded.getLsbD j.val = false
    · obtain ⟨j, hj⟩ := hfresh
      exact h j (Group.mem_contenders.mpr (.inl hj))
    · exact h l (Group.mem_contenders.mpr (.inr ⟨fun j hj => hfresh ⟨j, hj⟩, hl⟩))
  · intro h l hl
    rcases Group.mem_contenders.mp hl with ⟨hl, -⟩ | ⟨-, hl⟩ <;> exact h l hl

/-- The greatest DEP of lanes is that of one of them, and no lane has a greater one. -/
theorem Group.maxDep_spec (g : Group) {ls : List (Fin 32)} (hne : ls ≠ []) :
    (∃ l ∈ ls, g.dep[l] = g.maxDep ls) ∧ ∀ l ∈ ls, (g.dep[l]).toNat ≤ (g.maxDep ls).toNat := by
  obtain ⟨hfrom, -, hle⟩ := foldl_best (fun a b : BitVec 8 => b.toNat < a.toNat) (fun _ => Nat.lt_irrefl _)
    (fun _ _ h => Nat.not_lt.mpr (Nat.le_of_lt h)) (fun _ _ _ h h' => by omega) (fun i : Fin 32 => g.dep[i]) ls 0#8
  refine ⟨?_, fun l hl => Nat.not_lt.mp (hle l hl)⟩
  rcases hfrom with hzero | hfrom
  · obtain ⟨l, hl⟩ := List.exists_mem_of_ne_nil ls hne
    refine ⟨l, hl, BitVec.eq_of_toNat_eq ?_⟩
    have hl' := Nat.not_lt.mp (hle l hl)
    rw [hzero] at hl'
    rw [Group.maxDep, hzero]
    exact Nat.le_zero.mp hl'
  · exact hfrom

/-- The lowest LPC of lanes is that of one of them, and no lane has a lower one. -/
theorem Group.minLpc_spec (g : Group) {ls : List (Fin 32)} (hne : ls ≠ []) :
    (∃ l ∈ ls, g.lpc[l] = g.minLpc ls) ∧ ∀ l ∈ ls, (g.minLpc ls).toNat ≤ (g.lpc[l]).toNat := by
  obtain ⟨hfrom, -, hle⟩ := foldl_best (fun a b : W32 => a.toNat < b.toNat) (fun _ => Nat.lt_irrefl _)
    (fun _ _ h => Nat.not_lt.mpr (Nat.le_of_lt h)) (fun _ _ _ h h' => by omega) (fun i : Fin 32 => g.lpc[i]) ls
    (BitVec.allOnes 32)
  refine ⟨?_, fun l hl => Nat.not_lt.mp (hle l hl)⟩
  rcases hfrom with hones | hfrom
  · obtain ⟨l, hl⟩ := List.exists_mem_of_ne_nil ls hne
    refine ⟨l, hl, BitVec.eq_of_toNat_eq ?_⟩
    have hl' := Nat.not_lt.mp (hle l hl)
    have hlt := (g.lpc[l]).isLt
    rw [hones] at hl'
    rw [Group.minLpc, hones]
    simp only [BitVec.toNat_allOnes] at hl' ⊢
    omega
  · exact hfrom

/-- The key is that of a contender, and no other contender's goes before it. -/
theorem Group.selectKey_spec {g : Group} {k : Key} (h : g.selectKey = some k) :
    (∃ l ∈ g.contenders, g.dep[l] = k.dep ∧ g.lpc[l] = k.lpc) ∧
      ∀ l ∈ g.contenders, (g.dep[l]).toNat < k.dep.toNat ∨ g.dep[l] = k.dep ∧ k.lpc.toNat ≤ (g.lpc[l]).toNat := by
  rw [Group.selectKey_eq] at h
  split at h
  · cases h
  · next hne =>
    obtain rfl := Option.some.inj h
    obtain ⟨⟨top, htop, hdep⟩, hmax⟩ := g.maxDep_spec (ls := g.contenders) (by simpa using hne)
    have hmem : ∀ {l}, l ∈ g.contenders.filter (fun i => g.dep[i] == g.maxDep g.contenders) ↔
        l ∈ g.contenders ∧ g.dep[l] = g.maxDep g.contenders := by simp
    obtain ⟨⟨low, hlow, hlpc⟩, hmin⟩ := g.minLpc_spec (List.ne_nil_of_mem (hmem.mpr ⟨htop, hdep⟩))
    refine ⟨⟨low, (hmem.mp hlow).1, (hmem.mp hlow).2, hlpc⟩, fun l hl => ?_⟩
    by_cases hd : g.dep[l] = g.maxDep g.contenders
    · exact .inr ⟨hd, hmin l (hmem.mpr ⟨hl, hd⟩)⟩
    · exact .inl (Nat.lt_of_le_of_ne (hmax l hl) fun e => hd (BitVec.eq_of_toNat_eq e))

theorem Group.getLsbD_atKey (g : Group) (k : Key) (l : Fin 32) :
    (g.atKey k).getLsbD l.val = true ↔ g.lane[l] = .runnable ∧ g.dep[l] = k.dep ∧ g.lpc[l] = k.lpc := by
  rw [Group.atKey, maskOf, BitVec.getLsbD_ofFnLE]
  simp [and_assoc]

/-- Settles O55: the key is the best of the contenders, first by DEP and then by LPC. -/
theorem issueKey : Obligations.IssueKey := by
  intro g
  refine ⟨?_, fun k hk => ?_, g.getLsbD_atKey⟩
  · rw [Group.selectKey_eq, ← Group.contenders_eq_nil]
    simp
  · obtain ⟨⟨l, hl, hkey⟩, hbest⟩ := Group.selectKey_spec hk
    exact ⟨⟨l, Group.mem_contenders.mp hl, hkey⟩, fun l hl => hbest l (Group.mem_contenders.mpr hl)⟩

/-! ### The choice of a quadrant (R32) -/

/-- One candidate does not go before another: its level is no higher, and at the same level it has issued no earlier. -/
theorem Candidate.not_beats_iff {b a : Candidate} : ¬ b.beats a = true ↔
    b.level ≤ a.level ∧ (b.level = a.level → ∀ m, a.last = some m → ∃ n, b.last = some n ∧ m ≤ n) := by
  unfold Candidate.beats
  cases hb : b.last <;> cases ha : a.last <;> simp <;> omega

theorem Candidate.not_beats_self (a : Candidate) : ¬ a.beats a = true :=
  Candidate.not_beats_iff.mpr ⟨Nat.le_refl _, fun _ m hm => ⟨m, hm, Nat.le_refl _⟩⟩

theorem Candidate.beats_asymm {a b : Candidate} (h : a.beats b = true) : ¬ b.beats a = true := by
  by_contra hba
  revert h hba
  unfold Candidate.beats
  cases a.last <;> cases b.last <;> simp <;> omega

theorem Candidate.not_beats_trans {a b c : Candidate} (h : ¬ a.beats b = true) (h' : ¬ b.beats c = true) : ¬ a.beats c = true := by
  rw [Candidate.not_beats_iff] at *
  obtain ⟨hlevel, hlast⟩ := h
  obtain ⟨hlevel', hlast'⟩ := h'
  refine ⟨Nat.le_trans hlevel hlevel', fun heq m hm => ?_⟩
  obtain ⟨n, hn, hmn⟩ := hlast' (by omega) m hm
  obtain ⟨p, hp, hnp⟩ := hlast (by omega) n hn
  exact ⟨p, hp, Nat.le_trans hmn hnp⟩

/-- The choice starts with the first candidate, and keeps one until another goes before it. -/
theorem State.chooseGroup_of_cons {s : State} {core quad : Nat} {x : Candidate} {xs : List Candidate}
    (h : (s.quadrant core quad).filterMap s.offer = x :: xs) :
    s.chooseGroup core quad = some (xs.foldl (fun b c => if c.beats b then c else b) x) := by
  unfold State.chooseGroup
  rw [h, List.foldl_cons]
  exact List.foldl_hom some fun b c => by dsimp only; split <;> rfl

/-- Settles O56: the choice is that of the candidate before which no other goes. -/
theorem quadrantChoice : Obligations.QuadrantChoice := by
  intro s core quad
  cases hready : (s.quadrant core quad).filterMap s.offer with
  | nil =>
    have hnone : s.chooseGroup core quad = none := by rw [State.chooseGroup, hready]; rfl
    rw [hnone]
    exact ⟨⟨fun _ => rfl, fun _ => rfl⟩, fun c hc => nomatch hc⟩
  | cons x xs =>
    rw [State.chooseGroup_of_cons hready]
    refine ⟨⟨nofun, nofun⟩, fun c hc => ?_⟩
    obtain ⟨hfrom, hfirst, hrest⟩ := foldl_best (fun a b : Candidate => a.beats b = true) Candidate.not_beats_self
      (fun _ _ => Candidate.beats_asymm) (fun _ _ _ => Candidate.not_beats_trans) (fun c => c) xs x
    obtain rfl := Option.some.inj hc
    refine ⟨?_, fun y hy => ?_⟩
    · rcases hfrom with h | ⟨i, hi, h⟩
      · exact List.mem_cons.mpr (.inl h)
      · exact List.mem_cons.mpr (.inr (h ▸ hi))
    · rcases List.mem_cons.mp hy with rfl | hy
      · exact Candidate.not_beats_iff.mp hfirst
      · exact Candidate.not_beats_iff.mp (hrest y hy)

end Sys2Proof.Machine

/-! ## A step runs the word that its turn selects (O57) -/

namespace Sys2Proof.Machine
open Claims

theorem step_of_turn {s : State} {x : Turn} {rest : List Turn} (hon : s.power ≠ .off) (hturns : s.turns = x :: rest) :
    step s = (State.tick { s with turns := rest }).take x := by
  unfold step State.nextTurn
  rw [if_neg hon, hturns]

/-- A quadrant of one group does what that group offers. -/
theorem State.issue_of_prep {s f : State} {core quad : Nat} {r : GroupRef} {p : Prep} (hfree : s.spares.fenced.contains core = false)
    (hquad : s.quadrant core quad = [r]) (hload : s.loadFocus r = some f) (hprep : f.prep = p) (hp : p ≠ .none) :
    s.issue core quad = runPrep s p := by
  have hoffer : s.offer r = some ⟨f.t.level, f.g.lastIssue, p⟩ := by
    simp only [State.offer, hload, hprep]
  have hchoice : s.chooseGroup core quad = some ⟨f.t.level, f.g.lastIssue, p⟩ :=
    State.chooseGroup_of_cons (xs := []) (by rw [hquad, List.filterMap_cons_some hoffer, List.filterMap_nil])
  unfold State.issue
  rw [hfree, if_neg Bool.false_ne_true, hchoice]

section
variable {f x : State} {k : Key} {w : W64} (hmay : f.mayIssue = true) (hkey : f.g.selectKey = some k)
  (hfetch : State.fetch { f with g := { f.g with status := .running } } k.lpc = .word x w)
include hmay hkey hfetch

/-- A fetched word that decodes to none traps. -/
theorem State.prep_of_undecoded (hw : decode w = none) : f.prep = .illegal { x with iss := x.g.issueAt k w } := by
  have hkey' : ({ f with g := { f.g with status := .running } } : State).g.selectKey = some k := hkey
  unfold State.prep
  simp only [hmay, Bool.not_true, Bool.false_eq_true, if_false, hkey', hfetch, hw]

/-- A fetched word that decodes and need not wait runs. -/
theorem State.prep_of_decoded {i : Instr} {z : State} (hw : decode w = some i)
    (hword : State.wordReady { x with iss := x.g.issueAt k w } i = true)
    (hrecord : State.recordReady { x with iss := x.g.issueAt k w } i = .yes z) :
    f.prep = .run i { x with iss := x.g.issueAt k w } := by
  have hkey' : ({ f with g := { f.g with status := .running } } : State).g.selectKey = some k := hkey
  unfold State.prep
  simp only [hmay, Bool.not_true, Bool.false_eq_true, if_false, hkey', hfetch, hw, hword, hrecord]

end

/-- Settles O57: the turn names the quadrant or the event, and with one group ready the quadrant's choice is that group. -/
theorem stepRunsDecoded : Obligations.StepRunsDecoded := by
  refine ⟨?_, ?_, ?_⟩
  · intro s f x core quad rest r k w hon hturns u hfree hquad hload hmay hkey hfetch y
    have hfree' : u.spares.fenced.contains core = false := hfree
    rw [step_of_turn hon hturns]
    refine ⟨fun hw => ?_, fun i hw hword ⟨z, hrecord⟩ => ?_⟩
    · exact State.issue_of_prep hfree' hquad hload (State.prep_of_undecoded hmay hkey hfetch hw) nofun
    · have hissue : u.take (.issue core quad) = finish (exec i y) :=
        State.issue_of_prep hfree' hquad hload (State.prep_of_decoded hmay hkey hfetch hw hword hrecord) nofun
      rw [hissue]
      exact ⟨fun t ht => by rw [ht]; rfl, fun e he => by rw [he]; rfl⟩
  · intro s e rest hon hword hturns t ht
    rw [step_of_turn hon hturns, State.take, if_neg (by simp [hword]), ht]
    rfl
  · intro s rest hon hturns
    exact step_of_turn hon hturns

end Sys2Proof.Machine

/-! ## Control words (O15, O16) -/

namespace Sys2Proof.Machine
open Claims

/-! ### Masks and targets -/

theorem laneUpd_idx {α : Type} (old : Vector α 32) (m : Mask) (f : Fin 32 → α) (l : Fin 32) :
    (laneUpd old m f)[l] = if m.getLsbD l.val = true then f l else old[l] := laneUpd_get old m f l

theorem getLsbD_except (a b : Mask) (l : Fin 32) :
    (a &&& ~~~b).getLsbD l.val = true ↔ a.getLsbD l.val = true ∧ b.getLsbD l.val = false := by
  simp

theorem State.getLsbD_actLanes {s : State} {guard : BitVec 7} {l : Fin 32} (h : (s.actLanes guard).getLsbD l.val = true) :
    s.iss.mask.getLsbD l.val = true := by
  rw [State.actLanes, BitVec.getLsbD_and, Bool.and_eq_true] at h
  exact h.1

/-- A relative target, as a sum of integers modulo the width (R169, R185). -/
theorem add_signExtend_eq_ofInt {w : Nat} (lpc : W32) (imm : BitVec w) :
    lpc + imm.signExtend 32 = BitVec.ofInt 32 ((lpc.toNat : Int) + imm.toInt) := by
  rw [BitVec.ofInt_add, BitVec.ofInt_natCast, BitVec.ofNat_toNat, BitVec.setWidth_eq]
  rfl

theorem Group.src_congr {g g' : Group} (hv : g.v = g'.v) (hs : g.s = g'.s) (x : VSrc) (l : Fin 32) : g.src x l = g'.src x l := by
  have hvr : ∀ r j, g.vr r j = g'.vr r j := fun r j => by simp only [Group.vr, hv]
  have hsr : ∀ r, g.sr64 r = g'.sr64 r := fun r => by simp only [Group.sr64, hs]
  have hroute : ∀ r j, g.routeLane r j = g'.routeLane r j := fun r j => by
    cases r <;> simp only [Group.routeLane, hvr]
  simp only [Group.src, hvr, hsr, hroute]

/-! ### Words that place their active lanes (R168) -/

/-- The group when a control word places its active lanes: the other issuing lanes have advanced. -/
def State.passed (s : State) (guard : BitVec 7) : Group := s.commit.g.advance (s.iss.mask &&& ~~~s.actLanes guard)

@[simp] theorem State.passed_v (s : State) (guard : BitVec 7) : (s.passed guard).v = s.g.v := by simp [State.passed]
@[simp] theorem State.passed_s (s : State) (guard : BitVec 7) : (s.passed guard).s = s.g.s := by simp [State.passed]
theorem State.passed_src (s : State) (guard : BitVec 7) (x : VSrc) (l : Fin 32) : (s.passed guard).src x l = s.g.src x l :=
  Group.src_congr (s.passed_v guard) (s.passed_s guard) x l
@[simp] theorem State.passed_dep (s : State) (guard : BitVec 7) : (s.passed guard).dep = s.g.dep := by simp [State.passed]

theorem State.passed_lpc_of_active {s : State} {guard : BitVec 7} {l : Fin 32} (h : (s.actLanes guard).getLsbD l.val = true) :
    (s.passed guard).lpc[l] = s.g.lpc[l] := by
  rw [State.passed, Group.advance_lpc_get, if_neg (by rw [getLsbD_except, h]; simp), State.commit_g_lpc]

/-- Where lanes `m`, active all of them, are placed. -/
theorem State.placed_lpc (s : State) (guard : BitVec 7) (m : Mask) (f : Fin 32 → W32) (l : Fin 32) :
    (laneUpd (s.passed guard).lpc m f)[l] = if m.getLsbD l.val = true then f l
      else if s.iss.mask.getLsbD l.val = true ∧ (s.actLanes guard).getLsbD l.val = false then s.g.lpc[l] + 1#32 else s.g.lpc[l] := by
  rw [laneUpd_idx, State.passed, Group.advance_lpc_get]
  simp only [getLsbD_except, State.commit_g_lpc]

theorem State.branches_of_placed {s t : State} {guard : BitVec 7} {f target : Fin 32 → W32}
    (hlpc : t.g.lpc = laneUpd (s.passed guard).lpc (s.actLanes guard) f)
    (hf : ∀ l : Fin 32, (s.actLanes guard).getLsbD l.val = true → f l = target l) :
    Branches s t (s.actLanes guard) target := by
  intro l
  have h := s.placed_lpc guard (s.actLanes guard) f l
  rw [← hlpc] at h
  rw [h]
  grind

theorem flow_of_runs {s : State} {i : Instr} {guard : BitVec 7} {f : Mask → Group → Group} (h : Runs s i guard) :
    s.flow i guard f = .next (s.commit.setG (f (s.actLanes guard) (s.passed guard))) :=
  State.flow_next s i guard f h.on h.alloc h.sound

/-! ### BRA, BRX and SBRA (R169, R170, R185) -/

/-- A group that a control word has placed differs from what it was in LPCs, depths and the link register only. -/
theorem frameFlow_of_placed {s : State} {g' : Group} {m : Mask} (h : g' = { s.commit.g.advance m with
      v := g'.v, lpc := g'.lpc, dep := g'.dep, watch := g'.watch, vbad := g'.vbad }) : FrameFlow s (s.commit.setG g') := by
  refine ⟨?_, fun _ => rfl⟩
  rw [Group.advance] at h
  exact congrArg s.commit.setG h

theorem branchTargets : BranchTargets := by
  refine ⟨fun s w h => ?_, fun s w h => ?_, fun s u h => ?_⟩
  · have hexec : exec (.bra w) s = s.flow (.bra w) w.guard fun m g => g.jump m fun l => relTarget g.lpc[l] (w.imm.signExtend 32) := rfl
    rw [hexec, flow_of_runs h]
    refine ⟨_, rfl, State.branches_of_placed (Group.jump_lpc ..) fun l hl => ?_, by simp, by simp, frameFlow_of_placed rfl⟩
    rw [relTarget, State.passed_lpc_of_active hl]
    exact add_signExtend_eq_ofInt _ _
  · have hexec : exec (.brx w) s = s.flow (.brx w) w.guard fun m g => g.jump m fun l => g.src w.a l := rfl
    rw [hexec, flow_of_runs h]
    exact ⟨_, rfl, State.branches_of_placed (Group.jump_lpc ..) fun l hl => s.passed_src _ _ l, by simp, by simp, frameFlow_of_placed rfl⟩
  · have hexec : exec (.sbra u) s = s.unit (.sbra u) u.q u.neg fun s =>
        s.commit.setG (s.commit.g.jump s.iss.mask fun l => s.g.lpc[l] + u.imm.signExtend 32) := rfl
    rw [hexec, State.unit_next s _ u.q u.neg _ h.exec.on h.exec.alloc h.guard h.exec.sound]
    refine ⟨_, rfl, fun l => ?_, by simp, by simp, rfl, fun _ => rfl⟩
    refine (Group.jump_lpc_get _ _ _ l).trans ?_
    rw [add_signExtend_eq_ofInt]
    rw [State.commit_g_lpc]
    grind

/-! ### CALL, CALLX and RET (R20, R171, R172) -/

theorem Group.getLsbD_depthEdge (g : Group) (m : Mask) (d : BitVec 8) (l : Fin 32) :
    (g.depthEdge m d).getLsbD l.val = true ↔ m.getLsbD l.val = true ∧ g.dep[l] = d := by
  rw [Group.depthEdge, maskOf, BitVec.getLsbD_and, Bool.and_eq_true, BitVec.getLsbD_ofFnLE]
  simp

/-- The group after a control word has changed the depth of lanes `m`, all others of which have gone on. -/
def State.depthState (s : State) (guard : BitVec 7) (edge : BitVec 8) (f : Mask → Group → Group) : State :=
  s.commit.setG (f (s.actLanes guard &&& ~~~s.g.depthEdge (s.actLanes guard) edge) (s.passed guard))

/-- A word of depth without a bad register: lanes at the edge fault, and the others take their effect. -/
theorem depthWord_of_runs {s : State} {i : Instr} {guard : BitVec 7} {edge : BitVec 8} {dir : W64} {f : Mask → Group → Group}
    (h : Runs s i guard) : s.depthWord i guard edge dir f = .next
      (if s.g.depthEdge (s.actLanes guard) edge ≠ 0#32 then
        (s.depthState guard edge f).laneFault 0x03#8 (s.g.depthEdge (s.actLanes guard) edge) (s.actLanes guard) dir
      else s.depthState guard edge f) := by
  have hz : ∀ m : Mask, m &&& ~~~(0#32) = m := fun m => BitVec.and_allOnes
  have hbad : s.g.badLanes i (s.iss.mask &&& s.g.pred guard) = 0#32 := h.sound
  unfold State.depthWord
  rw [State.issueWord_on s i _ h.on h.alloc]
  simp only [hbad, hz, ne_eq, not_true_eq_false, if_false]
  rfl

/-- What a word of depth does to the lanes `m` that it places: link, depth and target. -/
structure Replaced (g g' : Group) (m : Mask) (link : Option (BitVec 7)) (by_ : BitVec 8) (target : Fin 32 → W32) : Prop where
  lpc : g'.lpc = laneUpd g.lpc m target
  dep : ∀ l : Fin 32, g'.dep[l] = if m.getLsbD l.val = true then g.dep[l] + by_ else g.dep[l]
  regs : ∀ (r : Fin 128) (l : Fin 32),
    g'.vr r l = if (∃ d, link = some d ∧ r = reg7 d) ∧ m.getLsbD l.val = true then g.lpc[l] + 1#32 else g.vr r l
  kept : link = none → g'.v = g.v
  frame : g' = { g with v := g'.v, lpc := g'.lpc, dep := g'.dep, watch := g'.watch, vbad := g'.vbad }

theorem replaced_callLanes (g : Group) (m : Mask) (d : BitVec 7) (aim : Fin 32 → W32) :
    Replaced g (g.callLanes m d aim) m (some d) 1#8 aim where
  lpc := by simp only [Group.callLanes]
  dep := fun l => by
    simp only [Group.callLanes]
    exact laneUpd_idx _ _ _ l
  regs := fun r l => by
    have h := Group.vr_setV g m (reg7 d) r (fun l => g.lpc[l] + 1#32) l
    simpa only [Group.callLanes, Group.vr, Option.some.injEq, exists_eq_left'] using h
  kept := nofun
  frame := by simp only [Group.callLanes, Group.setV]

/-- The lanes of RET. -/
def Group.returnLanes (g : Group) (m : Mask) (target : Fin 32 → W32) : Group :=
  { g with dep := laneUpd g.dep m fun l => g.dep[l] - 1#8, lpc := laneUpd g.lpc m target }

theorem replaced_returnLanes (g : Group) (m : Mask) (aim : Fin 32 → W32) :
    Replaced g (g.returnLanes m aim) m none 255#8 aim where
  lpc := by simp only [Group.returnLanes]
  dep := fun l => by
    simp only [Group.returnLanes]
    rw [laneUpd_idx, BitVec.sub_eq_add_neg]
    rfl
  regs := fun r l => by simp [Group.returnLanes, Group.vr]
  kept := fun _ => by simp only [Group.returnLanes]
  frame := by simp only [Group.returnLanes]

/-- The three words of depth: guard, link, edge, change of depth, direction and target, as the claims name them. -/
def DepthWord (s : State) (i : Instr) (guard : BitVec 7) (link : Option (BitVec 7)) (edge by_ : BitVec 8) (dir : W64)
    (target : Fin 32 → W32) : Prop :=
  (∃ w : WCall, i = .call w ∧ guard = w.guard ∧ link = some w.d ∧ edge = 255#8 ∧ by_ = 1#8 ∧ dir = 0#64 ∧
      target = fun l => BitVec.ofInt 32 ((s.g.lpc[l]).toNat + w.imm.toInt)) ∨
    (∃ w : WUn, i = .callx w ∧ guard = w.guard ∧ link = some w.d ∧ edge = 255#8 ∧ by_ = 1#8 ∧ dir = 0#64 ∧
      target = s.g.src w.a) ∨
    (∃ w : WIndirect, i = .ret w ∧ guard = w.guard ∧ link = none ∧ edge = 0#8 ∧ by_ = 255#8 ∧ dir = 1#64 ∧
      target = s.g.src w.a)

section
variable {s : State} {i : Instr} {guard : BitVec 7} {link : Option (BitVec 7)} {edge by_ : BitVec 8} {dir : W64}
  {target : Fin 32 → W32}

/-- A word of depth places lanes at their targets. -/
theorem DepthWord.exec_eq (h : DepthWord s i guard link edge by_ dir target) : ∃ f : Mask → Group → Group,
    exec i s = s.depthWord i guard edge dir f ∧ ∀ m : Mask, ∃ aim : Fin 32 → W32,
      Replaced (s.passed guard) (f m (s.passed guard)) m link by_ aim ∧
        ∀ l : Fin 32, (s.actLanes guard).getLsbD l.val = true → aim l = target l := by
  rcases h with ⟨w, rfl, rfl, rfl, rfl, rfl, rfl, rfl⟩ | ⟨w, rfl, rfl, rfl, rfl, rfl, rfl, rfl⟩ | ⟨w, rfl, rfl, rfl, rfl, rfl, rfl, rfl⟩
  · refine ⟨fun m g => g.callLanes m w.d fun l => relTarget g.lpc[l] (w.imm.signExtend 32), rfl,
      fun m => ⟨_, replaced_callLanes _ _ _ _, fun l hl => ?_⟩⟩
    rw [relTarget, State.passed_lpc_of_active hl]
    exact add_signExtend_eq_ofInt _ _
  · exact ⟨fun m g => g.callLanes m w.d fun l => g.src w.a l, rfl,
      fun m => ⟨_, replaced_callLanes _ _ _ _, fun l _ => s.passed_src _ _ l⟩⟩
  · exact ⟨fun m g => g.returnLanes m fun l => g.src w.a l, rfl,
      fun m => ⟨_, replaced_returnLanes _ _ _, fun l _ => s.passed_src _ _ l⟩⟩

/-- The state after a word of depth whose lanes `stuck` are at the edge, apart from their fault. -/
theorem DepthWord.placed (h : DepthWord s i guard link edge by_ dir target) (hruns : Runs s i guard) : ∃ u : State,
    let stuck := s.g.depthEdge (s.actLanes guard) edge
    let m := s.actLanes guard &&& ~~~stuck
    exec i s = .next (if stuck ≠ 0#32 then u.laneFault 0x03#8 stuck (s.actLanes guard) dir else u) ∧
      (∀ l : Fin 32, u.g.lpc[l] = if m.getLsbD l.val = true then target l
        else if s.iss.mask.getLsbD l.val = true ∧ (s.actLanes guard).getLsbD l.val = false then s.g.lpc[l] + 1#32 else s.g.lpc[l]) ∧
      (∀ l : Fin 32, u.g.dep[l] = if m.getLsbD l.val = true then s.g.dep[l] + by_ else s.g.dep[l]) ∧
      (∀ d, link = some d → LaneResult s u m d (fun l x => x = s.g.lpc[l] + 1#32)) ∧ (link = none → u.g.v = s.g.v) ∧
      FrameFlow s u ∧ u.iss.key = s.iss.key ∧ u.iss.waitm = s.iss.waitm ∧ u.cycle = s.cycle := by
  obtain ⟨f, hexec, hplaces⟩ := h.exec_eq
  obtain ⟨aim, hplaced, haim⟩ := hplaces (s.actLanes guard &&& ~~~s.g.depthEdge (s.actLanes guard) edge)
  refine ⟨s.depthState guard edge f, hexec.trans (depthWord_of_runs hruns), fun l => ?_, fun l => ?_, ?_, fun hlink => ?_,
    frameFlow_of_placed hplaced.frame, by simp [State.depthState], by simp [State.depthState], by simp [State.depthState]⟩
  · have hlpc : (s.depthState guard edge f).g.lpc = _ := hplaced.lpc
    have h := s.placed_lpc guard (s.actLanes guard &&& ~~~s.g.depthEdge (s.actLanes guard) edge) aim l
    rw [← hlpc] at h
    rw [h]
    by_cases hl : (s.actLanes guard &&& ~~~s.g.depthEdge (s.actLanes guard) edge).getLsbD l.val = true
    · rw [if_pos hl, if_pos hl, haim l ((getLsbD_except _ _ l).mp hl).1]
    · rw [if_neg hl, if_neg hl]
  · exact (hplaced.dep l).trans (by rw [State.passed_dep])
  · intro d hd r l
    have hreg : (s.depthState guard edge f).g.vr r l = _ := hplaced.regs r l
    by_cases hl : r = reg7 d ∧ (s.actLanes guard &&& ~~~s.g.depthEdge (s.actLanes guard) edge).getLsbD l.val = true
    · rw [if_pos hl]
      rw [if_pos ⟨⟨d, hd, hl.1⟩, hl.2⟩] at hreg
      rw [hreg, State.passed_lpc_of_active ((getLsbD_except _ _ l).mp hl.2).1]
    · rw [if_neg hl]
      rw [if_neg fun ⟨⟨d', hd', hr⟩, hm⟩ => hl ⟨by rw [Option.some.inj (hd.symm.trans hd')]; exact hr, hm⟩] at hreg
      rw [hreg, Group.vr, Group.vr, State.passed_v]
  · exact (hplaced.kept hlink).trans (s.passed_v guard)

/-- A word of depth of which no active lane is at the edge. -/
theorem DepthWord.free (h : DepthWord s i guard link edge by_ dir target) (hruns : Runs s i guard)
    (hfree : ∀ l : Fin 32, (s.actLanes guard).getLsbD l.val = true → s.g.dep[l] ≠ edge) :
    ∃ t, exec i s = .next t ∧ Branches s t (s.actLanes guard) target ∧
      (∀ d, link = some d → LaneResult s t (s.actLanes guard) d (fun l x => x = s.g.lpc[l] + 1#32)) ∧
      (link = none → t.g.v = s.g.v) ∧
      (∀ l : Fin 32, t.g.dep[l] = if (s.actLanes guard).getLsbD l.val = true then s.g.dep[l] + by_ else s.g.dep[l]) ∧
      FrameFlow s t := by
  have hnone : s.g.depthEdge (s.actLanes guard) edge = 0#32 := by
    refine BitVec.eq_of_getLsbD_eq fun k hk => ?_
    have hl := Group.getLsbD_depthEdge s.g (s.actLanes guard) edge ⟨k, hk⟩
    rw [BitVec.getLsbD_zero, ← Bool.not_eq_true, hl]
    exact fun ⟨hact, hdep⟩ => hfree ⟨k, hk⟩ hact hdep
  have hall : s.actLanes guard &&& ~~~(0#32) = s.actLanes guard := BitVec.and_allOnes
  obtain ⟨u, hexec, hlpc, hdep, hlink, hkept, hframe, -⟩ := h.placed hruns
  simp only [hnone, hall, ne_eq, not_true_eq_false, if_false] at hexec hlpc hdep hlink
  refine ⟨u, hexec, fun l => ?_, hlink, hkept, hdep, hframe⟩
  rw [hlpc l]
  grind

end

theorem callAndReturn : CallAndReturn := by
  refine ⟨fun s i guard d target hword hruns hfree => ?_, fun s w hruns hfree => ?_⟩
  · have hdepth : DepthWord s i guard (some d) 255#8 1#8 0#64 target := by
      rcases hword with ⟨w, rfl, rfl, rfl, rfl⟩ | ⟨w, rfl, rfl, rfl, rfl⟩
      · exact .inl ⟨w, rfl, rfl, rfl, rfl, rfl, rfl, rfl⟩
      · exact .inr (.inl ⟨w, rfl, rfl, rfl, rfl, rfl, rfl, rfl⟩)
    obtain ⟨t, hexec, hlpc, hlink, -, hdep, hframe⟩ := hdepth.free hruns hfree
    exact ⟨t, hexec, hlpc, hlink d rfl, hdep, hframe⟩
  · have hdepth : DepthWord s (.ret w) w.guard none 0#8 255#8 1#64 (s.g.src w.a) :=
      .inr (.inr ⟨w, rfl, rfl, rfl, rfl, rfl, rfl, rfl⟩)
    obtain ⟨t, hexec, hlpc, -, hkept, hdep, hframe⟩ := hdepth.free hruns hfree
    refine ⟨t, hexec, hlpc, hkept rfl, fun l => ?_, hframe⟩
    rw [hdep l, BitVec.sub_eq_add_neg]
    rfl

theorem depthOverflow : DepthOverflow := by
  intro s i guard link edge by_ dir target stuck hword hruns hne hstuck
  obtain rfl : stuck = s.g.depthEdge (s.actLanes guard) edge := by
    refine BitVec.eq_of_getLsbD_eq fun k hk => ?_
    have h := hstuck ⟨k, hk⟩
    rw [← Group.getLsbD_depthEdge] at h
    exact Bool.eq_iff_iff.mpr h
  obtain ⟨u, hexec, hlpc, hdep, hlink, hkept, hframe, hkey, hwait, hcycle⟩ := DepthWord.placed hword hruns
  refine ⟨u, ?_, ⟨fun l hl => ?_, fun l hl => ?_, hdep, ?_⟩, hframe⟩
  · rw [hexec, if_pos hne, State.laneFault, hkey, hwait, hcycle]
  · have hact := ((hstuck l).mp hl).1
    rw [hlpc l]
    grind [getLsbD_except]
  · rw [hlpc l]
    grind [getLsbD_except]
  · cases link with
    | none => exact hkept rfl
    | some d => exact hlink d rfl

/-- Settles O15: a control word places its active lanes, after the other issuing lanes have advanced. -/
theorem branchesAndCalls : Obligations.BranchesAndCalls := ⟨branchTargets, callAndReturn, depthOverflow⟩

/-! ### YIELD and EXIT (R22, R28, R173, R174) -/

theorem Group.getLsbD_exited (g : Group) (l : Fin 32) : g.exited.getLsbD l.val = true ↔ g.lane[l] = .exited := by
  rw [Group.exited, Group.inState, maskOf, BitVec.getLsbD_ofFnLE]
  simp

theorem Group.exited_eq_allOnes (g : Group) : g.exited = BitVec.allOnes 32 ↔ ∀ l : Fin 32, g.lane[l] = .exited := by
  constructor
  · intro h l
    rw [← Group.getLsbD_exited, h, BitVec.getLsbD_allOnes]
    simp
  · intro h
    refine BitVec.eq_of_getLsbD_eq fun k hk => ?_
    rw [(g.getLsbD_exited ⟨k, hk⟩).mpr (h ⟨k, hk⟩), BitVec.getLsbD_allOnes]
    simp [hk]

theorem Group.badLanes_of_reads_nil (g : Group) {i : Instr} (m : Mask) (h : i.reads = []) : g.badLanes i m = 0#32 := by
  have hnone : maskOf (fun l => (g.badReads i.reads l).isSome) = 0#32 := by
    refine BitVec.eq_of_getLsbD_eq fun k hk => ?_
    simp [maskOf, BitVec.getLsbD_ofFnLE, Group.badReads, h]
  unfold Group.badLanes
  rw [hnone, BitVec.and_zero, ite_self]

theorem yieldMarksLanes : YieldMarksLanes := by
  intro s w hon halloc
  have hexec : exec (.yield w) s = s.vec (.yield w) w.guard fun m g => { g with yielded := g.yielded ||| m } := rfl
  rw [hexec, State.vec_next s (.yield w) w.guard _ hon halloc (s.g.badLanes_of_reads_nil _ rfl)]
  refine ⟨_, rfl, fun l => Group.advance_lpc_get _ _ l, fun _ => rfl, fun l => ?_, rfl⟩
  have hyielded : ((s.g.yielded &&& ~~~s.iss.mask) ||| s.actLanes w.guard).getLsbD l.val =
      (s.g.yielded.getLsbD l.val && !s.iss.mask.getLsbD l.val || (s.actLanes w.guard).getLsbD l.val) := by
    simp
  refine hyielded.trans ?_
  grind

/-- The group of an EXIT: every issuing lane has gone on, and the active ones are exited. -/
def State.left (s : State) (guard : BitVec 7) : Group := (s.commit.g.advance s.iss.mask).setLane (s.actLanes guard) .exited

theorem exec_exit (s : State) (w : EGuard) (hon : s.power ≠ .off) (halloc : s.g.inAlloc (.exit w) = true) :
    exec (.exit w) s = .next (if (s.left w.guard).exited = BitVec.allOnes 32 then
      (s.commit.setG (s.left w.guard)).pushDue (.groupRetire ⟨s.t.tid, s.g.id⟩) else s.commit.setG (s.left w.guard)) := by
  have hexec : exec (.exit w) s = execExit w s := rfl
  rw [hexec, execExit, State.issueWord_on s (.exit w) _ hon halloc]
  simp only [State.setG_g, State.commit_iss_mask, State.left, State.actLanes, State.me, State.setG_t, State.commit_t, Group.setLane_id,
    Group.advance_id, State.commit_g_id]
  exact congrArg Host.Outcome.next (if_congr Iff.rfl rfl rfl)

theorem exitLeaves : ExitLeaves := by
  intro s w hon halloc
  have hlpc : ∀ l : Fin 32, (s.left w.guard).lpc[l] = if s.iss.mask.getLsbD l.val = true then s.g.lpc[l] + 1#32 else s.g.lpc[l] :=
    fun l => by rw [State.left, Group.setLane_lpc, Group.advance_lpc_get, State.commit_g_lpc]
  have hlane : ∀ l : Fin 32, (s.left w.guard).lane[l] = if (s.actLanes w.guard).getLsbD l.val = true then .exited else s.g.lane[l] :=
    fun l => by rw [State.left, Group.setLane_lane_get, Group.advance_lane, State.commit_g_lane]
  rw [exec_exit s w hon halloc]
  by_cases hall : ∀ l : Fin 32, (s.left w.guard).lane[l] = .exited
  · rw [if_pos ((Group.exited_eq_allOnes _).mpr hall)]
    exact ⟨_, rfl, hlpc, fun _ => rfl, hlane, rfl, (if_pos hall).symm⟩
  · rw [if_neg fun h => hall ((Group.exited_eq_allOnes _).mp h)]
    exact ⟨_, rfl, hlpc, fun _ => rfl, hlane, rfl, (if_neg hall).symm⟩

/-- Settles O16: YIELD marks its active lanes after the bookkeeping of the issue has cleared the issuing ones, and an EXIT that
leaves no lane calls for the group's retirement. -/
theorem yieldAndExit : Obligations.YieldAndExit := ⟨yieldMarksLanes, exitLeaves⟩

end Sys2Proof.Machine


/-! ## A completion that fires another grid's trigger (O34) -/

namespace Sys2Proof.Machine
open Claims

/-- A grid held behind a trigger. -/
def heldGrid : Grid := { fetchGrid with gid := 2, waiting := true }

/-- The last team of grid 1 is about to retire. The counter of its completion stands one below 0, and grid 2 is held behind a trigger
on it. -/
def lastFires : State :=
  { Tests.withMem (Tests.sLast 0x200#64) (2 ^ 40 + 0x200) 8 (2 ^ 64 - 1) with
    grids := (Tests.sLast 0x200#64).grids ++ [heldGrid], triggers := [⟨2 ^ 40 + 0x200, 0, 0#10, 2, .sys⟩] }

def lastFiresGroup : State := { lastFires with t := { Tests.teamA with groups := [Tests.gExit] }, g := Tests.gExit }

theorem retires_lastFires : Retires lastFires lastFiresGroup ⟨1, 0⟩ where
  on := by decide
  idle := rfl
  teams := by decide
  load := rfl
  exited := by decide +kernel
  once := rfl
  ops := rfl
  fence := rfl
  log := rfl
  held := rfl
  stop := rfl
  status := rfl
  free := by decide +kernel
  commands := by decide +kernel
  mma := rfl
  engine := rfl
  posted := by decide
  group := rfl
  team := rfl

/-- The addition leaves the counter at 0, its trigger fires, and grid 2 is held no longer. -/
theorem heldGrid_released (t : State) (ht : exec (.groupRetire ⟨1, 0⟩) lastFires = .next t) : heldGrid ∉ t.grids := by
  have h : (match exec (.groupRetire ⟨1, 0⟩) lastFires with
      | .next t => decide (heldGrid ∉ t.grids)
      | _ => false) = true := by decide +kernel
  rw [ht] at h
  exact of_decide_eq_true h

/-- Refutes O34: it says that a grid's completion leaves every grid as it was but the one that completes and its parent. Its addition
to the completion counter may leave the counter at 0 and so fire a trigger (R262): the grid held behind it is then no longer held. -/
theorem not_faultProgress : ¬ Obligations.FaultProgress := by
  intro h
  obtain ⟨-, -, -, hgrid⟩ := h
  obtain ⟨t, ht, -, -, -, hothers, -⟩ := hgrid lastFires lastFiresGroup ⟨1, 0⟩ _ retires_lastFires (by decide) rfl List.mem_cons_self
    (by decide) rfl rfl rfl (by decide)
  exact heldGrid_released t ht (hothers heldGrid (by decide) (by decide) (by decide))

end Sys2Proof.Machine

/-! ## A ring whose counts wrap around (O32) -/

namespace Sys2Proof.Machine
open Claims

/-- Lanes of the current group are about to call the service. The ring's head is one past its tail, and another group of the team has
reserved one slot that is not written yet. -/
def wrappedRing : State :=
  let call : Op := { Tests.op0 with instr := .svc ⟨0#7, 8#7, 16#7⟩, gops := [0#64] }
  let team : Team := { Tests.teamA with groups := [fetchGroup, { fetchGroup with id := 1, quad := 1, ops := [call] }] }
  { Tests.withMem (Tests.sRing 31) (0x200_0000 + 8) 8 32 with teams := [team], t := team }

def serviceWord : WSvc := ⟨0#7, 8#7, 16#7⟩

theorem wrappedRing_acts : Acts wrappedRing (.svc serviceWord) serviceWord.guard :=
  ⟨⟨by decide, by decide +kernel, by decide +kernel⟩, by decide +kernel⟩

theorem wrappedRing_here : RingHere (wrappedRing.readDesc wrappedRing.t.ctx) (lanesOf (wrappedRing.actLanes serviceWord.guard)).length :=
  ⟨Tests.unheldOf (by decide +kernel) rfl rfl, fun k hk => Tests.unheldOf (by revert k hk; decide +kernel) rfl rfl⟩

/-- With the reserved slot counted, tail − head is 0, and the call has room: no register is written. -/
theorem wrappedRing_parks (t : State) (ht : exec (.svc serviceWord) wrappedRing = .next t) : t.g.vr 8 0 = 0#32 := by
  have h : (match exec (.svc serviceWord) wrappedRing with
      | .next t => decide (t.g.vr 8 0 = 0#32)
      | _ => false) = true := by decide +kernel
  rw [ht] at h
  exact of_decide_eq_true h

/-- Refutes O32: it calls a ring full when tail − head + n exceeds the size, without the slots that earlier calls have reserved. The
difference is taken modulo 2^64. Where software has put the head one past the tail, it is 2^64 − 1; one reserved slot makes it 0, and
the lanes are parked with their slots, where the statement gives them the status of a full ring. -/
theorem not_trapWords : ¬ Obligations.TrapWords := by
  intro h
  obtain ⟨-, herror, -⟩ := h
  obtain ⟨t, ht, hlane, -⟩ := herror wrappedRing serviceWord wrappedRing_acts (Or.inr ⟨by decide +kernel, wrappedRing_here⟩)
  have hreg := hlane 8 0
  rw [if_pos ⟨by decide, by decide +kernel⟩, if_neg (by decide +kernel), wrappedRing_parks t ht] at hreg
  exact absurd hreg (by decide)

end Sys2Proof.Machine

/-! ## TCOPYs that wait for the engine (O31) -/

namespace Sys2Proof.Machine
open Claims

def copyWord : ETcopy := ⟨0#7, 0#4, 5#7, 41#7, .die, true⟩

/-- A TCOPY in flight whose record has not been read. -/
def waitingCopy : Op := { Tests.op0 with instr := .tcopy copyWord, gops := [0#64, 0x200#64, 0#64] }

/-- The current group is about to issue a TCOPY whose record is not aligned. Another group of the team has eight TCOPYs in flight that
the engine has still to accept. -/
def eightWait : State :=
  let team : Team := { Tests.teamA with groups := [fetchGroup, { fetchGroup with id := 1, quad := 1, ops := List.replicate 8 waitingCopy }] }
  { Tests.withS Tests.sCopy 5 0x20#64 with teams := [team], t := team }

theorem eightWait_acts : Acts eightWait (.tcopy copyWord) copyWord.guard :=
  ⟨⟨by decide, by decide +kernel, by decide +kernel⟩, by decide +kernel⟩

theorem eightWait_held : Held eightWait (eightWait.g.sr64 (sreg7 copyWord.a)) .load (2 ^ 40 + 0x20) := Tests.heldOf (by decide +kernel)

theorem eightWait_stays (t : State) (ht : exec (.tcopy copyWord) eightWait = .next t) : t.g.status = .tcopy := by
  have h : (match exec (.tcopy copyWord) eightWait with
      | .next t => decide (t.g.status = .tcopy)
      | _ => false) = true := by decide +kernel
  rw [ht] at h
  exact of_decide_eq_true h

/-- Refutes O31: it lets a TCOPY make its checks whenever the engine holds fewer than eight commands. TCOPYs in flight that the engine
has still to accept take its places too (R257): eight of them in another group of the core, and the word waits, with no fault. -/
theorem not_issueFaults : ¬ Obligations.IssueFaults := by
  intro h
  obtain ⟨-, -, -, hcopy, -⟩ := h
  obtain ⟨hrecord, -⟩ := hcopy eightWait copyWord eightWait_acts (Tests.idleOf rfl rfl rfl) (by decide +kernel) _ eightWait_held
  have hfault := eightWait_stays _ (hrecord (by decide +kernel))
  exact absurd hfault (by decide +kernel)

end Sys2Proof.Machine


/-! ## Special registers (O26) -/

namespace Sys2Proof.Machine
open Claims

/-! ### The values of the selectors -/

/-- Every selector of the scalar class reads what the table says, and none is privileged. -/
theorem special_of_specials {s : State} {gr : Grid} (hgr : s.myGrid = some gr) :
    ∀ p ∈ specials s gr, s.special p.1 = BitVec.ofNat 64 p.2 ∧ vectorSel p.1 = false ∧ privSel p.1 = false := by
  simp [specials, State.special, hgr, State.myDie, dieOfCore, vectorSel, privSel]

theorem ctxctlRead_eq (s : State) :
    s.ctxctlRead = BitVec.ofNat 64 (if s.ctxctlQueue = [] then s.ctxctlStatus.toNat else 2 ^ 63) := by
  rw [State.ctxctlRead]
  split <;> simp_all

theorem special_of_privileges (s : State) :
    ∀ p ∈ privileges s, s.special p.1 = BitVec.ofNat 64 p.2 ∧ vectorSel p.1 = false ∧ privSel p.1 = true := by
  simp [privileges, State.special, State.privRead, ctxctlRead_eq, vectorSel, privSel]

/-! ### SREAD -/

/-- The group after a scalar-unit word that writes `x` to a scalar register. -/
def State.scalarWritten (s : State) (d : BitVec 9) (x : W64) : State :=
  s.commit.setG ((s.commit.g.setS (reg9 d) x).advance s.iss.mask)

theorem State.scalarWritten_sr64 (s : State) (d : BitVec 9) (x : W64) (r : Fin 512) :
    (s.scalarWritten d x).g.sr64 r = if r = reg9 d then x else s.g.sr64 r := by
  have hs : (s.scalarWritten d x).g.sr64 r = (s.commit.g.setS (reg9 d) x).sr64 r := by
    simp only [State.scalarWritten, State.setG, Group.sr64, Group.advance_s]
  rw [hs, Group.sr64_setS]
  simp only [Group.sr64, State.commit_g_s]

theorem State.advances_scalarWritten (s : State) (d : BitVec 9) (x : W64) : Advances s (s.scalarWritten d x) := fun l => by
  have hlpc : (s.scalarWritten d x).g.lpc = ((s.commit.g.setS (reg9 d) x).advance s.iss.mask).lpc := rfl
  rw [Fin.getElem_fin, hlpc]
  exact (Group.advance_lpc_get _ _ l).trans (by simp)

theorem State.frameScalar_scalarWritten (s : State) (d : BitVec 9) (x : W64) : FrameScalar s (s.scalarWritten d x) :=
  ⟨rfl, fun _ => rfl⟩

theorem exec_sread {s : State} {u : URead} (hruns : RunsU s (.sread u) u.q u.neg) (hpriv : privSel u.sel = true → s.t.ctx = s.supctx)
    (hsel : vectorSel u.sel = false) : exec (.sread u) s = .next (s.scalarWritten u.d (s.special u.sel)) := by
  obtain ⟨⟨hon, halloc, hsound⟩, hguard⟩ := hruns
  have hexec : exec (.sread u) s = execSread u s := rfl
  have hallowed : (privSel u.sel && !s.privileged) = false := by
    cases h : privSel u.sel <;> simp [State.privileged, hpriv, h]
  rw [hexec, execSread, if_neg hon, hallowed, if_neg (by simp), State.unit_next _ _ _ _ _ hon halloc hguard hsound, hsel]
  rfl

theorem exec_sread_vector {s : State} {u : URead} (hruns : RunsU s (.sread u) u.q u.neg) (hpriv : privSel u.sel = false)
    (hsel : vectorSel u.sel = true) : exec (.sread u) s = .next (s.commit.setG
      ((s.commit.g.setV (~~~s.g.exited) (reg7 (u.d.extractLsb' 0 7)) fun l => s.g.laneSpecial u.sel l).advance s.iss.mask)) := by
  obtain ⟨⟨hon, halloc, hsound⟩, hguard⟩ := hruns
  have hexec : exec (.sread u) s = execSread u s := rfl
  rw [hexec, execSread, if_neg hon, hpriv, if_neg (by simp), State.unit_next _ _ _ _ _ hon halloc hguard hsound, hsel]
  rfl

/-- A vector-class selector reads what the table says. -/
theorem laneSpecial_eq {s : State} {sel : BitVec 8} (hlo : 0x40 ≤ sel.toNat) (hhi : sel.toNat ≤ 0x43) (l : Fin 32) :
    s.g.laneSpecial sel l = laneValue s sel l := by
  have hcases : sel = 0x40#8 ∨ sel = 0x41#8 ∨ sel = 0x42#8 ∨ sel = 0x43#8 := by
    simp only [← BitVec.toNat_inj, BitVec.toNat_ofNat]
    omega
  rcases hcases with rfl | rfl | rfl | rfl <;> rfl

theorem laneResult_setV {s : State} {m : Mask} {d : BitVec 7} {f : Fin 32 → W32} {P : Fin 32 → W32 → Prop}
    (h : ∀ l, P l (f l)) : LaneResult s (s.commit.setG ((s.commit.g.setV m (reg7 d) f).advance s.iss.mask)) m d P := fun r l => by
  have hv : (s.commit.setG ((s.commit.g.setV m (reg7 d) f).advance s.iss.mask)).g.vr r l = (s.commit.g.setV m (reg7 d) f).vr r l := by
    simp only [State.setG, Group.vr, Group.advance_v]
  rw [hv, Group.vr_setV]
  split
  · exact h l
  · simp only [Group.vr, State.commit_g_v]

theorem advances_setG {s : State} {g : Group} (h : g.lpc = s.g.lpc) : Advances s (s.commit.setG (g.advance s.iss.mask)) := fun l => by
  have hlpc : (s.commit.setG (g.advance s.iss.mask)).g.lpc = (g.advance s.iss.mask).lpc := rfl
  rw [Fin.getElem_fin, hlpc]
  exact (Group.advance_lpc_get _ _ l).trans (by simp [h])

/-! ### SREAD.W -/

/-- What SREAD.W does beside its destination: source A replaces the register. -/
def State.exchanged (s : State) (sel : BitVec 8) (a : W64) : State :=
  if sel = 0x13#8 then s.setG { s.g with fpctl := fpctlWritten a } else s.privWrite sel a

theorem exec_sreadW {s : State} {u : UReadW} (hruns : RunsU s (.sreadW u) u.q u.neg) (hpriv : privSel u.sel = true → s.t.ctx = s.supctx) :
    exec (.sreadW u) s = .next ((s.scalarWritten u.d (s.special u.sel)).exchanged u.sel (s.g.sr64 (reg9 u.a))) := by
  obtain ⟨⟨hon, halloc, hsound⟩, hguard⟩ := hruns
  have hexec : exec (.sreadW u) s = execSreadW u s := rfl
  have hallowed : (privSel u.sel && !s.privileged) = false := by
    cases h : privSel u.sel <;> simp [State.privileged, hpriv, h]
  rw [hexec, execSreadW, if_neg hon, hallowed, if_neg (by simp), State.unit_next _ _ _ _ _ hon halloc hguard hsound]
  rfl

theorem fpctlWritten_toNat (a : W64) : (fpctlWritten a).toNat = a.toNat &&& 0x31F := by
  have hlow : a.toNat % 2 ^ 32 &&& 0x31F = a.toNat &&& 0x31F := by
    apply Nat.eq_of_testBit_eq
    intro i
    rcases Nat.lt_or_ge i 32 with hi | hi
    · rw [Nat.testBit_and, Nat.testBit_and, Nat.testBit_mod_two_pow, decide_eq_true hi, Bool.true_and]
    · have hz : Nat.testBit 0x31F i = false := Nat.testBit_lt_two_pow (Nat.lt_of_lt_of_le (by decide) (Nat.pow_le_pow_right (by decide) hi))
      simp [hz]
  simpa [fpctlWritten] using hlow

theorem ctxtabWritten_toNat (a : W64) : ((a >>> 18) <<< 18).toNat = a.toNat / 2 ^ 18 * 2 ^ 18 := by
  have := a.isLt
  rw [BitVec.toNat_shiftLeft, BitVec.toNat_ushiftRight, Nat.shiftRight_eq_div_pow, Nat.shiftLeft_eq]
  omega

theorem State.exchanged_fpctl (s : State) (a : W64) : s.exchanged 0x13#8 a = { s with g := { s.g with fpctl := fpctlWritten a } } :=
  if_pos rfl

theorem State.exchanged_ctxtab (s : State) (a : W64) : s.exchanged 0x80#8 a = { s with ctxtab := (a >>> 18) <<< 18 } :=
  if_neg (by decide)

theorem State.exchanged_supctx (s : State) (a : W64) : s.exchanged 0x82#8 a = { s with supctx := a.extractLsb' 0 10 } :=
  if_neg (by decide)

theorem State.exchanged_ctxctl (s : State) (a : W64) :
    s.exchanged 0x83#8 a = { s with ctxctlQueue := s.ctxctlQueue ++ [⟨a, false⟩] } := if_neg (by decide)

/-- FPCTL keeps its defined bits, CTXTAB its high ones, SUPCTX ten, and CTXCTL takes a command. -/
structure Exchanges (s t : State) (sel : BitVec 8) (a : W64) : Prop where
  fpctl : t.g.fpctl.toNat = if sel = 0x13#8 then a.toNat &&& 0x31F else s.g.fpctl.toNat
  ctxtab : t.ctxtab.toNat = if sel = 0x80#8 then a.toNat / 2 ^ 18 * 2 ^ 18 else s.ctxtab.toNat
  supctx : t.supctx.toNat = if sel = 0x82#8 then a.toNat % 1024 else s.supctx.toNat
  ctxctl : t.ctxctlQueue = if sel = 0x83#8 then s.ctxctlQueue ++ [⟨a, false⟩] else s.ctxctlQueue
  frame : ∃ ct sc q fp, t = { s with ctxtab := ct, supctx := sc, ctxctlQueue := q, g := { s.g with fpctl := fp } }

theorem exchanges_exchanged (s : State) {sel : BitVec 8} (a : W64) (h : writableSel sel = true) :
    Exchanges s (s.exchanged sel a) sel a := by
  simp only [writableSel, Bool.or_eq_true, beq_iff_eq, or_assoc] at h
  rcases h with rfl | rfl | rfl | rfl
  · rw [s.exchanged_fpctl]
    exact ⟨fpctlWritten_toNat a, by simp, by simp, by simp, _, _, _, _, rfl⟩
  · rw [s.exchanged_ctxtab]
    exact ⟨by simp, ctxtabWritten_toNat a, by simp, by simp, _, _, _, s.g.fpctl, rfl⟩
  · rw [s.exchanged_supctx]
    exact ⟨by simp, by simp, by simp, by simp, _, _, _, s.g.fpctl, rfl⟩
  · rw [s.exchanged_ctxctl]
    exact ⟨by simp, by simp, by simp, by simp, _, _, _, s.g.fpctl, rfl⟩

theorem Exchanges.sr64 {s t : State} {sel : BitVec 8} {a : W64} (h : Exchanges s t sel a) (r : Fin 512) : t.g.sr64 r = s.g.sr64 r := by
  obtain ⟨ct, sc, q, fp, rfl⟩ := h.frame
  rfl

theorem Exchanges.lpc {s t : State} {sel : BitVec 8} {a : W64} (h : Exchanges s t sel a) : t.g.lpc = s.g.lpc := by
  obtain ⟨ct, sc, q, fp, rfl⟩ := h.frame
  rfl

/-- Without the right, a privileged selector is an illegal word. -/
theorem exec_privileged {s : State} {i : Instr} (hon : s.power ≠ .off) (hctx : s.t.ctx ≠ s.supctx)
    (hi : (∃ u : URead, i = .sread u ∧ privSel u.sel = true) ∨ ∃ u : UReadW, i = .sreadW u ∧ privSel u.sel = true) :
    exec i s = .next s.illegal := by
  have hnot : s.privileged = false := by simpa [State.privileged] using hctx
  rcases hi with ⟨u, rfl, hsel⟩ | ⟨u, rfl, hsel⟩
  · have hexec : exec (.sread u) s = execSread u s := rfl
    rw [hexec, execSread, if_neg hon, hsel, hnot]
    rfl
  · have hexec : exec (.sreadW u) s = execSreadW u s := rfl
    rw [hexec, execSreadW, if_neg hon, hsel, hnot]
    rfl

theorem specialRegisters : SpecialRegisters := by
  refine ⟨fun s u gr x hgr hx hruns => ?_, fun s u hlo hhi hruns => ?_, fun s u x hruns hx => ?_, fun s i hon hctx hi => ?_⟩
  · have hval : s.special u.sel = BitVec.ofNat 64 x ∧ vectorSel u.sel = false ∧ (privSel u.sel = true → s.t.ctx = s.supctx) := by
      rcases hx with hx | ⟨hx, hctx⟩
      · obtain ⟨hval, hvec, hpriv⟩ := special_of_specials hgr _ hx
        exact ⟨hval, hvec, fun h => absurd (hpriv.symm.trans h) (by decide)⟩
      · obtain ⟨hval, hvec, -⟩ := special_of_privileges s _ hx
        exact ⟨hval, hvec, fun _ => hctx⟩
    obtain ⟨hval, hvec, hpriv⟩ := hval
    exact ⟨_, exec_sread hruns hpriv hvec, fun r => by rw [State.scalarWritten_sr64, hval], rfl, rfl,
      s.advances_scalarWritten _ _, s.frameScalar_scalarWritten _ _⟩
  · have hvec : vectorSel u.sel = true := by simp [vectorSel, hlo, hhi]
    have hpriv : privSel u.sel = false := by simp [privSel]; omega
    exact ⟨_, exec_sread_vector hruns hpriv hvec, laneResult_setV fun l => laneSpecial_eq hlo hhi l, advances_setG rfl, rfl, fun _ => rfl⟩
  · have hval : s.special u.sel = BitVec.ofNat 64 x ∧ writableSel u.sel = true ∧ (privSel u.sel = true → s.t.ctx = s.supctx) := by
      rcases hx with ⟨hsel, rfl⟩ | ⟨hx, hctx, hwritable⟩
      · rw [hsel]
        exact ⟨by simp [State.special], rfl, fun h => absurd h (by decide)⟩
      · exact ⟨(special_of_privileges s _ hx).1, hwritable, fun _ => hctx⟩
    obtain ⟨hval, hwritable, hpriv⟩ := hval
    have hexch := exchanges_exchanged (s.scalarWritten u.d (s.special u.sel)) (s.g.sr64 (reg9 u.a)) hwritable
    refine ⟨_, exec_sreadW hruns hpriv, fun r => by rw [hexch.sr64, State.scalarWritten_sr64, hval], fun l => ?_,
      ⟨hexch.fpctl, hexch.ctxtab, hexch.supctx, hexch.ctxctl⟩, ?_⟩
    · have hadv := s.advances_scalarWritten u.d (s.special u.sel) l
      rwa [← hexch.lpc] at hadv
    · obtain ⟨ct, sc, q, fp, h⟩ := hexch.frame
      rw [h]
      rfl
  · refine exec_privileged hon hctx (hi.imp (fun h => ?_) fun h => ?_) <;> obtain ⟨u, rfl, hlo, hhi⟩ := h <;>
      exact ⟨u, rfl, by simp [privSel, hlo, hhi]⟩

end Sys2Proof.Machine


/-! ## Lookahead windows and split loads (O26) -/

namespace Sys2Proof.Machine
open Claims

theorem getLsbD_maskOf (f : Fin 32 → Bool) (l : Fin 32) : (maskOf f).getLsbD l.val = f l := by
  rw [maskOf, BitVec.getLsbD_ofFnLE]
  simp

/-! ### A window opens -/

theorem State.launch_later (s : State) (o : Op) : s.launch o false = s.withOp o := rfl

/-- The new operation of an issued word stands, and nothing of it is performed. -/
theorem windowOpens_withOp (s : State) (i : Instr) (m : Mask) (la : BitVec 4) (lanes : Vector LaneOp 32) (gops : List W64)
    {addr : Fin 32 → W64} (haddr : ∀ l : Fin 32, m.getLsbD l.val = true → (lanes[l]).addr = addr l) :
    WindowOpens s (s.issued.withOp (s.issued.newOp i m m la.toNat 0#32 lanes gops)) i m la addr := by
  rw [State.issued_withOp]
  generalize ho : s.issued.newOp i m m la.toNat 0#32 lanes gops = o
  refine ⟨?_, fun _ => rfl, fun l => ?_, o, rfl, ?_⟩
  · simp [RegistersKept]
  · rw [State.begun_g]
    exact laneUpd_get ..
  · subst ho
    exact ⟨rfl, rfl, rfl, rfl, rfl, rfl, rfl, haddr⟩

/-- A vector memory word whose lanes pass their checks, and which then only lets its operation stand, opens a window. -/
theorem window_of_vmem {s : State} {i : Instr} {guard : BitVec 7} {check : State → Fin 32 → List (BitVec 8 × W64)}
    {f : Mask → State → State} {la : BitVec 4} {addr : Fin 32 → W64} {lanes : Vector LaneOp 32} {gops : List W64}
    (hruns : Runs s i guard) (hact : s.actLanes guard ≠ 0#32)
    (hcheck : ∀ l : Fin 32, (s.actLanes guard).getLsbD l.val = true → check s l = [])
    (hf : f (s.actLanes guard) s.issued =
      s.issued.withOp (s.issued.newOp i (s.actLanes guard) (s.actLanes guard) la.toNat 0#32 lanes gops))
    (haddr : ∀ l : Fin 32, (s.actLanes guard).getLsbD l.val = true → (lanes[l]).addr = addr l) :
    ∃ t, s.vmem i guard check f = .next t ∧ WindowOpens s t i (s.actLanes guard) la addr :=
  ⟨_, (State.vmem_of_checked hruns hact hcheck).trans (congrArg _ hf), windowOpens_withOp s i _ la lanes gops haddr⟩

/-- The address a lane captures. -/
theorem State.capture_addr (s : State) (m : MAddr) (data : Fin 32 → List Byte) (l : Fin 32) :
    ((s.issued.capture m data)[l]).addr = s.g.ea m l := by
  have hget : (s.issued.capture m data)[l] = laneOpOf (s.issued.g.ea m l) 0#64 (data l) := Vector.getElem_ofFn _
  rw [hget, laneOpOf, Group.ea_congr s.issued_v s.issued_s]

theorem oneCapture_addr (a : W64) (bs : List Byte) (l : Fin 32) : ((oneCapture a bs)[l]).addr = a := by
  simp [oneCapture, laneOpOf]

/-- A lookahead other than 0 defers the word. -/
theorem laZero_false {la : BitVec 4} (h : la ≠ 0#4) : (la == 0#4) = false := beq_eq_false_iff_ne.mpr h

theorem enqLink_aligned {e : W64} {k : Nat} (h : (e.toNat + 8 * k) % 8 = 0) : misaligned (e + BitVec.ofNat 64 (8 * k)) 8 = [] := by
  refine if_pos ?_
  rw [BitVec.toNat_add, BitVec.toNat_ofNat]
  omega

/-! ### Words that act in lanes -/

theorem vectorWindows (s : State) (i : Instr) (guard : BitVec 7) (la : BitVec 4) (addr : Fin 32 → W64) (n : Nat) (sp : Bool)
    (hi : (∃ m : MLoad, (i = .ldv m ∧ sp = false ∧ m.split = false ∨ i = .lds m ∧ sp = true) ∧ guard = m.guard ∧ la = m.la ∧
        addr = s.g.ea m.addr ∧ n = m.size.bytes) ∨
      (∃ m : MAtom, (i = .atom m ∧ sp = false ∨ i = .atoms m ∧ sp = true) ∧ guard = m.guard ∧ la = m.la ∧
        addr = s.g.ea m.addr ∧ n = (if m.wide8 then 8 else 4)) ∨
      (∃ m : MCasw, i = .casw m ∧ sp = false ∧ guard = m.guard ∧ la = m.la ∧ addr = s.g.ea m.addr ∧
        n = (if m.wide32 then 32 else 16)) ∨
      (∃ m : MEnq, i = .enq m ∧ sp = false ∧ guard = m.guard ∧ la = m.la ∧ addr = s.g.ea m.addr ∧ n = 16 ∧
        ∀ l : Fin 32, (s.actLanes guard).getLsbD l.val = true →
          ((s.g.vpair m.e l).toNat + 8 * m.link.toNat) % 8 = 0))
    (hla : la ≠ 0#4) (hruns : Runs s i guard) (hact : s.actLanes guard ≠ 0#32)
    (hok : ∀ l : Fin 32, (s.actLanes guard).getLsbD l.val = true →
      (addr l).toNat % n = 0 ∧ (sp = true → (addr l).toNat + n ≤ 1536 * s.t.rows ∧ (addr l).toNat < 2 ^ 21)) :
    ∃ t, exec i s = .next t ∧ WindowOpens s t i (s.actLanes guard) la addr := by
  have hzero := laZero_false hla
  rcases hi with ⟨m, ⟨rfl, -, hsplit⟩ | ⟨rfl, rfl⟩, rfl, rfl, rfl, rfl⟩ | ⟨m, ⟨rfl, -⟩ | ⟨rfl, rfl⟩, rfl, rfl, rfl, rfl⟩ |
    ⟨m, rfl, -, rfl, rfl, rfl, rfl⟩ | ⟨m, rfl, -, rfl, rfl, rfl, rfl, hlink⟩
  · have hexec : exec (.ldv m) s = execLdv m s := rfl
    rw [hexec, execLdv, hsplit, hzero]
    exact window_of_vmem hruns hact (fun l hl => alignCheck_eq_nil (hok l hl).1) rfl fun l _ => s.capture_addr _ _ l
  · have hexec : exec (.lds m) s = execLds m s := rfl
    rw [hexec, execLds, hzero]
    exact window_of_vmem hruns hact (fun l hl => scrCheck_eq_nil (hok l hl).1 ((hok l hl).2 rfl)) rfl fun l _ => s.capture_addr _ _ l
  · have hexec : exec (.atom m) s = execAtom m s := rfl
    have hsize : 4 * (if m.wide8 then 2 else 1) = if m.wide8 then 8 else 4 := by split <;> rfl
    rw [hexec, execAtom, hzero]
    exact window_of_vmem hruns hact (fun l hl => alignCheck_eq_nil (hsize ▸ (hok l hl).1)) rfl fun l _ => s.capture_addr _ _ l
  · have hexec : exec (.atoms m) s = execAtoms m s := rfl
    have hsize : 4 * (if m.wide8 then 2 else 1) = if m.wide8 then 8 else 4 := by split <;> rfl
    rw [hexec, execAtoms, hzero]
    exact window_of_vmem hruns hact
      (fun l hl => scrCheck_eq_nil (hsize ▸ (hok l hl).1) (hsize ▸ (hok l hl).2 rfl)) rfl fun l _ => s.capture_addr _ _ l
  · have hexec : exec (.casw m) s = execCasw m s := rfl
    have hsize : 4 * (if m.wide32 then 8 else 4) = if m.wide32 then 32 else 16 := by split <;> rfl
    rw [hexec, execCasw, hzero]
    exact window_of_vmem hruns hact (fun l hl => alignCheck_eq_nil (hsize ▸ (hok l hl).1)) rfl fun l _ => s.capture_addr _ _ l
  · have hexec : exec (.enq m) s = execEnq m s := rfl
    rw [hexec, execEnq, hzero]
    refine window_of_vmem hruns hact (fun l hl => ?_) rfl fun l _ => s.capture_addr _ _ l
    rw [enqLink_aligned (hlink l hl), List.append_nil]
    exact if_pos (hok l hl).1

/-- The record of a chain is the same once the word has issued. -/
theorem State.issued_chainRecord (s : State) (e : BitVec 7) : s.issued.g.chainRecord e = s.g.chainRecord e := by
  simp only [Group.chainRecord, Group.sr64, State.issued_s]

theorem chainWindow (s : State) (m : MChld) (hla : m.la ≠ 0#4) (hruns : Runs s (.chld m) m.guard) (hact : s.actLanes m.guard ≠ 0#32)
    (hlegal : chainOk (s.g.sr64 (sreg7 m.e)) m.d s.g.n = true) (hsound : s.g.badChain m.e = none)
    (haligned : ∀ l : Fin 32, (s.actLanes m.guard).getLsbD l.val = true →
      (let r := chainRead (s.g.chainRecord m.e) 0 (s.g.ea m.addr l)
       r.1.toNat % r.2 = 0)) :
    ∃ t, exec (.chld m) s = .next t ∧ WindowOpens s t (.chld m) (s.actLanes m.guard) m.la (s.g.ea m.addr) ∧
      ∀ o ∈ t.g.ops.drop s.g.ops.length, o.gops = s.g.chainRecord m.e := by
  have hexec : exec (.chld m) s = execChld m s := rfl
  rw [hexec, execChld, laZero_false hla]
  rw [if_neg hruns.on, hlegal, hsound, if_neg (by simp)]
  dsimp only
  refine ⟨_, State.vmem_of_checked hruns hact fun l hl => if_pos (haligned l hl),
    windowOpens_withOp s _ _ _ _ _ fun l _ => s.capture_addr _ _ l, fun o ho => ?_⟩
  have hops : s.commit.g.ops.length = s.g.ops.length := by simp
  rw [State.launch_later, State.issued_withOp, State.begun_g, ← hops, List.drop_left, List.mem_singleton] at ho
  rw [ho]
  exact s.issued_chainRecord m.e

/-! ### Words that act once -/

theorem objCheck_eq_nil {s : State} {sp : Bool} {a : W64} {n : Nat} (haligned : a.toNat % n = 0)
    (hinside : sp = true → a.toNat + n ≤ 1536 * s.t.rows ∧ a.toNat < 2 ^ 21) : State.objCheck sp a n s = [] := by
  rw [State.objCheck, misaligned, if_pos haligned]
  cases sp
  · rfl
  · have hin : (decide (a.toNat + n ≤ s.scrSize) && decide (a.toNat < 2 ^ 21)) = true := by
      rw [Bool.and_eq_true, decide_eq_true_iff, decide_eq_true_iff]
      exact hinside rfl
    exact if_pos hin

/-- A scalar memory word whose address passes its checks. -/
theorem State.umem_of_checked {s : State} {i : Instr} {q : BitVec 4} {neg sp : Bool} {addr : W64} {n : Nat} {f : State → State}
    (hruns : RunsU s i q neg) (hcheck : State.objCheck sp addr n s = []) : s.umem i q neg sp addr n f = .next (f s.issued) := by
  obtain ⟨⟨hon, halloc, hsound⟩, hguard⟩ := hruns
  have hpass : failedCheck s.iss.mask (fun _ => misaligned addr n ++ if sp then s.outside addr n else []) = none :=
    failedCheck_of_nil fun _ _ => hcheck
  rw [State.umem, State.unit_next _ _ _ _ _ hon halloc hguard hsound, hpass]
  rfl

theorem onceWindows (s : State) (i : Instr) (m : Mask) (la : BitVec 4) (va : W64) (n : Nat) (sp : Bool)
    (hi : (∃ u : ULoad, i = .sld u ∧ m = s.iss.mask ∧ la = u.la ∧ sp = u.sp ∧ n = u.size.bytes ∧
        va = s.g.sr64 (reg9 u.a) + u.disp.signExtend 64 ∧ RunsU s i u.q u.neg) ∨
      (∃ g : GRead, i = .cread g ∧ m = s.actLanes g.guard ∧ la = g.la ∧ sp = g.sp ∧ n = 8 ∧ va = s.g.sr64 (sreg7 g.a) ∧
        Executes s i m))
    (hla : la ≠ 0#4) (hm : m ≠ 0#32) (haligned : va.toNat % n = 0)
    (hinside : sp = true → va.toNat + n ≤ 1536 * s.t.rows ∧ va.toNat < 2 ^ 21) :
    ∃ t, exec i s = .next t ∧ WindowOpens s t i m la (fun _ => va) := by
  have hzero := laZero_false hla
  have hcheck : State.objCheck sp va n s = [] := objCheck_eq_nil haligned hinside
  rcases hi with ⟨u, rfl, rfl, rfl, rfl, rfl, rfl, hruns⟩ | ⟨g, rfl, rfl, rfl, rfl, rfl, rfl, hon, halloc, hsound⟩
  · have hexec : exec (.sld u) s = execSld u s := rfl
    refine ⟨_, ?_, windowOpens_withOp s _ _ _ (oneCapture _ []) [] fun l _ => oneCapture_addr _ [] l⟩
    rw [hexec, execSld, hzero]
    exact State.umem_of_checked hruns hcheck
  · have hexec : exec (.cread g) s = execCread g s := rfl
    refine ⟨_, ?_, windowOpens_withOp s _ _ _ (oneCapture _ []) [] fun l _ => oneCapture_addr _ [] l⟩
    rw [hexec, execCread, hzero]
    rw [State.gmem_next _ _ _ _ _ hon halloc hm hsound (failedCheck_of_nil fun _ _ => hcheck)]
    rfl

/-! ### Split loads -/

/-- The operation of a split load whose data stand in no lane's L1. -/
def State.splitOp (s : State) (m : MLoad) : Op :=
  s.issued.newOp (.ldv m) (s.actLanes m.guard) (s.actLanes m.guard) m.la.toNat (s.actLanes m.guard)
    (s.issued.capture m.addr fun _ => []) []

/-- It stands beside the operations of before, and its lanes are parked. -/
def State.parkedLoad (s : State) (m : MLoad) : State :=
  State.withOp (s.issued.setG (s.issued.g.setLane (s.actLanes m.guard) .parkedSplit)) (s.splitOp m)

theorem State.parkedLoad_g (s : State) (m : MLoad) : (s.parkedLoad m).g = { s.commit.g with
    lpc := laneUpd s.g.lpc s.iss.mask fun i => s.g.lpc[i] + 1#32
    lane := laneUpd s.g.lane (s.actLanes m.guard) fun _ => .parkedSplit
    ops := s.commit.g.ops ++ [s.splitOp m] } := by
  simp only [State.parkedLoad, State.withOp, State.setG, State.issued, Group.setLane, Group.advance, State.commit_g_lane,
    State.commit_g_lpc]

theorem State.parkedLoad_mem (s : State) (m : MLoad) : (s.parkedLoad m).mem = s.mem := by
  simp only [State.parkedLoad, State.withOp, State.setG, State.issued, State.commit_mem]

theorem State.splitOp_fields (s : State) (m : MLoad) : (s.splitOp m).instr = .ldv m ∧ (s.splitOp m).late = [] ∧
    (s.splitOp m).pend = s.actLanes m.guard ∧ (s.splitOp m).parked = s.actLanes m.guard ∧ (s.splitOp m).id = s.nextId + 1 := by
  simp only [State.splitOp, State.newOp, State.issued, State.setG, State.commit_nextId, and_self]

/-- Going on with an operation for no lane changes nothing of the group. -/
theorem State.progress_none {s : State} {o : Op} {m : MLoad} (hi : o.instr = .ldv m) (hlate : o.late = []) (hpend : o.pend ≠ 0#32)
    (hopen : ∀ x ∈ s.g.ops, x.isOpen = true) (hself : ∀ x ∈ s.g.ops, x.id = o.id → x = o) :
    (s.progress o 0#32).g = s.g ∧ (s.progress o 0#32).mem = s.mem := by
  have hfailed : o.failed = false := by simp [Op.failed, hpend]
  have hnote : s.noteFailure o = o := by simp [State.noteFailure, hfailed]
  have hsame : updWhere (fun x => x.id == o.id) (fun _ => o) s.g.ops = s.g.ops := by
    rw [updWhere, List.map_congr_left (g := id) fun x hx => ?_, List.map_id]
    by_cases h : x.id = o.id
    · simp [hself x hx h]
    · simp [h]
  have hkeep : s.g.ops.filter Op.isOpen = s.g.ops := List.filter_eq_self.mpr hopen
  have hput : (s.putOp o).g = s.g ∧ (s.putOp o).mem = s.mem := by
    unfold State.putOp
    rw [hnote]
    dsimp only
    rw [hsame, hkeep]
    split <;> exact ⟨rfl, rfl⟩
  have htry : o.toTry 0#32 = [] := by
    simp only [Op.toTry, hi, Instr.isOnce, Instr.isRmw, BitVec.and_zero]
    rfl
  unfold State.progress
  simp only [hi, Instr.isPosted]
  split
  · exact ⟨rfl, rfl⟩
  · rw [if_neg (by simp), State.attemptLanes, State.writeLate_of_none hlate]
    dsimp only
    rw [htry]
    exact hput

/-- The L1 does not hold the data of a lane. -/
theorem absent_of_held {s : State} {m : MLoad} {l : Fin 32} {pa : Nat} (hheld : Held s (s.g.ea m.addr l) .load pa)
    (haway : s.inL1 s.t.core pa m.size.bytes (dieUp m.acc.scope) = false) : s.issued.present m l = false := by
  have htrans := translate_of_held (held_issue s s.issued.g s.issued.iss s.issued.nextId hheld)
  rw [State.present, Group.ea_congr s.issued_v s.issued_s]
  have hissued : s.issued = { s with g := s.issued.g, iss := s.issued.iss, nextId := s.issued.nextId } := rfl
  rw [hissued, htrans]
  exact haway

theorem exec_split {s : State} {m : MLoad} (hsplit : m.split = true) (hruns : Runs s (.ldv m) m.guard)
    (hact : s.actLanes m.guard ≠ 0#32)
    (haligned : ∀ l : Fin 32, (s.actLanes m.guard).getLsbD l.val = true → (s.g.ea m.addr l).toNat % m.size.bytes = 0)
    (haway : ∀ l : Fin 32, (s.actLanes m.guard).getLsbD l.val = true → s.issued.present m l = false) :
    exec (.ldv m) s = .next (if m.la == 0#4 then
      (s.parkedLoad m).progress (s.splitOp m) 0#32
      else s.parkedLoad m) := by
  have hhere : (s.actLanes m.guard &&& maskOf fun l => s.issued.present m l) = 0#32 := by
    refine BitVec.eq_of_getLsbD_eq fun i hi => ?_
    rw [BitVec.getLsbD_and, getLsbD_maskOf _ ⟨i, hi⟩, BitVec.getLsbD_zero]
    cases hbit : (s.actLanes m.guard).getLsbD i
    · rfl
    · exact haway ⟨i, hi⟩ hbit
  have hexec : exec (.ldv m) s = execLdv m s := rfl
  have hpark : s.actLanes m.guard &&& ~~~(0#32) = s.actLanes m.guard := BitVec.and_allOnes
  rw [hexec, execLdv, State.vmem_of_checked hruns hact fun l hl => alignCheck_eq_nil (haligned l hl)]
  dsimp only
  rw [if_pos hsplit, hhere, hpark]
  rfl

/-- The group and memory are those of the state with its parked load. -/
theorem split_parks {s : State} {m : MLoad} (hsplit : m.split = true) (hruns : Runs s (.ldv m) m.guard)
    (hact : s.actLanes m.guard ≠ 0#32) (hopen : ∀ o ∈ s.g.ops, o.isOpen = true ∧ o.id ≤ s.nextId)
    (haligned : ∀ l : Fin 32, (s.actLanes m.guard).getLsbD l.val = true → (s.g.ea m.addr l).toNat % m.size.bytes = 0)
    (haway : ∀ l : Fin 32, (s.actLanes m.guard).getLsbD l.val = true → s.issued.present m l = false) :
    ∃ t, exec (.ldv m) s = .next t ∧ t.g = (s.parkedLoad m).g ∧ t.mem = (s.parkedLoad m).mem := by
  obtain ⟨hinstr, hlate, hpend, -, hid⟩ := s.splitOp_fields m
  have hops : ∀ x ∈ (s.parkedLoad m).g.ops, x.isOpen = true ∧ (x.id = (s.splitOp m).id → x = s.splitOp m) := by
    intro x hx
    rw [State.parkedLoad_g, List.mem_append, List.mem_singleton] at hx
    rcases hx with hx | rfl
    · rw [State.commit_g_ops] at hx
      obtain ⟨y, hy, rfl⟩ := List.mem_map.mp hx
      obtain ⟨hyopen, hyid⟩ := hopen y hy
      refine ⟨hyopen, fun h => ?_⟩
      have hne : y.id = s.nextId + 1 := h.trans hid
      omega
    · exact ⟨by simp [Op.isOpen, hpend, hact], fun _ => rfl⟩
  have hne : (s.splitOp m).pend ≠ 0#32 := by rwa [hpend]
  rw [exec_split hsplit hruns hact haligned haway]
  split
  · exact ⟨_, rfl, State.progress_none hinstr hlate hne (fun x hx => (hops x hx).1) fun x hx => (hops x hx).2⟩
  · exact ⟨_, rfl, rfl, rfl⟩

theorem splitParks (s : State) (m : MLoad) (hsplit : m.split = true) (hruns : Runs s (.ldv m) m.guard)
    (hact : s.actLanes m.guard ≠ 0#32) (hopen : ∀ o ∈ s.g.ops, o.isOpen = true ∧ o.id ≤ s.nextId)
    (hok : ∀ l : Fin 32, (s.actLanes m.guard).getLsbD l.val = true →
      (s.g.ea m.addr l).toNat % m.size.bytes = 0 ∧
      ∃ pa, Held s (s.g.ea m.addr l) .load pa ∧ s.inL1 s.t.core pa m.size.bytes (dieUp m.acc.scope) = false) :
    ∃ t, exec (.ldv m) s = .next t ∧ RegistersKept s t ∧ SameMemory s t ∧ Advances s t ∧
      (∀ l : Fin 32, t.g.lane[l] =
        if (s.actLanes m.guard).getLsbD l.val = true then .parkedSplit else s.g.lane[l]) ∧
      ∃ o : Op, t.g.ops = s.commit.g.ops ++ [o] ∧ o.instr = .ldv m ∧ o.pend = s.actLanes m.guard ∧
        o.parked = s.actLanes m.guard := by
  obtain ⟨t, hexec, hg, hmem⟩ := split_parks hsplit hruns hact hopen (fun l hl => (hok l hl).1) fun l hl => by
    obtain ⟨-, pa, hheld, haway⟩ := hok l hl
    exact absent_of_held hheld haway
  obtain ⟨hinstr, -, hpend, hparked, -⟩ := s.splitOp_fields m
  rw [State.parkedLoad_g] at hg
  rw [State.parkedLoad_mem] at hmem
  refine ⟨t, hexec, ?_, fun a => by rw [hmem], fun l => ?_, fun l => ?_, s.splitOp m, by rw [hg], hinstr, hpend, hparked⟩
  · rw [RegistersKept, hg]
    simp
  · rw [hg]
    exact laneUpd_get ..
  · rw [hg]
    exact laneUpd_get ..

theorem windowsOpen : WindowsOpen := ⟨vectorWindows, chainWindow, onceWindows, splitParks⟩

/-- Settles O26, word by word: each selector from the table of values, each window from the operation that the issued word leaves. -/
theorem specialRegistersAndWindows : Obligations.SpecialRegistersAndWindows := ⟨specialRegisters, windowsOpen⟩

end Sys2Proof.Machine


/-! ## Accesses land (O35)

An event about a group, with no group current, takes the group, goes on with one of its operations, and puts the group back. -/

namespace Sys2Proof.Machine
open Claims

/-! ### Events about a group -/

theorem storeFocus_of_at {s f : State} {r : GroupRef} (h : At s r f) : s.storeFocus = s := by
  have hmap : (s.teams.map fun t => if t.tid = s.t.tid then
      { s.t with groups := s.t.groups.map fun g => if g.id = s.g.id then s.g else g } else t) = s.teams := by
    rw [List.map_congr_left (g := id) fun t ht => ?_, List.map_id]
    rw [if_neg fun heq => (h.teams t ht).1 (heq.trans h.idle)]
    rfl
  have hkeep : (s.teams.filter fun t => !t.gone) = s.teams :=
    List.filter_eq_self.mpr fun t ht => by simp [(h.teams t ht).2]
  unfold State.storeFocus
  rw [hmap, hkeep]

/-- The group taken is one of a resident team, and beside it nothing differs. -/
theorem focus_of_at {s f : State} {r : GroupRef} (h : At s r f) : f.t ∈ s.teams ∧ f = { s with t := f.t, g := f.g } := by
  have hload := h.load
  unfold State.loadFocus at hload
  split at hload
  · cases hload
  · next t ht =>
    obtain ⟨g, -, rfl⟩ := Option.map_eq_some_iff.mp hload
    exact ⟨List.mem_of_find?_eq_some ht, rfl⟩

/-- No group is current once the group is put back, as no team has the number 0. -/
theorem loadFocus_of_at {s f u : State} {r : GroupRef} (h : At s r f) (hteams : u.teams = f.teams) (htid : u.t.tid = f.t.tid) :
    u.storeFocus.loadFocus ⟨s.t.tid, s.g.id⟩ = none := by
  obtain ⟨hfocus, hframe⟩ := focus_of_at h
  have hsame : f.teams = s.teams := by rw [hframe]
  have hnone : (u.storeFocus.teams.find? fun t => t.tid = s.t.tid) = none := by
    rw [List.find?_eq_none]
    intro t ht
    obtain ⟨x, hx, rfl⟩ := List.mem_map.mp (List.mem_of_mem_filter ht)
    rw [hteams, hsame] at hx
    have hx0 := (h.teams x hx).1
    have hu0 : u.t.tid ≠ 0 := htid ▸ (h.teams _ hfocus).1
    rw [h.idle]
    split <;> simpa
  unfold State.loadFocus
  rw [hnone]

/-- An event about a group, with no group current. -/
theorem State.withGroup_of_at {s f u : State} {r : GroupRef} {op : State → State} (h : At s r f) (hu : op f = u)
    (hteams : u.teams = f.teams) (htid : u.t.tid = f.t.tid) : s.ev (fun s => s.withGroup r op) = .next u.settle := by
  subst hu
  unfold State.ev
  rw [if_neg h.on]
  exact congrArg _ (State.withGroup_idle s f r op (storeFocus_of_at h) h.load (loadFocus_of_at h hteams htid))

/-! ### An operation goes on -/

theorem Group.opOf_of_unique {g : Group} {o : Op} (hmine : o ∈ g.ops) (hunique : ∀ x ∈ g.ops, x.id = o.id → x = o) :
    g.opOf o.id = some o := by
  cases hfind : g.ops.find? fun x => x.id = o.id with
  | none => simpa using List.find?_eq_none.mp hfind o hmine
  | some x =>
    have hid : x.id = o.id := by simpa using List.find?_some hfind
    rw [Group.opOf, hfind, hunique x (List.mem_of_find?_eq_some hfind) hid]

/-- An operation that nothing of its group holds back has its lanes attempted. -/
theorem State.progress_of_gate {s : State} {o : Op} (hgate : s.gate o = true) (hposted : o.instr.isPosted = false)
    (hacp : ∀ a, o.instr ≠ .acp a) (ms : Mask) : s.progress o ms = s.attemptLanes o ms := by
  unfold State.progress
  split
  · next a h => exact absurd h (hacp a)
  · simp [hgate, hposted]

/-- LONG_LATENCY_COMPLETE and SPLIT_DATA_RETURN attempt lanes of the operation. -/
theorem exec_complete {s f u : State} {r : GroupRef} {o : Op} {ms : Mask} {e : Instr} (hat : At s r f)
    (he : e = .splitDataReturn r o.id ms ∨ e = .longLatencyComplete r o.id ms) (hmine : o ∈ f.g.ops)
    (hunique : ∀ x ∈ f.g.ops, x.id = o.id → x = o) (hgate : f.gate o = true) (hposted : o.instr.isPosted = false)
    (hacp : ∀ a, o.instr ≠ .acp a) (hu : f.attemptLanes o ms = u) (hteams : u.teams = f.teams) (htid : u.t.tid = f.t.tid) :
    exec e s = .next u.settle := by
  have hexec : exec e s = s.ev fun s => s.complete r o.id ms := by rcases he with rfl | rfl <;> rfl
  rw [hexec]
  refine State.withGroup_of_at hat ?_ hteams htid
  rw [Group.opOf_of_unique hmine hunique]
  exact (State.progress_of_gate hgate hposted hacp ms).trans hu

/-- An operation without a failed lane replaces itself, and goes once nothing of it is open. -/
theorem State.putOp_of_sound {s : State} {o : Op} (hfails : o.fails = []) (hdrain : s.g.draining = false) :
    s.putOp o = s.setG { s.g with ops := (s.g.ops.map fun x => if x.id = o.id then o else x).filter Op.isOpen } := by
  have hfailed : o.failed = false := by simp [Op.failed, hfails]
  have hnote : s.noteFailure o = o := by simp [State.noteFailure, hfailed]
  have hupd : updWhere (fun x => x.id == o.id) (fun _ => o) s.g.ops = s.g.ops.map fun x => if x.id = o.id then o else x :=
    List.map_congr_left fun x _ => by simp
  unfold State.putOp
  rw [hnote]
  dsimp only
  rw [hupd, if_neg]
  · rfl
  · have hdrain' : ({ s.g with ops := (s.g.ops.map fun x => if x.id = o.id then o else x).filter Op.isOpen } : Group).draining =
      false := hdrain
    simp only [hfailed, hdrain', Bool.or_self, Bool.false_eq_true, not_false_eq_true]

/-- A closed operation among open ones is the only one to go. -/
theorem filter_isOpen_of_closed {ops : List Op} {o : Op} {i : Nat} (hclosed : o.isOpen = false) (hopen : ∀ x ∈ ops, x.isOpen = true) :
    (ops.map fun x => if x.id = i then o else x).filter Op.isOpen = ops.filter fun x => x.id ≠ i := by
  induction ops with
  | nil => rfl
  | cons x xs ih =>
    have hrest := ih fun y hy => hopen y (List.mem_cons_of_mem _ hy)
    rw [List.map_cons]
    by_cases hx : x.id = i
    · rw [if_pos hx, List.filter_cons_of_neg (by simp [hclosed]), List.filter_cons_of_neg (by simp [hx]), hrest]
    · rw [if_neg hx, List.filter_cons_of_pos (hopen x List.mem_cons_self), List.filter_cons_of_pos (by simp [hx]), hrest]

theorem Op.isOpen_of_done {o : Op} (hpend : o.pend = 0#32) (hfails : o.fails = []) (hlate : o.late = []) : o.isOpen = false := by
  simp [Op.isOpen, hpend, hfails, hlate]

/-! ### A FENCE ends -/

/-- Nothing has to be performed where none of the numbers is a posted store's. -/
theorem State.drainList_of_performed {s : State} {ids : List Nat} (h : ∀ x ∈ s.posted, x.id ∉ ids) : s.drainList ids = (s, true) := by
  induction ids with
  | nil => rfl
  | cons i r ih =>
    have hnone : (s.posted.find? fun e => e.id = i) = none := by
      rw [List.find?_eq_none]
      intro e he heq
      exact h e he (by simp [← of_decide_eq_true heq])
    rw [State.drainList, hnone]
    exact ih fun x hx hr => h x hx (List.mem_cons_of_mem _ hr)

theorem fenceEnds (s f : State) (r : GroupRef) (sc : Scope) (ids : List Nat) (hat : At s r f) (hfence : f.g.fence = some (sc, ids))
    (hops : ∀ o ∈ f.g.ops, o.instr.isLongFloat = true ∨ o.instr.isMma = true ∨ o.instr.isPrefetch = true)
    (hdrain : f.g.draining = false) (hlog : f.g.log = none) (hrec : cellUp sc = true → f.recalls = [])
    (hids : ∀ x ∈ f.posted, x.id ∉ ids) :
    ∃ t : State, exec (.fenceComplete r) s = .next t.settle ∧
      t = { f with l1 := t.l1, g := { f.g with fence := none, old := [] } } ∧
      ∀ w, w ∈ t.l1 ↔ w ∈ f.l1 ∧ (dieUp sc = true → w.core = f.t.core → w.reg = true) := by
  have hdrained : (if dieUp sc then f.drainList ids else (f, true)) = (f, true) := by
    split
    · exact State.drainList_of_performed hids
    · rfl
  have hnone : (f.g.ops.any fun o => !o.instr.isLongFloat && !o.instr.isMma && !o.instr.isPrefetch &&
      (if dieUp sc || !o.instr.isPosted then o.isOpen else o.unbound)) = false := by
    rw [List.any_eq_false]
    intro o ho
    rcases hops o ho with h | h | h <;> simp [h]
  have hquiet : (cellUp sc && !f.recalls.isEmpty) = false := by
    cases hc : cellUp sc with
    | false => rfl
    | true => simp [hrec hc]
  have hexec : exec (.fenceComplete r) s = execFenceComplete r s := rfl
  have hwhole : exec (.fenceComplete r) s = .next (State.settle
      (if dieUp sc then { f with
          l1 := f.l1.filter fun w => w.core != f.t.core || w.reg, g := { f.g with fence := none, old := [] } }
        else { f with g := { f.g with fence := none, old := [] } })) := by
    rw [hexec, execFenceComplete, State.evGroup]
    refine State.withGroup_of_at hat ?_ (by split <;> rfl) (by split <;> rfl)
    rw [hfence]
    dsimp only
    rw [hdrained]
    dsimp only
    rw [if_pos (by rw [hnone, hlog, hquiet]; rfl), if_neg]
    · rfl
    · split <;> exact ne_true_of_eq_false hdrain
  rw [hwhole]
  refine ⟨_, rfl, ?_, fun w => ?_⟩
  · split <;> rfl
  · split
    · next hd => simp [hd, List.mem_filter]; tauto
    · next hd => simp [hd]

end Sys2Proof.Machine


/-! ## What a load reads (O35)

A translation that the core holds and a line that nothing stands in front of give the bytes at once; a fill of the L1 shows the
core the bytes that it saw before. -/

namespace Sys2Proof.Machine
open Claims

/-! ### Fills of the L1 -/

/-- What is looked for is found alike where it is kept. -/
theorem find?_filter_of_imp {α : Type} {p q : α → Bool} {l : List α} (h : ∀ x, q x = true → p x = true) :
    (l.filter p).find? q = l.find? q := by
  rw [List.find?_filter]
  congr 1
  funext x
  cases hq : q x
  · simp
  · simp [h x hq]

/-- Only lines other than the one that comes in make room. -/
theorem State.roomL1_keeps (s : State) (core line : Nat) : ∃ ws, s.roomL1 core line = { s with l1 := ws } ∧
    ∀ word, lineOf (4 * word) = line →
      (ws.find? fun w => w.core = core ∧ w.word = word) = s.l1.find? fun w => w.core = core ∧ w.word = word := by
  unfold State.roomL1
  dsimp only
  split
  · exact ⟨_, rfl, fun _ _ => rfl⟩
  · next hfull =>
    refine ⟨_, rfl, fun word hword => ?_⟩
    generalize hls : ((s.l1.filter fun w => w.core == core).map fun w => lineOf (4 * w.word)).dedup.filter (· ≠ line) = ls at hfull ⊢
    have hlt : (s.freeW 7).toNat % ls.length < ls.length := Nat.mod_lt _ (by omega)
    have hout : ls[(s.freeW 7).toNat % ls.length]?.getD 0 ≠ line := by
      rw [List.getElem?_eq_getElem hlt, Option.getD_some]
      have hmem := List.getElem_mem hlt
      generalize ls[(s.freeW 7).toNat % ls.length] = x at hmem ⊢
      rw [← hls] at hmem
      simpa using (List.mem_filter.mp hmem).2
    generalize ls[(s.freeW 7).toNat % ls.length]?.getD 0 = out at hout ⊢
    exact find?_filter_of_imp fun w hw => by
      obtain ⟨-, rfl⟩ := of_decide_eq_true hw
      rw [hword]
      simpa using .inr hout.symm

/-- A byte of the value of a word at its home. -/
theorem State.homeWord_byte (s : State) (a : Nat) : (s.homeWord (wordOf a)).extractLsb' (8 * (a % 4)) 8 = s.homeByte a := by
  have hlow : a % 4 < 4 := Nat.mod_lt _ (by decide)
  have hlen : (s.homeBytes (4 * wordOf a) 4).length = 4 := s.length_homeBytes _ 4
  have hbyte : (toBytes 4 (ofBytes (s.homeBytes (4 * wordOf a) 4)))[a % 4]? = some (s.homeByte a) := by
    have hback := toBytes_ofBytes (s.homeBytes (4 * wordOf a) 4)
    rw [hlen] at hback
    rw [hback, State.homeBytes, List.getElem?_map, List.getElem?_range hlow, Option.map_some]
    congr 2
    simp only [wordOf]
    omega
  rw [List.getElem?_eq_getElem (by rwa [length_toBytes]), getElem_toBytes] at hbyte
  rw [← Option.some.inj hbyte]
  refine BitVec.eq_of_toNat_eq ?_
  have hlt : ofBytes (s.homeBytes (4 * wordOf a) 4) < 2 ^ 32 := (ofBytes_lt _).trans_eq (by rw [hlen]; norm_num)
  rw [BitVec.extractLsb'_toNat, State.homeWord, BitVec.toNat_ofNat, Nat.mod_eq_of_lt hlt, Nat.shiftRight_eq_div_pow,
    BitVec.toNat_ofNat, show (256 : Nat) = 2 ^ 8 from rfl, ← Nat.pow_mul]

/-- Neither the L1 nor the posted stores have a part in the key of an address, nor the L1 in what its home reads. -/
theorem State.keyOf_of_cores {s t : State} (a : Nat) (h : ∃ ws ps, t = { s with l1 := ws, posted := ps }) : t.keyOf a = s.keyOf a := by
  obtain ⟨hfcb, hregion, hctx, hkey, hraw⟩ : t.fcb = s.fcb ∧ t.inRegion a = s.inRegion a ∧ t.areaCtx a = s.areaCtx a ∧
      t.ctxKey = s.ctxKey ∧ t.rdRaw = s.rdRaw := by
    obtain ⟨ws, ps, rfl⟩ := h
    exact ⟨rfl, rfl, rfl, rfl, rfl⟩
  simp only [State.keyOf, hraw, hfcb, hregion, hctx, hkey]

theorem State.homeByte_of_l1 {s t : State} (a : Nat) (h : ∃ ws, t = { s with l1 := ws }) : t.homeByte a = s.homeByte a := by
  have hkey := State.keyOf_of_cores a (h.imp fun _ h => ⟨s.posted, h⟩)
  obtain ⟨hunder, htile, hhaze, hfree, hhere, hmem⟩ : t.byteUnder = s.byteUnder ∧ t.tileAt a = s.tileAt a ∧
      t.hazeByte a = s.hazeByte a ∧ t.freeW a = s.freeW a ∧ t.here a = s.here a ∧ t.mem = s.mem := by
    obtain ⟨ws, rfl⟩ := h
    exact ⟨rfl, rfl, rfl, rfl, rfl, rfl⟩
  simp only [State.homeByte, State.heldByte, hkey, hunder, htile, hhaze, hfree, hhere, hmem]

theorem State.homeWord_of_l1 {s t : State} (word : Nat) (h : ∃ ws, t = { s with l1 := ws }) : t.homeWord word = s.homeWord word := by
  have hbytes : t.homeBytes (4 * word) 4 = s.homeBytes (4 * word) 4 :=
    List.map_congr_left fun k _ => State.homeByte_of_l1 _ h
  rw [State.homeWord, hbytes, ← State.homeWord]

theorem State.fill_shape (s : State) (core pa : Nat) : ∃ ws, s.fill core pa = { s with l1 := ws } := by
  obtain ⟨ws, hroom, -⟩ := s.roomL1_keeps core (lineOf pa)
  unfold State.fill
  dsimp only
  rw [hroom]
  exact ⟨_, rfl⟩

/-- The core sees the bytes of a line as before when the line comes into its L1. -/
theorem State.coreByte_fill (s : State) (core pa a : Nat) (h : lineOf a = lineOf pa) :
    (s.fill core pa).coreByte core a = s.coreByte core a := by
  obtain ⟨ws, hroom, hkeep⟩ := s.roomL1_keeps core (lineOf pa)
  have hword : lineOf (4 * wordOf a) = lineOf pa := by
    rw [← h]
    simp only [lineOf, wordOf]
    omega
  have hin : wordOf a ∈ (List.range 32).map fun k => lineOf pa / 4 + k := by
    refine List.mem_map.mpr ⟨wordOf a - lineOf pa / 4, List.mem_range.mpr ?_, ?_⟩ <;> rw [← h] <;> simp only [lineOf, wordOf] <;> omega
  generalize hls : ((List.range 32).map fun k => lineOf pa / 4 + k) = ls at hin
  have hl1 : (s.fill core pa).l1 =
      ((ls.filter fun w => (({ s with l1 := ws } : State).l1Word core w).isNone).map fun w =>
        ({ core := core, word := w, val := ({ s with l1 := ws } : State).homeWord w, reg := false
           poison := ({ s with l1 := ws } : State).poisoned (4 * w) } : L1Word)) ++ ws := by
    unfold State.fill
    rw [hroom, ← hls]
  have hposted : (s.fill core pa).postedByte core a = s.postedByte core a := by
    obtain ⟨l1, h⟩ := s.fill_shape core pa
    rw [h]
    rfl
  have hhome := State.homeByte_of_l1 a (s.fill_shape core pa)
  have hold : ({ s with l1 := ws } : State).l1Word core (wordOf a) = s.l1Word core (wordOf a) := hkeep _ hword
  unfold State.coreByte
  rw [hposted]
  cases s.postedByte core a with
  | some b => rfl
  | none =>
    dsimp only
    cases hfind : s.l1Word core (wordOf a) with
    | some w =>
      have hnew : (s.fill core pa).l1Word core (wordOf a) = some w := by
        rw [State.l1Word, hl1, List.find?_append, Option.or_eq_some_iff]
        refine .inr ⟨?_, hold.trans hfind⟩
        rw [List.find?_eq_none]
        intro x hx hmatch
        obtain ⟨y, hy, rfl⟩ := List.mem_map.mp hx
        obtain ⟨-, rfl⟩ := of_decide_eq_true hmatch
        have hyabsent := (List.mem_filter.mp hy).2
        rw [hold, hfind] at hyabsent
        cases hyabsent
      rw [hnew]
    | none =>
      have hmem : ({ core := core, word := wordOf a, val := ({ s with l1 := ws } : State).homeWord (wordOf a), reg := false
                     poison := ({ s with l1 := ws } : State).poisoned (4 * wordOf a) } : L1Word) ∈ (s.fill core pa).l1 := by
        rw [hl1]
        refine List.mem_append_left _ (List.mem_map.mpr ⟨wordOf a, List.mem_filter.mpr ⟨hin, ?_⟩, rfl⟩)
        rw [hold, hfind]
        rfl
      cases hnew : (s.fill core pa).l1Word core (wordOf a) with
      | none => exact absurd (List.find?_eq_none.mp hnew _ hmem) (by simp)
      | some w =>
        unfold State.l1Word at hnew
        have hmatch : w.core = core ∧ w.word = wordOf a := by simpa using List.find?_some hnew
        have hw := List.mem_of_find?_eq_some hnew
        rw [hl1] at hw
        rcases List.mem_append.mp hw with hw | hw
        · obtain ⟨y, -, rfl⟩ := List.mem_map.mp hw
          obtain ⟨-, rfl⟩ := hmatch
          dsimp only
          rw [State.homeWord_of_l1 _ ⟨ws, rfl⟩]
          exact s.homeWord_byte a
        · exact absurd (List.find?_eq_none.mp (hold.trans hfind) w hw) (by simp [hmatch])

theorem State.refresh_shape (s : State) (core pa n : Nat) : ∃ ws, s.refresh core pa n = { s with l1 := ws } := by
  unfold State.refresh State.dropCopies
  exact State.fill_shape _ core pa

/-! ### Reads -/

theorem State.ended_shape (s : State) (acc : Acc) : ∃ ws old, s.ended acc = { s with l1 := ws, g := { s.g with old := old } } := by
  unfold State.ended
  split
  · next k sc =>
    obtain ⟨ws, old, h, -⟩ := s.acquired_shape k.acquires sc
    exact ⟨ws, old, h⟩
  · exact ⟨_, _, rfl⟩

/-- A read beside its bytes changes no more than the L1 and what weak reads of the scratchpad remember. -/
def ReadsOk (s : State) (x : Got) (n num : Nat) : Prop :=
  ∃ ws old bs, x = .bytes { s with l1 := ws, g := { s.g with old := old } } bs ∧ bs.length = n ∧ ofBytes bs = num

theorem readsOk_of_ended {s t : State} {n num : Nat} {bs : List Byte} (acc : Acc) (h : ∃ ws, t = { s with l1 := ws })
    (hlen : bs.length = n) (hnum : ofBytes bs = num) : ReadsOk s (.bytes (t.ended acc) bs) n num := by
  obtain ⟨ws, rfl⟩ := h
  obtain ⟨ws', old, hended⟩ := State.ended_shape { s with l1 := ws } acc
  exact ⟨ws', old, bs, by rw [hended], hlen, hnum⟩

/-- A load of bytes that nothing stands in front of reads what its access sees. -/
theorem State.readVa_of_held {s : State} {va : W64} {pa n : Nat} (acc : Acc) (hheld : Held s va .load pa) (hset : Settled s pa n)
    (hsound : s.corePoison s.t.core pa n = false) : ReadsOk s (s.readVa va n acc) n (seen s acc pa n) := by
  have hw := Writable.ofSettled hset
  have hfilled : ((List.range n).map fun k => (s.fill s.t.core pa).coreByte (s.fill s.t.core pa).t.core (pa + k)) =
      (List.range n).map fun k => s.coreByte s.t.core (pa + k) := by
    have hcore : (s.fill s.t.core pa).t.core = s.t.core := by
      obtain ⟨ws, h⟩ := s.fill_shape s.t.core pa
      rw [h]
    rw [hcore]
    exact List.map_congr_left fun k hk => s.coreByte_fill _ _ _ (hset.line k (List.mem_range.mp hk))
  have hown (t : State) (ht : ∃ ws, t = { s with l1 := ws }) : ReadsOk s
      (.bytes (t.ended acc) ((List.range n).map fun k => s.coreByte s.t.core (pa + k))) n
      (ofBytes ((List.range n).map fun k => s.coreByte s.t.core (pa + k))) :=
    readsOk_of_ended acc ht (by simp) rfl
  unfold State.readVa
  rw [translate_of_held hheld]
  dsimp only
  rw [State.drainBytes_of_landed hw.landed, hw.readyAs_eq, hw.readyAs_eq]
  simp only [hsound, hfilled, Bool.false_eq_true, if_false, Bool.not_true]
  cases acc with
  | wk =>
    simp only [if_true, seen]
    split
    · exact hown s ⟨_, rfl⟩
    · exact hown _ (s.fill_shape ..)
  | strong k sc =>
    cases hdie : dieUp sc with
    | false =>
      simp only [Bool.not_false, if_true, seen, hdie, Bool.false_eq_true, if_false]
      split
      · exact hown s ⟨_, rfl⟩
      · exact hown _ (s.fill_shape ..)
    | true =>
      have hclean : s.poisoned pa = false := hw.sound
      simp only [Bool.not_true, Bool.false_eq_true, if_false, seen, hdie, if_true, hclean]
      exact readsOk_of_ended _ (s.refresh_shape _ _ _) (s.length_homeBytes pa n) hw.ofBytes_homeBytes

end Sys2Proof.Machine


/-! ## Loads bind (O35) -/

namespace Sys2Proof.Machine
open Claims

/-! ### Registers of a load -/

/-- A run of registers of one lane, from `d` on. -/
def Group.putWords (g : Group) (l : Fin 32) (d : BitVec 7) (n : Nat) (w : Nat → W32) : Group :=
  (List.range n).foldl (fun g k => g.setV (oneLane l) (regUp d k) fun _ => w k) g

theorem Group.putWords_vr_same (g : Group) (l : Fin 32) (d : BitVec 7) {n k : Nat} (w : Nat → W32) (hn : n ≤ 128) (hk : k < n) :
    (g.putWords l d n w).vr (regUp d k) l = w k := (Group.foldl_setV_vr d l w n hn g 0 0).1 k hk

theorem Group.putWords_vr_other (g : Group) (l : Fin 32) (d : BitVec 7) {n : Nat} (w : Nat → W32) (hn : n ≤ 128) {q : Fin 128}
    {j : Fin 32} (h : ¬ (j = l ∧ ∃ k, k < n ∧ q = regUp d k)) : (g.putWords l d n w).vr q j = g.vr q j :=
  (Group.foldl_setV_vr d l w n hn g q j).2 h

theorem Group.putWords_shape (g : Group) (l : Fin 32) (d : BitVec 7) (n : Nat) (w : Nat → W32) :
    ∃ v watch vbad, g.putWords l d n w = { g with v := v, watch := watch, vbad := vbad } :=
  Group.foldl_setV_shape d l w _ g

theorem Group.putWords_one (g : Group) (l : Fin 32) (d : BitVec 7) (w : Nat → W32) :
    g.putWords l d 1 w = g.setV (oneLane l) (reg7 d) fun _ => w 0 := by
  have hreg : regUp d 0 = reg7 d := Fin.ext (Nat.mod_eq_of_lt d.isLt)
  rw [Group.putWords, ← hreg]
  rfl

theorem regs_le_four (z : Size) : z.regs ≤ 4 := by cases z <;> decide

theorem one_lt_regs {z : Size} (h : z.regs ≠ 1) : 1 < z.regs := by
  revert h
  cases z <;> decide

/-- A word of the bytes of a number. -/
theorem word_of_bytes (bs : List Byte) (k : Nat) :
    BitVec.ofNat 32 (ofBytes ((bs.drop (4 * k)).take 4)) = BitVec.ofNat 32 (ofBytes bs / 2 ^ (32 * k)) := by
  rw [ofBytes_take, ofBytes_drop, ofNat32_mod, show (256 : Nat) = 2 ^ 8 from rfl, ← Nat.pow_mul, show 8 * (4 * k) = 32 * k by omega]

/-- The registers of a load receive the words of its number (R219). -/
theorem Group.putLoad_eq (g : Group) (l : Fin 32) (d : BitVec 7) (size : Size) (sx : Bool) (bs : List Byte) :
    g.putLoad l d size sx bs = g.putWords l d size.regs (loadedWord size sx (ofBytes bs)) := by
  have hwords : (fun k => BitVec.ofNat 32 (ofBytes ((bs.drop (4 * k)).take 4))) =
      fun k => BitVec.ofNat 32 (ofBytes bs / 2 ^ (32 * k)) := funext fun k => word_of_bytes bs k
  have hword : BitVec.ofNat 32 (ofBytes ((bs.drop (4 * 0)).take 4)) = BitVec.ofNat 32 (ofBytes bs) := by
    rw [word_of_bytes, Nat.mul_zero, Nat.pow_zero, Nat.div_one]
  unfold Group.putLoad
  cases size with
  | b1 | b2 =>
    dsimp only [Size.regs]
    rw [Group.putWords_one, hword]
    rfl
  | b4 | b8 | b16 =>
    dsimp only
    simp only [word_of_bytes]
    rfl

/-! ### Results inside a window -/

/-- Once the window is closed, of a parked lane, or of one register, a result is written at once. -/
theorem splitLate_of_once {o : Op} {l : Fin 32} {d : BitVec 7} {n : Nat} (hw : o.writesV = [(d, n)])
    (h : o.win = 0 ∨ o.parked.getLsbD l.val = true ∨ n ≤ 1) (old new : Group) : splitLate o l old new = (new, []) := by
  unfold splitLate
  dsimp only
  rw [if_pos]
  rcases h with h | h | h
  · exact .inl h
  · exact .inr (.inl h)
  · refine .inr (.inr ?_)
    rw [hw, List.filter_cons_of_neg (by simpa using h)]
    rfl

/-- Inside the window the registers of a result of several stay as they were, and each is written later. -/
theorem splitLate_of_window {o : Op} {l : Fin 32} {d : BitVec 7} {n : Nat} (hw : o.writesV = [(d, n)]) (hwin : o.win ≠ 0)
    (hparked : o.parked.getLsbD l.val = false) (hn : 1 < n) (old new : Group) :
    splitLate o l old new = ({ new.putWords l d n fun k => old.vr (regUp d k) l with vbad := old.vbad },
      (List.range n).map fun k => (l, (regUp d k).val, new.vr (regUp d k) l)) := by
  have hregs : ((o.writesV.filter fun w => 1 < w.2).flatMap fun w => (List.range w.2).map fun k => regUp w.1 k) =
      (List.range n).map fun k => regUp d k := by
    rw [hw, List.filter_cons_of_pos (by simpa using hn)]
    simp
  unfold splitLate
  dsimp only
  rw [hregs, if_neg, List.foldl_map, List.map_map]
  · rfl
  · rintro (h | h | h)
    · exact hwin h
    · rw [hparked] at h
      cases h
    · have := congrArg List.length h
      simp at this
      omega

/-! ### A lane of a load binds -/

/-- One lane of a word that is no read-modify-write and acts for each lane alone. -/
theorem stepLane_of_bound {s t : State} {o : Op} {l : Fin 32} (hbit : o.pend.getLsbD l.val = true) (honce : o.instr.isOnce = false)
    (hrmw : o.instr.isRmw = false) (hdone : s.attempt o l = (o, .done t)) :
    stepLane (s, o) l = ((t.setG (splitLate o l s.g t.g).1).unpark o (oneLane l),
      { o with pend := o.pend &&& ~~~oneLane l, late := o.late ++ (splitLate o l s.g t.g).2 }) := by
  unfold stepLane
  simp only [honce, Bool.false_eq_true, if_false, oneLane_and_of_bit hbit, oneLane_ne_zero, hrmw, false_and, or_self, hdone]

/-- The lane of a load is attempted alone. -/
theorem Op.toTry_of_load {o : Op} {m : MLoad} {l : Fin 32} {ms : Mask} (hinstr : o.instr = .ldv m ∨ o.instr = .lds m)
    (hpend : o.pend = oneLane l) (hms : ms.getLsbD l.val = true) : o.toTry ms = [l] := by
  have hnow : o.pend &&& ms = oneLane l := by rw [hpend, oneLane_and_of_bit hms]
  rcases hinstr with h | h
  · simp only [Op.toTry, h, Instr.isOnce, Instr.isRmw, hnow, lanesOf_oneLane, Bool.false_eq_true, if_false]
  · have hself : (maskOf fun j => ([l].any fun k =>
        (wordsIn (o.lanes[k]).addr.toNat m.size.bytes).any (wordsIn (o.lanes[j]).addr.toNat m.size.bytes).contains)).getLsbD
          l.val = true := by
      have hfirst : (o.lanes[l]).addr.toNat / 4 ∈ wordsIn (o.lanes[l]).addr.toNat m.size.bytes := by
        refine List.mem_dedup.mpr (List.mem_map.mpr ⟨0, List.mem_range.mpr ?_, rfl⟩)
        cases m.size <;> decide
      rw [getLsbD_maskOf, List.any_cons, List.any_eq_true.mpr ⟨_, hfirst, by simpa using hfirst⟩]
      rfl
    simp only [Op.toTry, h, Instr.isOnce, hnow, lanesOf_oneLane, Bool.false_eq_true, if_false]
    rw [hpend, oneLane_and_of_bit hself, lanesOf_oneLane]

/-- What a load that binds may change of the group's state: registers, operations, what weak reads of the scratchpad remember, the
L1, and that its lane is parked no more. -/
def State.bound (f : State) (o : Op) (l : Fin 32) (ws : List L1Word) (old : List OldWord) (g : Group)
    (ops : List Op) : State :=
  { f with
    l1 := ws
    g := { f.g with
      v := g.v, watch := g.watch, vbad := g.vbad, old := old, ops := ops
      lane := laneUpd f.g.lane (oneLane l &&& o.parked &&& f.g.inState .parkedSplit) fun _ => .runnable } }

theorem State.bound_lane (f : State) (o : Op) (l : Fin 32) (ws : List L1Word) (old : List OldWord) (g : Group) (ops : List Op)
    (j : Fin 32) : (f.bound o l ws old g ops).g.lane[j] =
      if j = l ∧ o.parked.getLsbD l.val = true ∧ f.g.lane[j] = .parkedSplit then .runnable else f.g.lane[j] := by
  refine (laneUpd_get ..).trans ?_
  simp only [BitVec.getLsbD_and, getLsbD_oneLane, Group.inState, getLsbD_maskOf, Bool.and_eq_true, decide_eq_true_eq, beq_iff_eq]
  grind

theorem State.bound_vr (f : State) (o : Op) (l : Fin 32) (ws : List L1Word) (old : List OldWord) (g : Group) (ops : List Op)
    (q : Fin 128) (j : Fin 32) : (f.bound o l ws old g ops).g.vr q j = g.vr q j := rfl

/-- A lane of a load that binds: what is written at once, and what is written later. -/
theorem attemptLanes_of_load {f : State} {o : Op} {m : MLoad} {l : Fin 32} {ms : Mask} {ws : List L1Word} {old : List OldWord}
    {new : Group} {w : Group × List (Fin 32 × Nat × W32)} (hfl : InFlight f o (oneLane l)) (hms : ms.getLsbD l.val = true)
    (hinstr : o.instr = .ldv m ∨ o.instr = .lds m)
    (hdone : f.attempt o l = (o, .done { f with l1 := ws, g := new })) (hsplit : splitLate o l f.g new = w)
    (hnew : w.1 = { f.g with v := w.1.v, watch := w.1.watch, vbad := w.1.vbad, old := old }) :
    f.attemptLanes o ms = f.bound o l ws old w.1 ((f.g.ops.map fun x =>
      if x.id = o.id then { o with pend := 0#32, late := w.2 } else x).filter Op.isOpen) := by
  have honce : o.instr.isOnce = false := by rcases hinstr with h | h <;> rw [h] <;> rfl
  have hrmw : o.instr.isRmw = false := by rcases hinstr with h | h <;> rw [h] <;> rfl
  have hbit : o.pend.getLsbD l.val = true := by rw [hfl.pend, getLsbD_oneLane, decide_eq_true rfl]
  have hstep := stepLane_of_bound hbit honce hrmw hdone
  dsimp only at hstep
  rw [hsplit, hfl.pend, hfl.late, BitVec.and_not_self, List.nil_append] at hstep
  rw [State.attemptLanes, State.writeLate_of_none hfl.late]
  dsimp only
  rw [Op.toTry_of_load hinstr hfl.pend hms, List.foldl_cons, List.foldl_nil, hstep]
  dsimp only
  rw [hnew]
  rw [State.putOp_of_sound]
  · rfl
  · exact hfl.fails
  · exact hfl.undrained

/-- The group of a load that has its bytes. -/
def State.withLoad (f : State) (ws : List L1Word) (old : List OldWord) (l : Fin 32) (m : MLoad) (bs : List Byte) : State :=
  { f with l1 := ws, g := Group.putLoad { f.g with old := old } l m.d m.size m.sx bs }

/-- What has become of the result `val` of lane `l`. -/
def LoadLands (f t : State) (o : Op) (m : MLoad) (l : Fin 32) (val : Nat → W32) : Prop :=
  if o.win = 0 ∨ o.parked.getLsbD l.val = true ∨ m.size.regs = 1 then
    LaneRegisters f t l m.d m.size.regs val ∧ t.g.ops = f.g.ops.filter (fun x => x.id ≠ o.id)
  else (∀ (k : Fin 128) (j : Fin 32), t.g.vr k j = f.g.vr k j) ∧ ∃ o' ∈ t.g.ops, o'.id = o.id ∧ o'.pend = 0#32 ∧
    o'.late = (List.range m.size.regs).map fun k => (l, (regUp m.d k).val, val k)

theorem writesV_of_load {o : Op} {m : MLoad} (h : o.instr = .ldv m ∨ o.instr = .lds m) : o.writesV = [(m.d, m.size.regs)] := by
  rcases h with h | h <;> simp only [Op.writesV, h] <;> rfl

theorem attemptLanes_loaded {f : State} {o : Op} {m : MLoad} {l : Fin 32} {ms : Mask} {ws : List L1Word} {old : List OldWord}
    {bs : List Byte} (hfl : InFlight f o (oneLane l)) (hms : ms.getLsbD l.val = true) (hinstr : o.instr = .ldv m ∨ o.instr = .lds m)
    (hdone : f.attempt o l = (o, .done (f.withLoad ws old l m bs))) :
    ∃ g ops, f.attemptLanes o ms = f.bound o l ws old g ops ∧
      LoadLands f (f.bound o l ws old g ops) o m l (loadedWord m.size m.sx (ofBytes bs)) := by
  have hfew := regs_le_four m.size
  have hwrites := writesV_of_load hinstr
  have hput := Group.putLoad_eq { f.g with old := old } l m.d m.size m.sx bs
  generalize hval : loadedWord m.size m.sx (ofBytes bs) = val at hput ⊢
  obtain ⟨v, watch, vbad, hshape⟩ := Group.putWords_shape { f.g with old := old } l m.d m.size.regs val
  unfold LoadLands
  split
  · next hnow =>
    have hsplit : splitLate o l f.g (f.withLoad ws old l m bs).g = ((f.withLoad ws old l m bs).g, []) :=
      splitLate_of_once hwrites (hnow.imp_right fun h => h.imp_right Nat.le_of_eq) _ _
    refine ⟨_, _, attemptLanes_of_load hfl hms hinstr hdone hsplit ?_, ⟨fun k hk => ?_, fun q j hq => ?_⟩, ?_⟩
    · dsimp only [State.withLoad]
      rw [hput, hshape]
    · rw [State.bound_vr]
      dsimp only [State.withLoad]
      rw [hput, Group.putWords_vr_same _ _ _ _ (by omega) hk]
    · rw [State.bound_vr]
      dsimp only [State.withLoad]
      rw [hput, Group.putWords_vr_other _ _ _ _ (by omega) hq]
      rfl
    · exact filter_isOpen_of_closed (Op.isOpen_of_done rfl hfl.fails rfl) hfl.others
  · next hlater =>
    obtain ⟨hwin, hparked, hone⟩ : o.win ≠ 0 ∧ o.parked.getLsbD l.val = false ∧ 1 < m.size.regs := by
      simp only [not_or, Bool.not_eq_true] at hlater
      exact ⟨hlater.1, hlater.2.1, one_lt_regs hlater.2.2⟩
    have hsplit := splitLate_of_window hwrites hwin hparked hone f.g (f.withLoad ws old l m bs).g
    refine ⟨_, _, attemptLanes_of_load hfl hms hinstr hdone hsplit ?_, fun q j => ?_, ?_⟩
    · obtain ⟨v', watch', vbad', hback⟩ := Group.putWords_shape (f.withLoad ws old l m bs).g l m.d m.size.regs
        fun k => f.g.vr (regUp m.d k) l
      rw [hback]
      dsimp only [State.withLoad]
      rw [hput, hshape]
    · rw [State.bound_vr]
      change (Group.putWords (f.withLoad ws old l m bs).g l m.d m.size.regs fun k => f.g.vr (regUp m.d k) l).vr q j = _
      by_cases hq : j = l ∧ ∃ k, k < m.size.regs ∧ q = regUp m.d k
      · obtain ⟨rfl, k, hk, rfl⟩ := hq
        exact Group.putWords_vr_same _ _ _ _ (by omega) hk
      · rw [Group.putWords_vr_other _ _ _ _ (by omega) hq]
        dsimp only [State.withLoad]
        rw [hput, Group.putWords_vr_other _ _ _ _ (by omega) hq]
        rfl
    · have hlate : ((List.range m.size.regs).map fun k => (l, (regUp m.d k).val, (f.withLoad ws old l m bs).g.vr (regUp m.d k) l)) =
          (List.range m.size.regs).map fun k => (l, (regUp m.d k).val, val k) := by
        refine List.map_congr_left fun k hk => ?_
        dsimp only [State.withLoad]
        rw [hput, Group.putWords_vr_same _ _ _ _ (by omega) (List.mem_range.mp hk)]
      refine ⟨{ o with pend := 0#32, late := _ }, List.mem_filter.mpr ⟨List.mem_map.mpr ⟨o, hfl.mine, if_pos rfl⟩, ?_⟩, rfl, rfl, hlate⟩
      rw [hlate]
      obtain ⟨n, hn⟩ := Nat.exists_eq_succ_of_ne_zero (Nat.ne_of_gt (Nat.lt_trans Nat.zero_lt_one hone))
      simp [Op.isOpen, hn]

/-- The event that binds the lane. -/
theorem exec_load {s f : State} {r : GroupRef} {o : Op} {m : MLoad} {l : Fin 32} {ms : Mask} {ws : List L1Word} {old : List OldWord}
    {bs : List Byte} {e : Instr} (hat : At s r f) (hfl : InFlight f o (oneLane l)) (hms : ms.getLsbD l.val = true)
    (hinstr : o.instr = .ldv m ∨ o.instr = .lds m) (he : e = .splitDataReturn r o.id ms ∨ e = .longLatencyComplete r o.id ms)
    (hdone : f.attempt o l = (o, .done (f.withLoad ws old l m bs))) :
    ∃ g ops, exec e s = .next (f.bound o l ws old g ops).settle ∧
      LoadLands f (f.bound o l ws old g ops) o m l (loadedWord m.size m.sx (ofBytes bs)) := by
  obtain ⟨g, ops, hattempt, hlands⟩ := attemptLanes_loaded hfl hms hinstr hdone
  have hposted : o.instr.isPosted = false := by rcases hinstr with h | h <;> rw [h] <;> rfl
  have hacp (a : MAcp) : o.instr ≠ .acp a := by rcases hinstr with h | h <;> rw [h] <;> exact nofun
  exact ⟨g, ops, exec_complete hat he hfl.mine hfl.unique hfl.ready hposted hacp hattempt rfl rfl, hlands⟩

theorem loadBinds (s f : State) (r : GroupRef) (o : Op) (m : MLoad) (l : Fin 32) (ms : Mask) (pa : Nat) (e : Instr)
    (hat : At s r f) (hfl : InFlight f o (oneLane l)) (hms : ms.getLsbD l.val = true) (hinstr : o.instr = .ldv m)
    (hwhole : isHalved m.size.bytes m.acc = false)
    (he : e = .splitDataReturn r o.id ms ∧ o.parked.getLsbD l.val = true ∨
      e = .longLatencyComplete r o.id ms ∧ o.parked.getLsbD l.val = false)
    (hheld : Held f (o.lanes[l]).addr .load pa) (hset : Settled f pa m.size.bytes)
    (hclean : f.corePoison f.t.core pa m.size.bytes = false) :
    ∃ t : State, exec e s = .next t.settle ∧ LoadLands f t o m l (loadedWord m.size m.sx (seen f m.acc pa m.size.bytes)) ∧
      (∀ j : Fin 32, t.g.lane[j] =
        if j = l ∧ o.parked.getLsbD l.val = true ∧ f.g.lane[j] = .parkedSplit then .runnable else f.g.lane[j]) ∧
      t = { f with
            l1 := t.l1
            g := { f.g with
              v := t.g.v, watch := t.g.watch, vbad := t.g.vbad, lane := t.g.lane, ops := t.g.ops, old := t.g.old } } := by
  obtain ⟨ws, old, bs, hread, -, hnum⟩ := State.readVa_of_held m.acc hheld hset hclean
  have hdone : f.attempt o l = (o, .done (f.withLoad ws old l m bs)) := by
    simp only [State.attempt, hinstr, State.loadLane, hwhole, Bool.not_false, if_true, hread]
    rfl
  obtain ⟨g, ops, hexec, hlands⟩ := exec_load hat hfl hms (.inl hinstr) (he.imp And.left And.left) hdone
  rw [hnum] at hlands
  exact ⟨_, hexec, hlands, f.bound_lane o l ws old g ops, rfl⟩

end Sys2Proof.Machine


/-! ## Results written later, and long floating words (O35) -/

namespace Sys2Proof.Machine
open Claims

/-! ### Results that are written later -/

/-- The registers of a list of results are written one by one. -/
def Group.putLate (g : Group) (now : List (Fin 32 × Nat × W32)) : Group :=
  now.foldl (fun g x => g.setV (oneLane x.1) (Fin.ofNat 128 x.2.1) fun _ => x.2.2) g

theorem Group.putLate_shape (now : List (Fin 32 × Nat × W32)) (g : Group) :
    ∃ v watch vbad, g.putLate now = { g with v := v, watch := watch, vbad := vbad } := by
  induction now generalizing g with
  | nil => exact ⟨_, _, _, rfl⟩
  | cons x now ih =>
    obtain ⟨v, watch, vbad, h⟩ := ih (g.setV (oneLane x.1) (Fin.ofNat 128 x.2.1) fun _ => x.2.2)
    exact ⟨v, watch, vbad, h⟩

/-- A register that no result of the list is for keeps its value. -/
theorem Group.putLate_vr_other {now : List (Fin 32 × Nat × W32)} {k : Fin 128} {l : Fin 32} (hlow : ∀ x ∈ now, x.2.1 < 128)
    (hnone : ∀ x, (l, k.val, x) ∉ now) (g : Group) : (g.putLate now).vr k l = g.vr k l := by
  induction now generalizing g with
  | nil => rfl
  | cons y now ih =>
    rw [Group.putLate, List.foldl_cons, ← Group.putLate,
      ih (fun x hx => hlow x (List.mem_cons_of_mem _ hx)) (fun x hx => hnone x (List.mem_cons_of_mem _ hx)), Group.vr_setV, if_neg]
    rintro ⟨hk, hl⟩
    rw [getLsbD_oneLane] at hl
    have hval : k.val = y.2.1 := by
      rw [hk, Fin.val_ofNat, Nat.mod_eq_of_lt (hlow y List.mem_cons_self)]
    refine hnone y.2.2 (List.mem_cons.mpr (.inl ?_))
    rw [of_decide_eq_true hl, hval]

/-- A register that one result of the list is for receives it. -/
theorem Group.putLate_vr_same {now : List (Fin 32 × Nat × W32)} {k : Fin 128} {l : Fin 32} {x : W32} (hlow : ∀ x ∈ now, x.2.1 < 128)
    (honce : (now.map fun x => (x.1, x.2.1)).Nodup) (hx : (l, k.val, x) ∈ now) (g : Group) : (g.putLate now).vr k l = x := by
  induction now generalizing g with
  | nil => exact absurd hx List.not_mem_nil
  | cons y now ih =>
    rw [List.map_cons, List.nodup_cons] at honce
    have hrest : ∀ x ∈ now, x.2.1 < 128 := fun x hx => hlow x (List.mem_cons_of_mem _ hx)
    rw [Group.putLate, List.foldl_cons, ← Group.putLate]
    rcases List.mem_cons.mp hx with rfl | hx
    · rw [Group.putLate_vr_other hrest, Group.vr_setV, if_pos]
      · refine ⟨Fin.ext ?_, by rw [getLsbD_oneLane, decide_eq_true rfl]⟩
        rw [Fin.val_ofNat, Nat.mod_eq_of_lt k.isLt]
      · intro z hz
        exact honce.1 (List.mem_map.mpr ⟨_, hz, rfl⟩)
    · exact ih hrest honce.2 hx _

/-- What is written now of the results of an operation. -/
def State.lateNow (s : State) (o : Op) (m : Mask) : List (Fin 32 × Nat × W32) :=
  let mine := o.late.filter fun x => m.getLsbD x.1.val
  let sure := (s.freeW 4095).toNat % mine.length
  (mine.zipIdx.filter fun x => o.win == 0 || x.2 == sure || (s.freeW (4096 + x.2)).getLsbD 0).map (·.1)

theorem State.writeLate_eq (s : State) (o : Op) (m : Mask) : s.writeLate o m =
    (s.setG (s.g.putLate (s.lateNow o m)), { o with late := o.late.filter fun x => !(s.lateNow o m).contains x }) := rfl

theorem State.lateNow_sublist (s : State) (o : Op) (m : Mask) : (s.lateNow o m).Sublist o.late := by
  have hzip : ((o.late.filter fun x => m.getLsbD x.1.val).zipIdx.map (·.1)) = o.late.filter fun x => m.getLsbD x.1.val :=
    List.zipIdx_map_fst ..
  have hsub := (List.filter_sublist (l := (o.late.filter fun x => m.getLsbD x.1.val).zipIdx)
    (p := fun x => o.win == 0 || x.2 == (s.freeW 4095).toNat % (o.late.filter fun x => m.getLsbD x.1.val).length ||
      (s.freeW (4096 + x.2)).getLsbD 0)).map (·.1)
  rw [hzip] at hsub
  exact hsub.trans List.filter_sublist

/-- One result at least is written, and once the window is closed all are. -/
theorem State.mem_lateNow {s : State} {o : Op} {m : Mask} (hall : ∀ x ∈ o.late, m.getLsbD x.1.val = true) {k : Nat} (hk : k < o.late.length)
    (h : o.win = 0 ∨ k = (s.freeW 4095).toNat % o.late.length) : o.late[k] ∈ s.lateNow o m := by
  have hmine : (o.late.filter fun x => m.getLsbD x.1.val) = o.late := List.filter_eq_self.mpr hall
  unfold State.lateNow
  dsimp only
  rw [hmine]
  refine List.mem_map.mpr ⟨(o.late[k], k), List.mem_filter.mpr ⟨?_, ?_⟩, rfl⟩
  · exact List.mem_zipIdx_iff_getElem?.mpr (List.getElem?_eq_getElem hk)
  · rcases h with h | h
    · simp [h]
    · simp [← h]

theorem lateLands (s f : State) (r : GroupRef) (o : Op) (m : MLoad) (ms : Mask) (hat : At s r f) (hmine : o ∈ f.g.ops)
    (hunique : ∀ x ∈ f.g.ops, x.id = o.id → x = o) (hinstr : o.instr = .ldv m) (hgate : f.gate o = true)
    (hdrain : f.g.draining = false) (hpend : o.pend = 0#32) (hfails : o.fails = []) (hlate : o.late ≠ [])
    (hall : ∀ x ∈ o.late, ms.getLsbD x.1.val = true ∧ x.2.1 < 128) (honce : (o.late.map fun x => (x.1, x.2.1)).Nodup) :
    ∃ (t : State) (now : List (Fin 32 × Nat × W32)), exec (.longLatencyComplete r o.id ms) s = .next t.settle ∧
      now ≠ [] ∧ (∀ x ∈ now, x ∈ o.late) ∧ (o.win = 0 → ∀ x ∈ o.late, x ∈ now) ∧
      (∀ (k : Fin 128) (l : Fin 32) (x : W32), (l, k.val, x) ∈ now → t.g.vr k l = x) ∧
      (∀ (k : Fin 128) (l : Fin 32), (∀ x, (l, k.val, x) ∉ now) → t.g.vr k l = f.g.vr k l) ∧
      t.g.ops = (f.g.ops.map fun x =>
        if x.id = o.id then { o with late := o.late.filter fun y => !now.contains y } else x).filter Op.isOpen ∧
      t = { f with g := { f.g with v := t.g.v, watch := t.g.watch, vbad := t.g.vbad, ops := t.g.ops } } := by
  generalize hnow : f.lateNow o ms = now
  have hsub : now.Sublist o.late := hnow ▸ f.lateNow_sublist o ms
  have hbits : ∀ x ∈ o.late, ms.getLsbD x.1.val = true := fun x hx => (hall x hx).1
  have hlow : ∀ x ∈ now, x.2.1 < 128 := fun x hx => (hall x (hsub.subset hx)).2
  have hkeys : (now.map fun x => (x.1, x.2.1)).Nodup := honce.sublist (hsub.map _)
  obtain ⟨v, watch, vbad, hshape⟩ := f.g.putLate_shape now
  have hattempt : f.attemptLanes o ms = { f with g := { f.g with
      v := (f.g.putLate now).v, watch := (f.g.putLate now).watch, vbad := (f.g.putLate now).vbad
      ops := (f.g.ops.map fun x =>
        if x.id = o.id then { o with late := o.late.filter fun y => !now.contains y } else x).filter Op.isOpen } } := by
    have htry : ({ o with late := o.late.filter fun y => !now.contains y } : Op).toTry ms = [] := by
      simp only [Op.toTry, hinstr, Instr.isOnce, Instr.isRmw, hpend, BitVec.zero_and, lanesOf_eq_nil.mpr rfl, Bool.false_eq_true,
        if_false]
    rw [State.attemptLanes, State.writeLate_eq, hnow]
    dsimp only
    rw [htry, List.foldl_nil, State.putOp_of_sound]
    · rw [hshape]
      rfl
    · exact hfails
    · rw [hshape]
      exact hdrain
  refine ⟨_, now, exec_complete hat (.inr rfl) hmine hunique hgate (by rw [hinstr]; rfl) (fun a => by rw [hinstr]; exact nofun)
    hattempt rfl rfl, ?_, fun x hx => hsub.subset hx, fun hwin x hx => ?_, fun k l x hx => ?_, fun k l hx => ?_, rfl, rfl⟩
  · have hlt : (f.freeW 4095).toNat % o.late.length < o.late.length := Nat.mod_lt _ (List.length_pos_iff.mpr hlate)
    have hmem := State.mem_lateNow (s := f) hbits hlt (.inr rfl)
    rw [hnow] at hmem
    exact List.ne_nil_of_mem hmem
  · obtain ⟨k, hk, rfl⟩ := List.getElem_of_mem hx
    exact hnow ▸ State.mem_lateNow (s := f) hbits hk (.inl hwin)
  · exact Group.putLate_vr_same hlow hkeys hx f.g
  · exact Group.putLate_vr_other hlow hx f.g

end Sys2Proof.Machine


/-! ## Long floating words (O35) -/

namespace Sys2Proof.Machine
open Claims

/-! ### One lane's result -/

/-- A long floating operation, with the register its results go to. -/
structure LongFloat (o : Op) (wide : Bool) (d : BitVec 7) : Prop where
  float : o.instr.isLongFloat = true
  unposted : o.instr.isPosted = false
  notAcp : ∀ a, o.instr ≠ .acp a
  each : o.instr.isOnce = false
  notRmw : o.instr.isRmw = false
  writes : o.writesV = [(d, if wide then 2 else 1)]
  tries : ∀ ms, o.toTry ms = lanesOf (o.pend &&& ms)
  lands : ∀ (s : State) (p : Mask) (q : List (Fin 32 × Nat × W32)) (l : Fin 32), s.attempt { o with pend := p, late := q } l =
    ({ o with pend := p, late := q }, .done (s.setG (s.g.landFloat o wide d l)))

theorem longFloat_of_instr {o : Op} {d : BitVec 7} {la : BitVec 4} {wide : Bool}
    (h : (∃ w : WBin, w.d = d ∧ (o.instr = .fdivF64 w la ∧ wide = true ∨ o.instr = .fdivF32 w la ∧ wide = false)) ∨
      (∃ w : WUn, w.d = d ∧ (o.instr = .fsqrtF64 w la ∧ wide = true ∨
        (o.instr = .fsqrtF32 w la ∨ o.instr = .frcp w la ∨ o.instr = .frsq w la ∨ o.instr = .fexp2 w la ∨
          o.instr = .flog2 w la ∨ o.instr = .fsin w la ∨ o.instr = .fcos w la) ∧ wide = false))) : LongFloat o wide d := by
  rcases h with ⟨w, rfl, ⟨h, rfl⟩ | ⟨h, rfl⟩⟩ | ⟨w, rfl, ⟨h, rfl⟩ | ⟨h | h | h | h | h | h | h, rfl⟩⟩ <;> exact
    { float := by rw [h]; rfl
      unposted := by rw [h]; rfl
      notAcp := fun a => by rw [h]; exact nofun
      each := by rw [h]; rfl
      notRmw := by rw [h]; rfl
      writes := by simp only [Op.writesV, h]; rfl
      tries := fun ms => by simp only [Op.toTry, h, Instr.isOnce, Instr.isRmw, Bool.false_eq_true, if_false]
      lands := fun s p q l => by simp only [State.attempt, h]; rfl }

/-- The words of a lane's result. -/
def Op.floatWord (o : Op) (l : Fin 32) (k : Nat) : W32 := if k = 0 then (o.lanes[l]).data[0] else (o.lanes[l]).data[1]

theorem extract_high (a b : W32) : (a ++ b).extractLsb' 32 32 = a := by
  refine BitVec.eq_of_getLsbD_eq fun i hi => ?_
  simp only [BitVec.getLsbD_extractLsb', hi, decide_true, Bool.true_and, BitVec.getLsbD_append]
  simp

theorem extract_low (a b : W32) : (a ++ b).extractLsb' 0 32 = b := by
  refine BitVec.eq_of_getLsbD_eq fun i hi => ?_
  simp only [BitVec.getLsbD_extractLsb', hi, decide_true, Bool.true_and, BitVec.getLsbD_append]
  simp [hi]

/-- Of one lane only its own value is written. -/
theorem Group.setV_oneLane (g : Group) (l : Fin 32) (r : Fin 128) (f : Fin 32 → W32) :
    g.setV (oneLane l) r f = g.setV (oneLane l) r fun _ => f l := by
  have hupd (old : Vector W32 32) : laneUpd old (oneLane l) f = laneUpd old (oneLane l) fun _ => f l := by
    unfold laneUpd
    congr 1
    funext i
    rw [getLsbD_oneLane]
    by_cases hi : i = l
    · rw [hi]
    · rw [decide_eq_false hi]
      rfl
  unfold Group.setV
  rw [hupd]

theorem Group.landFloat_eq (g : Group) (o : Op) (wide : Bool) (d : BitVec 7) (l : Fin 32) : g.landFloat o wide d l =
    (g.putWords l d (if wide then 2 else 1) (o.floatWord l)).raise ((o.lanes[l]).aux.extractLsb' 0 5) := by
  have hreg : regUp d 0 = reg7 d := Fin.ext (Nat.mod_eq_of_lt d.isLt)
  unfold Group.landFloat Group.setWide
  congr 1
  cases wide with
  | false =>
    rw [if_neg (by decide), if_neg (by decide), Group.putWords_one, Group.setV_oneLane, extract_low]
    rfl
  | true =>
    rw [if_pos rfl, if_pos rfl, Group.setPair, Group.setV_oneLane, Group.setV_oneLane g, extract_low, extract_high, ← hreg]
    rfl

/-- What landing a lane's result writes at once, and what it leaves to be written in its window. -/
def Op.landLane (o : Op) (wide : Bool) (d : BitVec 7) (g : Group) (l : Fin 32) : Group :=
  (splitLate o l g (g.landFloat o wide d l)).1

def Op.landLate (o : Op) (wide : Bool) (d : BitVec 7) (l : Fin 32) : List (Fin 32 × Nat × W32) :=
  if wide = true ∧ o.win ≠ 0 then [(l, (regUp d 0).val, (o.lanes[l]).data[0]), (l, (regUp d 1).val, (o.lanes[l]).data[1])] else []

theorem landLane_of_once {o : Op} {wide : Bool} {d : BitVec 7} (h : LongFloat o wide d) (honce : ¬ (wide = true ∧ o.win ≠ 0))
    (g : Group) (l : Fin 32) : splitLate o l g (g.landFloat o wide d l) = (g.landFloat o wide d l, o.landLate wide d l) := by
  rw [Op.landLate, if_neg honce]
  refine splitLate_of_once h.writes ?_ _ _
  cases wide with
  | false => exact .inr (.inr (by decide))
  | true => exact .inl (by simpa using honce)

theorem landLane_of_window {o : Op} {wide : Bool} {d : BitVec 7} (h : LongFloat o wide d) (hwin : wide = true ∧ o.win ≠ 0)
    (hparked : o.parked = 0#32) (g : Group) (l : Fin 32) : splitLate o l g (g.landFloat o wide d l) =
      ({ (g.landFloat o wide d l).putWords l d 2 fun k => g.vr (regUp d k) l with vbad := g.vbad }, o.landLate wide d l) := by
  obtain ⟨rfl, hwin⟩ := hwin
  have hbit : o.parked.getLsbD l.val = false := by rw [hparked, BitVec.getLsbD_zero]
  have hvr (k : Nat) (hk : k < 2) : (g.landFloat o true d l).vr (regUp d k) l = o.floatWord l k := by
    rw [Group.landFloat_eq]
    exact Group.putWords_vr_same g l d (o.floatWord l) (by decide) hk
  have hlate : ((List.range 2).map fun k => (l, (regUp d k).val, (g.landFloat o true d l).vr (regUp d k) l)) = o.landLate true d l := by
    rw [Op.landLate, if_pos (And.intro rfl hwin), show List.range 2 = [0, 1] from rfl]
    simp only [List.map_cons, List.map_nil, hvr 0 (by decide), hvr 1 (by decide)]
    rfl
  rw [← hlate]
  exact splitLate_of_window h.writes hwin hbit (by decide) _ _

theorem stepLane_of_float {s : State} {o : Op} {wide : Bool} {d : BitVec 7} (h : LongFloat o wide d) (hparked : o.parked = 0#32)
    {p : Mask} (q : List (Fin 32 × Nat × W32)) {l : Fin 32} (hbit : p.getLsbD l.val = true) :
    stepLane (s, { o with pend := p, late := q }) l = (s.setG (o.landLane wide d s.g l),
      { o with pend := p &&& ~~~oneLane l, late := q ++ o.landLate wide d l }) := by
  have hlate : (splitLate o l s.g (s.g.landFloat o wide d l)).2 = o.landLate wide d l := by
    by_cases hw : wide = true ∧ o.win ≠ 0
    · rw [landLane_of_window h hw hparked]
    · rw [landLane_of_once h hw]
  refine (stepLane_of_bound (o := { o with pend := p, late := q }) hbit h.each h.notRmw (h.lands s p q l)).trans ?_
  rw [State.unpark_of_none, ← hlate]
  · rfl
  · exact hparked

/-! ### The lanes of an event -/

theorem stepLane_foldl_float {o : Op} {wide : Bool} {d : BitVec 7} (h : LongFloat o wide d) (hparked : o.parked = 0#32)
    (ls : List (Fin 32)) (hnodup : ls.Nodup) (s : State) (p : Mask) (q : List (Fin 32 × Nat × W32))
    (hbits : ∀ l ∈ ls, p.getLsbD l.val = true) :
    ls.foldl stepLane (s, { o with pend := p, late := q }) = (s.setG (ls.foldl (o.landLane wide d) s.g),
      { o with pend := ls.foldl (fun p l => p &&& ~~~oneLane l) p, late := q ++ ls.flatMap (o.landLate wide d) }) := by
  induction ls generalizing s p q with
  | nil => simp [State.setG]
  | cons l ls ih =>
    obtain ⟨hl, hrest⟩ := List.nodup_cons.mp hnodup
    rw [List.foldl_cons, stepLane_of_float h hparked q (hbits l List.mem_cons_self), ih hrest]
    · simp [State.setG, List.append_assoc]
    · intro j hj
      rw [BitVec.getLsbD_and, hbits j (List.mem_cons_of_mem _ hj), BitVec.getLsbD_not, getLsbD_oneLane]
      simp [ne_of_mem_of_not_mem hj hl]

/-- What landing the results of some lanes has done to a group. -/
structure FloatLands (o : Op) (wide : Bool) (d : BitVec 7) (ls : List (Fin 32)) (g g' : Group) : Prop where
  shape : ∃ v watch vbad fpctl, g' = { g with v := v, watch := watch, vbad := vbad, fpctl := fpctl }
  flags : ∀ k : Nat, g'.fpctl.getLsbD k = true ↔
    g.fpctl.getLsbD k = true ∨ ∃ l ∈ ls, ((o.lanes[l]).aux.extractLsb' 0 5).getLsbD k = true
  late : wide = true ∧ o.win ≠ 0 → ∀ (q : Fin 128) (j : Fin 32), g'.vr q j = g.vr q j
  same : ¬ (wide = true ∧ o.win ≠ 0) → ∀ j ∈ ls, ∀ k, k < (if wide then 2 else 1) → g'.vr (regUp d k) j = o.floatWord j k
  other : ∀ (q : Fin 128) (j : Fin 32), ¬ (j ∈ ls ∧ ∃ k, k < (if wide then 2 else 1) ∧ q = regUp d k) → g'.vr q j = g.vr q j

theorem getLsbD_raise (g : Group) (f : Flags) (k : Nat) :
    (g.raise f).fpctl.getLsbD k = true ↔ g.fpctl.getLsbD k = true ∨ f.getLsbD k = true := by
  have hsmall : f.getLsbD k = true → k < 5 := fun h => by
    by_contra hk
    rw [BitVec.getLsbD_of_ge _ _ (by omega)] at h
    cases h
  simp only [Group.raise, BitVec.getLsbD_or, BitVec.zeroExtend, BitVec.getLsbD_setWidth, Bool.or_eq_true, Bool.and_eq_true,
    decide_eq_true_eq]
  constructor
  · rintro (h | ⟨-, h⟩)
    · exact .inl h
    · exact .inr h
  · rintro (h | h)
    · exact .inl h
    · exact .inr ⟨by have := hsmall h; omega, h⟩

theorem floatLands_one {o : Op} {wide : Bool} {d : BitVec 7} (h : LongFloat o wide d) (hparked : o.parked = 0#32) (g : Group)
    (l : Fin 32) : FloatLands o wide d [l] g (o.landLane wide d g l) := by
  have hfew : (if wide then 2 else 1) ≤ 128 := by split <;> decide
  obtain ⟨v, watch, vbad, hshape⟩ := g.putWords_shape l d (if wide then 2 else 1) (o.floatWord l)
  have hflags (k : Nat) : (g.landFloat o wide d l).fpctl.getLsbD k = true ↔
      g.fpctl.getLsbD k = true ∨ ((o.lanes[l]).aux.extractLsb' 0 5).getLsbD k = true := by
    rw [Group.landFloat_eq, getLsbD_raise, hshape]
  have hsame (k : Nat) (hk : k < if wide then 2 else 1) : (g.landFloat o wide d l).vr (regUp d k) l = o.floatWord l k := by
    rw [Group.landFloat_eq]
    exact Group.putWords_vr_same g l d _ hfew hk
  have hother (q : Fin 128) (j : Fin 32) (hq : ¬ (j = l ∧ ∃ k, k < (if wide then 2 else 1) ∧ q = regUp d k)) :
      (g.landFloat o wide d l).vr q j = g.vr q j := by
    rw [Group.landFloat_eq]
    exact Group.putWords_vr_other g l d _ hfew hq
  by_cases hwin : wide = true ∧ o.win ≠ 0
  · have hland : o.landLane wide d g l =
        { (g.landFloat o wide d l).putWords l d 2 fun k => g.vr (regUp d k) l with vbad := g.vbad } := by
      rw [Op.landLane, landLane_of_window h hwin hparked]
    have hback (q : Fin 128) (j : Fin 32) : (o.landLane wide d g l).vr q j = g.vr q j := by
      rw [hland]
      change ((g.landFloat o wide d l).putWords l d 2 fun k => g.vr (regUp d k) l).vr q j = _
      by_cases hq : j = l ∧ ∃ k, k < 2 ∧ q = regUp d k
      · obtain ⟨rfl, k, hk, rfl⟩ := hq
        exact Group.putWords_vr_same _ _ _ _ (by decide) hk
      · rw [Group.putWords_vr_other _ _ _ _ (by decide) hq]
        refine hother q j ?_
        rwa [if_pos hwin.1]
    obtain ⟨v', watch', vbad', hshape'⟩ := (g.landFloat o wide d l).putWords_shape l d 2 fun k => g.vr (regUp d k) l
    refine ⟨?_, fun k => ?_, fun _ => hback, fun hno => absurd hwin hno, fun q j _ => hback q j⟩
    · rw [hland, hshape', Group.landFloat_eq, hshape]
      exact ⟨_, _, _, _, rfl⟩
    · rw [hland, hshape']
      simpa using hflags k
  · have hland : o.landLane wide d g l = g.landFloat o wide d l := by rw [Op.landLane, landLane_of_once h hwin]
    rw [hland]
    refine ⟨?_, fun k => ?_, fun hyes => absurd hyes hwin, fun _ j hj k hk => ?_, fun q j hq => ?_⟩
    · rw [Group.landFloat_eq, hshape]
      exact ⟨_, _, _, _, rfl⟩
    · simpa using hflags k
    · obtain rfl := List.mem_singleton.mp hj
      exact hsame k hk
    · exact hother q j (by simpa using hq)

theorem floatLands_foldl {o : Op} {wide : Bool} {d : BitVec 7} (h : LongFloat o wide d) (hparked : o.parked = 0#32)
    (ls : List (Fin 32)) (g : Group) : FloatLands o wide d ls g (ls.foldl (o.landLane wide d) g) := by
  induction ls generalizing g with
  | nil => exact ⟨⟨_, _, _, _, rfl⟩, fun k => by simp, fun _ _ _ => rfl, fun _ j hj => absurd hj List.not_mem_nil, fun _ _ _ => rfl⟩
  | cons l ls ih =>
    have hfirst := floatLands_one h hparked g l
    have hrest := ih (o.landLane wide d g l)
    rw [List.foldl_cons]
    refine ⟨?_, fun k => ?_, fun hwin q j => ?_, fun hwin j hj k hk => ?_, fun q j hq => ?_⟩
    · obtain ⟨v, watch, vbad, fpctl, h1⟩ := hfirst.shape
      obtain ⟨v', watch', vbad', fpctl', h2⟩ := hrest.shape
      rw [h2, h1]
      exact ⟨_, _, _, _, rfl⟩
    · rw [hrest.flags, hfirst.flags]
      simp only [List.mem_cons, List.not_mem_nil, or_false, exists_eq_left, exists_eq_or_imp, or_assoc]
    · rw [hrest.late hwin, hfirst.late hwin]
    · by_cases hin : j ∈ ls
      · exact hrest.same hwin j hin k hk
      · rw [hrest.other _ _ fun hno => hin hno.1]
        exact hfirst.same hwin j (List.mem_singleton.mpr ((List.mem_cons.mp hj).resolve_right hin)) k hk
    · rw [hrest.other q j fun ⟨hj, hk⟩ => hq ⟨List.mem_cons_of_mem _ hj, hk⟩]
      exact hfirst.other q j fun ⟨hj, hk⟩ => hq ⟨List.mem_singleton.mp hj ▸ List.mem_cons_self, hk⟩

/-! ### The event -/

theorem getLsbD_foldl_removed (ls : List (Fin 32)) (p : Mask) (j : Fin 32) :
    (ls.foldl (fun p l => p &&& ~~~oneLane l) p).getLsbD j.val = (p.getLsbD j.val && decide (j ∉ ls)) := by
  induction ls generalizing p with
  | nil => simp
  | cons l ls ih =>
    rw [List.foldl_cons, ih, BitVec.getLsbD_and, BitVec.getLsbD_not, getLsbD_oneLane, Bool.and_assoc]
    congr 1
    simp [List.mem_cons, not_or]

theorem foldl_removed_lanesOf (p ms : Mask) :
    (lanesOf (p &&& ms)).foldl (fun p l => p &&& ~~~oneLane l) p = p &&& ~~~ms := by
  refine BitVec.eq_of_getLsbD_eq fun i hi => ?_
  rw [getLsbD_foldl_removed _ _ ⟨i, hi⟩, BitVec.getLsbD_and, BitVec.getLsbD_not]
  simp only [mem_lanesOf, BitVec.getLsbD_and]
  cases p.getLsbD i <;> simp [hi]

theorem flatMap_landLate (o : Op) (wide : Bool) (d : BitVec 7) (ls : List (Fin 32)) : ls.flatMap (o.landLate wide d) =
    if wide = true ∧ o.win ≠ 0 then
      ls.flatMap fun l => [(l, (regUp d 0).val, (o.lanes[l]).data[0]), (l, (regUp d 1).val, (o.lanes[l]).data[1])]
    else [] := by
  unfold Op.landLate
  split
  · rfl
  · simp

theorem attemptLanes_of_float {f : State} {o : Op} {wide : Bool} {d : BitVec 7} (h : LongFloat o wide d) (hparked : o.parked = 0#32)
    (hlate : o.late = []) (hfails : o.fails = []) (hdrain : f.g.draining = false) {ms : Mask} {g : Group}
    (hg : FloatLands o wide d (lanesOf (o.pend &&& ms)) f.g g)
    (heq : (lanesOf (o.pend &&& ms)).foldl (o.landLane wide d) f.g = g) :
    f.attemptLanes o ms = { f with g := { f.g with
      v := g.v, watch := g.watch, vbad := g.vbad, fpctl := g.fpctl
      ops := (f.g.ops.map fun x => if x.id = o.id then
        { o with pend := o.pend &&& ~~~ms, late := (lanesOf (o.pend &&& ms)).flatMap (o.landLate wide d) } else x).filter
          Op.isOpen } } := by
  have hself : o = { o with pend := o.pend, late := [] } := by rw [← hlate]
  have hfold := stepLane_foldl_float h hparked (lanesOf (o.pend &&& ms)) (lanesOf_nodup _) f o.pend [] fun l hl => by
    have hbit := mem_lanesOf.mp hl
    rw [BitVec.getLsbD_and, Bool.and_eq_true] at hbit
    exact hbit.1
  rw [← hself, foldl_removed_lanesOf, List.nil_append, heq] at hfold
  obtain ⟨v, watch, vbad, fpctl, rfl⟩ := hg.shape
  rw [State.attemptLanes, State.writeLate_of_none hlate]
  dsimp only
  rw [h.tries, hfold, State.putOp_of_sound]
  · rfl
  · exact hfails
  · exact hdrain

theorem laneResult_of_floatLands {f t : State} {o : Op} {d : BitVec 7} {m : Mask} {g : Group}
    (hg : FloatLands o false d (lanesOf m) f.g g) (hv : ∀ q j, t.g.vr q j = g.vr q j) :
    LaneResult f t m d fun l x => x = (o.lanes[l]).data[0] := by
  have hreg : regUp d 0 = reg7 d := Fin.ext (Nat.mod_eq_of_lt d.isLt)
  intro q j
  split
  · next hq =>
    obtain ⟨rfl, hj⟩ := hq
    rw [hv, ← hreg]
    exact hg.same (by simp) j (mem_lanesOf.mpr hj) 0 (by decide)
  · next hq =>
    rw [hv]
    refine hg.other q j fun ⟨hj, k, hk, hqk⟩ => hq ⟨?_, mem_lanesOf.mp hj⟩
    obtain rfl : k = 0 := by simpa using hk
    exact hqk.trans hreg

theorem pairResult_of_floatLands {f t : State} {o : Op} {d : BitVec 7} {m : Mask} {g : Group}
    (hg : FloatLands o true d (lanesOf m) f.g g) (hwin : o.win = 0) (hv : ∀ q j, t.g.vr q j = g.vr q j) :
    PairResult f t m d fun l x => x = (o.lanes[l]).data[1] ++ (o.lanes[l]).data[0] := by
  have hreg : regUp d 0 = reg7 d := Fin.ext (Nat.mod_eq_of_lt d.isLt)
  refine ⟨fun j hj => ?_, fun q j hq => ?_⟩
  · have hword := hg.same (by simp [hwin]) j (mem_lanesOf.mpr hj)
    rw [Group.vpair, hv, hv, ← hreg, hword 0 (by decide), hword 1 (by decide)]
    rfl
  · rw [hv]
    refine hg.other q j fun ⟨hj, k, hk, hqk⟩ => hq ⟨?_, mem_lanesOf.mp hj⟩
    have hk2 : k = 0 ∨ k = 1 := by
      rw [if_pos rfl] at hk
      omega
    rcases hk2 with rfl | rfl
    · exact .inl (hqk.trans hreg)
    · exact .inr hqk

theorem floatLandsEvent (s f : State) (r : GroupRef) (o : Op) (ms : Mask) (d : BitVec 7) (la : BitVec 4) (wide : Bool)
    (hat : At s r f) (hmine : o ∈ f.g.ops) (hunique : ∀ x ∈ f.g.ops, x.id = o.id → x = o) (hdrain : f.g.draining = false)
    (hfails : o.fails = []) (hlate : o.late = []) (hparked : o.parked = 0#32)
    (hinstr : (∃ w : WBin, w.d = d ∧ (o.instr = .fdivF64 w la ∧ wide = true ∨ o.instr = .fdivF32 w la ∧ wide = false)) ∨
      (∃ w : WUn, w.d = d ∧ (o.instr = .fsqrtF64 w la ∧ wide = true ∨
        (o.instr = .fsqrtF32 w la ∨ o.instr = .frcp w la ∨ o.instr = .frsq w la ∨ o.instr = .fexp2 w la ∨
          o.instr = .flog2 w la ∨ o.instr = .fsin w la ∨ o.instr = .fcos w la) ∧ wide = false))) :
    ∃ t : State, exec (.longLatencyComplete r o.id ms) s = .next t.settle ∧
      (if wide = true ∧ o.win ≠ 0 then ∀ (k : Fin 128) (j : Fin 32), t.g.vr k j = f.g.vr k j
       else if wide then PairResult f t (o.pend &&& ms) d (fun l x => x = (o.lanes[l]).data[1] ++ (o.lanes[l]).data[0])
       else LaneResult f t (o.pend &&& ms) d (fun l x => x = (o.lanes[l]).data[0])) ∧
      RaisesFlags f t (o.pend &&& ms) (fun l => (o.lanes[l]).aux.extractLsb' 0 5) ∧
      (let o' : Op := { o with
         pend := o.pend &&& ~~~ms
         late := if wide = true ∧ o.win ≠ 0 then
           (lanesOf (o.pend &&& ms)).flatMap fun l =>
             [(l, (regUp d 0).val, (o.lanes[l]).data[0]), (l, (regUp d 1).val, (o.lanes[l]).data[1])]
           else [] }
       t.g.ops = (f.g.ops.map fun x => if x.id = o.id then o' else x).filter Op.isOpen) ∧
      t = { f with
            g := { f.g with v := t.g.v, watch := t.g.watch, vbad := t.g.vbad, fpctl := t.g.fpctl, ops := t.g.ops } } := by
  have h := longFloat_of_instr hinstr
  have hgate : f.gate o = true := by simp [State.gate, h.float]
  have hg := floatLands_foldl h hparked (lanesOf (o.pend &&& ms)) f.g
  generalize heq : (lanesOf (o.pend &&& ms)).foldl (o.landLane wide d) f.g = g at hg
  have hattempt := attemptLanes_of_float h hparked hlate hfails hdrain hg heq
  refine ⟨_, exec_complete hat (.inr rfl) hmine hunique hgate h.unposted h.notAcp hattempt rfl rfl, ?_, fun k => ?_, ?_, rfl⟩
  · split
    · next hwin => exact hg.late hwin
    · next hwin =>
      cases wide with
      | true => exact pairResult_of_floatLands hg (by simpa using hwin) fun _ _ => rfl
      | false => exact laneResult_of_floatLands hg fun _ _ => rfl
  · refine (hg.flags k).trans (or_congr_right ?_)
    simp only [mem_lanesOf]
  · rw [flatMap_landLate]

theorem loadsBind : LoadsBind := ⟨loadBinds, lateLands, floatLandsEvent⟩

end Sys2Proof.Machine


/-! ## The second half of a strong access of 16 bytes (O35) -/

namespace Sys2Proof.Machine
open Claims

theorem size_of_halved {size : Size} {acc : Acc} (h : isHalved size.bytes acc = true) : size = .b16 ∧ ∃ k sc, acc = .strong k sc := by
  cases acc with
  | wk => cases h
  | strong k sc =>
    cases size with
    | b16 => exact ⟨rfl, _, _, rfl⟩
    | b1 | b2 | b4 | b8 => cases h

/-- After one half, AUX names the other. -/
theorem State.nextHalf_of_made (s : State) {lo : LaneOp} (l : Fin 32) {h : Nat} (hh : h < 2) (haux : lo.aux.toNat = h + 1) :
    lo.aux ≠ 0#64 ∧ s.nextHalf lo l = 1 - h := by
  have hne : lo.aux ≠ 0#64 := fun h0 => by
    rw [h0] at haux
    cases haux
  refine ⟨hne, ?_⟩
  rw [State.nextHalf, if_neg hne, haux]
  omega

theorem LaneOp.length_bytes (lo : LaneOp) : (LaneOp.bytes lo).length = 64 := by
  simp [LaneOp.bytes, List.length_flatMap, length_toBytes]

/-! ### Loads -/

/-- A lane whose load has made one half receives both. -/
theorem loadLane_of_second {f : State} {o : Op} {l : Fin 32} {h n x : Nat} {acc : Acc} {rd : State → W64 → Nat → Acc → Got}
    {put : State → List Byte → State} (hhalf : isHalved n acc = true) (hh : h < 2) (haux : (o.lanes[l]).aux.toNat = h + 1)
    (hread : ReadsOk f (rd f ((o.lanes[l]).addr + BitVec.ofNat 64 (8 * (1 - h))) 8 acc) 8 x) :
    ∃ ws old bs, f.loadLane o l n acc rd put = (o, .done (put { f with l1 := ws, g := { f.g with old := old } } bs)) ∧
      ofBytes bs = if h = 0 then ofBytes ((LaneOp.bytes (o.lanes[l])).take 8) + 2 ^ 64 * x
        else x + 2 ^ 64 * ofBytes ((LaneOp.bytes (o.lanes[l])).take 8) := by
  obtain ⟨hne, hnext⟩ := f.nextHalf_of_made (o.halfLane l) hh haux
  obtain ⟨ws, old, bs, hgot, hlen, hnum⟩ := hread
  have hfirst : ((LaneOp.bytes (o.lanes[l])).take 8).length = 8 := by rw [List.length_take, LaneOp.length_bytes]; rfl
  refine ⟨ws, old, if 1 - h = 1 then (LaneOp.bytes (o.lanes[l])).take 8 ++ bs else bs ++ (LaneOp.bytes (o.lanes[l])).take 8, ?_, ?_⟩
  · simp only [State.loadLane, hhalf, Bool.not_true, Bool.false_eq_true, if_false, hnext, if_neg hne, hgot]
  · have hh' : h = 0 ∨ h = 1 := by omega
    rcases hh' with rfl | rfl
    · rw [if_pos rfl, if_pos rfl, ofBytes_append, hfirst, hnum]
      norm_num
    · rw [if_neg (by decide), if_neg (by decide), ofBytes_append, hlen, hnum]
      norm_num

theorem readSp_of_clean {f : State} {va : W64} {n : Nat} (acc : Acc) (hclean : f.scrPoisoned va.toNat n = false) :
    ReadsOk f (f.readSp va n acc) n (scrNum f va.toNat n) := by
  unfold State.readSp
  rw [if_neg (by rw [hclean]; decide)]
  exact readsOk_of_ended acc ⟨_, rfl⟩ (by simp [State.scrBytes]) rfl

theorem secondHalfLoads (s f : State) (r : GroupRef) (o : Op) (m : MLoad) (l : Fin 32) (ms : Mask) (h x : Nat) (hat : At s r f)
    (hfl : InFlight f o (oneLane l)) (hms : ms.getLsbD l.val = true) (hhalf : isHalved m.size.bytes m.acc = true) (hh : h < 2)
    (haux : (o.lanes[l]).aux.toNat = h + 1) (hparked : o.parked = 0#32) (hwin : o.win = 0) :
    let va : W64 := (o.lanes[l]).addr + BitVec.ofNat 64 (8 * (1 - h))
    let first := ofBytes ((LaneOp.bytes (o.lanes[l])).take 8)
    (o.instr = .ldv m ∧ (∃ pa, Held f va .load pa ∧ Settled f pa 8 ∧ f.corePoison f.t.core pa 8 = false ∧ x = seen f m.acc pa 8) ∨
      o.instr = .lds m ∧ ScratchRange f va 8 ∧ x = scrNum f va.toNat 8) →
    ∃ t : State, exec (.longLatencyComplete r o.id ms) s = .next t.settle ∧
      LaneRegisters f t l m.d 4 (loadedWord m.size m.sx (if h = 0 then first + 2 ^ 64 * x else x + 2 ^ 64 * first)) ∧
      t.g.ops = f.g.ops.filter (fun y => y.id ≠ o.id) ∧
      t = { f with
            l1 := t.l1
            g := { f.g with v := t.g.v, watch := t.g.watch, vbad := t.g.vbad, ops := t.g.ops, old := t.g.old } } := by
  intro va first hread
  obtain ⟨hsize, k, sc, hacc⟩ := size_of_halved hhalf
  have hinstr : o.instr = .ldv m ∨ o.instr = .lds m := hread.imp And.left And.left
  have hdone : ∃ ws old bs, f.attempt o l = (o, .done (f.withLoad ws old l m bs)) ∧
      ofBytes bs = if h = 0 then first + 2 ^ 64 * x else x + 2 ^ 64 * first := by
    rcases hread with ⟨hi, pa, hheld, hset, hclean, hx⟩ | ⟨hi, hrange, hx⟩
    · rw [hx]
      obtain ⟨ws, old, bs, hlane, hnum⟩ := loadLane_of_second (f := f) (o := o) (l := l) (rd := State.readVa)
        (put := fun s b => s.setG (s.g.putLoad l m.d m.size m.sx b)) hhalf hh haux (State.readVa_of_held m.acc hheld hset hclean)
      refine ⟨ws, old, bs, ?_, hnum⟩
      simp only [State.attempt, hi]
      exact hlane
    · rw [hx]
      have hsp : ReadsOk f (State.readSpLane o m.size.bytes f va 8 m.acc) 8 (scrNum f va.toNat 8) := by
        rw [hacc]
        exact readSp_of_clean _ hrange.clean
      obtain ⟨ws, old, bs, hlane, hnum⟩ := loadLane_of_second (f := f) (o := o) (l := l)
        (put := fun s b => s.setG (s.g.putLoad l m.d m.size m.sx b)) hhalf hh haux hsp
      refine ⟨ws, old, bs, ?_, hnum⟩
      simp only [State.attempt, hi]
      exact hlane
  obtain ⟨ws, old, bs, hattempt, hnum⟩ := hdone
  obtain ⟨g, ops, hexec, hlands⟩ := exec_load hat hfl hms hinstr (.inr rfl) hattempt
  rw [LoadLands, if_pos (.inl hwin), hnum, hsize] at hlands
  rw [hsize]
  refine ⟨_, hexec, hlands.1, hlands.2, ?_⟩
  have hlane : f.bound o l ws old g ops = { f with
      l1 := ws, g := { f.g with v := g.v, watch := g.watch, vbad := g.vbad, old := old, ops := ops } } := by
    simp only [State.bound, hparked, BitVec.and_zero, BitVec.zero_and, laneUpd_none]
  rw [hlane]

/-! ### Stores into scratchpad -/

theorem mem_fst_cellsAt {a x : Nat} {bs : List Byte} : x ∈ (cellsAt a bs).map (·.1) ↔ a ≤ x ∧ x < a + bs.length := by
  rw [List.mem_map]
  constructor
  · rintro ⟨c, hc, rfl⟩
    obtain ⟨k, hk, rfl⟩ := List.mem_mapIdx.mp hc
    dsimp only
    omega
  · rintro ⟨h1, h2⟩
    refine ⟨(a + (x - a), bs[x - a]'(by omega)), List.mem_mapIdx.mpr ⟨x - a, by omega, rfl⟩, ?_⟩
    dsimp only
    omega

/-- A plain store clears the poison of the words that it covers whole. -/
theorem mem_coveredUnits {a w : Nat} {bs : List Byte} :
    w ∈ coveredUnits 4 ((cellsAt a bs).map (·.1)) ↔ a ≤ 4 * w ∧ 4 * w + 4 ≤ a + bs.length := by
  simp only [coveredUnits, List.mem_filter, List.mem_dedup, List.all_eq_true, List.mem_range, List.contains_iff_mem,
    mem_fst_cellsAt]
  constructor
  · rintro ⟨-, hall⟩
    have h0 := hall 0 (by decide)
    have h3 := hall 3 (by decide)
    omega
  · rintro ⟨h1, h2⟩
    refine ⟨List.mem_map.mpr ⟨4 * w, mem_fst_cellsAt.mpr (by omega), by omega⟩, fun k hk => by omega⟩

/-- Eight bytes stored in scratchpad: the bytes, the poison of their words, and nothing else but what waits for them. -/
structure ScrStores (f t : State) (a : Nat) (bs : List Byte) : Prop where
  shape : ∃ mma engines scr scrPoison old, t = { f with
    mma := mma, engines := engines, t := { f.t with scr := scr, scrPoison := scrPoison }, g := { f.g with old := old } }
  stored : ScratchStored f t a bs.length (ofBytes bs)
  poison : ∀ w, w ∈ t.t.scrPoison ↔ w ∈ f.t.scrPoison ∧ ¬ (a ≤ 4 * w ∧ 4 * w + 4 ≤ a + bs.length)

theorem scrStores_scrStore (f : State) (a : Nat) (bs : List Byte) : ScrStores f (f.scrStore (cellsAt a bs)) a bs := by
  have hbyte (b : Nat) : (f.scrStore (cellsAt a bs)).scrByte b = if h : a ≤ b ∧ b - a < bs.length then bs[b - a] else f.scrByte b := by
    rw [← f.scrPut_scrByte]
    unfold State.scrStore
    simp only [State.scrByte]
  obtain ⟨mma, engines, hput⟩ := f.scrPut_shape (cellsAt a bs)
  refine ⟨?_, ⟨fun k hk => ?_, fun b hb => ?_⟩, fun w => ?_⟩
  · unfold State.scrStore
    rw [hput]
    exact ⟨mma, engines, _, _, f.g.old, rfl⟩
  · rw [hbyte, dif_pos ⟨by omega, by omega⟩]
    have hk' : k < (toBytes bs.length (ofBytes bs)).length := by rwa [length_toBytes]
    have := getElem_toBytes bs.length (ofBytes bs) k hk'
    simp only [toBytes_ofBytes] at this
    rw [← this]
    congr 1
    omega
  · rw [hbyte, dif_neg (by omega)]
  · have hpoison : (f.scrStore (cellsAt a bs)).t.scrPoison =
        f.t.scrPoison.filter fun w => !(coveredUnits 4 ((cellsAt a bs).map (·.1))).contains w := rfl
    rw [hpoison, List.mem_filter, ← mem_coveredUnits]
    simp

theorem ScrStores.forget {f t : State} {a : Nat} {bs : List Byte} (h : ScrStores f t a bs) (m : Mask) (ws : List Nat) :
    ScrStores f (t.setG (t.g.forget m ws)) a bs := by
  obtain ⟨⟨mma, engines, scr, scrPoison, old, rfl⟩, hstored, hpoison⟩ := h
  exact ⟨⟨mma, engines, scr, scrPoison, _, rfl⟩, hstored, hpoison⟩

/-- STS and BINIT that have made one half store the other. -/
theorem attempt_secondStore {f : State} {o : Op} {pend : Mask} {h : Nat} (hpend : o.pend = pend)
    (hinstr : (∃ m, o.instr = .sts m ∧ isHalved m.size.bytes m.acc = true ∧ pend = oneLane (lowLane pend)) ∨ ∃ g, o.instr = .binit g)
    (hh : h < 2) (haux : (o.lanes[lowLane pend]).aux.toNat = h + 1) :
    ∃ t, f.attempt o (lowLane pend) = (o, .done t) ∧ ScrStores f t ((o.lanes[lowLane pend]).addr.toNat + 8 * (1 - h))
      (((LaneOp.bytes (o.lanes[lowLane pend])).drop (8 * (1 - h))).take 8) := by
  obtain ⟨hne, hnext⟩ := f.nextHalf_of_made (o.halfLane (lowLane pend)) hh haux
  have hstore := scrStores_scrStore f ((o.lanes[lowLane pend]).addr.toNat + 8 * (1 - h))
    (((LaneOp.bytes (o.lanes[lowLane pend])).drop (8 * (1 - h))).take 8)
  rcases hinstr with ⟨m, hi, hhalf, hone⟩ | ⟨g, hi⟩
  · have hlanes : lanesOf o.pend = [lowLane pend] := by
      rw [hpend, hone, lanesOf_oneLane, ← hone]
    refine ⟨_, ?_, hstore.forget (oneLane (lowLane pend)) (wordsIn (o.lanes[lowLane pend]).addr.toNat m.size.bytes)⟩
    simp only [State.attempt, hi, hhalf, hlanes, hnext, if_neg hne, Bool.not_true, Bool.false_eq_true, if_false, List.foldl_cons,
      List.foldl_nil, List.flatMap_cons, List.flatMap_nil, List.append_nil]
  · refine ⟨_, ?_, hstore.forget (BitVec.allOnes 32) (wordsIn ((o.lanes[lowLane pend]).addr.toNat + 8 * (1 - h)) 8)⟩
    simp only [State.attempt, hi, hnext, if_neg hne]
    rfl

theorem secondHalfStores (s f : State) (r : GroupRef) (o : Op) (ms pend : Mask) (h : Nat) (hat : At s r f) (hfl : InFlight f o pend)
    (hms : pend &&& ms ≠ 0#32)
    (hinstr : (∃ m, o.instr = .sts m ∧ isHalved m.size.bytes m.acc = true ∧ pend = oneLane (lowLane pend)) ∨ ∃ g, o.instr = .binit g)
    (hh : h < 2) (hparked : o.parked = 0#32) :
    let lo := o.lanes[lowLane pend]
    let a := lo.addr.toNat + 8 * (1 - h)
    lo.aux.toNat = h + 1 →
    ∃ t : State, exec (.longLatencyComplete r o.id ms) s = .next t.settle ∧
      ScratchStored f t a 8 (ofBytes (((LaneOp.bytes lo).drop (8 * (1 - h))).take 8)) ∧
      (∀ w, w ∈ t.t.scrPoison ↔ w ∈ f.t.scrPoison ∧ ¬ (a ≤ 4 * w ∧ 4 * w + 4 ≤ a + 8)) ∧
      t.g.ops = f.g.ops.filter (fun y => y.id ≠ o.id) ∧
      t = { f with
            mma := t.mma, engines := t.engines, t := { f.t with scr := t.t.scr, scrPoison := t.t.scrPoison }
            g := { f.g with ops := t.g.ops, old := t.g.old } } := by
  intro lo a haux
  obtain ⟨u, hattempt, hstores⟩ := attempt_secondStore (f := f) hfl.pend hinstr hh haux
  have hlen : (((LaneOp.bytes lo).drop (8 * (1 - h))).take 8).length = 8 := by
    rw [List.length_take, List.length_drop, LaneOp.length_bytes]
    omega
  have honce : o.instr.isOnce = true := by rcases hinstr with ⟨m, hi, -⟩ | ⟨g, hi⟩ <;> rw [hi] <;> rfl
  have hposted : o.instr.isPosted = false := by rcases hinstr with ⟨m, hi, -⟩ | ⟨g, hi⟩ <;> rw [hi] <;> rfl
  have hacp (x : MAcp) : o.instr ≠ .acp x := by rcases hinstr with ⟨m, hi, -⟩ | ⟨g, hi⟩ <;> rw [hi] <;> exact nofun
  have hrmw : o.instr.isRmw = false := by rcases hinstr with ⟨m, hi, -⟩ | ⟨g, hi⟩ <;> rw [hi] <;> rfl
  have hwrites : o.writesV = [] := by rcases hinstr with ⟨m, hi, -⟩ | ⟨g, hi⟩ <;> simp only [Op.writesV, hi] <;> rfl
  have hpend : pend ≠ 0#32 := fun h0 => hms (by rw [h0, BitVec.zero_and])
  have hsplit (new : Group) : splitLate o (lowLane pend) f.g new = (new, []) := by
    unfold splitLate
    dsimp only
    rw [if_pos (by rw [hwrites]; exact .inr (.inr rfl))]
  have hstep : stepLane (f, o) (lowLane pend) = (u, { o with pend := 0#32 }) := by
    unfold stepLane
    simp only [honce, if_true, hfl.pend, hpend, hrmw, Bool.false_eq_true, false_and, or_self, if_false, hattempt, hsplit,
      BitVec.and_not_self, hfl.late, List.append_nil]
    rw [State.unpark_of_none hparked]
    rfl
  obtain ⟨⟨mma, engines, scr, scrPoison, old, rfl⟩, hstored, hpoison⟩ := hstores
  have hkeep := filter_isOpen_of_closed (i := o.id) (Op.isOpen_of_done (o := { o with pend := 0#32 }) rfl hfl.fails hfl.late) hfl.others
  have hwhole : f.attemptLanes o ms = { f with
      mma := mma, engines := engines, t := { f.t with scr := scr, scrPoison := scrPoison }
      g := { f.g with old := old, ops := f.g.ops.filter fun y => y.id ≠ o.id } } := by
    have htry : o.toTry ms = [lowLane pend] := by
      simp only [Op.toTry, honce, if_true, hfl.pend, hms, if_false]
    rw [State.attemptLanes, State.writeLate_of_none hfl.late]
    dsimp only
    rw [htry, List.foldl_cons, List.foldl_nil, hstep, State.putOp_of_sound]
    · rw [← hkeep]
      rfl
    · exact hfl.fails
    · exact hfl.undrained
  have hexec := exec_complete hat (.inr rfl) hfl.mine hfl.unique hfl.ready hposted hacp hwhole rfl rfl
  rw [hlen] at hstored hpoison
  exact ⟨_, hexec, hstored, hpoison, rfl, rfl⟩

theorem secondHalfFollows : SecondHalfFollows := ⟨secondHalfLoads, secondHalfStores⟩

end Sys2Proof.Machine


/-! ## A posted store is performed (O35) -/

namespace Sys2Proof.Machine
open Claims

theorem lineFree_of_posted {s t : State} {line : Nat} (hfree : LineFree s line) (h : ∃ ps, t = { s with posted := ps }) :
    LineFree t line := by
  have hkey (a : Nat) := State.keyOf_of_cores a ⟨s.l1, h⟩
  obtain ⟨hcanonical, haligned, hhere, hthawed, hquiet, hmine, hkeyed⟩ := hfree
  obtain ⟨ps, rfl⟩ := h
  refine ⟨hcanonical, haligned, hhere, hthawed, hquiet, hmine, fun a ha => ⟨(hkeyed a ha).1, fun k hk => ?_⟩⟩
  rw [hkey] at hk
  exact (hkeyed a ha).2 k hk

/-! ### Nothing holds the store back -/

theorem heldBack_of_unheld {s : State} {e : Posted} (h : Unheld s e) : s.heldBack e = false := by
  unfold State.heldBack
  rw [List.any_eq_false]
  intro x hx hheld
  obtain ⟨hmoved, hno⟩ := h x hx
  simp only [Bool.and_eq_true, Bool.or_eq_true, beq_iff_eq, decide_eq_true_eq, Bool.not_eq_true', hmoved, Bool.and_false,
    Bool.false_and, Bool.false_eq_true, or_false] at hheld
  obtain ⟨⟨⟨hcore, hlt⟩, hpart⟩, hwhy⟩ := hheld
  obtain ⟨hrelease, hbytes⟩ := hno hcore hlt fun hsame => by simp [hsame.1, hsame.2] at hpart
  rcases hwhy with hrel | hmeet
  · exact hrelease hrel
  · obtain ⟨c, hc, hd⟩ := List.any_eq_true.mp hmeet
    obtain ⟨d, hd, heq⟩ := List.any_eq_true.mp hd
    exact hbytes c hc d hd (beq_iff_eq.mp heq)

theorem postedFree_of_unheld {s : State} {e : Posted} (hmine : e ∈ s.posted) (h : Unheld s e)
    (hsibling : ∀ x ∈ s.posted, e.pair = true → x.batch = e.batch → x.part = e.part → Unheld s x)
    (hrec : e.release = true → cellUp e.scope = true → s.recalls = []) : s.postedFree e = true := by
  have hother : ((s.sibling e).all fun f => !f.moved && !s.heldBack f) = true := by
    cases hs : s.sibling e with
    | none => rfl
    | some x =>
      unfold State.sibling at hs
      split at hs
      · next hpair =>
        have hx := List.mem_of_find?_eq_some hs
        have hsome := List.find?_some hs
        simp only [Bool.and_eq_true, beq_iff_eq] at hsome
        obtain ⟨⟨hbatch, hpart⟩, -⟩ := hsome
        simp [(h x hx).1, heldBack_of_unheld (hsibling x hx hpair hbatch hpart)]
      · cases hs
  have hquiet : (e.release && cellUp e.scope && !s.recalls.isEmpty) = false := by
    cases hr : e.release with
    | false => rfl
    | true =>
      cases hc : cellUp e.scope with
      | false => rfl
      | true => simp [hrec hr hc]
  unfold State.postedFree
  rw [hother, hquiet, heldBack_of_unheld h, (h e hmine).1]
  rfl

theorem readyAs_of_lineFree {s : State} {line : Nat} (h : LineFree s line) (fl : BitVec 8) (wide : Bool) (ctx : BitVec 10)
    (flow : BitVec 16) (write : Bool) : s.readyAs fl wide ctx flow line write = .yes s := by
  have hdir : (s.dir.find? fun e => e.line = line) = none :=
    List.find?_eq_none.mpr fun e he => by simpa using h.mine e he
  have hdead : s.resolveDead line = s := by simp only [State.resolveDead, hdir]
  have hbusy : (s.recalls.any fun r => r.line = line) = false :=
    List.any_eq_false.mpr fun r hr => by simpa using h.quiet r hr
  simp only [State.readyAs, h.here, if_true, h.thawed, Bool.false_eq_true, if_false, hdead, hdir, hbusy]

/-- A posted store that nothing holds back, to a line that is free, lands. -/
theorem exec_registrationAck {s : State} {e : Posted} {pa : Nat} {bs : List Byte} (hon : s.power ≠ .off)
    (hone : (s.posted.filter fun x => x.id = e.id) = [e]) (hbytes : e.bytes = cellsAt pa bs) (hsome : bs ≠ [])
    (hfree : LineFree s (lineOf pa)) (hpost : s.postedFree e = true) :
    exec (.registrationAck e.id) s = .next (s.landPosted e) := by
  have hexec : exec (.registrationAck e.id) s = execRegistrationAck e.id s := rfl
  have hfind : (s.posted.find? fun x => x.id = e.id) = some e := by rw [← List.head?_filter, hone]; rfl
  have hperform : s.performPosted e = .yes (s.landPosted e) := by
    obtain ⟨b, bs', rfl⟩ := List.exists_cons_of_ne_nil hsome
    unfold State.performPosted
    rw [hpost, hbytes]
    simp only [cellsAt, List.mapIdx_cons, Nat.add_zero, readyAs_of_lineFree hfree]
    rfl
  rw [hexec, execRegistrationAck, State.ev, if_neg hon]
  unfold State.ackPosted
  rw [hfind]
  dsimp only
  rw [hperform]

/-! ### What landing does -/

theorem homeWrite_mem_of_free {s : State} {pa : Nat} {bs : List Byte} (hfree : LineFree s (lineOf pa)) (hsome : bs ≠ [])
    (hline : ∀ k, k < bs.length → lineOf (pa + k) = lineOf pa) (own : Option Nat) :
    (s.homeWrite own (cellsAt pa bs)).mem = s.mem.putList pa bs := by
  have hmem : (s.homeWrite own (cellsAt pa bs)).mem = (s.hwWrite pa bs).mem := rfl
  have hcur (k : Nat) (hk : s.keyOf (lineOf pa) = some k) :
      ((s.tags.find? fun t => t.1 = lineOf (lineOf pa)).map fun t => (t.2.1, t.2.2)).getD (k, 0) = (k, s.genOf k) := by
    rw [lineOf_lineOf]
    exact (hfree.keyed (lineOf pa) (lineOf_lineOf pa)).2 k hk
  rw [hmem, State.hwWrite_mem, cellsAt_lines hline rfl (List.length_pos_iff.mpr hsome), List.foldl_cons, List.foldl_nil,
    State.retag_mem s (lineOf pa) fun _ => hcur]

/-- The words registered are the core's alone. -/
theorem register_l1 (s : State) (core : Nat) (ws : List Nat) {word : Nat} (hword : word ∈ ws) :
    (∃ w ∈ (s.register core ws).l1, w.core = core ∧ w.word = word ∧ w.reg = true) ∧
      ∀ w ∈ (s.register core ws).l1, w.word = word → w.reg = true → w.core = core := by
  unfold State.register
  dsimp only
  refine ⟨⟨_, List.mem_append_left _ (List.mem_map.mpr ⟨word, hword, rfl⟩), rfl, rfl, rfl⟩, fun w hw hwo hreg => ?_⟩
  rcases List.mem_append.mp hw with hw | hw
  · obtain ⟨x, -, rfl⟩ := List.mem_map.mp hw
    rfl
  · have hstale := (List.mem_filter.mp hw).2
    simp [hwo, hword, hreg] at hstale

theorem landPosted_shape (s : State) (e : Posted) : ∃ u m ts ws ct hz tl po,
    s.landPosted e = State.register u e.core ((e.bytes.map fun c => wordOf c.1).dedup) ∧
    s.landPosted e = { s with
      mem := m, tags := ts, l1 := ws, cellTaken := ct, hazes := hz, tiles := tl, poison := po
      posted := s.posted.filter fun f => f.id ≠ e.id } ∧
    m = (State.homeWrite { s with posted := s.posted.filter fun f => f.id ≠ e.id } (some e.core) e.bytes).mem := by
  obtain ⟨m, ts, ws, ct, hz, tl, hwrite⟩ :=
    State.homeWrite_shape { s with posted := s.posted.filter fun f => f.id ≠ e.id } (some e.core) e.bytes
  have hclear (t : State) (ls : List Nat) : ∃ ws po, t.clearPoison ls = { t with l1 := ws, poison := po } := ⟨_, _, rfl⟩
  unfold State.landPosted
  dsimp only
  rw [hwrite]
  generalize e.whole.filter _ = ls
  obtain ⟨ws', po, hcleared⟩ := hclear { s with
    mem := m, tags := ts, l1 := ws, cellTaken := ct, hazes := hz, tiles := tl
    posted := s.posted.filter fun f => f.id ≠ e.id } ls
  rw [hcleared]
  obtain ⟨l1, hreg⟩ := State.register_shape { s with
    mem := m, tags := ts, l1 := ws', cellTaken := ct, hazes := hz, tiles := tl, poison := po
    posted := s.posted.filter fun f => f.id ≠ e.id } e.core ((e.bytes.map fun c => wordOf c.1).dedup)
  exact ⟨_, m, ts, l1, ct, hz, tl, po, rfl, hreg, rfl⟩

theorem storeLands (s : State) (e : Posted) (pa : Nat) (bs : List Byte) (hon : s.power ≠ .off)
    (hone : (s.posted.filter fun x => x.id = e.id) = [e]) (hbytes : e.bytes = cellsAt pa bs) (hsome : bs ≠ [])
    (hline : ∀ k, k < bs.length → lineOf (pa + k) = lineOf pa) (hfree : LineFree s (lineOf pa)) (hunheld : Unheld s e)
    (hsibling : ∀ x ∈ s.posted, e.pair = true → x.batch = e.batch → x.part = e.part → Unheld s x)
    (hrec : e.release = true → cellUp e.scope = true → s.recalls = []) :
    ∃ t : State, exec (.registrationAck e.id) s = .next t ∧
      (∀ k (hk : k < bs.length), t.mem.get (pa + k) = bs[k] ∧
        (∃ w ∈ t.l1, w.core = e.core ∧ w.word = (pa + k) / 4 ∧ w.reg = true) ∧
        ∀ w ∈ t.l1, w.word = (pa + k) / 4 → w.reg = true → w.core = e.core) ∧
      (∀ b, ¬ (pa ≤ b ∧ b < pa + bs.length) → t.mem.get b = s.mem.get b) ∧
      t.posted = s.posted.filter (fun x => x.id ≠ e.id) ∧
      t = { s with
            mem := t.mem, tags := t.tags, hazes := t.hazes, cellTaken := t.cellTaken, tiles := t.tiles, l1 := t.l1
            posted := t.posted, poison := t.poison } := by
  have hmine : e ∈ s.posted := List.mem_of_mem_filter (hone ▸ List.mem_singleton_self e)
  have hexec := exec_registrationAck hon hone hbytes hsome hfree (postedFree_of_unheld hmine hunheld hsibling hrec)
  obtain ⟨u, m, ts, ws, ct, hz, tl, po, hregister, hland, hmem⟩ := landPosted_shape s e
  have hput : m = s.mem.putList pa bs := by
    rw [hmem, hbytes, homeWrite_mem_of_free (lineFree_of_posted hfree ⟨_, rfl⟩) hsome hline]
  have hword (k : Nat) (hk : k < bs.length) : (pa + k) / 4 ∈ (e.bytes.map fun c => wordOf c.1).dedup := by
    rw [hbytes, List.mem_dedup]
    obtain ⟨c, hc, heq⟩ := List.mem_map.mp (mem_fst_cellsAt.mpr (⟨by omega, by omega⟩ : pa ≤ pa + k ∧ pa + k < pa + bs.length))
    exact List.mem_map.mpr ⟨c, hc, by rw [heq]; rfl⟩
  refine ⟨_, hexec, fun k hk => ⟨?_, ?_⟩, fun b hb => ?_, ?_, ?_⟩
  · rw [hland, hput]
    dsimp only
    rw [Memory.get_putList _ _ _ _ hfree.canonical, dif_pos (by omega)]
    congr 1
    omega
  · rw [hregister]
    exact register_l1 u e.core _ (hword k hk)
  · rw [hland, hput]
    dsimp only
    rw [Memory.get_putList _ _ _ _ hfree.canonical, dif_neg hb]
  · rw [hland]
  · rw [hland]

theorem writesLand : WritesLand := ⟨storeLands, fenceEnds⟩

/-- Settles O35, event by event: a lane that nothing stands in front of reads what its access sees, and its result is written at
once or register by register; a second half joins the first; a posted store lands at its home; a FENCE ends. -/
theorem accessesLand : Obligations.AccessesLand := ⟨loadsBind, secondHalfFollows, writesLand⟩

end Sys2Proof.Machine

/-! ## Predicates (O13) -/

namespace Sys2Proof.Machine
open Claims

/-! ### The result and its complement (R167, R215) -/

/-- The group after `t` and then its complement are written to two predicates. -/
def Group.setTest (g : Group) (m : Mask) (pd pc : BitVec 7) (t : Mask) : Group := (g.setP m pd t).setP m pc (~~~t)

theorem Group.pred_setTest (g : Group) (m : Mask) (pd pc : BitVec 7) (t : Mask) (r : BitVec 7) (l : Fin 32) :
    ((g.setTest m pd pc t).pred r).getLsbD l.val =
      if r ≠ 0#7 ∧ m.getLsbD l.val = true ∧ r = pc then !t.getLsbD l.val
      else if r ≠ 0#7 ∧ m.getLsbD l.val = true ∧ r = pd then t.getLsbD l.val
      else (g.pred r).getLsbD l.val := by
  rw [Group.setTest, Group.pred_setP, Group.pred_setP, BitVec.getLsbD_not, decide_eq_true l.isLt, Bool.true_and]
  simp only [and_comm]

/-- The state after an issue that wrote `t` and its complement. -/
def State.tested (s : State) (m : Mask) (pd pc : BitVec 7) (t : Mask) : State :=
  s.commit.setG ((s.commit.g.setTest m pd pc t).advance s.iss.mask)

theorem Group.setTest_shape (g : Group) (m : Mask) (pd pc : BitVec 7) (t : Mask) :
    g.setTest m pd pc t = { g with p := (g.setTest m pd pc t).p } := by
  unfold Group.setTest Group.setP
  split <;> split <;> rfl

theorem pred_congr {g g' : Group} (h : g.p = g'.p) (r : BitVec 7) : g.pred r = g'.pred r := by
  unfold Group.pred
  rw [h]

/-- Such an issue has the result in one predicate and its complement in the other, and nothing else changes. -/
theorem testEffect_tested (s : State) (m : Mask) (pd pc : BitVec 7) {t : Mask} {f : Fin 32 → Bool}
    (h : ∀ l : Fin 32, t.getLsbD l.val = f l) :
    TestResult s (s.tested m pd pc t) m pd pc f ∧ (s.tested m pd pc t).g.fpctl = s.g.fpctl ∧
      Advances s (s.tested m pd pc t) ∧ FramePredicate s (s.tested m pd pc t) := by
  have hshape := s.commit.g.setTest_shape m pd pc t
  refine ⟨fun r l => ?_, ?_, advances_setG ?_, ?_, fun _ => rfl⟩
  · have hp : (s.tested m pd pc t).g.pred r = (s.commit.g.setTest m pd pc t).pred r := pred_congr (Group.advance_p ..) r
    rw [hp, Group.pred_setTest, h, pred_congr (s.commit_g_p) r]
  · rw [State.tested, State.setG, Group.advance_fpctl, hshape, State.commit_g_fpctl]
  · rw [hshape, State.commit_g_lpc]
  · rw [State.tested, hshape]
    rfl

/-! ### ICMP (R167) -/

theorem exec_compare {s : State} {w : WCmp} {i : Instr} {f : W32 → W32 → Bool} (h : Runs s i w.guard)
    (hexec : exec i s = s.cmp i w f) :
    exec i s = .next (s.tested (s.actLanes w.guard) w.pd w.pc (maskOf fun l => f (s.g.src w.a l) (s.g.src w.b l))) := by
  have hsrc (x : VSrc) (l : Fin 32) : s.commit.g.src x l = s.g.src x l := Group.src_congr s.commit_g_v s.commit_g_s x l
  rw [hexec, State.cmp, State.vec_next _ _ _ _ h.on h.alloc h.sound]
  simp only [hsrc]
  rfl

/-- Every compare decides its relation of the values of R167. -/
theorem exec_of_compares {w : WCmp} {r : Instr × (W32 → W32 → Bool)} (hr : r ∈ compares w) (s : State) : exec r.1 s = s.cmp r.1 w r.2 := by
  have heq (a b : W32) : decide (sg a = sg b) = (a == b) := by
    rw [Bool.beq_eq_decide_eq]
    exact decide_eq_decide.mpr BitVec.toInt_inj
  have hltU (a b : W32) : decide (un a < un b) = a.ult b := decide_eq_decide.mpr Int.ofNat_lt
  have hleU (a b : W32) : decide (un a ≤ un b) = a.ule b := decide_eq_decide.mpr Int.ofNat_le
  simp only [compares, List.mem_cons, List.not_mem_nil, or_false] at hr
  rcases hr with rfl | rfl | rfl | rfl | rfl
  · simp only [heq]; rfl
  · rfl
  · rfl
  · simp only [hltU]; rfl
  · simp only [hleU]; rfl

theorem integerCompare : IntegerCompare := fun s _ _ hr h =>
  ⟨_, exec_compare h (exec_of_compares hr s), testEffect_tested s _ _ _ fun _ => getLsbD_maskOf _ _⟩

/-! ### PAND, POR, PXOR and PMOV (R215) -/

theorem exec_plogic {s : State} {w : WPred} {i : Instr} {f : Mask → Mask → Mask} (h : Runs s i w.guard)
    (hexec : exec i s = s.plogic i w f) :
    exec i s = .next (s.tested (s.actLanes w.guard) w.pd w.pc (f (s.g.pred w.pa) (s.g.pred w.pb))) := by
  rw [hexec, State.plogic, State.cross_next _ _ _ _ h.on h.alloc h.sound, pred_congr s.commit_g_p, pred_congr s.commit_g_p]
  rfl

theorem predicateLogic : PredicateLogic := by
  refine ⟨fun s w i f hi h => ?_, fun s w h => ?_⟩
  · rcases hi with ⟨rfl, rfl⟩ | ⟨rfl, rfl⟩ | ⟨rfl, rfl⟩
    · exact ⟨_, exec_plogic h rfl, testEffect_tested s _ _ _ fun l => BitVec.getLsbD_and⟩
    · exact ⟨_, exec_plogic h rfl, testEffect_tested s _ _ _ fun l => BitVec.getLsbD_or⟩
    · exact ⟨_, exec_plogic h rfl, testEffect_tested s _ _ _ fun l => BitVec.getLsbD_xor⟩
  · have hexec : exec (.pmov w) s = .next (s.tested (s.actLanes w.guard) w.pd w.pc (s.g.pred w.pa)) := by
      have hcross : exec (.pmov w) s = execPmov w s := rfl
      rw [hcross, execPmov, State.cross_next _ _ _ _ h.on h.alloc h.sound, pred_congr s.commit_g_p]
      rfl
    exact ⟨_, hexec, testEffect_tested s _ _ _ fun _ => rfl⟩

/-- Settles O13: both words write the result and then its complement, and p0 takes neither. -/
theorem predicateResults : Obligations.PredicateResults := ⟨integerCompare, predicateLogic⟩

end Sys2Proof.Machine

/-! ## Floating arithmetic (O5) -/

namespace Sys2Proof.Machine
open Claims

/-! ### Pairs and flags -/

theorem regUp_one_ne_reg7 (d : BitVec 7) : regUp d 1 ≠ reg7 d := fun h => by
  have hval : (d.toNat + 1) % 128 = d.toNat := congrArg Fin.val h
  have := d.isLt
  omega

/-- A register of a lane after a pair is written. -/
theorem Group.vr_setPair (g : Group) (m : Mask) (d : BitVec 7) (f : Fin 32 → W64) (r : Fin 128) (l : Fin 32) :
    (g.setPair m d f).vr r l = if m.getLsbD l.val = true ∧ r = regUp d 1 then (f l).extractLsb' 32 32
      else if m.getLsbD l.val = true ∧ r = reg7 d then (f l).extractLsb' 0 32 else g.vr r l := by
  rw [Group.setPair, Group.vr_setV, Group.vr_setV]
  simp only [and_comm]

theorem Group.vpair_setPair (g : Group) {m : Mask} (d : BitVec 7) (f : Fin 32 → W64) {l : Fin 32} (h : m.getLsbD l.val = true) :
    (g.setPair m d f).vpair d l = f l := by
  rw [Group.vpair, Group.vr_setPair, Group.vr_setPair, if_pos ⟨h, rfl⟩, if_neg (fun hr => regUp_one_ne_reg7 d hr.2.symm),
    if_pos ⟨h, rfl⟩]
  refine BitVec.eq_of_getLsbD_eq fun k hk => ?_
  rw [BitVec.getLsbD_append, BitVec.getLsbD_extractLsb', BitVec.getLsbD_extractLsb']
  by_cases hlow : k < 32
  · simp [hlow]
  · rw [if_neg (by simpa using hlow), decide_eq_true (by omega), Bool.true_and, Nat.add_sub_cancel' (by omega)]

/-- A bit of united flags is one that some lane raises. -/
theorem getLsbD_flagsOf (m : Mask) (f : Fin 32 → Flags) (k : Nat) :
    (flagsOf m f).getLsbD k = true ↔ ∃ l : Fin 32, m.getLsbD l.val = true ∧ (f l).getLsbD k = true := by
  have hfold (ls : List (Fin 32)) (a : Flags) : (ls.foldl (fun a i => a ||| f i) a).getLsbD k = true ↔
      a.getLsbD k = true ∨ ∃ l ∈ ls, (f l).getLsbD k = true := by
    induction ls generalizing a with
    | nil => simp
    | cons l ls ih =>
      rw [List.foldl_cons, ih, BitVec.getLsbD_or, Bool.or_eq_true]
      simp only [List.mem_cons, exists_eq_or_imp, or_assoc]
  rw [flagsOf, hfold]
  simp only [BitVec.getLsbD_zero, Bool.false_eq_true, false_or, mem_lanesOf]

/-! ### Elements (R65, R188) -/

/-- The results of the elements of a lane, as they stand in its destination, and their flags together. -/
def FKind.joined (k : FKind) (val : Nat → Nat × Flags) : W64 × Flags :=
  match k with
  | .f64 | .f32 => (BitVec.ofNat 64 (val 0).1, (val 0).2)
  | _ => (pack16 (val 0).1 (val 1).1, (val 0).2 ||| (val 1).2)

/-- An operation acts on one element of every operand at a time. -/
theorem FKind.map_fsrc (k : FKind) (op : Fmt → List Nat → Nat × Flags) (g : Group) (xs : List VSrc) (l : Fin 32) :
    k.map op (xs.map fun x => g.fsrc k x l) = k.joined fun e => op k.fmt (xs.map fun x => elem g k x l e) := by
  have hwhole (x : VSrc) : ((g.src x l).zeroExtend 64).toNat = (g.src x l).toNat := by
    rw [BitVec.zeroExtend, BitVec.toNat_setWidth]
    exact Nat.mod_eq_of_lt (Nat.lt_of_lt_of_le (g.src x l).isLt (by decide))
  cases k with
  | f64 => simp only [FKind.map, FKind.joined, List.map_map]; rfl
  | f32 => simp only [FKind.map, FKind.joined, List.map_map, Function.comp_def, Group.fsrc, hwhole]; rfl
  | f16x2 => simp only [FKind.map, FKind.joined, List.map_map, Function.comp_def, Group.fsrc, half16, hwhole]; rfl
  | bf16x2 => simp only [FKind.map, FKind.joined, List.map_map, Function.comp_def, Group.fsrc, half16, hwhole]; rfl

/-- Each half of a packed result is one element's. -/
theorem extract_pack16 (lo hi e : Nat) (he : e < 2) :
    ((pack16 lo hi).extractLsb' 0 32).extractLsb' (16 * e) 16 = BitVec.ofNat 16 (if e = 0 then lo else hi) := by
  have hnum : (pack16 lo hi).toNat = hi % 65536 * 65536 + lo % 65536 := by
    rw [pack16, BitVec.toNat_ofNat, Nat.mod_eq_of_lt (by omega)]
  rw [← BitVec.toNat_inj]
  simp only [BitVec.extractLsb'_toNat, hnum, Nat.shiftRight_eq_div_pow, BitVec.toNat_ofNat]
  rcases (by omega : e = 0 ∨ e = 1) with rfl | rfl
  · simp only [if_pos]
    omega
  · simp only [if_neg one_ne_zero]
    omega

/-! ### A word that gives every lane a result and flags (R188) -/

/-- The group after such a word, before its lanes advance. -/
def Group.floated (g : Group) (k : FKind) (m : Mask) (d : BitVec 7) (val : Fin 32 → Nat → Nat × Flags) : Group :=
  (g.setWide k.wide m d fun l => (k.joined (val l)).1).raise (flagsOf m fun l => (k.joined (val l)).2)

theorem Group.floated_shape (g : Group) (k : FKind) (m : Mask) (d : BitVec 7) (val : Fin 32 → Nat → Nat × Flags) :
    ∃ v watch vbad fpctl, g.floated k m d val = { g with v := v, watch := watch, vbad := vbad, fpctl := fpctl } := by
  unfold Group.floated Group.setWide
  split <;> exact ⟨_, _, _, _, rfl⟩

/-- The state after an issue that gave its active lanes these elements. -/
def State.floated (s : State) (k : FKind) (m : Mask) (d : BitVec 7) (val : Fin 32 → Nat → Nat × Flags) : State :=
  s.commit.setG ((s.commit.g.floated k m d val).advance s.iss.mask)

section
variable (s : State) (m : Mask) (d : BitVec 7) (val : Fin 32 → Nat → Nat × Flags)

theorem vr_floated (k : FKind) (r : Fin 128) (l : Fin 32) : (s.floated k m d val).g.vr r l =
    (s.commit.g.setWide k.wide m d fun l => (k.joined (val l)).1).vr r l := by
  simp only [State.floated, State.setG, Group.vr, Group.advance_v, Group.floated, Group.raise_v]

theorem laneResult_floated {k : FKind} (hk : k.wide = false) {P : Fin 32 → W32 → Prop}
    (h : ∀ l, P l ((k.joined (val l)).1.extractLsb' 0 32)) : LaneResult s (s.floated k m d val) m d P := by
  have hset := laneResult_setV (s := s) (m := m) (d := d) (f := fun l => (k.joined (val l)).1.extractLsb' 0 32) h
  intro r l
  have hv : (s.floated k m d val).g.vr r l =
      (s.commit.setG ((s.commit.g.setV m (reg7 d) fun l => (k.joined (val l)).1.extractLsb' 0 32).advance s.iss.mask)).g.vr r l := by
    rw [vr_floated, Group.setWide, if_neg (by simp [hk])]
    simp only [State.setG, Group.vr, Group.advance_v]
  rw [hv]
  exact hset r l

theorem pairResult_floated : PairResult s (s.floated .f64 m d val) m d fun l x => x = BitVec.ofNat 64 (val l 0).1 := by
  have hv (r : Fin 128) (l : Fin 32) : (s.floated .f64 m d val).g.vr r l =
      (s.commit.g.setPair m d fun l => BitVec.ofNat 64 (val l 0).1).vr r l := by
    rw [vr_floated, Group.setWide, if_pos (by decide)]
    simp only [FKind.joined]
  refine ⟨fun l hl => ?_, fun r l hr => ?_⟩
  · rw [Group.vpair, hv, hv, ← Group.vpair, Group.vpair_setPair _ _ _ hl]
  · rw [hv, Group.vr_setPair, if_neg (fun h => hr ⟨.inr h.2, h.1⟩), if_neg (fun h => hr ⟨.inl h.2, h.1⟩)]
    simp only [Group.vr, State.commit_g_v]

theorem joined_flags (k : FKind) (l : Fin 32) :
    (k.joined (val l)).2 = if k = .f64 ∨ k = .f32 then (val l 0).2 else (val l 0).2 ||| (val l 1).2 := by
  cases k <;> rfl

theorem floatEffect_floated (k : FKind) : FloatEffect s (s.floated k m d val) k m d val := by
  obtain ⟨v, watch, vbad, fpctl, hshape⟩ := s.commit.g.floated_shape k m d val
  have hpacked (hk : k = .f16x2 ∨ k = .bf16x2) (l : Fin 32) (e : Nat) (he : e < 2) :
      ((k.joined (val l)).1.extractLsb' 0 32).extractLsb' (16 * e) 16 = BitVec.ofNat 16 (val l e).1 := by
    have hjoined : (k.joined (val l)).1 = pack16 (val l 0).1 (val l 1).1 := by
      rcases hk with rfl | rfl <;> rfl
    rw [hjoined, extract_pack16 _ _ _ he]
    rcases (by omega : e = 0 ∨ e = 1) with rfl | rfl <;> rfl
  refine ⟨?_, fun b => ?_, ?_, advances_setG ?_, ?_, fun _ => rfl⟩
  · cases k with
    | f64 => exact pairResult_floated s m d val
    | f32 => exact laneResult_floated s m d val rfl fun l => BitVec.eq_of_toNat_eq (by simp [FKind.joined])
    | f16x2 => exact laneResult_floated s m d val rfl (hpacked (.inl rfl))
    | bf16x2 => exact laneResult_floated s m d val rfl (hpacked (.inr rfl))
  · have hflags : (s.floated k m d val).g.fpctl = (s.g.raise (flagsOf m fun l => (k.joined (val l)).2)).fpctl := by
      rw [State.floated, Group.floated, Group.setWide]
      split <;> rfl
    rw [hflags, getLsbD_raise, getLsbD_flagsOf]
    simp only [joined_flags]
  · rw [State.floated, State.setG, Group.advance_sr, hshape, State.commit_g_sr]
  · rw [hshape, State.commit_g_lpc]
  · rw [State.floated, hshape]
    rfl

end

/-- A word that operates on the elements of some operands. -/
theorem exec_elements {s : State} {i : Instr} {guard d : BitVec 7} {k : FKind} {op : Group → Fmt → List Nat → Nat × Flags}
    (xs : List VSrc) (h : Runs s i guard) (hop : op s.commit.g = op s.g)
    (hexec : exec i s = s.fvec i guard k.wide d fun g l => k.map (op g) (xs.map fun x => g.fsrc k x l)) :
    exec i s = .next (s.floated k (s.actLanes guard) d fun l e => op s.g k.fmt (xs.map fun x => elem s.g k x l e)) := by
  rw [hexec, State.fvec, State.vec_next _ _ _ _ h.on h.alloc h.sound]
  simp only [FKind.map_fsrc, hop]
  rfl

/-! ### FADD, FSUB, FMUL and FFMA (R190, R191) -/

theorem exec_of_floatTwo {w : WRnd} {r : Instr × FKind × (Fmt → RMode → Nat → Nat → Nat × Flags)} (hr : r ∈ floatTwo w) (s : State) :
    exec r.1 s = s.frnd r.1 r.2.1 w r.2.2 := by
  simp only [floatTwo, List.mem_cons, List.not_mem_nil, or_false] at hr
  rcases hr with rfl | rfl | rfl | rfl | rfl | rfl | rfl | rfl | rfl | rfl | rfl | rfl <;> rfl

theorem exec_of_floatThree {w : WTri} {r : Instr × FKind} (hr : r ∈ floatThree w) (s : State) : exec r.1 s = s.ffma r.1 r.2 w := by
  simp only [floatThree, List.mem_cons, List.not_mem_nil, or_false] at hr
  rcases hr with rfl | rfl | rfl | rfl <;> rfl

theorem floatArithmetic : FloatArithmetic := fun s w r hr h =>
  ⟨_, exec_elements (op := fun g => op2 fun fm => r.2.2 fm (rndMode w.rnd g.fpctl)) [w.a, w.b] h rfl (exec_of_floatTwo hr s),
    floatEffect_floated s _ _ _ _⟩

theorem floatFused : FloatFused := fun s w _ hr h =>
  ⟨_, exec_elements (op := fun g => op3 fun fm => fFma fm (rmOf g.fpctl)) [w.a, w.b, w.c] h rfl (exec_of_floatThree hr s),
    floatEffect_floated s _ _ _ _⟩

/-- Settles O5: each element is what the operation of its format gives, and the flags of the active lanes are united. -/
theorem floatArithmeticAndFused : Obligations.FloatArithmeticAndFused := ⟨floatArithmetic, floatFused⟩

end Sys2Proof.Machine

/-! ## Register allocation (O25) -/

namespace Sys2Proof.Machine
open Claims

/-! ### A scalar predicate written, and registers added -/

/-- Of a group only the scalar predicates are written, and those of every group that has the same come out the same. -/
theorem Group.setQ_shape (g : Group) (q : BitVec 4) (b : Bool) :
    ∃ x, ∀ g' : Group, g'.q = g.q → g'.setQ q b = { g' with q := x } := by
  unfold Group.setQ
  split
  · exact ⟨g.q, fun g' h => by rw [← h]⟩
  · exact ⟨_, fun g' h => by rw [h]⟩

theorem qp_congr {g g' : Group} (h : g.q = g'.q) (r : BitVec 4) : g.qp r = g'.qp r := by
  unfold Group.qp
  rw [h]

/-- A scalar predicate that is written holds the value, unless it is q0. -/
theorem scalarTest_of_setQ {s t : State} {q : BitVec 4} {b : Bool} (h : t.g.q = (s.g.setQ q b).q) : ScalarTest s t q b := fun r => by
  rw [qp_congr h, Group.qp_setQ]
  simp only [and_comm]

/-- The registers of a group that grows to `n`: those it has, and free values above them (R42). -/
def State.grownV (s : State) (n : Nat) : Vector (Vector W32 32) 128 :=
  Vector.ofFn fun r : Fin 128 =>
    if s.g.n ≤ r.val && decide (r.val < n) then
      Vector.ofFn fun l : Fin 32 => (s.freeW (r.val * 32 + l.val)).extractLsb' 0 32
    else s.g.v[r]

theorem State.grownV_below (s : State) (n : Nat) {r : Fin 128} (h : r.val < s.g.n) : (s.grownV n)[r.val] = s.g.v[r.val] := by
  simp [State.grownV, Nat.not_le.mpr h]

/-- Growing adds registers and blocks, sets the predicate, and lets the lanes that issued the word go on. -/
theorem State.growTo_shape (s : State) (n : Nat) (q : BitVec 4) (issue : Mask) : ∃ owners bs, s.growTo n q issue =
    { s with
      blockOwner := owners
      g := { s.g with
        n := n, v := s.grownV n, q := (s.g.setQ q true).q, lpc := (s.g.advance issue).lpc, status := .running, blocks := bs } } := by
  obtain ⟨x, hset⟩ := s.g.setQ_shape q true
  unfold State.growTo
  dsimp only [State.ownBlocks]
  rw [hset, hset s.g rfl]
  · exact ⟨_, _, rfl⟩
  · rfl

/-! ### GROW (R240) -/

/-- What a GROW does where it need not wait for the group's own count: with room it grows, and otherwise it waits at the word. -/
def State.growOrWait (s : State) (n : Nat) (q : BitVec 4) : State :=
  if !s.growWaiting s.t.core && decide (s.usedBlocks s.t.core + (n - s.g.n) / 16 ≤ 256) then s.growTo n q s.iss.mask
  else State.setStatus { s with nextId := s.nextId + 1 } (.grow s.iss.mask n q s.nextId)

theorem advances_of_lpc {s t u : State} (h : Advances s t) (hlpc : u.g.lpc = t.g.lpc) : Advances s u := by
  unfold Advances
  rw [hlpc]
  exact h

/-- What a GROW may leave changed: no register below the old count, no predicate of a lane. -/
def GrowEffect (s t : State) : Prop :=
  t.g.s = s.g.s ∧ t.g.p = s.g.p ∧ t.g.fpctl = s.g.fpctl ∧ SameMemory s t ∧
    (∀ (r : Fin 128) (l : Fin 32), r.val < s.g.n → t.g.vr r l = s.g.vr r l) ∧
    t = { s.commit with
          blockOwner := t.blockOwner, nextId := t.nextId
          g := { s.commit.g with
            n := t.g.n, v := t.g.v, q := t.g.q, lpc := t.g.lpc, status := t.g.status, blocks := t.g.blocks } }

theorem growEffect_of_shape {s t : State}
    (h : t = { s.commit with
          blockOwner := t.blockOwner, nextId := t.nextId
          g := { s.commit.g with
            n := t.g.n, v := t.g.v, q := t.g.q, lpc := t.g.lpc, status := t.g.status, blocks := t.g.blocks } })
    (hv : ∀ r : Fin 128, r.val < s.g.n → t.g.v[r.val] = s.g.v[r.val]) : GrowEffect s t := by
  refine ⟨?_, ?_, ?_, fun a => ?_, fun r l hr => ?_, h⟩
  · rw [h]; rfl
  · rw [h]; rfl
  · rw [h]; rfl
  · rw [h]; rfl
  · rw [Group.vr, hv r hr]; rfl

theorem exec_grow {s : State} {g : GGrow} {n : Nat} (hcount : allocOf g.n3 = n) (h : Runs s (.grow g) g.guard) (hact : s.actLanes g.guard ≠ 0#32) :
    exec (.grow g) s = .next (if n ≤ s.g.n then s.commit.setG ((s.commit.g.setQ g.q true).advance s.iss.mask)
      else s.commit.growOrWait n g.q) := by
  subst hcount
  have hexec : exec (.grow g) s = execGrow g s := rfl
  rw [hexec, execGrow, State.once_next _ _ _ _ h.on h.alloc hact h.sound]
  rfl

/-- The group has the registers already. -/
theorem grow_of_enough {s : State} {g : GGrow} {n : Nat} (hcount : allocOf g.n3 = n) (h : Runs s (.grow g) g.guard) (hact : s.actLanes g.guard ≠ 0#32)
    (hn : n ≤ s.g.n) : ∃ t, exec (.grow g) s = .next t ∧ GrowEffect s t ∧ t.g.n = s.g.n ∧ ScalarTest s t g.q true ∧
      Advances s t := by
  obtain ⟨x, hset⟩ := s.g.setQ_shape g.q true
  rw [exec_grow hcount h hact, if_pos hn, hset _ s.commit_g_q]
  exact ⟨_, rfl, growEffect_of_shape rfl fun _ _ => rfl, rfl, scalarTest_of_setQ (by rw [hset _ rfl]; rfl), advances_setG rfl⟩

/-- The core has the registers. -/
theorem grow_of_room {s : State} {g : GGrow} {n : Nat} (hcount : allocOf g.n3 = n) (h : Runs s (.grow g) g.guard) (hact : s.actLanes g.guard ≠ 0#32)
    (hn : ¬ n ≤ s.g.n)
    (hroom : s.commit.growWaiting s.t.core = false ∧ s.commit.usedBlocks s.t.core + (n - s.g.n) / 16 ≤ 256) :
    ∃ t, exec (.grow g) s = .next t ∧ GrowEffect s t ∧ t.g.n = n ∧ ScalarTest s t g.q true ∧ Advances s t := by
  have hgrow : s.commit.growOrWait n g.q = s.commit.growTo n g.q s.iss.mask := by
    rw [State.growOrWait, if_pos]
    · rfl
    · rw [State.commit_t, State.commit_g_n, hroom.1, decide_eq_true hroom.2]
      rfl
  obtain ⟨owners, bs, heq⟩ := s.commit.growTo_shape n g.q s.iss.mask
  obtain ⟨x, hset⟩ := s.g.setQ_shape g.q true
  rw [exec_grow hcount h hact, if_neg hn, hgrow, heq, hset _ s.commit_g_q]
  exact ⟨_, rfl, growEffect_of_shape rfl fun _ hr => s.commit.grownV_below _ hr, rfl, scalarTest_of_setQ (by rw [hset _ rfl]),
    advances_of_lpc (advances_setG (g := s.commit.g) rfl) rfl⟩

/-- Neither: the word waits. -/
theorem grow_of_full {s : State} {g : GGrow} {n : Nat} (hcount : allocOf g.n3 = n) (h : Runs s (.grow g) g.guard) (hact : s.actLanes g.guard ≠ 0#32)
    (hn : ¬ n ≤ s.g.n)
    (hroom : ¬ (s.commit.growWaiting s.t.core = false ∧ s.commit.usedBlocks s.t.core + (n - s.g.n) / 16 ≤ 256)) :
    ∃ t, exec (.grow g) s = .next t ∧ GrowEffect s t ∧ t.g.n = s.g.n ∧ t.g.q = s.g.q ∧ t.g.lpc = s.g.lpc ∧
      ∃ since, t.g.status = .grow s.iss.mask n g.q since := by
  have hwait : s.commit.growOrWait n g.q =
      State.setStatus { s.commit with nextId := s.commit.nextId + 1 } (.grow s.iss.mask n g.q s.commit.nextId) := by
    rw [State.growOrWait, if_neg]
    · rfl
    · intro hc
      rw [Bool.and_eq_true, Bool.not_eq_true', decide_eq_true_eq] at hc
      exact hroom hc
  rw [exec_grow hcount h hact, if_neg hn, hwait]
  exact ⟨_, rfl, growEffect_of_shape rfl fun _ _ => rfl, rfl, rfl, rfl, _, rfl⟩

/-! ### SHRINK (R240) -/

/-- What a SHRINK does once its lanes have advanced. -/
def State.shrink (s : State) (n : Nat) : State :=
  if s.g.n ≤ n then s
  else if s.g.clearAbove n then (s.setG { s.g with n := n, blocks := s.g.blocks.take (n / 16) }).pushDue (.growGrant s.t.core)
  else s.setG { s.g with shrinkTo := some n }

/-- What a SHRINK may leave changed beside LPCs: the count, the blocks, the release that is pending, and what is due. -/
theorem State.shrink_shape (s : State) (n : Nat) : ∃ m bs goal due, s.shrink n =
    { s with due := due, g := { s.g with n := m, shrinkTo := goal, blocks := bs } } := by
  unfold State.shrink
  split
  · exact ⟨_, _, _, _, rfl⟩
  · split <;> exact ⟨_, _, _, _, rfl⟩

theorem State.shrink_result (s : State) (n : Nat) :
    if s.g.n ≤ n then (s.commit.pass.shrink n).g.n = s.g.n ∧ (s.commit.pass.shrink n).g.shrinkTo = s.g.shrinkTo
    else if s.commit.g.clearAbove n then
      (s.commit.pass.shrink n).g.n = n ∧ (s.commit.pass.shrink n).due = s.due ++ [.growGrant s.t.core]
    else (s.commit.pass.shrink n).g.n = s.g.n ∧ (s.commit.pass.shrink n).g.shrinkTo = some n := by
  have hn : s.commit.pass.g.n = s.g.n := by simp [State.pass]
  have hclear : s.commit.pass.g.clearAbove n = s.commit.g.clearAbove n := by simp [State.pass, Group.clearAbove]
  unfold State.shrink
  rw [hn, hclear]
  split
  · exact ⟨hn, by simp [State.pass]⟩
  · split
    · exact ⟨rfl, by simp [State.pass]⟩
    · exact ⟨hn, rfl⟩

/-- What a SHRINK may leave changed: no register. -/
def ShrinkEffect (s t : State) : Prop :=
  RegistersKept s t ∧ SameMemory s t ∧ Advances s t ∧
    t = { s.commit with
          due := t.due
          g := { s.commit.g with n := t.g.n, lpc := t.g.lpc, shrinkTo := t.g.shrinkTo, blocks := t.g.blocks } }

theorem exec_shrink {s : State} {g : GShrink} {n : Nat} (hcount : allocOf g.n3 = n) (h : Runs s (.shrink g) g.guard)
    (hact : s.actLanes g.guard ≠ 0#32) : exec (.shrink g) s = .next (s.commit.pass.shrink n) := by
  subst hcount
  have hexec : exec (.shrink g) s = execShrink g s := rfl
  rw [hexec, execShrink, State.once_next _ _ _ _ h.on h.alloc hact h.sound]
  rfl

theorem State.registersKept_pass (s : State) : RegistersKept s s.commit.pass := by
  simp [RegistersKept, State.pass]

theorem shrinkEffect (s : State) (n : Nat) : ShrinkEffect s (s.commit.pass.shrink n) := by
  obtain ⟨m, bs, goal, due, hshape⟩ := s.commit.pass.shrink_shape n
  have hadv : Advances s s.commit.pass := advances_setG rfl
  rw [hshape]
  exact ⟨s.registersKept_pass, fun _ => rfl, advances_of_lpc hadv rfl, rfl⟩

/-- Settles O25: a GROW has its registers, finds them, or waits; a SHRINK has few enough, releases them, or waits. -/
theorem registerAllocation : Obligations.RegisterAllocation := by
  refine ⟨fun s g h hact => ?_, fun s g h hact => ?_⟩
  · generalize hcount : 16 * (g.n3.toNat + 1) = n
    by_cases hn : n ≤ s.g.n
    · obtain ⟨t, ht, ⟨hs, hp, hf, hm, hv, hframe⟩, hnew, htest, hadv⟩ := grow_of_enough hcount h hact hn
      refine ⟨t, ht, hs, hp, hf, hm, hv, hframe, ?_⟩
      rw [if_pos (.inl hn)]
      exact ⟨hnew.trans (Nat.max_eq_left hn).symm, htest, hadv⟩
    by_cases hroom : s.commit.growWaiting s.t.core = false ∧ s.commit.usedBlocks s.t.core + (n - s.g.n) / 16 ≤ 256
    · obtain ⟨t, ht, ⟨hs, hp, hf, hm, hv, hframe⟩, hnew, htest, hadv⟩ := grow_of_room hcount h hact hn hroom
      refine ⟨t, ht, hs, hp, hf, hm, hv, hframe, ?_⟩
      rw [if_pos (.inr hroom)]
      exact ⟨hnew.trans (Nat.max_eq_right (by omega)).symm, htest, hadv⟩
    · obtain ⟨t, ht, ⟨hs, hp, hf, hm, hv, hframe⟩, hnew, hq, hlpc, hstatus⟩ := grow_of_full hcount h hact hn hroom
      refine ⟨t, ht, hs, hp, hf, hm, hv, hframe, ?_⟩
      rw [if_neg (not_or.mpr ⟨hn, hroom⟩)]
      exact ⟨hnew, hq, hlpc, hstatus⟩
  · generalize hcount : 16 * (g.n3.toNat + 1) = n
    obtain ⟨hkept, hmem, hadv, hframe⟩ := shrinkEffect s n
    exact ⟨_, exec_shrink hcount h hact, hkept, hmem, hadv, hframe, s.shrink_result n⟩

end Sys2Proof.Machine

/-! ## How a wait ends (O36) -/

namespace Sys2Proof.Machine
open Claims

/-! ### Reading again (R237, R239) -/

/-- A new operation of a group of which everything has bound is not held back. -/
theorem State.gate_of_idle {s : State} (h : Idle s) (o : Op) : s.gate o = true := by
  have hbefore : ∀ p ∈ s.g.ops.takeWhile fun p => p.id != o.id, p.unbound = false :=
    fun p hp => h.bound p (List.takeWhile_subset _ hp)
  have hholds : (s.g.ops.takeWhile fun p => p.id != o.id).any (s.holds o) = false := by
    rw [List.any_eq_false]
    intro p hp
    simp [State.holds, hbefore p hp]
  have hops : ((s.g.ops.takeWhile fun p => p.id != o.id).any fun p =>
      p.moved && (lanesOf (p.pend &&& ~~~p.sent)).any fun l => o.inLine (p.lanes[l]).addr) = false := by
    rw [List.any_eq_false]
    intro p hp
    simp [Op.bound_pend (hbefore p hp), lanesOf_eq_nil.mpr rfl]
  have hposted : (s.posted.any fun e => e.moved && e.team == s.t.tid && e.group == s.g.id && decide (e.part.1 < o.id) &&
      o.inLine e.va) = false := by
    rw [List.any_eq_false]
    intro e he
    simp [h.unmoved e he]
  rw [State.gate, State.behindMoved, hholds, hops, hposted]
  simp

/-- A read that is no acquire changes the L1 alone. -/
theorem readVa_unordered {s : State} {va : W64} {pa n : Nat} (sc : Scope) (hheld : Held s va .load pa) (hset : Settled s pa n)
    (hsound : s.corePoison s.t.core pa n = false) :
    ∃ ws bs, s.readVa va n (.strong .st sc) = .bytes { s with l1 := ws } bs := by
  have hw := Writable.ofSettled hset
  have hclean : s.poisoned pa = false := hw.sound
  obtain ⟨ws, hfill⟩ := s.fill_shape s.t.core pa
  obtain ⟨ws', hrefresh⟩ := s.refresh_shape s.t.core pa n
  have hended (t : State) : t.ended (.strong .st sc) = t := rfl
  unfold State.readVa
  rw [translate_of_held hheld]
  dsimp only
  rw [State.drainBytes_of_landed hw.landed, hw.readyAs_eq, hw.readyAs_eq]
  simp only [hsound, hclean, Bool.false_eq_true, if_false, hended, hfill, hrefresh]
  split
  · split <;> exact ⟨_, _, rfl⟩
  · exact ⟨_, _, rfl⟩

/-- What a waiting CWAIT finds at its counter: the number `x`, with no change but in the L1. -/
theorem counterRead {f : State} {g : GCtr} {va : W64} {x : Nat}
    (h : if g.sp then ScratchRange f va 8 ∧ x = scrNum f va.toNat 8
      else ∃ pa, Held f va .load pa ∧ Settled f pa 8 ∧ f.corePoison f.t.core pa 8 = false ∧ x = seen f (.strong .st g.scope) pa 8) :
    ∃ ws bs, ofBytes bs = x ∧ ∀ read, (if g.sp then f.loadSp va 8 (.strong .st g.scope) read
      else f.loadVa va 8 (.strong .st g.scope) read) = .done (read { f with l1 := ws } bs) := by
  split at h
  · next hsp =>
    obtain ⟨hrange, rfl⟩ := h
    refine ⟨f.l1, f.scrBytes va.toNat 8, rfl, fun read => ?_⟩
    rw [if_pos hsp, State.loadSp, State.readSp, hrange.clean]
    rfl
  · next hsp =>
    obtain ⟨pa, hheld, hset, hsound, rfl⟩ := h
    obtain ⟨ws, bs, hread⟩ := readVa_unordered g.scope hheld hset hsound
    obtain ⟨ws', old, bs', hread', -, hnum⟩ := State.readVa_of_held (.strong .st g.scope) hheld hset hsound
    rw [hread] at hread'
    injection hread' with hstate hbytes
    refine ⟨ws, bs, hbytes ▸ hnum, fun read => ?_⟩
    rw [if_neg hsp, State.loadVa, hread]
    rfl

theorem lanesAdvance_of_lpc {s t : State} {m : Mask} (h : t.g.lpc = (s.g.advance m).lpc) : LanesAdvance s t m := fun l => by
  rw [h]
  exact s.g.advance_lpc_get m l

/-- A group that has what it waits for: an acquire, and the lanes that issued the word go on. -/
def State.wakes (s : State) (sc : Scope) (issue : Mask) : State :=
  ((s.acquired true sc).setG ((s.acquired true sc).g.advance issue)).setStatus .running

theorem State.wakes_shape (s : State) (sc : Scope) (issue : Mask) : ∃ ws, s.wakes sc issue =
    { s with l1 := ws, g := { s.g with lpc := (s.g.advance issue).lpc, status := .running, old := [] } } ∧
      (sc = .team → ws = s.l1) := by
  have hacquired : ∃ ws, s.acquired true sc = { s with l1 := ws, g := { s.g with old := [] } } ∧ (sc = .team → ws = s.l1) := by
    cases sc with
    | team => exact ⟨_, rfl, fun _ => rfl⟩
    | _ => exact ⟨_, rfl, nofun⟩
  obtain ⟨ws, hacquired, hl1⟩ := hacquired
  refine ⟨ws, ?_, hl1⟩
  rw [State.wakes, hacquired]
  simp only [State.setStatus, State.setG, Group.advance]

theorem cwaitWakes (s f : State) (r : GroupRef) (g : GCtr) (issue : Mask) (va goal : W64) (x : Nat) (hat : At s r f) (hidle : Idle f)
    (hstatus : f.g.status = .cwait (.cwait g) issue va goal)
    (hcounter : if g.sp then ScratchRange f va 8 ∧ x = scrNum f va.toNat 8
      else ∃ pa, Held f va .load pa ∧ Settled f pa 8 ∧ f.corePoison f.t.core pa 8 = false ∧ x = seen f (.strong .st g.scope) pa 8) :
    ∃ t : State, exec (.cwaitWake r) s = .next t.settle ∧
      t = { f with l1 := t.l1, g := { f.g with lpc := t.g.lpc, status := t.g.status, old := t.g.old } } ∧
      if goal.toNat ≤ x then t.g.status = .running ∧ t.g.old = [] ∧ LanesAdvance f t issue else t.g = f.g := by
  obtain ⟨ws, bs, hnum, hread⟩ := counterRead hcounter
  have htry : f.tryCwait g issue va goal = if goal.toNat ≤ x then State.wakes { f with l1 := ws } g.scope issue
      else State.setStatus { f with l1 := ws } (.cwait (.cwait g) issue va goal) := by
    unfold State.tryCwait
    rw [State.gate_of_idle hidle]
    dsimp only
    rw [if_neg (by decide), hread, hnum]
    rfl
  have hsame : State.setStatus { f with l1 := ws } (.cwait (.cwait g) issue va goal) = { f with l1 := ws } := by
    rw [← hstatus]
    rfl
  have hexec (u : State) (hu : f.tryCwait g issue va goal = u) (hteams : u.teams = f.teams) (hteam : u.t = f.t) :
      exec (.cwaitWake r) s = .next u.settle := by
    have hwake : exec (.cwaitWake r) s = execCwaitWake r s := rfl
    rw [hwake, execCwaitWake, State.evGroup]
    refine State.withGroup_of_at hat ?_ hteams (by rw [hteam])
    rw [hstatus]
    exact hu
  by_cases hreached : goal.toNat ≤ x
  · rw [if_pos hreached] at htry
    obtain ⟨ws', hshape, -⟩ := State.wakes_shape { f with l1 := ws } g.scope issue
    rw [hshape] at htry
    refine ⟨_, hexec _ htry rfl rfl, rfl, ?_⟩
    rw [if_pos hreached]
    exact ⟨rfl, rfl, lanesAdvance_of_lpc rfl⟩
  · rw [if_neg hreached, hsame] at htry
    refine ⟨_, hexec _ htry rfl rfl, rfl, ?_⟩
    rw [if_neg hreached]

/-- The generation has reached the target where it is at most 2^31 - 1 ahead (R239). -/
theorem sub_ofNat_toNat (x : Nat) (goal : W32) :
    (BitVec.ofNat 32 x - goal).toNat = (x % 2 ^ 32 + 2 ^ 32 - goal.toNat) % 2 ^ 32 := by
  rw [BitVec.toNat_sub, BitVec.toNat_ofNat]
  have := goal.isLt
  congr 1
  omega

theorem bwaitWakes (s f : State) (r : GroupRef) (g : GBar) (issue : Mask) (va : W64) (goal : W32) (hat : At s r f) (hidle : Idle f)
    (hstatus : f.g.status = .bwait (.bwait g) issue va goal) (hclean : f.scrPoisoned va.toNat 12 = false) :
    ∃ t : State, exec (.bwaitWake r) s = .next t.settle ∧
      t = { f with g := { f.g with lpc := t.g.lpc, status := t.g.status, old := t.g.old } } ∧
      if (scrNum f (va.toNat + 8) 4 + 2 ^ 32 - goal.toNat) % 2 ^ 32 < 2 ^ 31 then
        t.g.status = .running ∧ t.g.old = [] ∧ LanesAdvance f t issue
      else t.g = f.g := by
  have hsmall : scrNum f (va.toNat + 8) 4 % 2 ^ 32 = scrNum f (va.toNat + 8) 4 := by
    have hlt := ofBytes_lt (f.scrBytes (va.toNat + 8) 4)
    have hlen : (f.scrBytes (va.toNat + 8) 4).length = 4 := by simp [State.scrBytes]
    rw [hlen] at hlt
    exact Nat.mod_eq_of_lt hlt
  have htry : f.tryBwait g issue va goal =
      if (scrNum f (va.toNat + 8) 4 + 2 ^ 32 - goal.toNat) % 2 ^ 32 < 2 ^ 31 then f.wakes .team issue
      else f.setStatus (.bwait (.bwait g) issue va goal) := by
    unfold State.tryBwait
    rw [State.gate_of_idle hidle, hclean]
    dsimp only
    rw [if_neg (by decide), if_neg (by decide), sub_ofNat_toNat]
    simp only [scrNum] at hsmall ⊢
    rw [hsmall]
    rfl
  have hsame : f.setStatus (.bwait (.bwait g) issue va goal) = f := by
    rw [← hstatus]
    rfl
  have hexec (u : State) (hu : f.tryBwait g issue va goal = u) (hteams : u.teams = f.teams) (hteam : u.t = f.t) :
      exec (.bwaitWake r) s = .next u.settle := by
    have hwake : exec (.bwaitWake r) s = execBwaitWake r s := rfl
    rw [hwake, execBwaitWake, State.evGroup]
    refine State.withGroup_of_at hat ?_ hteams (by rw [hteam])
    rw [hstatus]
    exact hu
  by_cases hreached : (scrNum f (va.toNat + 8) 4 + 2 ^ 32 - goal.toNat) % 2 ^ 32 < 2 ^ 31
  · rw [if_pos hreached] at htry
    obtain ⟨ws, hshape, hl1⟩ := State.wakes_shape f .team issue
    rw [hshape, hl1 rfl] at htry
    refine ⟨_, hexec _ htry rfl rfl, rfl, ?_⟩
    rw [if_pos hreached]
    exact ⟨rfl, rfl, lanesAdvance_of_lpc rfl⟩
  · rw [if_neg hreached, hsame] at htry
    refine ⟨_, hexec _ htry rfl rfl, rfl, ?_⟩
    rw [if_neg hreached]

theorem waitersWake : WaitersWake := ⟨cwaitWakes, bwaitWakes⟩

/-! ### The one GROW that waits (R240, R241) -/

theorem ref_of_at {s f : State} {r : GroupRef} (h : At s r f) : r = ⟨f.t.tid, f.g.id⟩ := by
  have hload := h.load
  unfold State.loadFocus at hload
  split at hload
  · cases hload
  · next t ht =>
    obtain ⟨g, hg, rfl⟩ := Option.map_eq_some_iff.mp hload
    have hteam : t.tid = r.team := by simpa using List.find?_some ht
    have hgroup : g.id = r.group := by simpa using List.find?_some hg
    rw [hteam, hgroup]

/-- What is done to the group of an event, put back. -/
theorem withGroup_eq_of_at {s f : State} {op : State → State} (h : At s ⟨f.t.tid, f.g.id⟩ f) (hteams : (op f).teams = f.teams)
    (hteam : (op f).t = f.t) : s.withGroup ⟨f.t.tid, f.g.id⟩ op = (op f).settle := by
  have hev := State.withGroup_of_at h rfl hteams (by rw [hteam])
  rw [State.ev_next _ _ h.on] at hev
  exact Host.Outcome.next.inj hev

/-- A GROW that waits, as it stands among those of its core. -/
def waitingGrow (t : Team) (g : Group) : Option (GroupRef × Nat × Nat) :=
  match g.status with
  | .grow _ n _ since => some (⟨t.tid, g.id⟩, (n - g.n) / 16, since)
  | _ => none

theorem waitingGrow_eq_none {t : Team} {g : Group} (h : ¬ ∃ i n q k, g.status = .grow i n q k) : waitingGrow t g = none := by
  unfold waitingGrow
  split
  · next i n q k hs => exact absurd ⟨i, n, q, k, hs⟩ h
  · rfl

theorem growers_eq (s : State) (core : Nat) : s.growers core =
    ((s.storeFocus.teams.filter fun t => t.core = core).flatMap fun t => t.groups.filterMap (waitingGrow t)).mergeSort
      fun a b => a.2.2 ≤ b.2.2 := rfl

theorem flatMap_eq_filter {α β : Type} {p : α → Bool} {f : α → List β} {l : List α} (h : ∀ x ∈ l, p x = false → f x = []) :
    l.flatMap f = (l.filter p).flatMap f := by
  induction l with
  | nil => rfl
  | cons a l ih =>
    have hrest := ih fun x hx => h x (List.mem_cons_of_mem _ hx)
    cases hp : p a with
    | true => rw [List.filter_cons_of_pos hp, List.flatMap_cons, List.flatMap_cons, hrest]
    | false => rw [List.filter_cons_of_neg (by simp [hp]), List.flatMap_cons, h a List.mem_cons_self hp, hrest, List.nil_append]

section
variable {s f : State} {r : GroupRef} {issue : Mask} {n : Nat} {q : BitVec 4} (h : LoneGrower s r f issue n q)
include h

theorem lone_at : At s ⟨f.t.tid, f.g.id⟩ f := by
  rw [← ref_of_at h.at_]
  exact h.at_

theorem lone_group {x : Team} (hx : x ∈ s.teams) {g : Group} (hg : g ∈ x.groups) (htid : x.tid = f.t.tid) (hid : g.id = f.g.id) :
    x = f.t ∧ g = f.g := by
  have hteam : x ∈ s.teams.filter fun y => y.tid = f.t.tid := by simp [hx, htid]
  rw [h.oneTeam, List.mem_singleton] at hteam
  subst hteam
  have hgroup : g ∈ f.t.groups.filter fun y => y.id = f.g.id := by simp [hg, hid]
  rw [h.oneGroup, List.mem_singleton] at hgroup
  exact ⟨rfl, hgroup⟩

theorem growers_of_lone : ∃ since, f.g.status = .grow issue n q since ∧
    s.growers f.t.core = [(⟨f.t.tid, f.g.id⟩, (n - f.g.n) / 16, since)] := by
  obtain ⟨since, hstatus⟩ := h.waits
  have hgroups : f.t.groups.filterMap (waitingGrow f.t) = [(⟨f.t.tid, f.g.id⟩, (n - f.g.n) / 16, since)] := by
    have hfilter : f.t.groups.filterMap (waitingGrow f.t) =
        (f.t.groups.filter fun g => g.id = f.g.id).filterMap (waitingGrow f.t) := by
      rw [List.filterMap_filter]
      refine List.filterMap_congr fun g hg => ?_
      split
      · rfl
      · next hid =>
        refine waitingGrow_eq_none fun hgrow => hid ?_
        obtain ⟨-, hid⟩ := h.alone _ (focus_of_at h.at_).1 rfl g hg hgrow
        simpa using hid
    rw [hfilter, h.oneGroup, List.filterMap_cons, List.filterMap_nil, waitingGrow, hstatus]
  refine ⟨since, hstatus, ?_⟩
  rw [growers_eq, storeFocus_of_at h.at_, flatMap_eq_filter (p := fun t => t.tid = f.t.tid) fun t ht htid => ?_]
  · rw [List.filter_filter, List.filter_congr (q := fun t => (t.core = f.t.core : Bool) && (t.tid = f.t.tid : Bool)) fun t _ => ?_,
      ← List.filter_filter, h.oneTeam, List.filter_cons_of_pos (by simp), List.filter_nil, List.flatMap_cons, List.flatMap_nil,
      List.append_nil, hgroups, List.mergeSort_singleton]
    exact Bool.and_comm ..
  · obtain ⟨hmem, hcore⟩ := List.mem_filter.mp ht
    rw [List.filterMap_eq_nil_iff]
    refine fun g hg => waitingGrow_eq_none fun hgrow => ?_
    obtain ⟨htid', -⟩ := h.alone t hmem (by simpa using hcore) g hg hgrow
    simp [htid'] at htid

/-- The only GROW of the core fits: it is granted. -/
theorem growGranted (hroom : s.usedBlocks f.t.core + (n - f.g.n) / 16 ≤ 256) :
    exec (.growGrant f.t.core) s = .next ((f.growTo n q issue).pushDue (.growGrant f.t.core)).settle := by
  obtain ⟨since, hstatus, hgrowers⟩ := growers_of_lone h
  have hexec : exec (.growGrant f.t.core) s = execGrowGrant f.t.core s := rfl
  rw [hexec, execGrowGrant, State.ev_next _ _ h.at_.on]
  dsimp only
  rw [storeFocus_of_at h.at_, hgrowers, List.find?_cons_of_pos (by simpa using hroom)]
  dsimp only
  obtain ⟨owners, bs, heq⟩ := f.growTo_shape n q issue
  rw [withGroup_eq_of_at (lone_at h)] <;> rw [hstatus]
  · dsimp only
    rw [heq]
    rfl
  · dsimp only
    rw [heq]
    rfl

/-- The only GROW of the core does not fit, and no group of the core can go on: it fails. -/
theorem growFailed (hfull : 256 < s.usedBlocks f.t.core + (n - f.g.n) / 16)
    (hstuck : ∀ x ∈ s.teams, x.core = f.t.core → ∀ g ∈ x.groups, g.id ≠ f.g.id ∨ x.tid ≠ f.t.tid →
      g.retired = true ∨ g.runnable = 0#32 ∧ g.exited ≠ BitVec.allOnes 32) :
    exec (.growDeadlockFail f.t.core) s =
      .next ((f.setG ((f.g.setQ q false).advance issue)).setStatus .running).settle := by
  obtain ⟨since, hstatus, hgrowers⟩ := growers_of_lone h
  have hall : s.growStuck f.t.core = true := by
    rw [State.growStuck, storeFocus_of_at h.at_, List.all_eq_true]
    intro x hx
    obtain ⟨hmem, hcore⟩ := List.mem_filter.mp hx
    rw [List.all_eq_true]
    intro g hg
    by_cases hmine : g.id = f.g.id ∧ x.tid = f.t.tid
    · obtain ⟨rfl, rfl⟩ := lone_group h hmem hg hmine.2 hmine.1
      rw [hstatus, Bool.or_true]
    · rcases hstuck x hmem (by simpa using hcore) g hg (by tauto) with hr | ⟨hrun, hexit⟩
      · rw [hr, Bool.true_or]
      · rw [hrun, Bool.or_eq_true]
        right
        split
        · rfl
        · simpa using hexit
  have hnone : ((s.growers f.t.core).any fun x => decide (s.usedBlocks f.t.core + x.2.1 ≤ 256)) = false := by
    rw [hgrowers]
    simpa using hfull
  have hexec : exec (.growDeadlockFail f.t.core) s = execGrowDeadlockFail f.t.core s := rfl
  rw [hexec, execGrowDeadlockFail, State.ev_next _ _ h.at_.on]
  dsimp only
  rw [storeFocus_of_at h.at_, hall, hnone, if_pos (by decide), hgrowers, List.getLast?_singleton]
  dsimp only
  rw [withGroup_eq_of_at (lone_at h)]
  · rw [hstatus]
  · rw [hstatus]
    rfl
  · rw [hstatus]
    rfl

end

/-! ### GROW_GRANT, GROW_DEADLOCK_FAIL and SHRINK_RELEASE (R240, R241) -/

theorem growGrants (s f : State) (r : GroupRef) (issue : Mask) (n : Nat) (q : BitVec 4) (h : LoneGrower s r f issue n q)
    (hroom : s.usedBlocks f.t.core + (n - f.g.n) / 16 ≤ 256) :
    ∃ t : State, exec (.growGrant f.t.core) s = .next t.settle ∧ t.g.n = n ∧ ScalarTest f t q true ∧ LanesAdvance f t issue ∧
      t.g.status = .running ∧ (∀ (k : Fin 128) (l : Fin 32), k.val < f.g.n → t.g.vr k l = f.g.vr k l) ∧
      t = { f with
            due := f.due ++ [.growGrant f.t.core], blockOwner := t.blockOwner
            g := { f.g with n := n, v := t.g.v, q := t.g.q, lpc := t.g.lpc, status := .running, blocks := t.g.blocks } } := by
  obtain ⟨owners, bs, heq⟩ := f.growTo_shape n q issue
  have hexec := growGranted h hroom
  rw [heq] at hexec
  exact ⟨_, hexec, rfl, scalarTest_of_setQ rfl, lanesAdvance_of_lpc rfl, rfl, fun k l hk => congrArg (·[l.val]) (f.grownV_below n hk), rfl⟩

theorem growFails (s f : State) (r : GroupRef) (issue : Mask) (n : Nat) (q : BitVec 4) (h : LoneGrower s r f issue n q)
    (hfull : 256 < s.usedBlocks f.t.core + (n - f.g.n) / 16)
    (hstuck : ∀ x ∈ s.teams, x.core = f.t.core → ∀ g ∈ x.groups, g.id ≠ f.g.id ∨ x.tid ≠ f.t.tid →
      g.retired = true ∨ g.runnable = 0#32 ∧ g.exited ≠ BitVec.allOnes 32) :
    ∃ t : State, exec (.growDeadlockFail f.t.core) s = .next t.settle ∧ ScalarTest f t q false ∧ LanesAdvance f t issue ∧
      t = { f with g := { f.g with q := t.g.q, lpc := t.g.lpc, status := .running } } := by
  obtain ⟨x, hset⟩ := f.g.setQ_shape q false
  have hexec := growFailed h hfull hstuck
  rw [hset _ rfl] at hexec
  exact ⟨_, hexec, scalarTest_of_setQ (by rw [hset _ rfl]; rfl), lanesAdvance_of_lpc rfl, rfl⟩

theorem shrinkReleased (s f : State) (r : GroupRef) (n : Nat) (hat : At s r f) (hshrink : f.g.shrinkTo = some n) :
    exec (.shrinkRelease r) s = .next (if f.g.clearAbove n then
      State.settle { f with
        g := { f.g with n := n, blocks := f.g.blocks.take (n / 16), shrinkTo := none }, due := f.due ++ [.growGrant f.t.core] }
      else f.settle) := by
  have hexec : exec (.shrinkRelease r) s = execShrinkRelease r s := rfl
  rw [hexec, execShrinkRelease, State.evGroup, ← apply_ite State.settle]
  refine State.withGroup_of_at hat ?_ ?_ ?_
  · rw [hshrink]
    rfl
  · split <;> rfl
  · split <;> rfl

theorem growEvents : GrowEvents := ⟨growGrants, growFails, shrinkReleased⟩

/-- Settles O36: a waiting word reads again what it waits for, and the one GROW of a core that waits is granted or fails. -/
theorem waitsEnd : Obligations.WaitsEnd := ⟨waitersWake, growEvents⟩

end Sys2Proof.Machine


/-! ## Readying lines leaves the module on or off (15 R353, R359; 17 R377) -/

namespace Sys2Proof.Machine

theorem State.foldl_power {α : Type} (f : State → α → State) (hf : ∀ s x, (f s x).power = s.power) (l : List α) (s : State) :
    (l.foldl f s).power = s.power := by
  induction l generalizing s with
  | nil => rfl
  | cons x r ih => rw [List.foldl_cons, ih, hf]

theorem State.send_power (s : State) (p) : (s.send p).power = s.power := by
  unfold State.send
  split <;> rfl

theorem State.nextSeq_power (s : State) (flow dst) : (s.nextSeq flow dst).2.power = s.power := by
  unfold State.nextSeq
  split <;> rfl

theorem State.request_power (s : State) (p purpose strong) : (s.request p purpose strong).power = s.power := by
  have hseq := s.nextSeq_power p.flow p.dst.toNat
  grind [State.request, State.emit]

theorem State.wantLine_power (s : State) (fl ctx flow line own) :
    (s.wantLine fl ctx flow line own).state.power = s.power := by
  grind [State.wantLine, State.request_power, Ready.state]

theorem State.coh_power (s : State) (line h op) : (s.coh line h op).power = s.power := s.send_power _

theorem State.recall_power (s : State) (line e hds kind) : (s.recall line e hds kind).power = s.power :=
  State.foldl_power _ (fun s _ => s.coh_power _ _ _) hds s

theorem State.cohAll_power (s : State) (line op) (hs : List Nat) :
    (hs.foldl (fun s h => s.coh line h op) s).power = s.power :=
  State.foldl_power _ (fun s _ => s.coh_power _ _ _) hs s

theorem State.resolveDead_power (s : State) (line) : (s.resolveDead line).power = s.power := by
  unfold State.resolveDead
  dsimp only
  split
  · rfl
  next e _ =>
    split
    · split
      · split
        · split
          · split
            · rfl
            · exact State.recall_power _ line _ _ .drop
          · split
            · rfl
            · exact State.cohAll_power _ line 1#8 _
        · rfl
      · split <;> rfl
    · split
      · rfl
      · split <;> rfl

theorem State.readyAs_power (s : State) (fl wide ctx flow line write) :
    (s.readyAs fl wide ctx flow line write).state.power = s.power := by
  grind [State.readyAs, State.dropDir, State.putDir, State.recall_power, State.resolveDead_power, State.wantLine_power,
    Ready.state]

theorem State.reask_power (s : State) (fl ctx flow line write) : (s.reask fl ctx flow line write).power = s.power := by
  grind [State.reask, State.asRetry, State.readyAs_power, Ready.state]

theorem State.readyLines_power (s : State) (ctx flow) (ls : List Nat) :
    (s.readyLines ctx flow ls).state.power = s.power := by
  induction ls generalizing s with
  | nil => rfl
  | cons l r ih =>
    grind [State.readyLines, State.readyLine, State.readyAt, State.readyAs_power, State.reask_power, Ready.state]

theorem State.ringReady_power (s : State) (n : Nat) : (s.ringReady n).state.power = s.power := by
  grind [State.ringReady, State.readyLines_power, State.readDesc, Ready.state]

end Sys2Proof.Machine


/-! ## Reset, attestation and power (17 R375-R378) -/

namespace Sys2Proof.Machine

open Claims

/-! ### A module that is off -/

theorem State.vecThen_off (s : State) (i : Instr) (guard : BitVec 7) (f : Mask → State → State) (h : s.power = .off) :
    s.vecThen i guard f = .fault .moduleOff := s.issueWord_off i _ h

theorem State.flong_off (s : State) (i : Instr) (guard la : BitVec 7) (wide : Bool) (d : BitVec 7)
    (f : Group → Fin 32 → W64 × Flags) (h : s.power = .off) : s.flong i guard la wide d f = .fault .moduleOff := by
  unfold State.flong
  split
  · exact if_pos h
  · exact if_pos h

theorem State.fdiv_off (s : State) (i : Instr) (k : FKind) (w : WBin) (la : BitVec 4) (h : s.power = .off) :
    s.fdiv i k w la = .fault .moduleOff := s.flong_off _ _ _ _ _ _ h

theorem State.fsqrt_off (s : State) (i : Instr) (k : FKind) (w : WUn) (la : BitVec 4) (h : s.power = .off) :
    s.fsqrt i k w la = .fault .moduleOff := s.flong_off _ _ _ _ _ _ h

theorem State.fspecial_off (s : State) (i : Instr) (fn : SpecialFn) (w : WUn) (la : BitVec 4) (h : s.power = .off) :
    s.fspecial i fn w la = .fault .moduleOff := s.flong_off _ _ _ _ _ _ h

theorem execSvc_off (w : WSvc) (s : State) (h : s.power = .off) : execSvc w s = .fault .moduleOff := by
  have hring := s.ringReady_power (lanesOf (s.iss.mask &&& s.g.pred w.guard)).length
  unfold execSvc
  cases hr : s.ringReady (lanesOf (s.iss.mask &&& s.g.pred w.guard)).length with
  | wait u => exact if_pos h
  | fail u st => exact if_pos h
  | yes u =>
    rw [hr] at hring
    exact u.vecThen_off _ _ _ (hring.trans h)

/-- Every word and every event of a module that is off faults. -/
theorem exec_off (i : Instr) (s : State) (h : s.power = .off) : exec i s = .fault .moduleOff := by
  cases i with
  | svc w => exact execSvc_off w s h
  | fdivF64 w la | fdivF32 w la => exact s.fdiv_off _ _ w la h
  | fsqrtF64 w la | fsqrtF32 w la => exact s.fsqrt_off _ _ w la h
  | frcp w la | frsq w la | fexp2 w la | flog2 w la | fsin w la | fcos w la => exact s.fspecial_off _ _ w la h
  | _ => exact if_pos h

theorem step_off (s : State) (h : s.power = .off) : step s = .fault .moduleOff := if_pos h

/-! ### Counts and generations kept under a key -/

theorem lookupD_eq_countOf (l : List (Nat × Nat)) (k : Nat) : lookupD l k 0 = countOf l k := by
  unfold lookupD countOf
  cases l.find? fun p => p.1 = k <;> rfl

theorem countOf_assocPut (l : List (Nat × Nat)) (k b j : Nat) :
    countOf (assocPut l k b) j = if j = k then b else countOf l j := by
  unfold countOf assocPut
  by_cases h : k = j
  · simp [h]
  · have hf : ((l.filter fun p => p.1 ≠ k).find? fun p => p.1 = j) = l.find? fun p => p.1 = j := by
      rw [List.find?_filter]
      congr 1
      funext p
      grind
    simp only [List.find?_cons, h, hf, decide_false, if_neg (Ne.symm h)]

/-- What the repairs of the listed die pairs add to one pair's count. -/
theorem countOf_foldl_repairs (n j : Nat) (ps : List (Fin 6)) (w : List (Nat × Nat)) :
    countOf (ps.foldl (fun w p => if Config.laneRepairs n p = 0 then w
      else assocPut w p.val (lookupD w p.val 0 + Config.laneRepairs n p)) w) j =
      countOf w j + ((ps.filter fun p => p.val = j).map (Config.laneRepairs n)).sum := by
  induction ps generalizing w with
  | nil => rfl
  | cons p ps ih =>
    rw [List.foldl_cons, ih, lookupD_eq_countOf]
    by_cases hj : p.val = j
    · split <;> grind [countOf_assocPut]
    · split <;> grind [countOf_assocPut]

theorem finRange_filter_val (n j : Nat) (f : Fin n → Nat) :
    (((List.finRange n).filter fun p => p.val = j).map f).sum = if h : j < n then f ⟨j, h⟩ else 0 := by
  split
  next h =>
    have hone : ((List.finRange n).filter fun p => p.val = j) = [⟨j, h⟩] := by
      have hp : (fun p : Fin n => decide (p.val = j)) = fun p => p == ⟨j, h⟩ := by
        funext p
        rw [Bool.eq_iff_iff, decide_eq_true_iff, beq_iff_eq, Fin.ext_iff]
      rw [hp, List.filter_beq, (List.nodup_finRange n).count, if_pos (List.mem_finRange _)]
      rfl
    simp [hone]
  next h =>
    have hnil : ((List.finRange n).filter fun p => p.val = j) = [] :=
      List.filter_eq_nil_iff.2 fun p _ => by simpa using fun hp : p.val = j => h (hp ▸ p.isLt)
    simp [hnil]

theorem lookupD_range_map (n k d : Nat) (f : Nat → Nat) (h : k < n) :
    lookupD ((List.range n).map fun i => (i, f i)) k d = f k := by
  have hfind : (List.range n).find? (fun i => decide (i = k)) = some k := by
    rw [List.find?_range_eq_some]
    simp [h]
    omega
  simp [lookupD, List.find?_map, hfind]

theorem mem_finRange_filter_val {n : Nat} (ok : Fin n → Bool) (p : Nat) :
    p ∈ ((List.finRange n).filter fun k => !ok k).map (·.val) ↔ ∃ k : Fin n, k.val = p ∧ ok k = false := by
  simp [and_comm]

/-! ### What a reset leaves -/

theorem padPayload_of_length_eight (bs : List Byte) (h : bs.length = 8) : padPayload bs = bs := by
  unfold padPayload
  rw [h]
  exact List.append_nil bs

theorem State.send_of_dead_nil (s : State) (p : Packet) (h : s.dead = []) : s.send p = s.emit p := by
  unfold State.send State.deadPkg
  rw [h]
  rfl

/-- The announcement of a package whose map lists no dead cell. -/
theorem State.join_of_dead_nil (s : State) (h : s.dead = []) : ∃ q : Packet,
    s.join = { s with joined := true, nextId := s.nextId + 1, outbox := s.outbox ++ [.packet q] } ∧ q.typ = 0x0E#8 ∧
      q.dst = BitVec.ofNat 24 s.policy.bridge ∧ q.payload = toBytes 8 s.ownCell := by
  exact ⟨_, State.send_of_dead_nil _ _ h, rfl, rfl, padPayload_of_length_eight _ (length_toBytes 8 _)⟩

theorem State.booted_joined (s : State) : s.booted.joined = false := rfl

/-- A state that has joined its cell, or not, and has sent what it has sent. -/
def State.announced (s : State) (j : Bool) (k : Nat) (o : List Sent) : State := { s with joined := j, nextId := k, outbox := o }

theorem State.announced_self (s : State) : s.announced s.joined s.nextId s.outbox = s := rfl

theorem State.announced_genOf (s : State) (j k o) (i : Nat) : (s.announced j k o).genOf i = s.genOf i := rfl

theorem State.announced_keyOf (s : State) (j k o) (a : Nat) : (s.announced j k o).keyOf a = s.keyOf a := by
  have hraw : (s.announced j k o).rdRaw = s.rdRaw := rfl
  have hfcb : (s.announced j k o).fcb = s.fcb := rfl
  have hregion : (s.announced j k o).inRegion a = s.inRegion a := rfl
  have harea : (s.announced j k o).areaCtx a = s.areaCtx a := rfl
  have hctx : (s.announced j k o).ctxKey = s.ctxKey := rfl
  simp only [State.keyOf, hraw, hfcb, hregion, harea, hctx]

theorem State.announced_homeByte (s : State) (j k o) (a : Nat) : (s.announced j k o).homeByte a = s.homeByte a := by
  have hunder : (s.announced j k o).byteUnder = s.byteUnder := rfl
  have htile : (s.announced j k o).tileAt a = s.tileAt a := rfl
  have hhaze : (s.announced j k o).hazeByte a = s.hazeByte a := rfl
  have hfree : (s.announced j k o).freeW a = s.freeW a := rfl
  have hhere : (s.announced j k o).here a = s.here a := rfl
  have hmem : (s.announced j k o).mem = s.mem := rfl
  simp only [State.homeByte, State.heldByte, s.announced_keyOf, hunder, htile, hhaze, hfree, hhere, hmem]

theorem State.announced_hwBytes (s : State) (j k o) (a n : Nat) : (s.announced j k o).hwBytes a n = s.hwBytes a n := by
  have hhome : (s.announced j k o).homeBytes a n = s.homeBytes a n := List.map_congr_left
    fun i _ => s.announced_homeByte j k o _
  unfold State.hwBytes
  rw [hhome]
  rfl

theorem State.announced_ownCell (s : State) (j k o) : (s.announced j k o).ownCell = s.ownCell := by
  have hfcb : (s.announced j k o).fcb = s.fcb := rfl
  simp only [State.ownCell, State.rd, s.announced_hwBytes, hfcb]

/-- A reset leaves the state that bring-up makes, and the announcement of a package that joins its cell. -/
theorem State.afterReset_shape (s : State) : ∃ (j : Bool) (k : Nat) (o : List Sent),
    s.afterReset = s.booted.announced j k o ∧
      (j = true ↔ s.booted.power = .running ∧ Config.joinOk (s.resets + 1) = true) ∧ (j = false → o = s.outbox) ∧
      (j = true → ∃ q : Packet, o = s.outbox ++ [.packet q] ∧ q.typ = 0x0E#8 ∧
        q.dst = BitVec.ofNat 24 s.booted.policy.bridge ∧ q.payload = toBytes 8 s.booted.ownCell) := by
  have hj : s.booted.joined ≠ true := by rw [s.booted_joined]; exact Bool.false_ne_true
  unfold State.afterReset
  dsimp only
  split
  next h =>
    obtain ⟨q, hq, htyp, hdst, hpay⟩ := s.booted.join_of_dead_nil rfl
    exact ⟨true, _, _, hq, ⟨fun _ => h, fun _ => rfl⟩, nofun, fun _ => ⟨q, rfl, htyp, hdst, hpay⟩⟩
  next h =>
    exact ⟨_, _, _, s.booted.announced_self.symm, ⟨fun h' => absurd h' hj, fun h' => absurd h' h⟩,
      fun _ => rfl,    fun h' => absurd h' hj⟩

theorem State.booted_power (s : State) : s.booted.power =
    if !Config.romOk (s.resets + 1) then .off else if s.service (s.resets + 1) then .service else .running := rfl

theorem accepts_iff (s : State) (i : List Byte) : accepts s.policy.versionFloor i = true ↔ ImageAccepted s i := by
  simp [accepts, imageSigned, ImageAccepted, and_assoc]

theorem State.service_false_iff (s : State) (n : Nat) : s.service n = false ↔
    s.policy.valid = true ∧ s.spares.valid = true ∧ s.spares.fenced = [] ∧ (∀ k, Config.stackOk n k = true) ∧
      ∀ i ∈ s.firmware, ImageAccepted s i := by
  simp only [← accepts_iff]
  simp [State.service, and_assoc, and_comm, and_left_comm]

theorem State.booted_off_iff (s : State) : s.booted.power = .off ↔ Config.romOk (s.resets + 1) = false := by
  rw [s.booted_power]
  cases Config.romOk (s.resets + 1)
  · simp
  · simp; split <;> simp

theorem State.booted_running_iff (s : State) : s.booted.power = .running ↔
    Config.romOk (s.resets + 1) = true ∧ s.service (s.resets + 1) = false := by
  rw [s.booted_power]
  cases Config.romOk (s.resets + 1) <;> cases s.service (s.resets + 1) <;> simp

theorem State.booted_laneRepairs (s : State) (hv : s.spares.valid = true) (j : Nat) :
    countOf s.booted.spares.ucieLanes j = countOf s.spares.ucieLanes j +
      if h : j < 6 then Config.laneRepairs (s.resets + 1) ⟨j, h⟩ else 0 := by
  rw [← finRange_filter_val, ← countOf_foldl_repairs]
  simp only [State.booted, hv, if_true]

theorem State.booted_spares (s : State) (hv : s.spares.valid = true) :
    s.booted.spares = { s.spares with ucieLanes := s.booted.spares.ucieLanes } := by
  simp only [State.booted, hv, if_true]

theorem State.booted_policy_of_valid (s : State) (hv : s.policy.valid = true) : s.booted.policy = s.policy := if_pos hv

theorem State.booted_policy_of_invalid (s : State) (hv : s.policy.valid = false) :
    s.booted.policy = { Policy.default with valid := false } := if_neg (by simp [hv])

theorem State.booted_keyGen (s : State) : s.booted.keyGen = (List.range 1028).map fun k => (k, s.genOf k + 1) := by
  simp only [State.booted]

theorem State.booted_genOf (s : State) (k : Nat) (hk : k < 1028) : s.booted.genOf k = s.genOf k + 1 := by
  unfold State.genOf
  rw [s.booted_keyGen]
  exact lookupD_range_map 1028 k 0 (fun k => s.genOf k + 1) hk

/-! ### Attestation -/

theorem length_sign (k : DsaKey) (rnd m : List Byte) : (k.sign rnd m).length = 2420 := by
  simp only [DsaKey.sign, List.length_take, List.length_append, List.length_replicate]
  omega

theorem map_getD_range {α : Type} (l : List α) (d : α) : ((List.range l.length).map fun k => l.getD k d) = l := by
  apply List.ext_getElem
  · simp
  · intro k hk hl
    simp [hl]

theorem State.loaded_eq (s : State) : s.loaded = s.firmware.filter fun i => ImageAccepted s i := by
  unfold State.loaded
  congr 1
  funext i
  rw [Bool.eq_iff_iff, accepts_iff, decide_eq_true_iff]

theorem State.exec_attestationRequest (s : State) (nonce : List Byte) (hp : s.power ≠ .off) (hn : nonce.length = 32) :
    exec (.attestationRequest nonce) s =
      .next { s with outbox := s.outbox ++ [.report (s.reportBody nonce ++ s.signature (s.reportBody nonce))] } := by
  have hnonce := map_getD_range nonce 0#8
  rw [hn] at hnonce
  refine (if_neg hp).trans ?_
  rw [hnonce]

/-! ### O51 -/

theorem exec_packageReset (s : State) (hp : s.power ≠ .off) : exec .packageReset s = .next s.afterReset := s.ev_next _ hp

/-- Settles O51: a reset is `State.booted` and what joining the cell adds; a module that is off answers every constructor alike. -/
theorem resetAndPower : Obligations.ResetAndPower := by
  refine ⟨fun s hp => ?_, fun s nonce hp hn => ?_, fun s hp => ⟨if_neg hp, if_neg hp⟩,
    fun s i hp => ⟨exec_off i s hp, step_off s hp⟩⟩
  · obtain ⟨j, k, o, ht, hj, hout, hsent⟩ := s.afterReset_shape
    have hrun := s.booted_running_iff
    refine ⟨_, (exec_packageReset s hp).trans (congrArg _ ht), rfl, rfl, rfl, rfl, rfl, rfl, rfl, rfl, rfl, rfl, rfl, rfl, rfl,
      rfl, rfl, rfl, rfl, fun k hk => ?_, fun hv => ?_, fun hv => ?_, fun hv => ⟨s.booted_spares hv, s.booted_laneRepairs hv⟩, rfl,
      fun p => mem_finRange_filter_val _ p, fun p => mem_finRange_filter_val _ p, fun p => mem_finRange_filter_val _ p,
      s.booted_off_iff, ?_, hj, hout, fun h => ?_⟩
    · rw [s.booted.announced_genOf, s.booted_genOf k hk]
    · exact ⟨s.booted_policy_of_valid hv, congrArg Policy.pkg (s.booted_policy_of_valid hv),
        congrArg Policy.carve (s.booted_policy_of_valid hv)⟩
    · exact ⟨s.booted_policy_of_invalid hv, congrArg Policy.pkg (s.booted_policy_of_invalid hv)⟩
    · rw [← s.service_false_iff]
      exact hrun
    · obtain ⟨q, ho, htyp, hdst, hpay⟩ := hsent h
      have hvalid := ((s.service_false_iff _).1 (hrun.1 (hj.1 h).1).2).1
      exact ⟨q, ho, htyp, by rw [hdst, s.booted_policy_of_valid hvalid], by rw [hpay, s.booted.announced_ownCell]⟩
  · refine ⟨s.reportBody nonce, (List.finRange 32).map (Config.signRandom s.fresh), _, ?_, ?_, length_sign _ _ _, rfl,
      s.exec_attestationRequest nonce hp hn⟩
    · rw [State.reportBody, s.loaded_eq]
      rfl
    · rw [List.length_map, List.length_finRange]

end Sys2Proof.Machine


/-! ## The placement of a team (14 R321, R324), and the cell that its groups are given -/

namespace Sys2Proof.Machine

open Claims

/-! ### The head of a level is placed -/

theorem State.wanted_grid {s : State} {g : Grid} (hgrid : (s.grids.find? fun x => x.gid = g.gid) = some g)
    (hactive : s.active g.ctx = true) : s.wanted (.grid g.gid) =
      some ⟨.grid g.gid, List.range g.record.groups, g.record.groups * (g.record.regs / 16), g.record.rows, g.dies,
        g.lastCore.map (· + 1)⟩ := by
  simp only [State.wanted, hgrid, hactive, if_true]

theorem State.head_of_cons {s : State} {level : Fin 4} {e : QEntry} {rest : List QEntry} {w : Wanted}
    (hqueue : s.queues[level] = e :: rest) (hwanted : s.wanted e = some w) : s.head level.val = some w := by
  have hlevel : s.queues[level.val]? = some (e :: rest) := by
    rw [← hqueue]
    exact Vector.getElem?_eq_getElem level.isLt
  rw [State.head, hlevel, Option.getD_some, List.findSome?_cons, hwanted]

theorem State.higherFits_false {s : State} {level : Fin 4} (hhigh : ∀ k : Fin 4, level < k → s.queues[k] = []) :
    s.higherFits level.val = false := by
  have hhead (k : Fin 4) (hk : level < k) : s.head k.val = none := by
    have hnil : s.queues[k.val]? = some [] := by
      rw [← hhigh k hk]
      exact Vector.getElem?_eq_getElem k.isLt
    rw [State.head, hnil]
    rfl
  refine List.any_eq_false.2 fun k hk => ?_
  have hlt := List.mem_range.1 hk
  by_cases habove : level.val < k
  · rw [hhead ⟨k, hlt⟩ habove]
    simp
  · simp [habove]

theorem exec_teamPlacement {s : State} {level : Fin 4} {g : Grid} {rest : List QEntry} {core q0 row0 : Nat} (hp : s.power ≠ .off)
    (hqueue : s.queues[level] = .grid g.gid :: rest) (hhigh : ∀ k : Fin 4, level < k → s.queues[k] = [])
    (hgrid : (s.grids.find? fun x => x.gid = g.gid) = some g) (hactive : s.active g.ctx = true)
    (hseat : s.seatFor ⟨.grid g.gid, List.range g.record.groups, g.record.groups * (g.record.regs / 16), g.record.rows, g.dies,
      g.lastCore.map (· + 1)⟩ = some (core, q0, row0)) :
    exec (.teamPlacement level.val) s = .next (s.dealTeam g core q0 row0) := by
  have hhead := State.head_of_cons hqueue (State.wanted_grid hgrid hactive)
  refine (if_neg hp).trans (congrArg _ ?_)
  simp only [State.placeHead, hhead, State.higherFits_false hhigh, hseat, State.placeAt, hgrid, Bool.false_eq_true, if_false]

/-! ### The groups of the placed team -/

theorem mem_foldl_append {α β : Type} {f : List β → α → β} {P : β → Prop} (hf : ∀ bs a, P (f bs a)) (l : List α) {bs : List β}
    (hbs : ∀ b ∈ bs, P b) : ∀ b ∈ l.foldl (fun bs a => bs ++ [f bs a]) bs, P b := by
  induction l generalizing bs with
  | nil => exact hbs
  | cons a l ih =>
    rw [List.foldl_cons]
    refine ih fun b hb => ?_
    rcases List.mem_append.1 hb with h | h
    · exact hbs b h
    · rw [List.mem_singleton.1 h]
      exact hf bs a

/-- The placed team comes last, and its groups are given the cell as read once the descriptor has been read again. -/
theorem State.dealTeam_teams (s : State) (g : Grid) (core q0 row0 : Nat) : ∃ x : Team,
    (s.dealTeam g core q0 row0).teams = s.teams ++ [x] ∧
      ∀ h ∈ x.groups, h.cell = BitVec.ofNat 32 (s.readDesc g.ctx).ownCell := by
  unfold State.dealTeam
  dsimp only
  split <;> exact ⟨_, rfl, mem_foldl_append (P := fun h : Group => h.cell = BitVec.ofNat 32 (s.readDesc g.ctx).ownCell)
    (fun _ _ => rfl) _ (by simp)⟩

/-! ### A map of cells that stands under the key of a context whose descriptor has changed -/

/-- The table of contexts, at the base of the save region. -/
def staleTable : Nat := 2 ^ 39 - 2 ^ 31

/-- The fabric control block. -/
def staleBlock : Nat := staleTable + 0x50000

/-- A byte other than the one that the block reads as under key 0. -/
def staleByte : Byte := Config.wrongKey staleBlock 0 0 + 1#8

def staleGrid : Grid := { fetchGrid with placed := 0, placedAll := false, live := 0, lastCore := none }

/-- A team of context 0 is resident, and its descriptor was last read with key 1; in memory it names key 0. The block lies in the
area of a saved team of the context, and its line stands under key 1. -/
def staleState : State :=
  { State.reset with
    ctxtab := BitVec.ofNat 64 staleTable
    descs := [(0#10, List.replicate 8 0#8 ++ [1#8, 0#8])]
    mem := [(staleTable + 8, 0#8), (staleTable + 9, 0#8), (staleTable + 10, 1#8), (staleBlock, staleByte)]
    tags := [(staleBlock, 1, 0)]
    saved := [⟨2, staleBlock, 1, 0#10, 0, 0, .preempt, [], [], [], [], false, true⟩]
    queues := State.reset.queues.set 3 [.grid 1]
    grids := [staleGrid], teams := [fetchTeam], nextId := 3 }

theorem staleState_keyOf : staleState.keyOf staleBlock = some 1 := by decide +kernel

theorem staleState_reread_keyOf : (staleState.readDesc 0#10).keyOf staleBlock = some 0 := by decide +kernel

theorem staleState_active : staleState.active 0#10 = true := by decide +kernel

theorem staleState_seatFor : staleState.seatFor ⟨.grid 1, List.range 1, 8, 0, 0xF#4, none⟩ = some (1, 0, 0) := by
  decide +kernel

theorem State.byteUnder_of_tag {s : State} {a k : Nat} {tag : Nat × Nat × Nat}
    (htag : (s.tags.find? fun t => t.1 = lineOf a) = some tag) (hkey : tag.2 = (k, s.genOf k)) : s.byteUnder k a = s.mem.get a := by
  simp only [State.byteUnder, htag, Option.map_some, Option.getD_some, hkey, if_true]

theorem staleState_homeByte : staleState.homeByte staleBlock = staleByte := by
  have hhere : staleState.here staleBlock = true := by decide +kernel
  have hunder : staleState.byteUnder 1 staleBlock = staleState.mem.get staleBlock :=
    State.byteUnder_of_tag (tag := (staleBlock, 1, 0)) (by decide +kernel) (by decide +kernel)
  simp only [State.homeByte, State.tileAt, State.hazeByte, State.heldByte, hhere, staleState_keyOf, hunder, if_true]
  rfl

theorem staleState_reread_homeByte : (staleState.readDesc 0#10).homeByte staleBlock = Config.wrongKey staleBlock 0 0 :=
  State.homeByte_of_wrongKey (tag := (staleBlock, 1, 0)) rfl rfl (by decide +kernel) staleState_reread_keyOf (by decide +kernel)
    (by decide)

/-- The least byte of the cell is the first byte of the block. -/
theorem State.ownCell_mod {s : State} {a : Nat} (hfcb : s.fcb = a) (htags : s.tags.isEmpty = false) :
    s.ownCell % 256 = (s.homeByte a).toNat := by
  have hbytes : s.hwBytes a 4 = s.homeByte a :: (List.range 3).map fun k => s.homeByte (a + (k + 1)) := by
    simp only [State.hwBytes, htags, Bool.false_and, Bool.false_eq_true, if_false]
    rfl
  have hlt := (s.homeByte a).isLt
  rw [State.ownCell, State.rd, hfcb, hbytes, ofBytes]
  omega

theorem staleState_ownCell_ne :
    BitVec.ofNat 32 (staleState.readDesc 0#10).ownCell ≠ BitVec.ofNat 32 staleState.ownCell := by
  intro h
  have hcell : (staleState.readDesc 0#10).ownCell % 256 = staleState.ownCell % 256 := by
    have hnat := congrArg BitVec.toNat h
    simp only [BitVec.toNat_ofNat] at hnat
    omega
  rw [State.ownCell_mod (a := staleBlock) (by decide +kernel) rfl, State.ownCell_mod (a := staleBlock) (by decide +kernel) rfl,
    staleState_homeByte, staleState_reread_homeByte, staleByte] at hcell
  have hbyte := BitVec.eq_of_toNat_eq hcell
  revert hbyte
  generalize Config.wrongKey staleBlock 0 0 = b
  bv_omega

/-- Refutes O41: a placement reads the context's descriptor again before it reads the cell, and where the fabric control block
lies in a saved team's area and the descriptor names a new key, the groups are given another cell than the one that stood there. -/
theorem not_teamsScheduled : ¬ Obligations.TeamsScheduled := by
  rintro ⟨⟨hplace, -⟩, -⟩
  have hp : staleState.power ≠ .off := nofun
  have hgrid : (staleState.grids.find? fun x => x.gid = staleGrid.gid) = some staleGrid := rfl
  have hexec := exec_teamPlacement (level := 3) (rest := []) hp rfl (by decide) hgrid staleState_active staleState_seatFor
  obtain ⟨t, x, ht, hteams, -, -, -, -, -, -, -, -, -, -, -, -, -, -, -, hlen, -, hcell, -⟩ :=
    hplace staleState 3 staleGrid [] 1 0 0 hp rfl (by decide) hgrid staleState_active staleState_seatFor
  obtain ⟨y, hy, hycell⟩ := staleState.dealTeam_teams staleGrid 1 0 0
  obtain rfl := Host.Outcome.next.inj (hexec.symm.trans ht)
  obtain rfl : y = x := by simpa using hy.symm.trans hteams
  obtain ⟨h, hh⟩ := List.exists_mem_of_length_pos (l := y.groups) (by rw [hlen]; decide)
  exact staleState_ownCell_ne ((hycell h hh).symm.trans (hcell h hh))

end Sys2Proof.Machine
